-- ==== Sys2Proof/Word.lean ====
section
/-! DEFINITION. The word types of the H9: 64-bit words, 512-bit register entries, bytes, and the
numbers that name registers, threads and cores. -/

namespace Sys2Proof

/-- A 64-bit word: an instruction word, a lane of a register, a special register (R4, R25). -/
abbrev Word := BitVec 64

/-- One register entry: 64 bytes (R4). -/
abbrev Reg := BitVec 512

/-- One byte of memory. -/
abbrev Byte := BitVec 8

/-- A general register number 0 to 127 (R27). -/
abbrev RegNum := BitVec 7

/-- A mask register number k0 to k7 (R27). -/
abbrev KReg := BitVec 3

/-- A segment register number seg0 to seg7 (R27). -/
abbrev SegReg := BitVec 3

/-- A thread identity: core × 64 + slot, as %slot holds it (R19, 0x00D). -/
abbrev Ident := BitVec 17

/-- A core number: 0x000 to 0x3FF compute, 0x400 to 0x40F system cluster (R135). -/
abbrev CoreId := BitVec 11

/-- The core of a thread identity. -/
abbrev Ident.core (t : Ident) : CoreId := t.extractLsb' 6 11

/-- The slot of a thread identity. -/
abbrev Ident.slot (t : Ident) : Nat := (t.extractLsb' 0 6).toNat

/-- The identity of slot `s` on core `c`. -/
abbrev mkIdent (c : CoreId) (s : Nat) : Ident := c ++ (BitVec.ofNat 6 s)

end Sys2Proof
end

