-- ==== Sys2Proof/Config.lean ====
section
/-! DEFINITION. What is fixed for one part: sizes of its units, and the free values that the manual
leaves open. A free value has no body, so no proof can use what it is (DESIGN CHOICE, log 1). -/

namespace Sys2Proof.Config

/-- A free choice between two values that the manual allows (R14, R117, R172, R281); applied to the
counter of free values in State (DESIGN CHOICE, log 1). -/
opaque freeBool : Nat → Bool

/-- A free value of 64 bytes: what a peer device's memory holds, where no event carries it (R148, R342);
applied to the counter of free values (DESIGN CHOICE, log 1, DESIGN CHOICE, log 18). -/
opaque freeReg : Nat → BitVec 512

/-- Where the device places something among the places that fit (R85, R97, R100): applied to the counter of
free values and to what is placed, 0 for scratch, 1 for tile slots, 2 for a context image (DESIGN CHOICE, log 19). -/
opaque freePlace : Nat → Nat → Nat

/-- Whether a throttled column swallows the given cycle: column, cycle, cycles swallowed per 256
(R63, R306). Which cycles are swallowed is not stated (DESIGN CHOICE, log 1). -/
opaque swallowed : Nat → Nat → Nat → Bool

/-- SHAKE256 with the given number of output bytes (R344); its definition lies outside the manual
(DESIGN CHOICE, log 1). -/
opaque shake256 : List Byte → Nat → List Byte

/-- Whether an Ed448 signature verifies: public key, message, signature (R344, R345). Its definition
lies outside the manual (DESIGN CHOICE, log 1). -/
opaque ed448Verify : List Byte → List Byte → List Byte → Bool

/-- The Ed448 public key of a private seed (R344); defined outside the manual (DESIGN CHOICE, log 1). -/
opaque ed448Public : List Byte → List Byte

/-- The Quinler root public key held in the ROM (R344); its value is not stated (DESIGN CHOICE, log 1). -/
opaque rootKey : List Byte

/-- The seed that the part's PUF and a record's helper data give (R344, DESIGN CHOICE, log 1). -/
opaque pufSeed : List Byte → List Byte

/-- The identity public key that a record's body carries (R344); where it stands there is not stated
(DESIGN CHOICE, log 1). -/
opaque recordKey : List Byte → List Byte

/-- The unit map that a record's body carries, by %unitmap selector (R309, R344, DESIGN CHOICE, log 1). -/
opaque recordMap : List Byte → Nat → BitVec 64

/-- The 16-bit vendor ID assigned to Quinler (R334); its value is not stated (DESIGN CHOICE, log 1). -/
opaque vendorId : BitVec 16

/-- The binary tree by which floating-point terms at one word are added: applied to the counter of free values
and to the number of terms left, which two of them are added next (R172, DESIGN CHOICE, log 12). -/
opaque freePair : Nat → Nat → Nat

/-- The device ID of the direct link partner of a port (R339); no register holds it (DESIGN CHOICE, log 1). -/
opaque partner : Nat → BitVec 20

/-- Compute cores of the device (R1). -/
def computeCores : Nat := 1024

/-- System-cluster cores (R1). -/
def systemCores : Nat := 16

/-- Cores in all; the system cores are numbered from 0x400 (R135). -/
def cores : Nat := 1040

/-- Thread slots of a core (R63). -/
def slotsPerCore : Nat := 64

/-- Register entries of a core (R5). -/
def regFile : Nat := 2048

/-- Cores of one cluster (R1). -/
def clusterSize : Nat := 16

end Sys2Proof.Config
end

