-- ==== Sys2Proof/Syntax.lean ====
section
/-! DEFINITION. The syntax of the H9's steps: one constructor of `Instr` for each row of the table of
operations and events. A constructor that stands for an instruction holds the operand fields of its
word (R27, R33). One that stands for an event of another agent has none: State holds the event's
particulars, an `Event`. -/

namespace Sys2Proof

/-- The type codes of R30, in code order. -/
inductive Ty where
  | i8 | i16 | i32 | i64 | n8 | n16 | n32 | n64
  | f16 | bf16 | f19 | f32 | f64
  | e4m3 | e5m2 | e3m2 | e2m3 | e2m1 | i4 | n4
  deriving DecidableEq, Repr

/-- The rounding codes of R31 that are not reserved; `dflt` is code 0, the mode in %status.RND. -/
inductive Rnd where
  | dflt | rne | rtz | rup | rdn | rna
  deriving DecidableEq, Repr

/-- SATC of R29: 00 per %status.SAT, 01 do not saturate, 10 saturate. -/
inductive SatC where
  | status | nosat | sat
  deriving DecidableEq, Repr

/-- The fetch hint of R27; it has no effect on visible state. -/
inductive Hint where
  | none | likely | unlikely
  deriving DecidableEq, Repr

/-- The access sizes of the MEM group (R33): 1, 2, 4, 8 and 64 bytes. -/
inductive MemSize where
  | b | h | w | d | v
  deriving DecidableEq, Repr

/-- FENCE scopes (R169). -/
inductive Scope where
  | core | cluster | die | device | system
  deriving DecidableEq, Repr

/-- The second operand of the six instructions that have IMS (R29): register B, or IMMV. -/
inductive VSrc where
  | reg (b : RegNum)
  | imm (v : BitVec 6)
  deriving DecidableEq, Repr

/-- An E-format memory operand (R248): base register, segment, offset in units of 64 bytes. -/
structure MOp where
  a   : RegNum
  seg : SegReg
  off : BitVec 12
  deriving DecidableEq, Repr

/-- The fields of a G-format word (R27, R189). `iw` and `ew` are the width codes 0 to 3. -/
structure GForm where
  d    : RegNum
  base : RegNum
  seg  : SegReg
  rel  : Bool
  idx  : RegNum
  iw   : BitVec 2
  is   : Bool
  sc   : BitVec 3
  ew   : BitVec 2
  k    : KReg
  bnd  : Bool
  off  : BitVec 12
  deriving DecidableEq, Repr

/-- The barrier that a copy names (R261): base register, segment, OUT rather than IN. -/
structure BarOp where
  t   : RegNum
  seg : SegReg
  out : Bool
  deriving DecidableEq, Repr

/-- The full/empty modes of a copy (R235). -/
inductive CopyMode where
  | keep | setfull | consume | fillwait
  deriving DecidableEq, Repr

/-- The fields of COPY and COPY2 (R261). -/
structure CopyForm where
  a    : RegNum
  segD : SegReg
  b    : RegNum
  segS : SegReg
  c    : RegNum
  bar  : Option BarOp
  bnd  : Bool
  mode : CopyMode
  ch   : BitVec 2
  deriving DecidableEq, Repr

/-- Where an uncorrectable soft error strikes (R291, R292). -/
inductive ErrSite where
  | memory (key : Nat)
  | register (t : Ident) (r : RegNum)
  | tile (core : CoreId) (slot : Nat)
  | latch (core : CoreId) (lat : Bool)
  | icache (core : CoreId)
  | pageTable (key : Nat)
  deriving DecidableEq, Repr

/-- What an access that a peer sends asks of this device (R178, R342). -/
inductive PeerOp where
  | load (n : Nat)
  | store (data : List Byte)
  | aadd (dbl : Bool) (x : Word)
  | aswp (dbl : Bool) (x : Word)
  | acas (dbl : Bool) (x new : Word)
  deriving DecidableEq, Repr

/-- The two files that the boot ROM has fetched (R344): the firmware image and the device record,
each as its bytes. -/
structure BootFiles where
  image  : List Byte
  record : List Byte
  deriving DecidableEq, Repr

/-- What the boot ROM finds after a reset (R344): the files by the management port, no files there, so that
it turns to the fabric, or no source at all. -/
inductive BootSource where
  | management (f : BootFiles)
  | fabric
  | nothing
  deriving DecidableEq, Repr

/-- How a peer's owner fails an access (R290, R342): its frame is recalled or not granted, or its word is poisoned. -/
inductive PeerFail where
  | revoked | poison
  deriving DecidableEq, Repr

/-- What a peer's owner answers (R178, R342). -/
inductive PeerAnswer where
  | data (v : BitVec 512)
  | fails (f : PeerFail)
  deriving DecidableEq, Repr

/-- What an event is about. Every event of the other agents is a row of the table without a word; the
row's constructor of `Instr` has no operands, and State holds the event's particulars as an `Event`.
The names are those of the rows. -/
inductive Event where
  /-- THREAD_RETIRE (R48). -/
  | threadRetire (t : Ident)
  /-- PAUSE_EXPIRY (R50). -/
  | pauseExpiry (t : Ident)
  /-- DECISION_TAKES_EFFECT (R125). -/
  | decisionTakesEffect (t : Ident)
  /-- UNIT_MIGRATION (R304). -/
  | unitMigration (t : Ident)
  /-- MESSAGE_ARRIVAL (R73). -/
  | messageArrival (n : Nat)
  /-- BUFFERED_MESSAGE_START (R75). -/
  | bufferedMessageStart (core : CoreId)
  /-- PAGE_WAKE (R283). -/
  | pageWake (n : Nat)
  /-- TRAP_MESSAGE (R276). -/
  | trapMessage (n : Nat)
  /-- MIGRATION_ARRIVAL (R139). -/
  | migrationArrival (n : Nat)
  /-- FORWARDED_REPLY (R303). -/
  | forwardedReply (acc : Nat)
  /-- FORWARDING_ENTRY_EXPIRY (R139). -/
  | forwardingEntryExpiry (n : Nat)
  /-- DEPOSIT_LANDING (R77). -/
  | depositLanding (core : CoreId) (prev : Bool)
  /-- ACCESS_ACKNOWLEDGEMENT (R55). -/
  | accessAcknowledgement (acc : Nat) (peer : Option PeerAnswer)
  /-- RELAXED_COMPLETION (R56). -/
  | relaxedCompletion (acc : Nat) (peer : Option (BitVec 512))
  /-- RELAXED_ERROR_RESPONSE (R57). -/
  | relaxedErrorResponse (acc : Nat) (peer : Option PeerFail)
  /-- BANK_ACCESS (R155). -/
  | bankAccess (acc : Nat)
  /-- REFUSAL_RETRY (R158). -/
  | refusalRetry (acc : Nat)
  /-- BECOME_OLDEST (R95). -/
  | becomeOldest (t : Ident)
  /-- DISPATCH (R102). -/
  | dispatch (core : CoreId)
  /-- EVALUATE (R83). -/
  | evaluate (region rcb : Nat) (core : CoreId)
  /-- LEAF_DISPATCH (R85). -/
  | leafDispatch (region rcb : Nat) (core : CoreId)
  /-- JOIN_DISPATCH (R92). -/
  | joinDispatch (region rcb : Nat) (core : CoreId)
  /-- REGION_COMPLETION (R106). -/
  | regionCompletion (region : Nat)
  /-- CYCLE_BUDGET_EXHAUSTED (R104). -/
  | cycleBudgetExhausted (region : Nat)
  /-- ENGINE_OP_START (R221). -/
  | engineOpStart (core : CoreId)
  /-- ENGINE_OP_COMPLETE (R220). -/
  | engineOpComplete (core : CoreId) (n : Nat)
  /-- BROT_ARRIVAL (R216). -/
  | brotArrival (core : CoreId) (lat : Bool)
  /-- ENGINE_PAGE_FAULT (R224). -/
  | enginePageFault (core : CoreId)
  /-- ENGINE_FAILURE (R225). -/
  | engineFailure (core : CoreId) (n : Nat)
  /-- COPY_LINE (R236). -/
  | copyLine (core : CoreId) (ch : BitVec 2)
  /-- COPY_COMPLETE (R242). -/
  | copyComplete (core : CoreId) (ch : BitVec 2)
  /-- COPY_CANCEL (R238). -/
  | copyCancel (core : CoreId) (ch : BitVec 2)
  /-- PAGE_FAULT (R282). -/
  | pageFault (acc : Nat)
  /-- MMU_REWALK (R283). -/
  | mmuRewalk (cluster : Nat) (dva : Word) (agent : Bool)
  /-- TLBINV_COMPLETE (R281). -/
  | tlbinvComplete (t : Ident)
  /-- COLLAPSE (R288). -/
  | collapse (frame : Nat)
  /-- COLLAPSE_ACK (R288). -/
  | collapseAck (frame die : Nat)
  /-- UNCORRECTABLE_ERROR (R291). -/
  | uncorrectableError (site : ErrSite)
  /-- HOLD (R295). -/
  | hold (t : Ident) (dbg : Bool)
  /-- SPILL_WRITE (R296). -/
  | spillWrite (t : Ident)
  /-- CONTEXT_RESTORE (R299). -/
  | contextRestore (t : Ident) (core : CoreId)
  /-- THROTTLE_EVENT (R333). -/
  | throttleEvent (col : Nat) (word : Word)
  /-- POWER_LIMIT_WRITE (R332). -/
  | powerLimitWrite (v : Word)
  /-- INBOUND_DOORBELL (R337). -/
  | inboundDoorbell (v : Word)
  /-- MBXTGT_WRITE (R337). -/
  | mbxtgtWrite (v : Word)
  /-- OUTBOUND_DOORBELL (R337). -/
  | outboundDoorbell (v : Word)
  /-- DEVSTAT_WRITE (R337). -/
  | devstatWrite (v : Word)
  /-- HOSTIRQ (R335). -/
  | hostirq (v : Word)
  /-- MSIX_UNMASK (R336). -/
  | msixUnmask (vec : BitVec 5)
  /-- HOST_BAR2_ACCESS (R338). -/
  | hostBar2Access (write : Bool) (off len : Nat) (data : List Byte)
  /-- HOST_BAR2_ACCESS: the next line of a request that has more than one, by its place among those under way (R338). -/
  | hostBar2Line (i : Nat)
  /-- HOST_CONFIG_REQUEST (R343). -/
  | hostConfigRequest
  /-- FUNCTION_LEVEL_RESET (R334). -/
  | functionLevelReset
  /-- FMSEND (R341). -/
  | fmsend (v : BitVec 512)
  /-- FABRIC_MESSAGE_ARRIVAL (R341). -/
  | fabricMessageArrival (port : BitVec 5) (src : BitVec 20) (v : BitVec 512)
  /-- FMDROP_CLEAR (R339). -/
  | fmdropClear
  /-- PEER_ACCESS_ARRIVAL (R342). -/
  | peerAccessArrival (src : BitVec 20) (pa : Nat) (op : PeerOp)
  /-- FABRIC_TIMEOUT (R340). -/
  | fabricTimeout (acc : Nat)
  /-- MGMT_TRANSMIT (R346). -/
  | mgmtTransmit
  /-- MGMT_RECEIVE (R346). -/
  | mgmtReceive (frame : List Byte) (err : Bool)
  /-- MGMT_RECEIVE or MGMT_TRANSMIT: the next access of the frame under way on a ring (R346). -/
  | mgmtLine (rx : Bool)
  /-- POWER_ON_RESET (R344). -/
  | powerOnReset (src : BootSource)
  /-- SYSCALL_REPLY (R140). -/
  | syscallReply (t : Ident) (reg : RegNum) (v : BitVec 512)
  /-- PAGE_MIGRATION (R161). -/
  | pageMigration (src dst size : Nat)
  /-- STRAIT_WITHDRAWAL (R294): with the pages that could not be moved, each by its frame and its bytes. -/
  | straitWithdrawal (die strait : Nat) (stuck : List (Nat × Nat))
  /-- HOST_BLOCK_ACCESS (R335). -/
  | hostBlockAccess (write : Bool) (off len : Nat) (data : List Byte)
  /-- LINK_UP_CHANGE (R339). -/
  | linkUpChange (port : BitVec 5) (up atom : Bool) (lanes : BitVec 3)
  /-- BOOT_FABRIC_STORE (R344). -/
  | bootFabricStore (port : BitVec 5) (pa : Nat) (data : List Byte)
  deriving DecidableEq, Repr

/-- The steps of the part: its instructions with their operand fields, those without operands, and then the
events of its other agents. The names are the table's, in lower camel case (`endT` for END). -/
inductive Instr where
  -- INT group, OP 0x10
  /-- ADD (R39). -/
  | add (d a b : RegNum) (ty : Ty)
  /-- SUB (R39). -/
  | sub (d a b : RegNum) (ty : Ty)
  /-- MUL (R39). -/
  | mul (d a b : RegNum) (ty : Ty)
  /-- MULH (R39). -/
  | mulh (d a b : RegNum) (ty : Ty)
  /-- MULHN (R39). -/
  | mulhn (d a b : RegNum) (ty : Ty)
  /-- MADD (R39). -/
  | madd (d a b c : RegNum) (ty : Ty)
  /-- DIV (R40). -/
  | div (d a b : RegNum) (ty : Ty)
  /-- DIVN (R40). -/
  | divn (d a b : RegNum) (ty : Ty)
  /-- REM (R40). -/
  | rem (d a b : RegNum) (ty : Ty)
  /-- REMN (R40). -/
  | remn (d a b : RegNum) (ty : Ty)
  /-- MIN (R39). -/
  | min (d a b : RegNum) (ty : Ty)
  /-- MAX (R39). -/
  | max (d a b : RegNum) (ty : Ty)
  /-- MINN (R39). -/
  | minn (d a b : RegNum) (ty : Ty)
  /-- MAXN (R39). -/
  | maxn (d a b : RegNum) (ty : Ty)
  /-- SEL (R39). -/
  | sel (d a b c : RegNum) (ty : Ty)
  /-- AND (R39). -/
  | and (d a b : RegNum) (ty : Ty)
  /-- OR (R39). -/
  | or (d a b : RegNum) (ty : Ty)
  /-- XOR (R39). -/
  | xor (d a b : RegNum) (ty : Ty)
  /-- ANDN (R39). -/
  | andn (d a b : RegNum) (ty : Ty)
  /-- ORN (R39). -/
  | orn (d a b : RegNum) (ty : Ty)
  /-- SHL (R39). -/
  | shl (d a b : RegNum) (ty : Ty)
  /-- SHR (R39). -/
  | shr (d a b : RegNum) (ty : Ty)
  /-- SRA (R39). -/
  | sra (d a b : RegNum) (ty : Ty)
  /-- ROL (R39). -/
  | rol (d a b : RegNum) (ty : Ty)
  /-- ROR (R39). -/
  | ror (d a b : RegNum) (ty : Ty)
  /-- CLZ (R39). -/
  | clz (d a : RegNum) (ty : Ty)
  /-- CTZ (R39). -/
  | ctz (d a : RegNum) (ty : Ty)
  /-- POP (R39). -/
  | pop (d a : RegNum) (ty : Ty)
  /-- BSWAP (R39). -/
  | bswap (d a : RegNum) (ty : Ty)
  /-- SEQ (R39). -/
  | seq (d a b : RegNum) (ty : Ty)
  /-- SNE (R39). -/
  | sne (d a b : RegNum) (ty : Ty)
  /-- SLT (R39). -/
  | slt (d a b : RegNum) (ty : Ty)
  /-- SLE (R39). -/
  | sle (d a b : RegNum) (ty : Ty)
  /-- SLTN (R39). -/
  | sltn (d a b : RegNum) (ty : Ty)
  /-- SLEN (R39). -/
  | slen (d a b : RegNum) (ty : Ty)
  /-- EXT (R41). -/
  | ext (d a : RegNum) (ty : Ty) (pos len : BitVec 6)
  /-- INS (R41). -/
  | ins (d a b : RegNum) (ty : Ty) (pos len : BitVec 6)
  /-- SXT8 (R42). -/
  | sxt8 (d a : RegNum)
  /-- SXT16 (R42). -/
  | sxt16 (d a : RegNum)
  /-- SXT32 (R42). -/
  | sxt32 (d a : RegNum)
  /-- ZXT8 (R42). -/
  | zxt8 (d a : RegNum)
  /-- ZXT16 (R42). -/
  | zxt16 (d a : RegNum)
  /-- ZXT32 (R42). -/
  | zxt32 (d a : RegNum)
  -- IMM group, OP 0x20
  /-- ADDI (R43). -/
  | addi (d a : RegNum) (ty : Ty) (imm : BitVec 32)
  /-- MULI (R43). -/
  | muli (d a : RegNum) (ty : Ty) (imm : BitVec 32)
  /-- ANDI (R43). -/
  | andi (d a : RegNum) (ty : Ty) (imm : BitVec 32)
  /-- ORI (R43). -/
  | ori (d a : RegNum) (ty : Ty) (imm : BitVec 32)
  /-- XORI (R43). -/
  | xori (d a : RegNum) (ty : Ty) (imm : BitVec 32)
  /-- SHLI (R43). -/
  | shli (d a : RegNum) (ty : Ty) (cnt : BitVec 6)
  /-- SHRI (R43). -/
  | shri (d a : RegNum) (ty : Ty) (cnt : BitVec 6)
  /-- SRAI (R43). -/
  | srai (d a : RegNum) (ty : Ty) (cnt : BitVec 6)
  /-- SLTI (R43). -/
  | slti (d a : RegNum) (ty : Ty) (imm : BitVec 32)
  /-- SLTNI (R43). -/
  | sltni (d a : RegNum) (ty : Ty) (imm : BitVec 32)
  /-- SEQI (R43). -/
  | seqi (d a : RegNum) (ty : Ty) (imm : BitVec 32)
  /-- MOVI (R43). -/
  | movi (d : RegNum) (ty : Ty) (imm : BitVec 32)
  /-- MOVHI (R43). -/
  | movhi (d a : RegNum) (imm : BitVec 32)
  -- BRANCH group, OP 0x30
  /-- BR (R44). -/
  | br (hint : Hint) (disp : BitVec 29)
  /-- BEQ (R44). -/
  | beq (a b : RegNum) (hint : Hint) (disp : BitVec 29)
  /-- BNE (R44). -/
  | bne (a b : RegNum) (hint : Hint) (disp : BitVec 29)
  /-- BLT (R44). -/
  | blt (a b : RegNum) (hint : Hint) (disp : BitVec 29)
  /-- BGE (R44). -/
  | bge (a b : RegNum) (hint : Hint) (disp : BitVec 29)
  /-- BLTN (R44). -/
  | bltn (a b : RegNum) (hint : Hint) (disp : BitVec 29)
  /-- BGEN (R44). -/
  | bgen (a b : RegNum) (hint : Hint) (disp : BitVec 29)
  /-- BZ (R44). -/
  | bz (a : RegNum) (hint : Hint) (disp : BitVec 29)
  /-- BNZ (R44). -/
  | bnz (a : RegNum) (hint : Hint) (disp : BitVec 29)
  /-- DBNZ (R44). -/
  | dbnz (a : RegNum) (hint : Hint) (disp : BitVec 29)
  /-- CALL (R44). -/
  | call (lnk : RegNum) (hint : Hint) (disp : BitVec 29)
  -- JUMP group, OP 0x31
  /-- JMP (R45). -/
  | jmp (a : RegNum) (hint : Hint) (disp : BitVec 29)
  /-- CALLR (R45). -/
  | callr (lnk a : RegNum) (hint : Hint) (disp : BitVec 29)
  -- THREAD group, OP 0x32
  /-- PAUSE (R50). -/
  | pause (imm : BitVec 27)
  /-- VOID (R51). -/
  | void (d : RegNum)
  -- MEM group, OP 0x38
  /-- LD (R52). -/
  | ld (d base : RegNum) (seg : SegReg) (rel : Bool) (off : BitVec 32) (size : MemSize)
  /-- LDS (R52). -/
  | lds (d base : RegNum) (seg : SegReg) (rel : Bool) (off : BitVec 32) (size : MemSize)
  /-- ST (R52). -/
  | st (d base : RegNum) (seg : SegReg) (rel : Bool) (off : BitVec 32) (size : MemSize)
  /-- LEA (R54). -/
  | lea (d base : RegNum) (seg : SegReg) (off : BitVec 32)
  -- SEG group, OP 0x39
  /-- SEGLD (R60). -/
  | segld (d : SegReg) (a : RegNum) (imm : BitVec 27)
  /-- SEGNAR (R61). -/
  | segnar (d a : SegReg) (b : RegNum) (rights : BitVec 6)
  /-- SEGRD (R62). -/
  | segrd (d : RegNum) (a : SegReg)
  -- VINT group, OP 0x40
  /-- VADD (R111). -/
  | vadd (d a b : RegNum) (ty : Ty) (k : KReg) (z : Bool)
  /-- VSUB (R111). -/
  | vsub (d a b : RegNum) (ty : Ty) (k : KReg) (z : Bool)
  /-- VMUL (R111). -/
  | vmul (d a b : RegNum) (ty : Ty) (k : KReg) (z : Bool)
  /-- VMULH (R111). -/
  | vmulh (d a b : RegNum) (ty : Ty) (k : KReg) (z : Bool)
  /-- VMIN (R111). -/
  | vmin (d a b : RegNum) (ty : Ty) (k : KReg) (z : Bool)
  /-- VMAX (R111). -/
  | vmax (d a b : RegNum) (ty : Ty) (k : KReg) (z : Bool)
  /-- VADDS (R111). -/
  | vadds (d a b : RegNum) (ty : Ty) (k : KReg) (z : Bool)
  /-- VSUBS (R111). -/
  | vsubs (d a b : RegNum) (ty : Ty) (k : KReg) (z : Bool)
  /-- VAND (R111). -/
  | vand (d a b : RegNum) (ty : Ty) (k : KReg) (z : Bool)
  /-- VOR (R111). -/
  | vor (d a b : RegNum) (ty : Ty) (k : KReg) (z : Bool)
  /-- VXOR (R111). -/
  | vxor (d a b : RegNum) (ty : Ty) (k : KReg) (z : Bool)
  /-- VSHL (R111). -/
  | vshl (d a : RegNum) (src : VSrc) (ty : Ty) (k : KReg) (z : Bool)
  /-- VSHR (R111). -/
  | vshr (d a : RegNum) (src : VSrc) (ty : Ty) (k : KReg) (z : Bool)
  /-- VSRA (R111). -/
  | vsra (d a : RegNum) (src : VSrc) (ty : Ty) (k : KReg) (z : Bool)
  /-- VABS (R111). -/
  | vabs (d a : RegNum) (ty : Ty) (k : KReg) (z : Bool)
  /-- VNEG (R111). -/
  | vneg (d a : RegNum) (ty : Ty) (k : KReg) (z : Bool)
  /-- VCNT (R111). -/
  | vcnt (d a : RegNum) (ty : Ty) (k : KReg) (z : Bool)
  /-- VDOT4 (R112). -/
  | vdot4 (d a b c : RegNum) (ty : Ty) (k : KReg) (z : Bool)
  /-- VSEL (R112). -/
  | vsel (d a b : RegNum) (ty : Ty) (k : KReg)
  /-- VCMPEQ (R112). -/
  | vcmpeq (d : KReg) (a b : RegNum) (ty : Ty) (k : KReg) (z : Bool)
  /-- VCMPNE (R112). -/
  | vcmpne (d : KReg) (a b : RegNum) (ty : Ty) (k : KReg) (z : Bool)
  /-- VCMPLT (R112). -/
  | vcmplt (d : KReg) (a b : RegNum) (ty : Ty) (k : KReg) (z : Bool)
  /-- VCMPLE (R112). -/
  | vcmple (d : KReg) (a b : RegNum) (ty : Ty) (k : KReg) (z : Bool)
  -- VFP group, OP 0x50
  /-- VFADD (R114). -/
  | vfadd (d a b : RegNum) (ty : Ty) (k : KReg) (z sl : Bool) (rnd : Rnd)
  /-- VFSUB (R114). -/
  | vfsub (d a b : RegNum) (ty : Ty) (k : KReg) (z sl : Bool) (rnd : Rnd)
  /-- VFMUL (R114). -/
  | vfmul (d a b : RegNum) (ty : Ty) (k : KReg) (z sl : Bool) (rnd : Rnd)
  /-- VFDIV (R114). -/
  | vfdiv (d a b : RegNum) (ty : Ty) (k : KReg) (z sl : Bool) (rnd : Rnd)
  /-- VFMA (R114). -/
  | vfma (d a b c : RegNum) (ty : Ty) (k : KReg) (z sl : Bool) (rnd : Rnd)
  /-- VFMS (R114). -/
  | vfms (d a b c : RegNum) (ty : Ty) (k : KReg) (z sl : Bool) (rnd : Rnd)
  /-- VFNMA (R114). -/
  | vfnma (d a b c : RegNum) (ty : Ty) (k : KReg) (z sl : Bool) (rnd : Rnd)
  /-- VFSQRT (R114). -/
  | vfsqrt (d a : RegNum) (ty : Ty) (k : KReg) (z sl : Bool) (rnd : Rnd)
  /-- VFROUND (R114). -/
  | vfround (d a : RegNum) (ty : Ty) (k : KReg) (z sl : Bool) (rnd : Rnd)
  /-- VFMIN (R116). -/
  | vfmin (d a b : RegNum) (ty : Ty) (k : KReg) (z sl : Bool)
  /-- VFMAX (R116). -/
  | vfmax (d a b : RegNum) (ty : Ty) (k : KReg) (z sl : Bool)
  /-- VFABS (R116). -/
  | vfabs (d a : RegNum) (ty : Ty) (k : KReg) (z sl : Bool)
  /-- VFNEG (R116). -/
  | vfneg (d a : RegNum) (ty : Ty) (k : KReg) (z sl : Bool)
  /-- VFRCP (R117). -/
  | vfrcp (d a : RegNum) (ty : Ty) (k : KReg) (z sl : Bool)
  /-- VFRSQ (R117). -/
  | vfrsq (d a : RegNum) (ty : Ty) (k : KReg) (z sl : Bool)
  /-- VFEXP2 (R117). -/
  | vfexp2 (d a : RegNum) (ty : Ty) (k : KReg) (z sl : Bool)
  /-- VFLOG2 (R117). -/
  | vflog2 (d a : RegNum) (ty : Ty) (k : KReg) (z sl : Bool)
  /-- VFCVT (R118). -/
  | vfcvt (d a : RegNum) (ty ty2 : Ty) (k : KReg) (z sl : Bool) (rnd : Rnd) (satc : SatC)
  /-- VFCVTI (R118). -/
  | vfcvti (d a : RegNum) (ty ty2 : Ty) (k : KReg) (z sl : Bool) (rnd : Rnd)
  /-- VICVTF (R118). -/
  | vicvtf (d a : RegNum) (ty ty2 : Ty) (k : KReg) (z sl : Bool) (rnd : Rnd)
  /-- VFCMPEQ (R119). -/
  | vfcmpeq (d : KReg) (a b : RegNum) (ty : Ty) (k : KReg) (z sl : Bool)
  /-- VFCMPLT (R119). -/
  | vfcmplt (d : KReg) (a b : RegNum) (ty : Ty) (k : KReg) (z sl : Bool)
  /-- VFCMPLE (R119). -/
  | vfcmple (d : KReg) (a b : RegNum) (ty : Ty) (k : KReg) (z sl : Bool)
  /-- VFCMPUN (R119). -/
  | vfcmpun (d : KReg) (a b : RegNum) (ty : Ty) (k : KReg) (z sl : Bool)
  -- VPERM group, OP 0x60
  /-- VSPLAT (R120). -/
  | vsplat (d a : RegNum) (ty : Ty) (k : KReg) (z : Bool)
  /-- VEXTR (R120). -/
  | vextr (d a : RegNum) (src : VSrc) (ty : Ty)
  /-- VINSR (R120). -/
  | vinsr (d a : RegNum) (src : VSrc) (ty : Ty)
  /-- VPERM (R120). -/
  | vperm (d a b : RegNum) (ty : Ty) (k : KReg) (z : Bool)
  /-- VPERM2 (R120). -/
  | vperm2 (d a b c : RegNum) (ty : Ty) (k : KReg) (z : Bool)
  /-- VROT (R120). -/
  | vrot (d a : RegNum) (src : VSrc) (ty : Ty) (k : KReg) (z : Bool)
  /-- VCOMPR (R120). -/
  | vcompr (d a : RegNum) (ty : Ty) (k : KReg) (z : Bool)
  /-- VEXPND (R120). -/
  | vexpnd (d a : RegNum) (ty : Ty) (k : KReg) (z : Bool)
  /-- VIOTA (R120). -/
  | viota (d : RegNum) (ty : Ty) (k : KReg)
  /-- VREDADD (R121). -/
  | vredadd (d a : RegNum) (ty : Ty) (k : KReg)
  /-- VREDMIN (R121). -/
  | vredmin (d a : RegNum) (ty : Ty) (k : KReg)
  /-- VREDMAX (R121). -/
  | vredmax (d a : RegNum) (ty : Ty) (k : KReg)
  /-- VFREDADD (R121). -/
  | vfredadd (d a : RegNum) (ty : Ty) (k : KReg)
  /-- VFREDMAX (R121). -/
  | vfredmax (d a : RegNum) (ty : Ty) (k : KReg)
  /-- VFREDMIN (R121). -/
  | vfredmin (d a : RegNum) (ty : Ty) (k : KReg)
  /-- KAND (R122). -/
  | kand (d a b : KReg)
  /-- KOR (R122). -/
  | kor (d a b : KReg)
  /-- KXOR (R122). -/
  | kxor (d a b : KReg)
  /-- KNOT (R122). -/
  | knot (d a : KReg)
  /-- KPOP (R122). -/
  | kpop (d : RegNum) (a : KReg)
  /-- KFIRST (R122). -/
  | kfirst (d : RegNum) (a : KReg)
  /-- KMOV (R122). -/
  | kmov (d : KReg) (a : RegNum)
  /-- KMOVG (R122). -/
  | kmovg (d : RegNum) (a : KReg)
  -- SYNC group, OP 0x68
  /-- LDW (R182). -/
  | ldw (d base : RegNum) (seg : SegReg) (off : BitVec 32) (v : Bool)
  /-- LDC (R182). -/
  | ldc (d base : RegNum) (seg : SegReg) (off : BitVec 32) (v : Bool)
  /-- STF (R182). -/
  | stf (d base : RegNum) (seg : SegReg) (off : BitVec 32) (v : Bool)
  /-- STE (R182). -/
  | ste (d base : RegNum) (seg : SegReg) (off : BitVec 32) (v : Bool)
  /-- FESET (R183). -/
  | feset (d base : RegNum) (seg : SegReg) (off : BitVec 32) (v : Bool)
  /-- FEGET (R183). -/
  | feget (d base : RegNum) (seg : SegReg) (off : BitVec 32) (v : Bool)
  /-- WAITV (R184). -/
  | waitv (d base : RegNum) (seg : SegReg) (off : BitVec 32) (v : Bool)
  -- ATOM group, OP 0x69
  /-- AADD (R185). -/
  | aadd (d base : RegNum) (seg : SegReg) (off : BitVec 32) (dbl : Bool)
  /-- AAND (R185). -/
  | aand (d base : RegNum) (seg : SegReg) (off : BitVec 32) (dbl : Bool)
  /-- AOR (R185). -/
  | aor (d base : RegNum) (seg : SegReg) (off : BitVec 32) (dbl : Bool)
  /-- AXOR (R185). -/
  | axor (d base : RegNum) (seg : SegReg) (off : BitVec 32) (dbl : Bool)
  /-- AMIN (R185). -/
  | amin (d base : RegNum) (seg : SegReg) (off : BitVec 32) (dbl : Bool)
  /-- AMAX (R185). -/
  | amax (d base : RegNum) (seg : SegReg) (off : BitVec 32) (dbl : Bool)
  /-- AMINN (R185). -/
  | aminn (d base : RegNum) (seg : SegReg) (off : BitVec 32) (dbl : Bool)
  /-- AMAXN (R185). -/
  | amaxn (d base : RegNum) (seg : SegReg) (off : BitVec 32) (dbl : Bool)
  /-- ASWP (R185). -/
  | aswp (d base : RegNum) (seg : SegReg) (off : BitVec 32) (dbl : Bool)
  /-- ACAS (R186). -/
  | acas (d base new : RegNum) (seg : SegReg) (off : BitVec 25) (dbl : Bool)
  /-- AFADD (R187). -/
  | afadd (d base : RegNum) (seg : SegReg) (off : BitVec 32) (dbl : Bool)
  -- GATHER group, OP 0x70
  /-- GLD (R189). -/
  | gld (g : GForm)
  /-- GST (R189). -/
  | gst (g : GForm)
  /-- GADD (R189). -/
  | gadd (g : GForm)
  /-- GFADD (R189). -/
  | gfadd (g : GForm)
  /-- GLDW (R189). -/
  | gldw (g : GForm)
  -- FENCE group, OP 0x78
  /-- FENCE (R170). -/
  | fence (scope : Scope) (eng : Bool)
  -- RULE group, OP 0x80
  /-- SPLIT (R126). -/
  | split (axis : BitVec 3) (pt : Option RegNum) (rule : Option (BitVec 4))
  /-- JDONE (R129). -/
  | jdone (src : Option RegNum)
  /-- STAMP (R130). -/
  | stamp (a b : RegNum)
  /-- BOXRD (R131). -/
  | boxrd (d : RegNum) (up : BitVec 6)
  /-- BUDRD (R132). -/
  | budrd (d : RegNum) (sel : BitVec 3)
  /-- LAUNCH (R133). -/
  | launch (d a : RegNum) (seg : SegReg)
  /-- RGNQ (R134). -/
  | rgnq (d a : RegNum) (sel : BitVec 3)
  -- MSG group, OP 0x81
  /-- SEND (R136). -/
  | send (d a b : RegNum) (narrow : Bool) (count : BitVec 4)
  /-- SENDR (R137). -/
  | sendr (a : RegNum) (reg : RegNum) (slot : BitVec 6) (prev : Bool)
  /-- CHSET (R138). -/
  | chset (d a : RegNum) (bits : BitVec 4)
  /-- CHGET (R138). -/
  | chget (d a : RegNum)
  /-- MIGRATE (R139). -/
  | migrate (d a b : RegNum)
  /-- SYSCALL (R140). -/
  | syscall (d a : RegNum) (count : BitVec 4) (svc : BitVec 16)
  -- MATRIX group, OP 0x90
  /-- MMA (R250). -/
  | mma (tile : BitVec 8) (a : RegNum) (lat : Bool) (edge aux : Option RegNum) (rel bnd rank skip : Bool)
  /-- BLOAD (R251). -/
  | bload (lat : Bool) (m : MOp)
  /-- BROT (R252). -/
  | brot (lat dl : Bool)
  /-- BREL (R252). -/
  | brel (lat : Bool)
  /-- MCOMMIT (R253). -/
  | mcommit (a : RegNum)
  /-- MWAIT (R253). -/
  | mwait (n : BitVec 3)
  /-- MZERO (R254). -/
  | mzero (tile : BitVec 8)
  /-- MFILL (R254). -/
  | mfill (tile : BitVec 8) (m : MOp)
  /-- MDRAIN (R254). -/
  | mdrain (tile : BitVec 8) (m : MOp)
  /-- QROW (R255). -/
  | qrow (b c : RegNum) (m : MOp)
  -- RANK group, OP 0xA0
  /-- RLSET (R229). -/
  | rlset (tile : BitVec 8) (log2k : BitVec 3) (col i32 : Bool)
  /-- RLINS (R257). -/
  | rlins (tile : BitVec 8) (a b : RegNum) (list : BitVec 6) (k : KReg)
  /-- RLMERGE_TILE (R258). -/
  | rlmergeTile (tile src : BitVec 8)
  /-- RLMERGE_IMAGE (R258). -/
  | rlmergeImage (tile : BitVec 8) (m : MOp)
  /-- RLTHR (R259). -/
  | rlthr (a : RegNum) (tile : BitVec 8) (list : BitVec 6)
  /-- RLDRAIN (R260). -/
  | rldrain (tile : BitVec 8) (m : MOp)
  /-- RLCLR (R229). -/
  | rlclr (tile : BitVec 8)
  -- COPY group, OP 0xA8
  /-- COPY (R261). -/
  | copy (f : CopyForm)
  /-- COPY2 (R262). -/
  | copy2 (f : CopyForm)
  /-- CWAIT (R263). -/
  | cwait (ch : BitVec 2)
  /-- CWAIT_PTR (R263). -/
  | cwaitPtr (ch : BitVec 2) (a : RegNum)
  /-- BARINIT (R264). -/
  | barinit (b : RegNum) (m : MOp)
  /-- BARARR (R265). -/
  | bararr (c : RegNum) (m : MOp)
  /-- BARARR_COUNT (R265). -/
  | bararrCount (b c : RegNum) (out : Bool) (m : MOp)
  /-- BARWAIT (R266). -/
  | barwait (b : RegNum) (m : MOp)
  -- CONV group, OP 0xB0
  /-- CVTN (R268). -/
  | cvtn (d a : RegNum) (ty ty2 : Ty) (k : KReg) (rnd : Rnd) (satc : SatC)
  /-- CVTW (R268). -/
  | cvtw (d a : RegNum) (ty ty2 : Ty) (k : KReg) (rnd : Rnd) (satc : SatC)
  /-- QMX (R269). -/
  | qmx (d a : RegNum) (ty ty2 : Ty)
  /-- DQMX (R269). -/
  | dqmx (d a : RegNum) (ty ty2 : Ty) (rnd : Rnd) (satc : SatC)
  /-- PLANE (R270). -/
  | plane (d a : RegNum) (ty : Ty)
  /-- UNPLANE (R270). -/
  | unplane (d a : RegNum) (ty : Ty)
  -- SYS group, OP 0xC0
  /-- SRD (R308). -/
  | srd (d : RegNum) (idx : BitVec 12) (b : RegNum)
  /-- SWR (R308). -/
  | swr (idx : BitVec 12) (a b : RegNum)
  /-- STATUS_WRITE (R20). -/
  | statusWrite (a : RegNum)
  /-- PARTITION_WRITE (R142). -/
  | partitionWrite (a b : RegNum)
  /-- ATOLL_WRITE (R217). -/
  | atollWrite (a : RegNum)
  /-- CHANNEL_ENTRY_WRITE (R70). -/
  | channelEntryWrite (a b : RegNum)
  /-- SCRUB (R293). -/
  | scrub (a b : RegNum)
  /-- ERRLOG_CLEAR (R309). -/
  | errlogClear (a b : RegNum)
  /-- THRD (R312). -/
  | thrd (d a : RegNum) (item : BitVec 12)
  /-- THWR (R314). -/
  | thwr (d a b : RegNum) (item : BitVec 12)
  /-- DISCARD_QUEUE_IMAGE (R314). -/
  | discardQueueImage (d a b : RegNum)
  /-- DEBUG_HOLD (R314). -/
  | debugHold (d a b : RegNum)
  /-- THRES (R315). -/
  | thres (d a : RegNum)
  /-- THKILL (R316). -/
  | thkill (d a : RegNum)
  /-- SPILL (R317). -/
  | spill (d a : RegNum)
  /-- REGHOLD (R318). -/
  | reghold (d a : RegNum) (finish nowait : Bool)
  /-- REGREL (R318). -/
  | regrel (d a : RegNum)
  /-- RCBRD (R321). -/
  | rcbrd (d a : RegNum)
  /-- CAPQ (R322). -/
  | capq (d a : RegNum) (sel : BitVec 3)
  /-- BRK (R324). -/
  | brk (imm : BitVec 27)
  /-- WAKEP (R319). -/
  | wakep (a b : RegNum)
  /-- TLBINV (R320). -/
  | tlbinv (a b : RegNum) (scope : BitVec 2)
  -- instructions without operands: THREAD, FENCE and RULE groups
  /-- NOP (R47). -/
  | nop
  /-- END (R48). -/
  | endT
  /-- YIELD (R49). -/
  | yield
  /-- IFENCE (R194). -/
  | ifence
  /-- PRUNE (R128). -/
  | prune
  /-- LEAF (R128). -/
  | leaf
  /-- DEFER (R128). -/
  | defer
  -- events: State holds what each is about (`Event`)
  /-- THREAD_RETIRE (R48). -/
  | threadRetire
  /-- PAUSE_EXPIRY (R50). -/
  | pauseExpiry
  /-- DECISION_TAKES_EFFECT (R125). -/
  | decisionTakesEffect
  /-- UNIT_MIGRATION (R304). -/
  | unitMigration
  /-- MESSAGE_ARRIVAL (R73). -/
  | messageArrival
  /-- BUFFERED_MESSAGE_START (R75). -/
  | bufferedMessageStart
  /-- PAGE_WAKE (R283). -/
  | pageWake
  /-- TRAP_MESSAGE (R276). -/
  | trapMessage
  /-- MIGRATION_ARRIVAL (R139). -/
  | migrationArrival
  /-- FORWARDED_REPLY (R303). -/
  | forwardedReply
  /-- FORWARDING_ENTRY_EXPIRY (R139). -/
  | forwardingEntryExpiry
  /-- DEPOSIT_LANDING (R77). -/
  | depositLanding
  /-- ACCESS_ACKNOWLEDGEMENT (R55). -/
  | accessAcknowledgement
  /-- RELAXED_COMPLETION (R56). -/
  | relaxedCompletion
  /-- RELAXED_ERROR_RESPONSE (R57). -/
  | relaxedErrorResponse
  /-- BANK_ACCESS (R155). -/
  | bankAccess
  /-- REFUSAL_RETRY (R158). -/
  | refusalRetry
  /-- BECOME_OLDEST (R95). -/
  | becomeOldest
  /-- DISPATCH (R102). -/
  | dispatch
  /-- EVALUATE (R83). -/
  | evaluate
  /-- LEAF_DISPATCH (R85). -/
  | leafDispatch
  /-- JOIN_DISPATCH (R92). -/
  | joinDispatch
  /-- REGION_COMPLETION (R106). -/
  | regionCompletion
  /-- CYCLE_BUDGET_EXHAUSTED (R104). -/
  | cycleBudgetExhausted
  /-- ENGINE_OP_START (R221). -/
  | engineOpStart
  /-- ENGINE_OP_COMPLETE (R220). -/
  | engineOpComplete
  /-- BROT_ARRIVAL (R216). -/
  | brotArrival
  /-- ENGINE_PAGE_FAULT (R224). -/
  | enginePageFault
  /-- ENGINE_FAILURE (R225). -/
  | engineFailure
  /-- COPY_LINE (R236). -/
  | copyLine
  /-- COPY_COMPLETE (R242). -/
  | copyComplete
  /-- COPY_CANCEL (R238). -/
  | copyCancel
  /-- PAGE_FAULT (R282). -/
  | pageFault
  /-- MMU_REWALK (R283). -/
  | mmuRewalk
  /-- TLBINV_COMPLETE (R281). -/
  | tlbinvComplete
  /-- COLLAPSE (R288). -/
  | collapse
  /-- COLLAPSE_ACK (R288). -/
  | collapseAck
  /-- UNCORRECTABLE_ERROR (R291). -/
  | uncorrectableError
  /-- HOLD (R295). -/
  | hold
  /-- SPILL_WRITE (R296). -/
  | spillWrite
  /-- CONTEXT_RESTORE (R299). -/
  | contextRestore
  /-- THROTTLE_EVENT (R333). -/
  | throttleEvent
  /-- POWER_LIMIT_WRITE (R332). -/
  | powerLimitWrite
  /-- INBOUND_DOORBELL (R337). -/
  | inboundDoorbell
  /-- MBXTGT_WRITE (R337). -/
  | mbxtgtWrite
  /-- OUTBOUND_DOORBELL (R337). -/
  | outboundDoorbell
  /-- DEVSTAT_WRITE (R337). -/
  | devstatWrite
  /-- HOSTIRQ (R335). -/
  | hostirq
  /-- MSIX_UNMASK (R336). -/
  | msixUnmask
  /-- HOST_BAR2_ACCESS (R338). -/
  | hostBar2Access
  /-- HOST_CONFIG_REQUEST (R343). -/
  | hostConfigRequest
  /-- FUNCTION_LEVEL_RESET (R334). -/
  | functionLevelReset
  /-- FMSEND (R341). -/
  | fmsend
  /-- FABRIC_MESSAGE_ARRIVAL (R341). -/
  | fabricMessageArrival
  /-- FMDROP_CLEAR (R339). -/
  | fmdropClear
  /-- PEER_ACCESS_ARRIVAL (R342). -/
  | peerAccessArrival
  /-- FABRIC_TIMEOUT (R340). -/
  | fabricTimeout
  /-- MGMT_TRANSMIT (R346). -/
  | mgmtTransmit
  /-- MGMT_RECEIVE (R346). -/
  | mgmtReceive
  /-- POWER_ON_RESET (R344). -/
  | powerOnReset
  /-- NOT_AN_INSTRUCTION (R34). -/
  | notAnInstruction
  /-- SYSCALL_REPLY (R140). -/
  | syscallReply
  /-- PAGE_MIGRATION (R161). -/
  | pageMigration
  /-- STRAIT_WITHDRAWAL (R294). -/
  | straitWithdrawal
  /-- HOST_BLOCK_ACCESS (R335). -/
  | hostBlockAccess
  /-- LINK_UP_CHANGE (R339). -/
  | linkUpChange
  /-- BOOT_FABRIC_STORE (R344). -/
  | bootFabricStore
  deriving DecidableEq, Repr

/-- The row of an event. -/
def Event.row : Event → Instr
  | .threadRetire _ => .threadRetire
  | .pauseExpiry _ => .pauseExpiry
  | .decisionTakesEffect _ => .decisionTakesEffect
  | .unitMigration _ => .unitMigration
  | .messageArrival _ => .messageArrival
  | .bufferedMessageStart _ => .bufferedMessageStart
  | .pageWake _ => .pageWake
  | .trapMessage _ => .trapMessage
  | .migrationArrival _ => .migrationArrival
  | .forwardedReply _ => .forwardedReply
  | .forwardingEntryExpiry _ => .forwardingEntryExpiry
  | .depositLanding _ _ => .depositLanding
  | .accessAcknowledgement _ _ => .accessAcknowledgement
  | .relaxedCompletion _ _ => .relaxedCompletion
  | .relaxedErrorResponse _ _ => .relaxedErrorResponse
  | .bankAccess _ => .bankAccess
  | .refusalRetry _ => .refusalRetry
  | .becomeOldest _ => .becomeOldest
  | .dispatch _ => .dispatch
  | .evaluate _ _ _ => .evaluate
  | .leafDispatch _ _ _ => .leafDispatch
  | .joinDispatch _ _ _ => .joinDispatch
  | .regionCompletion _ => .regionCompletion
  | .cycleBudgetExhausted _ => .cycleBudgetExhausted
  | .engineOpStart _ => .engineOpStart
  | .engineOpComplete _ _ => .engineOpComplete
  | .brotArrival _ _ => .brotArrival
  | .enginePageFault _ => .enginePageFault
  | .engineFailure _ _ => .engineFailure
  | .copyLine _ _ => .copyLine
  | .copyComplete _ _ => .copyComplete
  | .copyCancel _ _ => .copyCancel
  | .pageFault _ => .pageFault
  | .mmuRewalk _ _ _ => .mmuRewalk
  | .tlbinvComplete _ => .tlbinvComplete
  | .collapse _ => .collapse
  | .collapseAck _ _ => .collapseAck
  | .uncorrectableError _ => .uncorrectableError
  | .hold _ _ => .hold
  | .spillWrite _ => .spillWrite
  | .contextRestore _ _ => .contextRestore
  | .throttleEvent _ _ => .throttleEvent
  | .powerLimitWrite _ => .powerLimitWrite
  | .inboundDoorbell _ => .inboundDoorbell
  | .mbxtgtWrite _ => .mbxtgtWrite
  | .outboundDoorbell _ => .outboundDoorbell
  | .devstatWrite _ => .devstatWrite
  | .hostirq _ => .hostirq
  | .msixUnmask _ => .msixUnmask
  | .hostBar2Access _ _ _ _ => .hostBar2Access
  | .hostBar2Line _ => .hostBar2Access
  | .hostConfigRequest => .hostConfigRequest
  | .functionLevelReset => .functionLevelReset
  | .fmsend _ => .fmsend
  | .fabricMessageArrival _ _ _ => .fabricMessageArrival
  | .fmdropClear => .fmdropClear
  | .peerAccessArrival _ _ _ => .peerAccessArrival
  | .fabricTimeout _ => .fabricTimeout
  | .mgmtTransmit => .mgmtTransmit
  | .mgmtReceive _ _ => .mgmtReceive
  | .mgmtLine rx => if rx then .mgmtReceive else .mgmtTransmit
  | .powerOnReset _ => .powerOnReset
  | .syscallReply _ _ _ => .syscallReply
  | .pageMigration _ _ _ => .pageMigration
  | .straitWithdrawal _ _ _ => .straitWithdrawal
  | .hostBlockAccess _ _ _ _ => .hostBlockAccess
  | .linkUpChange _ _ _ _ => .linkUpChange
  | .bootFabricStore _ _ _ => .bootFabricStore

end Sys2Proof
end

