-- ==== Sys2Proof/WellFormed.lean ====
section
/-! DEFINITION. Which terms of `Instr` are instructions: the conditions of R34 that fall on operand
fields. Events carry no word and are well formed as they stand. -/

namespace Sys2Proof

/-- Codes 0 to 7 of R30: the integer types of INT, IMM and VINT. -/
def Ty.isInt : Ty → Bool
  | .i8 | .i16 | .i32 | .i64 | .n8 | .n16 | .n32 | .n64 => true
  | _ => false

/-- Codes 8 to 12 of R30: the floating types of VFP. -/
def Ty.isFloat : Ty → Bool
  | .f16 | .bf16 | .f19 | .f32 | .f64 => true
  | _ => false

/-- Codes 13 to 17 of R30: the narrow floating types. -/
def Ty.isNarrow : Ty → Bool
  | .e4m3 | .e5m2 | .e3m2 | .e2m3 | .e2m1 => true
  | _ => false

/-- The signed integer types of R30, i4 among them. -/
def Ty.isSigned : Ty → Bool
  | .i8 | .i16 | .i32 | .i64 | .i4 => true
  | _ => false

/-- The width in bits of an element in a register: f19 stands in 32 bits (R107), and every narrow
floating or 4-bit element in one byte (R118, R267). -/
def Ty.width : Ty → Nat
  | .i8 | .n8 => 8
  | .i16 | .n16 => 16
  | .i32 | .n32 => 32
  | .i64 | .n64 => 64
  | .f16 | .bf16 => 16
  | .f19 | .f32 => 32
  | .f64 => 64
  | .e4m3 | .e5m2 | .e3m2 | .e2m3 | .e2m1 | .i4 | .n4 => 8

/-- Codes 0 to 12 of R30, the types VPERM accepts. -/
def Ty.isPerm (t : Ty) : Bool := t.isInt || t.isFloat

/-- Destinations of VFCVT, codes 8 to 17 (R30). -/
def Ty.isCvtDest (t : Ty) : Bool := t.isFloat || t.isNarrow

/-- Wide side of QMX and DQMX: f16, bf16 and f32 (R267). -/
def Ty.isMxWide : Ty → Bool
  | .f16 | .bf16 | .f32 => true
  | _ => false

/-- Element side of QMX and DQMX: i8 and the narrow floating types (R267). -/
def Ty.isMxElem (t : Ty) : Bool := t = .i8 || t.isNarrow

/-- Types of PLANE and UNPLANE, codes 15 to 19 (R267). -/
def Ty.isPlane : Ty → Bool
  | .e3m2 | .e2m3 | .e2m1 | .i4 | .n4 => true
  | _ => false

/-- The bit field of EXT and INS lies within the width (R34, R41); length 0 stands for 64. -/
def fieldFits (ty : Ty) (pos len : BitVec 6) : Bool :=
  pos.toNat + (if len = 0 then 64 else len.toNat) ≤ ty.width

/-- IW is no wider than EW (R34). -/
def GForm.wf (g : GForm) : Bool := g.iw.toNat ≤ g.ew.toNat

/-- The indexes of SWR that are rows of their own: %status, %atoll, %partition, a channel entry's
low word, %scrub and %errlog. -/
def swrOwnRow (idx : BitVec 12) : Bool :=
  idx = 0x000 || idx = 0x00F || idx = 0x103 || idx = 0x104 || idx = 0x10A || idx = 0x10B

/-- B is used by SRD and SWR only for an index of 0x100 or more (R307). -/
def selectorOk (idx : BitVec 12) (b : RegNum) : Bool := 0x100 ≤ idx.toNat || b = 0

/-- The well-formed steps (R34). -/
def Instr.wf : Instr → Bool
  -- INT (R38, R42)
  | .add _ _ _ ty | .sub _ _ _ ty | .mul _ _ _ ty | .mulh _ _ _ ty | .mulhn _ _ _ ty => ty.isInt
  | .madd _ _ _ _ ty | .sel _ _ _ _ ty => ty.isInt
  | .div _ _ _ ty | .divn _ _ _ ty | .rem _ _ _ ty | .remn _ _ _ ty => ty.isInt
  | .min _ _ _ ty | .max _ _ _ ty | .minn _ _ _ ty | .maxn _ _ _ ty => ty.isInt
  | .and _ _ _ ty | .or _ _ _ ty | .xor _ _ _ ty | .andn _ _ _ ty | .orn _ _ _ ty => ty.isInt
  | .shl _ _ _ ty | .shr _ _ _ ty | .sra _ _ _ ty | .rol _ _ _ ty | .ror _ _ _ ty => ty.isInt
  | .clz _ _ ty | .ctz _ _ ty | .pop _ _ ty | .bswap _ _ ty => ty.isInt
  | .seq _ _ _ ty | .sne _ _ _ ty | .slt _ _ _ ty | .sle _ _ _ ty | .sltn _ _ _ ty
  | .slen _ _ _ ty => ty.isInt
  | .ext _ _ ty pos len => ty.isInt && fieldFits ty pos len
  | .ins _ _ _ ty pos len => ty.isInt && fieldFits ty pos len
  -- IMM (R43)
  | .addi _ _ ty _ | .muli _ _ ty _ | .andi _ _ ty _ | .ori _ _ ty _ | .xori _ _ ty _ => ty.isInt
  | .shli _ _ ty _ | .shri _ _ ty _ | .srai _ _ ty _ => ty.isInt
  | .slti _ _ ty _ | .sltni _ _ ty _ | .seqi _ _ ty _ => ty.isInt
  | .movi _ ty _ => ty.isInt
  -- MEM (R33)
  | .lds _ _ _ _ _ size => size = .b || size = .h || size = .w
  -- VINT (R111, R112)
  | .vadd _ _ _ ty _ _ | .vsub _ _ _ ty _ _ | .vmul _ _ _ ty _ _ | .vmulh _ _ _ ty _ _
  | .vmin _ _ _ ty _ _ | .vmax _ _ _ ty _ _ | .vadds _ _ _ ty _ _ | .vsubs _ _ _ ty _ _
  | .vand _ _ _ ty _ _ | .vor _ _ _ ty _ _ | .vxor _ _ _ ty _ _ => ty.isInt
  | .vshl _ _ _ ty _ _ | .vshr _ _ _ ty _ _ | .vsra _ _ _ ty _ _ => ty.isInt
  | .vabs _ _ ty _ _ | .vneg _ _ ty _ _ | .vcnt _ _ ty _ _ => ty.isInt
  | .vdot4 _ _ _ _ ty _ _ => ty = .i32 || ty = .n32
  | .vsel _ _ _ ty _ => ty.isInt
  | .vcmpeq _ _ _ ty _ _ | .vcmpne _ _ _ ty _ _ | .vcmplt _ _ _ ty _ _
  | .vcmple _ _ _ ty _ _ => ty.isInt
  -- VFP (R30, R115)
  | .vfadd _ _ _ ty _ _ _ _ | .vfsub _ _ _ ty _ _ _ _ | .vfmul _ _ _ ty _ _ _ _
  | .vfdiv _ _ _ ty _ _ _ _ => ty.isFloat
  | .vfma _ _ _ _ ty _ _ _ _ | .vfms _ _ _ _ ty _ _ _ _ | .vfnma _ _ _ _ ty _ _ _ _ => ty.isFloat
  | .vfsqrt _ _ ty _ _ _ _ | .vfround _ _ ty _ _ _ _ => ty.isFloat
  | .vfmin _ _ _ ty _ _ _ | .vfmax _ _ _ ty _ _ _ => ty.isFloat
  | .vfabs _ _ ty _ _ _ | .vfneg _ _ ty _ _ _ | .vfrcp _ _ ty _ _ _ | .vfrsq _ _ ty _ _ _
  | .vfexp2 _ _ ty _ _ _ | .vflog2 _ _ ty _ _ _ => ty.isFloat
  | .vfcvt _ _ ty ty2 _ _ _ _ _ => ty.isFloat && ty2.isCvtDest
  | .vfcvti _ _ ty ty2 _ _ _ _ | .vicvtf _ _ ty ty2 _ _ _ _ => ty.isFloat && ty2.isInt
  | .vfcmpeq _ _ _ ty _ _ _ | .vfcmplt _ _ _ ty _ _ _ | .vfcmple _ _ _ ty _ _ _
  | .vfcmpun _ _ _ ty _ _ _ => ty.isFloat
  -- VPERM (R120, R121)
  | .vsplat _ _ ty _ _ | .vcompr _ _ ty _ _ | .vexpnd _ _ ty _ _ => ty.isPerm
  | .vextr _ _ _ ty | .vinsr _ _ _ ty => ty.isPerm
  | .vperm _ _ _ ty _ _ => ty.isPerm
  | .vperm2 _ _ _ _ ty _ _ => ty.isPerm
  | .vrot _ _ _ ty _ _ => ty.isPerm
  | .viota _ ty _ => ty.isPerm
  | .vredadd _ _ ty _ | .vredmin _ _ ty _ | .vredmax _ _ ty _ => ty.isInt
  | .vfredadd _ _ ty _ | .vfredmax _ _ ty _ | .vfredmin _ _ ty _ => ty.isFloat
  -- GATHER (R33, R34)
  | .gld g | .gst g => g.wf
  | .gadd g => g.wf && !g.rel
  | .gfadd g => g.wf && !g.rel && (g.ew = 2 || g.ew = 3)
  | .gldw g => g.wf && !g.rel && g.ew = 3
  -- MSG (R136, R140)
  | .send _ _ _ _ count => count.toNat ≤ 8
  | .syscall _ _ count _ => count.toNat ≤ 8
  -- MATRIX and RANK (R249, R256)
  | .mma _ _ _ edge aux _ bnd _ skip => (!bnd || edge.isSome) && (!skip || aux.isSome)
  | .rlset _ log2k _ _ => log2k != 7
  -- CONV (R267)
  | .cvtn _ _ ty ty2 _ _ _ => ty2.width ≤ ty.width
  | .cvtw _ _ ty ty2 _ _ _ => ty.width ≤ ty2.width
  | .qmx _ _ ty ty2 => ty.isMxWide && ty2.isMxElem
  | .dqmx _ _ ty ty2 _ _ => ty.isMxElem && ty2.isMxWide
  | .plane _ _ ty | .unplane _ _ ty => ty.isPlane
  -- SYS (R307)
  | .srd _ idx b => selectorOk idx b
  | .swr idx _ b => selectorOk idx b && !swrOwnRow idx
  | .thrd d _ _ => d != 127
  | .thwr _ _ _ item => item != 0x190 && item != 0x191
  | .rcbrd d _ => d != 127
  -- no condition beyond the field widths
  | .sxt8 _ _ | .sxt16 _ _ | .sxt32 _ _ | .zxt8 _ _ | .zxt16 _ _ | .zxt32 _ _ | .movhi _ _ _ => true
  | .br _ _ | .beq _ _ _ _ | .bne _ _ _ _ | .blt _ _ _ _ | .bge _ _ _ _ | .bltn _ _ _ _
  | .bgen _ _ _ _ | .bz _ _ _ | .bnz _ _ _ | .dbnz _ _ _ | .call _ _ _ | .jmp _ _ _
  | .callr _ _ _ _ => true
  | .nop | .endT | .yield | .pause _ | .void _ => true
  | .ld _ _ _ _ _ _ | .st _ _ _ _ _ _ | .lea _ _ _ _ => true
  | .segld _ _ _ | .segnar _ _ _ _ | .segrd _ _ => true
  | .kand _ _ _ | .kor _ _ _ | .kxor _ _ _ | .knot _ _ | .kpop _ _ | .kfirst _ _ | .kmov _ _
  | .kmovg _ _ => true
  | .ldw _ _ _ _ _ | .ldc _ _ _ _ _ | .stf _ _ _ _ _ | .ste _ _ _ _ _ | .feset _ _ _ _ _
  | .feget _ _ _ _ _ | .waitv _ _ _ _ _ => true
  | .aadd _ _ _ _ _ | .aand _ _ _ _ _ | .aor _ _ _ _ _ | .axor _ _ _ _ _ | .amin _ _ _ _ _
  | .amax _ _ _ _ _ | .aminn _ _ _ _ _ | .amaxn _ _ _ _ _ | .aswp _ _ _ _ _
  | .acas _ _ _ _ _ _ | .afadd _ _ _ _ _ => true
  | .fence _ _ | .ifence => true
  | .split _ _ _ | .prune | .leaf | .defer | .jdone _ | .stamp _ _ | .boxrd _ _ | .budrd _ _
  | .launch _ _ _ | .rgnq _ _ _ => true
  | .sendr _ _ _ _ | .chset _ _ _ | .chget _ _ | .migrate _ _ _ => true
  | .bload _ _ | .brot _ _ | .brel _ | .mcommit _ | .mwait _ | .mzero _ | .mfill _ _ | .mdrain _ _
  | .qrow _ _ _ => true
  | .rlins _ _ _ _ _ | .rlmergeTile _ _ | .rlmergeImage _ _ | .rlthr _ _ _ | .rldrain _ _
  | .rlclr _ => true
  | .copy _ | .copy2 _ | .cwait _ | .cwaitPtr _ _ | .barinit _ _ | .bararr _ _
  | .bararrCount _ _ _ _ | .barwait _ _ => true
  | .statusWrite _ | .partitionWrite _ _ | .atollWrite _ | .channelEntryWrite _ _ | .scrub _ _
  | .errlogClear _ _ => true
  | .discardQueueImage _ _ _ | .debugHold _ _ _ | .thres _ _ | .thkill _ _ | .spill _ _
  | .reghold _ _ _ _ | .regrel _ _ | .capq _ _ _ | .brk _ | .wakep _ _ | .tlbinv _ _ _ => true
  -- events of the other agents
  | .threadRetire | .pauseExpiry | .decisionTakesEffect | .unitMigration
  | .messageArrival | .bufferedMessageStart | .pageWake | .trapMessage
  | .migrationArrival | .forwardedReply | .forwardingEntryExpiry | .depositLanding
  | .accessAcknowledgement | .relaxedCompletion | .relaxedErrorResponse
  | .bankAccess | .refusalRetry | .becomeOldest | .dispatch | .evaluate
  | .leafDispatch | .joinDispatch | .regionCompletion | .cycleBudgetExhausted
  | .engineOpStart | .engineOpComplete | .brotArrival | .enginePageFault
  | .engineFailure | .copyLine | .copyComplete | .copyCancel | .pageFault
  | .mmuRewalk | .tlbinvComplete | .collapse | .collapseAck | .uncorrectableError
  | .hold | .spillWrite | .contextRestore | .throttleEvent | .powerLimitWrite
  | .inboundDoorbell | .mbxtgtWrite | .outboundDoorbell | .devstatWrite | .hostirq
  | .msixUnmask | .hostBar2Access | .hostConfigRequest | .functionLevelReset
  | .fmsend | .fabricMessageArrival | .fmdropClear | .peerAccessArrival
  | .fabricTimeout | .mgmtTransmit | .mgmtReceive | .powerOnReset | .notAnInstruction
  | .syscallReply | .pageMigration | .straitWithdrawal | .hostBlockAccess
  | .linkUpChange | .bootFabricStore => true

end Sys2Proof
end

