-- ==== Sys2Proof/Decode.lean ====
section
/-! DEFINITION. The decoder and the encoder of instruction words (R25 to R34). `decode` answers none
for a word that is not an instruction; `fetched` gives the step that such a word stands for. -/

namespace Sys2Proof

/-! ## Fields of a word (R27) -/

/-- OP, bits [63:56] of every format. -/
def fOp (w : Word) : Nat := (w.extractLsb' 56 8).toNat
/-- FN[55:48] of RRR, S and E. -/
def fFn8 (w : Word) : Nat := (w.extractLsb' 48 8).toNat
/-- FN[55:50] of RI, M and G. -/
def fFn6 (w : Word) : Nat := (w.extractLsb' 50 6).toNat
/-- CC[55:52] of B. -/
def fCc (w : Word) : Nat := (w.extractLsb' 52 4).toNat
/-- D of RRR and S. -/
def fD (w : Word) : RegNum := w.extractLsb' 41 7
/-- A of RRR and S. -/
def fA (w : Word) : RegNum := w.extractLsb' 34 7
/-- B of RRR and S. -/
def fB (w : Word) : RegNum := w.extractLsb' 27 7
/-- C of RRR. -/
def fC (w : Word) : RegNum := w.extractLsb' 20 7
/-- TY of RRR. -/
def fTy (w : Word) : BitVec 5 := w.extractLsb' 15 5
/-- K of RRR. -/
def fK (w : Word) : KReg := w.extractLsb' 12 3
/-- M of RRR. -/
def fM (w : Word) : BitVec 12 := w.extractLsb' 0 12
/-- IMM of S. -/
def fImm (w : Word) : BitVec 27 := w.extractLsb' 0 27
/-- D of RI, M and G. -/
def fD6 (w : Word) : RegNum := w.extractLsb' 43 7
/-- A of RI, BASE of M and G. -/
def fA6 (w : Word) : RegNum := w.extractLsb' 36 7
/-- TY of RI. -/
def fTy4 (w : Word) : BitVec 4 := w.extractLsb' 32 4
/-- IMM of RI, OFF of M. -/
def fI32 (w : Word) : BitVec 32 := w.extractLsb' 0 32
/-- SEG of M and G. -/
def fSeg (w : Word) : SegReg := w.extractLsb' 33 3
/-- REL of M and G. -/
def fRel (w : Word) : Bool := w.getLsbD 32
/-- A of B. -/
def fBA (w : Word) : RegNum := w.extractLsb' 45 7
/-- B of B. -/
def fBB (w : Word) : RegNum := w.extractLsb' 38 7
/-- LNK of B. -/
def fLnk (w : Word) : RegNum := w.extractLsb' 31 7
/-- HINT of B. -/
def fHint (w : Word) : BitVec 2 := w.extractLsb' 29 2
/-- DISP of B. -/
def fDisp (w : Word) : BitVec 29 := w.extractLsb' 0 29
/-- TILE of E. -/
def fTile (w : Word) : BitVec 8 := w.extractLsb' 40 8
/-- A of E. -/
def fEA (w : Word) : RegNum := w.extractLsb' 33 7
/-- B of E. -/
def fEB (w : Word) : RegNum := w.extractLsb' 26 7
/-- C of E. -/
def fEC (w : Word) : RegNum := w.extractLsb' 19 7
/-- LAT of E. -/
def fLat (w : Word) : Bool := w.getLsbD 18
/-- FLG of E. -/
def fFlg (w : Word) : BitVec 18 := w.extractLsb' 0 18

/-! ## Codes -/

/-- The type a five-bit code stands for; codes 20 to 31 stand for none (R30). -/
def Ty.ofCode (c : BitVec 5) : Option Ty :=
  match c.toNat with
  | 0 => some .i8 | 1 => some .i16 | 2 => some .i32 | 3 => some .i64
  | 4 => some .n8 | 5 => some .n16 | 6 => some .n32 | 7 => some .n64
  | 8 => some .f16 | 9 => some .bf16 | 10 => some .f19 | 11 => some .f32 | 12 => some .f64
  | 13 => some .e4m3 | 14 => some .e5m2 | 15 => some .e3m2 | 16 => some .e2m3 | 17 => some .e2m1
  | 18 => some .i4 | 19 => some .n4
  | _ => none

/-- The code of a type (R30). -/
def Ty.code : Ty → BitVec 5
  | .i8 => 0 | .i16 => 1 | .i32 => 2 | .i64 => 3 | .n8 => 4 | .n16 => 5 | .n32 => 6 | .n64 => 7
  | .f16 => 8 | .bf16 => 9 | .f19 => 10 | .f32 => 11 | .f64 => 12
  | .e4m3 => 13 | .e5m2 => 14 | .e3m2 => 15 | .e2m3 => 16 | .e2m1 => 17 | .i4 => 18 | .n4 => 19

/-- The rounding a three-bit code stands for; 6 and 7 are reserved (R31). -/
def Rnd.ofCode (c : BitVec 3) : Option Rnd :=
  match c.toNat with
  | 0 => some .dflt | 1 => some .rne | 2 => some .rtz | 3 => some .rup | 4 => some .rdn
  | 5 => some .rna
  | _ => none

/-- The code of a rounding (R31). -/
def Rnd.code : Rnd → BitVec 3
  | .dflt => 0 | .rne => 1 | .rtz => 2 | .rup => 3 | .rdn => 4 | .rna => 5

/-- SATC; 11 is reserved (R29). -/
def SatC.ofCode (c : BitVec 2) : Option SatC :=
  match c.toNat with
  | 0 => some .status | 1 => some .nosat | 2 => some .sat
  | _ => none

/-- The code of SATC (R29). -/
def SatC.code : SatC → BitVec 2
  | .status => 0 | .nosat => 1 | .sat => 2

/-- HINT; 11 is reserved (R27). -/
def Hint.ofCode (c : BitVec 2) : Option Hint :=
  match c.toNat with
  | 0 => some .none | 1 => some .likely | 2 => some .unlikely
  | _ => Option.none

/-- The code of HINT (R27). -/
def Hint.code : Hint → BitVec 2
  | .none => 0 | .likely => 1 | .unlikely => 2

/-- The size codes of MEM (R33). -/
def MemSize.ofCode (c : Nat) : Option MemSize :=
  match c with
  | 0 => some .b | 1 => some .h | 2 => some .w | 3 => some .d | 4 => some .v
  | _ => none

/-- The code of a MEM size (R33). -/
def MemSize.code : MemSize → Nat
  | .b => 0 | .h => 1 | .w => 2 | .d => 3 | .v => 4

/-- FENCE scopes; 5 to 7 are reserved (R193). -/
def Scope.ofCode (c : BitVec 3) : Option Scope :=
  match c.toNat with
  | 0 => some .core | 1 => some .cluster | 2 => some .die | 3 => some .device | 4 => some .system
  | _ => none

/-- The code of a FENCE scope (R193). -/
def Scope.code : Scope → BitVec 3
  | .core => 0 | .cluster => 1 | .die => 2 | .device => 3 | .system => 4

/-- The copy modes of FLG[3:2] (R261). -/
def CopyMode.ofCode (c : BitVec 2) : CopyMode :=
  match c.toNat with
  | 0 => .keep | 1 => .setfull | 2 => .consume
  | _ => .fillwait

/-- The code of a copy mode (R261). -/
def CopyMode.code : CopyMode → BitVec 2
  | .keep => 0 | .setfull => 1 | .consume => 2 | .fillwait => 3

/-- A mask or segment number in a seven-bit field: bits [6:3] must be zero (R27). -/
def low3 (r : RegNum) : Option (BitVec 3) :=
  if r.extractLsb' 3 4 = 0 then some (r.extractLsb' 0 3) else none

/-- An instruction whose reserved fields are as they must be. -/
def req (ok : Bool) (i : Instr) : Option Instr := if ok then some i else none

/-! ## RRR groups -/

/-- C, K and M are reserved. -/
def zCKM (w : Word) : Bool := fC w = 0 && fK w = 0 && fM w = 0

/-- D, A, B and TY of INT. -/
def intDAB (w : Word) (mk : RegNum → RegNum → RegNum → Ty → Instr) : Option Instr :=
  (Ty.ofCode (fTy w)).bind fun ty => req (zCKM w) (mk (fD w) (fA w) (fB w) ty)

/-- D, A, B, C and TY of INT. -/
def intDABC (w : Word) (mk : RegNum → RegNum → RegNum → RegNum → Ty → Instr) : Option Instr :=
  (Ty.ofCode (fTy w)).bind fun ty =>
    req (fK w = 0 && fM w = 0) (mk (fD w) (fA w) (fB w) (fC w) ty)

/-- D, A and TY of INT. -/
def intDA (w : Word) (mk : RegNum → RegNum → Ty → Instr) : Option Instr :=
  (Ty.ofCode (fTy w)).bind fun ty => req (zCKM w && fB w = 0) (mk (fD w) (fA w) ty)

/-- D and A of INT with TY = 3 (R42). -/
def intExt (w : Word) (mk : RegNum → RegNum → Instr) : Option Instr :=
  req (zCKM w && fB w = 0 && fTy w = 3) (mk (fD w) (fA w))

/-- INT, OP 0x10 (R33). -/
def decodeInt (w : Word) : Option Instr :=
  match fFn8 w with
  | 0x00 => intDAB w .add | 0x01 => intDAB w .sub | 0x02 => intDAB w .mul
  | 0x03 => intDAB w .mulh | 0x04 => intDAB w .mulhn | 0x05 => intDABC w .madd
  | 0x06 => intDAB w .div | 0x07 => intDAB w .divn | 0x08 => intDAB w .rem
  | 0x09 => intDAB w .remn | 0x0A => intDAB w .min | 0x0B => intDAB w .max
  | 0x0C => intDAB w .minn | 0x0D => intDAB w .maxn | 0x0E => intDABC w .sel
  | 0x10 => intDAB w .and | 0x11 => intDAB w .or | 0x12 => intDAB w .xor
  | 0x13 => intDAB w .andn | 0x14 => intDAB w .orn | 0x15 => intDAB w .shl
  | 0x16 => intDAB w .shr | 0x17 => intDAB w .sra | 0x18 => intDAB w .rol
  | 0x19 => intDAB w .ror | 0x1A => intDA w .clz | 0x1B => intDA w .ctz
  | 0x1C => intDA w .pop | 0x1D => intDA w .bswap
  | 0x20 => intDAB w .seq | 0x21 => intDAB w .sne | 0x22 => intDAB w .slt
  | 0x23 => intDAB w .sle | 0x24 => intDAB w .sltn | 0x25 => intDAB w .slen
  | 0x28 => (Ty.ofCode (fTy w)).bind fun ty =>
      req (fB w = 0 && fC w = 0 && fK w = 0)
        (.ext (fD w) (fA w) ty ((fM w).extractLsb' 6 6) ((fM w).extractLsb' 0 6))
  | 0x29 => (Ty.ofCode (fTy w)).bind fun ty =>
      req (fC w = 0 && fK w = 0)
        (.ins (fD w) (fA w) (fB w) ty ((fM w).extractLsb' 6 6) ((fM w).extractLsb' 0 6))
  | 0x30 => intExt w .sxt8 | 0x31 => intExt w .sxt16 | 0x32 => intExt w .sxt32
  | 0x33 => intExt w .zxt8 | 0x34 => intExt w .zxt16 | 0x35 => intExt w .zxt32
  | _ => none

/-- M of VINT and VPERM with Z alone: M[11:1] reserved (R29). -/
def zOnly (w : Word) : Bool := (fM w).extractLsb' 1 11 = 0

/-- Z of VINT and VPERM (R29). -/
def fZ (w : Word) : Bool := w.getLsbD 0

/-- The second operand by IMS: IMMV with B = 0, or B with IMMV = 0; M[5:2] reserved (R29). -/
def vsrc (w : Word) : Option VSrc :=
  if (fM w).extractLsb' 2 4 ≠ 0 then none
  else if w.getLsbD 1 then
    if fB w = 0 then some (.imm ((fM w).extractLsb' 6 6)) else none
  else if (fM w).extractLsb' 6 6 = 0 then some (.reg (fB w)) else none

/-- D, A, B, TY, K and Z. -/
def vDAB (w : Word) (mk : RegNum → RegNum → RegNum → Ty → KReg → Bool → Instr) : Option Instr :=
  (Ty.ofCode (fTy w)).bind fun ty =>
    req (fC w = 0 && zOnly w) (mk (fD w) (fA w) (fB w) ty (fK w) (fZ w))

/-- D, A, B, C, TY, K and Z. -/
def vDABC (w : Word) (mk : RegNum → RegNum → RegNum → RegNum → Ty → KReg → Bool → Instr) :
    Option Instr :=
  (Ty.ofCode (fTy w)).bind fun ty =>
    req (zOnly w) (mk (fD w) (fA w) (fB w) (fC w) ty (fK w) (fZ w))

/-- D, A, B or IMMV, TY, K and Z. -/
def vShift (w : Word) (mk : RegNum → RegNum → VSrc → Ty → KReg → Bool → Instr) : Option Instr :=
  (Ty.ofCode (fTy w)).bind fun ty => (vsrc w).bind fun src =>
    req (fC w = 0) (mk (fD w) (fA w) src ty (fK w) (fZ w))

/-- D, A, B or IMMV and TY, with neither K nor Z. -/
def vPick (w : Word) (mk : RegNum → RegNum → VSrc → Ty → Instr) : Option Instr :=
  (Ty.ofCode (fTy w)).bind fun ty => (vsrc w).bind fun src =>
    req (fC w = 0 && fK w = 0 && !fZ w) (mk (fD w) (fA w) src ty)

/-- D, A, TY, K and Z. -/
def vDA (w : Word) (mk : RegNum → RegNum → Ty → KReg → Bool → Instr) : Option Instr :=
  (Ty.ofCode (fTy w)).bind fun ty =>
    req (fB w = 0 && fC w = 0 && zOnly w) (mk (fD w) (fA w) ty (fK w) (fZ w))

/-- D, A, TY and K. -/
def vRed (w : Word) (mk : RegNum → RegNum → Ty → KReg → Instr) : Option Instr :=
  (Ty.ofCode (fTy w)).bind fun ty =>
    req (fB w = 0 && fC w = 0 && fM w = 0) (mk (fD w) (fA w) ty (fK w))

/-- D as a mask, A, B, TY, K and Z. -/
def vCmp (w : Word) (mk : KReg → RegNum → RegNum → Ty → KReg → Bool → Instr) : Option Instr :=
  (Ty.ofCode (fTy w)).bind fun ty => (low3 (fD w)).bind fun d =>
    req (fC w = 0 && zOnly w) (mk d (fA w) (fB w) ty (fK w) (fZ w))

/-- VINT, OP 0x40 (R33). -/
def decodeVint (w : Word) : Option Instr :=
  match fFn8 w with
  | 0x00 => vDAB w .vadd | 0x01 => vDAB w .vsub | 0x02 => vDAB w .vmul | 0x03 => vDAB w .vmulh
  | 0x04 => vDAB w .vmin | 0x05 => vDAB w .vmax | 0x06 => vDAB w .vadds | 0x07 => vDAB w .vsubs
  | 0x08 => vDAB w .vand | 0x09 => vDAB w .vor | 0x0A => vDAB w .vxor
  | 0x0B => vShift w .vshl | 0x0C => vShift w .vshr | 0x0D => vShift w .vsra
  | 0x0E => vDA w .vabs | 0x0F => vDA w .vneg | 0x10 => vDA w .vcnt
  | 0x11 => vDABC w .vdot4
  | 0x12 => (Ty.ofCode (fTy w)).bind fun ty =>
      req (fC w = 0 && fM w = 0) (.vsel (fD w) (fA w) (fB w) ty (fK w))
  | 0x18 => vCmp w .vcmpeq | 0x19 => vCmp w .vcmpne | 0x1A => vCmp w .vcmplt
  | 0x1B => vCmp w .vcmple
  | _ => none

/-- SATC of VFP and CONV (R29). -/
def fSatc (w : Word) : BitVec 2 := w.extractLsb' 10 2
/-- TY2 of VFP and CONV (R29). -/
def fTy2 (w : Word) : BitVec 5 := w.extractLsb' 5 5
/-- Z of VFP (R29). -/
def fFz (w : Word) : Bool := w.getLsbD 4
/-- SL of VFP (R29). -/
def fSl (w : Word) : Bool := w.getLsbD 3
/-- RND of VFP and CONV (R29). -/
def fRnd (w : Word) : BitVec 3 := w.extractLsb' 0 3

/-- D, A, B, TY, K, Z, SL and RND. -/
def fpDAB (w : Word) (mk : RegNum → RegNum → RegNum → Ty → KReg → Bool → Bool → Rnd → Instr) :
    Option Instr :=
  (Ty.ofCode (fTy w)).bind fun ty => (Rnd.ofCode (fRnd w)).bind fun rnd =>
    req (fC w = 0 && fSatc w = 0 && fTy2 w = 0)
      (mk (fD w) (fA w) (fB w) ty (fK w) (fFz w) (fSl w) rnd)

/-- D, A, B, C, TY, K, Z, SL and RND. -/
def fpDABC (w : Word)
    (mk : RegNum → RegNum → RegNum → RegNum → Ty → KReg → Bool → Bool → Rnd → Instr) :
    Option Instr :=
  (Ty.ofCode (fTy w)).bind fun ty => (Rnd.ofCode (fRnd w)).bind fun rnd =>
    req (fSatc w = 0 && fTy2 w = 0)
      (mk (fD w) (fA w) (fB w) (fC w) ty (fK w) (fFz w) (fSl w) rnd)

/-- D, A, TY, K, Z, SL and RND. -/
def fpDA (w : Word) (mk : RegNum → RegNum → Ty → KReg → Bool → Bool → Rnd → Instr) :
    Option Instr :=
  (Ty.ofCode (fTy w)).bind fun ty => (Rnd.ofCode (fRnd w)).bind fun rnd =>
    req (fB w = 0 && fC w = 0 && fSatc w = 0 && fTy2 w = 0)
      (mk (fD w) (fA w) ty (fK w) (fFz w) (fSl w) rnd)

/-- D, A, B, TY, K, Z and SL; RND is 0 (R115). -/
def fpDAB0 (w : Word) (mk : RegNum → RegNum → RegNum → Ty → KReg → Bool → Bool → Instr) :
    Option Instr :=
  (Ty.ofCode (fTy w)).bind fun ty =>
    req (fC w = 0 && fSatc w = 0 && fTy2 w = 0 && fRnd w = 0)
      (mk (fD w) (fA w) (fB w) ty (fK w) (fFz w) (fSl w))

/-- D, A, TY, K, Z and SL; RND is 0 (R115). -/
def fpDA0 (w : Word) (mk : RegNum → RegNum → Ty → KReg → Bool → Bool → Instr) : Option Instr :=
  (Ty.ofCode (fTy w)).bind fun ty =>
    req (fB w = 0 && fC w = 0 && fSatc w = 0 && fTy2 w = 0 && fRnd w = 0)
      (mk (fD w) (fA w) ty (fK w) (fFz w) (fSl w))

/-- D as a mask, A, B, TY, K, Z and SL. -/
def fpCmp (w : Word) (mk : KReg → RegNum → RegNum → Ty → KReg → Bool → Bool → Instr) :
    Option Instr :=
  (Ty.ofCode (fTy w)).bind fun ty => (low3 (fD w)).bind fun d =>
    req (fC w = 0 && fSatc w = 0 && fTy2 w = 0 && fRnd w = 0)
      (mk d (fA w) (fB w) ty (fK w) (fFz w) (fSl w))

/-- D, A, TY, TY2, K, Z, SL and RND. -/
def fpCvt (w : Word) (mk : RegNum → RegNum → Ty → Ty → KReg → Bool → Bool → Rnd → Instr) :
    Option Instr :=
  (Ty.ofCode (fTy w)).bind fun ty => (Ty.ofCode (fTy2 w)).bind fun ty2 =>
    (Rnd.ofCode (fRnd w)).bind fun rnd =>
      req (fB w = 0 && fC w = 0 && fSatc w = 0)
        (mk (fD w) (fA w) ty ty2 (fK w) (fFz w) (fSl w) rnd)

/-- VFP, OP 0x50 (R33). -/
def decodeVfp (w : Word) : Option Instr :=
  match fFn8 w with
  | 0x00 => fpDAB w .vfadd | 0x01 => fpDAB w .vfsub | 0x02 => fpDAB w .vfmul
  | 0x03 => fpDAB w .vfdiv
  | 0x04 => fpDABC w .vfma | 0x05 => fpDABC w .vfms | 0x06 => fpDABC w .vfnma
  | 0x07 => fpDA w .vfsqrt
  | 0x08 => fpDAB0 w .vfmin | 0x09 => fpDAB0 w .vfmax
  | 0x0A => fpDA0 w .vfabs | 0x0B => fpDA0 w .vfneg | 0x0C => fpDA0 w .vfrcp
  | 0x0D => fpDA0 w .vfrsq | 0x0E => fpDA0 w .vfexp2 | 0x0F => fpDA0 w .vflog2
  | 0x10 => fpDA w .vfround
  | 0x11 => (SatC.ofCode (fSatc w)).bind fun satc => (Ty.ofCode (fTy w)).bind fun ty =>
      (Ty.ofCode (fTy2 w)).bind fun ty2 => (Rnd.ofCode (fRnd w)).bind fun rnd =>
        req (fB w = 0 && fC w = 0)
          (.vfcvt (fD w) (fA w) ty ty2 (fK w) (fFz w) (fSl w) rnd satc)
  | 0x12 => fpCvt w .vfcvti | 0x13 => fpCvt w .vicvtf
  | 0x18 => fpCmp w .vfcmpeq | 0x19 => fpCmp w .vfcmplt | 0x1A => fpCmp w .vfcmple
  | 0x1B => fpCmp w .vfcmpun
  | _ => none

/-- TY, K, M and C are reserved (R122). -/
def zMask (w : Word) : Bool := fTy w = 0 && zCKM w

/-- D, A and B as masks. -/
def kDAB (w : Word) (mk : KReg → KReg → KReg → Instr) : Option Instr :=
  (low3 (fD w)).bind fun d => (low3 (fA w)).bind fun a => (low3 (fB w)).bind fun b =>
    req (zMask w) (mk d a b)

/-- VPERM, OP 0x60 (R33). -/
def decodeVperm (w : Word) : Option Instr :=
  match fFn8 w with
  | 0x00 => vDA w .vsplat | 0x01 => vPick w .vextr | 0x02 => vPick w .vinsr
  | 0x03 => vDAB w .vperm | 0x04 => vDABC w .vperm2 | 0x05 => vShift w .vrot
  | 0x06 => vDA w .vcompr | 0x07 => vDA w .vexpnd
  | 0x08 => (Ty.ofCode (fTy w)).bind fun ty =>
      req (fA w = 0 && fB w = 0 && fC w = 0 && fM w = 0) (.viota (fD w) ty (fK w))
  | 0x09 => vRed w .vredadd | 0x0A => vRed w .vredmin | 0x0B => vRed w .vredmax
  | 0x0C => vRed w .vfredadd | 0x0D => vRed w .vfredmax | 0x0E => vRed w .vfredmin
  | 0x10 => kDAB w .kand | 0x11 => kDAB w .kor | 0x12 => kDAB w .kxor
  | 0x13 => (low3 (fD w)).bind fun d => (low3 (fA w)).bind fun a =>
      req (zMask w && fB w = 0) (.knot d a)
  | 0x14 => (low3 (fA w)).bind fun a => req (zMask w && fB w = 0) (.kpop (fD w) a)
  | 0x15 => (low3 (fA w)).bind fun a => req (zMask w && fB w = 0) (.kfirst (fD w) a)
  | 0x16 => (low3 (fD w)).bind fun d => req (zMask w && fB w = 0) (.kmov d (fA w))
  | 0x17 => (low3 (fA w)).bind fun a => req (zMask w && fB w = 0) (.kmovg (fD w) a)
  | _ => none

/-- D, A, TY, TY2, K, RND and SATC of CONV; M[4:3] reserved. -/
def cvCvt (w : Word) (mk : RegNum → RegNum → Ty → Ty → KReg → Rnd → SatC → Instr) :
    Option Instr :=
  (Ty.ofCode (fTy w)).bind fun ty => (Ty.ofCode (fTy2 w)).bind fun ty2 =>
    (Rnd.ofCode (fRnd w)).bind fun rnd => (SatC.ofCode (fSatc w)).bind fun satc =>
      req (fB w = 0 && fC w = 0 && !fFz w && !fSl w) (mk (fD w) (fA w) ty ty2 (fK w) rnd satc)

/-- CONV, OP 0xB0 (R33, R267). -/
def decodeConv (w : Word) : Option Instr :=
  match fFn8 w with
  | 0x00 => cvCvt w .cvtn | 0x01 => cvCvt w .cvtw
  | 0x02 => (Ty.ofCode (fTy w)).bind fun ty => (Ty.ofCode (fTy2 w)).bind fun ty2 =>
      req (fB w = 0 && fC w = 0 && fK w = 0 && fSatc w = 0 && !fFz w && !fSl w && fRnd w = 0)
        (.qmx (fD w) (fA w) ty ty2)
  | 0x03 => (Ty.ofCode (fTy w)).bind fun ty => (Ty.ofCode (fTy2 w)).bind fun ty2 =>
      (Rnd.ofCode (fRnd w)).bind fun rnd => (SatC.ofCode (fSatc w)).bind fun satc =>
        req (fB w = 0 && fC w = 0 && fK w = 0 && !fFz w && !fSl w)
          (.dqmx (fD w) (fA w) ty ty2 rnd satc)
  | 0x04 => intDA w .plane | 0x05 => intDA w .unplane
  | _ => none

/-! ## RI, B and THREAD -/

/-- D, A, TY and IMM of RI. -/
def riDA (w : Word) (mk : RegNum → RegNum → Ty → BitVec 32 → Instr) : Option Instr :=
  (Ty.ofCode ((fTy4 w).zeroExtend 5)).bind fun ty => some (mk (fD6 w) (fA6 w) ty (fI32 w))

/-- D, A, TY and a shift count; IMM[31:6] reserved (R43). -/
def riShift (w : Word) (mk : RegNum → RegNum → Ty → BitVec 6 → Instr) : Option Instr :=
  (Ty.ofCode ((fTy4 w).zeroExtend 5)).bind fun ty =>
    req (w.extractLsb' 6 26 = 0) (mk (fD6 w) (fA6 w) ty (w.extractLsb' 0 6))

/-- IMM, OP 0x20 (R33). -/
def decodeImm (w : Word) : Option Instr :=
  match fFn6 w with
  | 0x00 => riDA w .addi | 0x01 => riDA w .muli | 0x02 => riDA w .andi | 0x03 => riDA w .ori
  | 0x04 => riDA w .xori | 0x05 => riShift w .shli | 0x06 => riShift w .shri
  | 0x07 => riShift w .srai | 0x08 => riDA w .slti | 0x09 => riDA w .sltni | 0x0A => riDA w .seqi
  | 0x0B => (Ty.ofCode ((fTy4 w).zeroExtend 5)).bind fun ty =>
      req (fA6 w = 0) (.movi (fD6 w) ty (fI32 w))
  | 0x0C => req (fTy4 w = 3) (.movhi (fD6 w) (fA6 w) (fI32 w))
  | _ => none

/-- A, B, HINT and DISP, LNK reserved. -/
def brAB (w : Word) (mk : RegNum → RegNum → Hint → BitVec 29 → Instr) : Option Instr :=
  (Hint.ofCode (fHint w)).bind fun h => req (fLnk w = 0) (mk (fBA w) (fBB w) h (fDisp w))

/-- A, HINT and DISP, B and LNK reserved. -/
def brA (w : Word) (mk : RegNum → Hint → BitVec 29 → Instr) : Option Instr :=
  (Hint.ofCode (fHint w)).bind fun h => req (fBB w = 0 && fLnk w = 0) (mk (fBA w) h (fDisp w))

/-- BRANCH, OP 0x30 (R33, R44). -/
def decodeBranch (w : Word) : Option Instr :=
  match fCc w with
  | 0x0 => (Hint.ofCode (fHint w)).bind fun h =>
      req (fBA w = 0 && fBB w = 0 && fLnk w = 0) (.br h (fDisp w))
  | 0x1 => brAB w .beq | 0x2 => brAB w .bne | 0x3 => brAB w .blt | 0x4 => brAB w .bge
  | 0x5 => brAB w .bltn | 0x6 => brAB w .bgen
  | 0x7 => brA w .bz | 0x8 => brA w .bnz | 0x9 => brA w .dbnz
  | 0xA => (Hint.ofCode (fHint w)).bind fun h =>
      req (fBA w = 0 && fBB w = 0) (.call (fLnk w) h (fDisp w))
  | _ => none

/-- JUMP, OP 0x31 (R33, R45). -/
def decodeJump (w : Word) : Option Instr :=
  match fCc w with
  | 0x0 => brA w .jmp
  | 0x1 => (Hint.ofCode (fHint w)).bind fun h =>
      req (fBB w = 0) (.callr (fLnk w) (fBA w) h (fDisp w))
  | _ => none

/-- THREAD, OP 0x32 (R33, R47). -/
def decodeThread (w : Word) : Option Instr :=
  let z := fD w = 0 && fA w = 0 && fB w = 0
  match fFn8 w with
  | 0x00 => req (z && fImm w = 0) .nop
  | 0x01 => req (z && fImm w = 0) .endT
  | 0x02 => req (z && fImm w = 0) .yield
  | 0x03 => req z (.pause (fImm w))
  | 0x04 => req (fA w = 0 && fB w = 0 && fImm w = 0) (.void (fD w))
  | _ => none

/-! ## Memory groups -/

/-- MEM, OP 0x38 (R33). -/
def decodeMem (w : Word) : Option Instr :=
  let sz := MemSize.ofCode (fFn6 w % 8)
  match fFn6 w / 8 with
  | 0 => sz.bind fun n => some (.ld (fD6 w) (fA6 w) (fSeg w) (fRel w) (fI32 w) n)
  | 1 => sz.bind fun n => some (.lds (fD6 w) (fA6 w) (fSeg w) (fRel w) (fI32 w) n)
  | 2 => sz.bind fun n => some (.st (fD6 w) (fA6 w) (fSeg w) (fRel w) (fI32 w) n)
  | 3 => req (fFn6 w % 8 = 0 && !fRel w) (.lea (fD6 w) (fA6 w) (fSeg w) (fI32 w))
  | _ => none

/-- A SYNC form: size 3 is .D and 4 is .V, REL is 0 (R180). -/
def syncForm (w : Word) (mk : RegNum → RegNum → SegReg → BitVec 32 → Bool → Instr) :
    Option Instr :=
  req ((fFn6 w % 8 = 3 || fFn6 w % 8 = 4) && !fRel w)
    (mk (fD6 w) (fA6 w) (fSeg w) (fI32 w) (fFn6 w % 8 = 4))

/-- SYNC, OP 0x68 (R33). -/
def decodeSync (w : Word) : Option Instr :=
  match fFn6 w / 8 with
  | 0 => syncForm w .ldw | 1 => syncForm w .ldc | 2 => syncForm w .stf | 3 => syncForm w .ste
  | 4 => syncForm w .feset | 5 => syncForm w .feget | 6 => syncForm w .waitv
  | _ => none

/-- An ATOM form: size 0 is .W and 1 is .D, REL is 0 (R185). -/
def atomForm (w : Word) (mk : RegNum → RegNum → SegReg → BitVec 32 → Bool → Instr) :
    Option Instr :=
  req (fFn6 w % 4 < 2 && !fRel w) (mk (fD6 w) (fA6 w) (fSeg w) (fI32 w) (fFn6 w % 4 = 1))

/-- ATOM, OP 0x69 (R33). ACAS has its new-value register in OFF[31:25] (R186). -/
def decodeAtom (w : Word) : Option Instr :=
  match fFn6 w / 4 with
  | 0x0 => atomForm w .aadd | 0x1 => atomForm w .aand | 0x2 => atomForm w .aor
  | 0x3 => atomForm w .axor | 0x4 => atomForm w .amin | 0x5 => atomForm w .amax
  | 0x6 => atomForm w .aminn | 0x7 => atomForm w .amaxn | 0x8 => atomForm w .aswp
  | 0x9 => req (fFn6 w % 4 < 2 && !fRel w)
      (.acas (fD6 w) (fA6 w) (w.extractLsb' 25 7) (fSeg w) (w.extractLsb' 0 25) (fFn6 w % 4 = 1))
  | 0xA => atomForm w .afadd
  | _ => none

/-- The fields of a G word; EW 100 to 111 is reserved (R27). -/
def gform (w : Word) : GForm where
  d := fD6 w
  base := fA6 w
  seg := fSeg w
  rel := fRel w
  idx := w.extractLsb' 25 7
  iw := w.extractLsb' 23 2
  is := w.getLsbD 22
  sc := w.extractLsb' 19 3
  ew := w.extractLsb' 16 2
  k := w.extractLsb' 13 3
  bnd := w.getLsbD 12
  off := w.extractLsb' 0 12

/-- GATHER, OP 0x70 (R33). Bit 18 is EW[2]. -/
def decodeGather (w : Word) : Option Instr :=
  if w.getLsbD 18 then none
  else
    match fFn6 w with
    | 0x00 => some (.gld (gform w)) | 0x01 => some (.gst (gform w)) | 0x02 => some (.gadd (gform w))
    | 0x03 => some (.gfadd (gform w)) | 0x04 => some (.gldw (gform w))
    | _ => none

/-! ## S groups -/

/-- SEG, OP 0x39 (R60 to R62). -/
def decodeSeg (w : Word) : Option Instr :=
  match fFn8 w with
  | 0x00 => (low3 (fD w)).bind fun d => req (fB w = 0) (.segld d (fA w) (fImm w))
  | 0x01 => (low3 (fD w)).bind fun d => (low3 (fA w)).bind fun a =>
      req ((fImm w).extractLsb' 6 21 = 0) (.segnar d a (fB w) ((fImm w).extractLsb' 0 6))
  | 0x02 => (low3 (fA w)).bind fun a => req (fB w = 0 && fImm w = 0) (.segrd (fD w) a)
  | _ => none

/-- FENCE, OP 0x78 (R193, R194). -/
def decodeFence (w : Word) : Option Instr :=
  let z := fD w = 0 && fA w = 0 && fB w = 0
  match fFn8 w with
  | 0x00 => (Scope.ofCode ((fImm w).extractLsb' 0 3)).bind fun sc =>
      req (z && (fImm w).extractLsb' 3 5 = 0 && (fImm w).extractLsb' 9 18 = 0)
        (.fence sc ((fImm w).getLsbD 8))
  | 0x01 => req (z && fImm w = 0) .ifence
  | _ => none

/-- RULE, OP 0x80 (R125 to R134). -/
def decodeRule (w : Word) : Option Instr :=
  let z := fD w = 0 && fA w = 0
  let m := fImm w
  match fFn8 w with
  | 0x00 =>
      req (z && m.extractLsb' 9 18 = 0 && (m.getLsbD 3 || fB w = 0)
          && (m.getLsbD 4 || m.extractLsb' 5 4 = 0))
        (.split (m.extractLsb' 0 3) (if m.getLsbD 3 then some (fB w) else none)
          (if m.getLsbD 4 then some (m.extractLsb' 5 4) else none))
  | 0x01 => req (z && fB w = 0 && m = 0) .prune
  | 0x02 => req (z && fB w = 0 && m = 0) .leaf
  | 0x03 => req (z && fB w = 0 && m = 0) .defer
  | 0x04 => req (fD w = 0 && fB w = 0 && m.extractLsb' 1 26 = 0 && (m.getLsbD 0 || fA w = 0))
      (.jdone (if m.getLsbD 0 then some (fA w) else none))
  | 0x05 => req (fD w = 0 && m = 0) (.stamp (fA w) (fB w))
  | 0x06 => req (fA w = 0 && fB w = 0 && m.extractLsb' 6 21 = 0)
      (.boxrd (fD w) (m.extractLsb' 0 6))
  | 0x07 => req (fA w = 0 && fB w = 0 && m.extractLsb' 3 24 = 0)
      (.budrd (fD w) (m.extractLsb' 0 3))
  | 0x08 => req (fB w = 0 && m.extractLsb' 3 24 = 0) (.launch (fD w) (fA w) (m.extractLsb' 0 3))
  | 0x09 => req (fB w = 0 && m.extractLsb' 3 24 = 0) (.rgnq (fD w) (fA w) (m.extractLsb' 0 3))
  | _ => none

/-- MSG, OP 0x81 (R136 to R140). -/
def decodeMsg (w : Word) : Option Instr :=
  let m := fImm w
  match fFn8 w with
  | 0x00 => req (m.extractLsb' 5 22 = 0)
      (.send (fD w) (fA w) (fB w) (m.getLsbD 4) (m.extractLsb' 0 4))
  | 0x01 => req (fD w = 0 && fB w = 0 && m.extractLsb' 14 13 = 0)
      (.sendr (fA w) (m.extractLsb' 7 7) (m.extractLsb' 1 6) (m.getLsbD 0))
  | 0x02 => req (fB w = 0 && m.extractLsb' 4 23 = 0) (.chset (fD w) (fA w) (m.extractLsb' 0 4))
  | 0x03 => req (fB w = 0 && m = 0) (.chget (fD w) (fA w))
  | 0x04 => req (m = 0) (.migrate (fD w) (fA w) (fB w))
  | 0x05 => req (fB w = 0 && m.extractLsb' 20 7 = 0)
      (.syscall (fD w) (fA w) (m.extractLsb' 16 4) (m.extractLsb' 0 16))
  | _ => none

/-- SWR by its index: the rows of their own, then the rest (R308, R309). -/
def decodeSwr (idx : BitVec 12) (a b : RegNum) : Instr :=
  match idx.toNat with
  | 0x000 => .statusWrite a
  | 0x00F => .atollWrite a
  | 0x103 => .partitionWrite a b
  | 0x104 => .channelEntryWrite a b
  | 0x10A => .scrub a b
  | 0x10B => .errlogClear a b
  | _ => .swr idx a b

/-- THWR by its item: 0x190 and 0x191 are rows of their own (R314). -/
def decodeThwr (d a b : RegNum) (item : BitVec 12) : Instr :=
  match item.toNat with
  | 0x190 => .discardQueueImage d a b
  | 0x191 => .debugHold d a b
  | _ => .thwr d a b item

/-- SYS, OP 0xC0 (R307). -/
def decodeSys (w : Word) : Option Instr :=
  let m := fImm w
  let i12 := m.extractLsb' 0 12
  let z12 := m.extractLsb' 12 15 = 0
  let zB := fB w = 0
  match fFn8 w with
  | 0x00 => req (fA w = 0 && z12) (.srd (fD w) i12 (fB w))
  | 0x01 => req (fD w = 0 && z12 && selectorOk i12 (fB w)) (decodeSwr i12 (fA w) (fB w))
  | 0x02 => req (zB && z12) (.thrd (fD w) (fA w) i12)
  | 0x03 => req z12 (decodeThwr (fD w) (fA w) (fB w) i12)
  | 0x04 => req (zB && m = 0) (.thres (fD w) (fA w))
  | 0x05 => req (zB && m = 0) (.thkill (fD w) (fA w))
  | 0x06 => req (zB && m = 0) (.spill (fD w) (fA w))
  | 0x07 => req (zB && m.extractLsb' 2 25 = 0)
      (.reghold (fD w) (fA w) (m.getLsbD 0) (m.getLsbD 1))
  | 0x08 => req (zB && m = 0) (.regrel (fD w) (fA w))
  | 0x09 => req (zB && m = 0) (.rcbrd (fD w) (fA w))
  | 0x0A => req (zB && m.extractLsb' 3 24 = 0) (.capq (fD w) (fA w) (m.extractLsb' 0 3))
  | 0x0B => req (fD w = 0 && fA w = 0 && zB) (.brk m)
  | 0x0C => req (fD w = 0 && m = 0) (.wakep (fA w) (fB w))
  | 0x0D => req (fD w = 0 && m.extractLsb' 2 25 = 0) (.tlbinv (fA w) (fB w) (m.extractLsb' 0 2))
  | _ => none

/-! ## E groups -/

/-- The memory operand of an E word (R248). -/
def mop (w : Word) : MOp := ⟨fEA w, w.extractLsb' 0 3, w.extractLsb' 6 12⟩

/-- MATRIX, OP 0x90 (R249). -/
def decodeMatrix (w : Word) : Option Instr :=
  let g := fFlg w
  let t0 := fTile w = 0
  let a0 := fEA w = 0
  let b0 := fEB w = 0
  let c0 := fEC w = 0
  let l0 := !fLat w
  let m0 := g.extractLsb' 3 3 = 0
  match fFn8 w with
  | 0x00 => req (g.extractLsb' 6 12 = 0 && (g.getLsbD 1 || b0) && (g.getLsbD 3 || c0))
      (.mma (fTile w) (fEA w) (fLat w) (if g.getLsbD 1 then some (fEB w) else none)
        (if g.getLsbD 3 then some (fEC w) else none)
        (g.getLsbD 0) (g.getLsbD 2) (g.getLsbD 4) (g.getLsbD 5))
  | 0x01 => req (t0 && b0 && c0 && m0) (.bload (fLat w) (mop w))
  | 0x02 => req (t0 && a0 && b0 && c0 && g.extractLsb' 1 17 = 0) (.brot (fLat w) (g.getLsbD 0))
  | 0x03 => req (t0 && a0 && b0 && c0 && g = 0) (.brel (fLat w))
  | 0x04 => req (t0 && b0 && c0 && l0 && g = 0) (.mcommit (fEA w))
  | 0x05 => req (t0 && a0 && b0 && c0 && l0 && g.extractLsb' 3 15 = 0)
      (.mwait (g.extractLsb' 0 3))
  | 0x06 => req (a0 && b0 && c0 && l0 && g = 0) (.mzero (fTile w))
  | 0x07 => req (b0 && c0 && l0 && m0) (.mfill (fTile w) (mop w))
  | 0x08 => req (b0 && c0 && l0 && m0) (.mdrain (fTile w) (mop w))
  | 0x0A => req (t0 && l0 && m0) (.qrow (fEB w) (fEC w) (mop w))
  | _ => none

/-- RANK, OP 0xA0 (R256). -/
def decodeRank (w : Word) : Option Instr :=
  let g := fFlg w
  let a0 := fEA w = 0
  let b0 := fEB w = 0
  let c0 := fEC w = 0 && !fLat w
  match fFn8 w with
  | 0x00 => req (a0 && b0 && c0 && g.extractLsb' 5 13 = 0)
      (.rlset (fTile w) (g.extractLsb' 0 3) (g.getLsbD 3) (g.getLsbD 4))
  | 0x01 => req (c0 && g.extractLsb' 9 9 = 0)
      (.rlins (fTile w) (fEA w) (fEB w) (g.extractLsb' 3 6) (g.extractLsb' 0 3))
  | 0x02 =>
      if g.getLsbD 3 then
        req (b0 && c0 && g.extractLsb' 4 2 = 0) (.rlmergeImage (fTile w) (mop w))
      else
        req (a0 && b0 && c0 && g.extractLsb' 0 3 = 0 && g.extractLsb' 4 6 = 0)
          (.rlmergeTile (fTile w) (g.extractLsb' 10 8))
  | 0x03 => req (b0 && c0 && g.extractLsb' 6 12 = 0)
      (.rlthr (fEA w) (fTile w) (g.extractLsb' 0 6))
  | 0x04 => req (b0 && c0 && g.extractLsb' 3 3 = 0) (.rldrain (fTile w) (mop w))
  | 0x05 => req (a0 && b0 && c0 && g = 0) (.rlclr (fTile w))
  | _ => none

/-- The fields of COPY and COPY2; the barrier's fields count only with BAR = 1 (R261, DEDUCED, log 16). -/
def copyForm (w : Word) : CopyForm where
  a := fEA w
  segD := w.extractLsb' 4 3
  b := fEB w
  segS := w.extractLsb' 7 3
  c := fEC w
  bar := if w.getLsbD 11 then some ⟨w.extractLsb' 40 7, w.extractLsb' 13 3, w.getLsbD 12⟩ else none
  bnd := w.getLsbD 10
  mode := CopyMode.ofCode (w.extractLsb' 2 2)
  ch := w.extractLsb' 0 2

/-- Reserved fields of COPY and COPY2: LAT, FLG[17:16], TILE[7], and TILE when BAR = 0 (R261). -/
def copyReserved (w : Word) : Bool :=
  !fLat w && w.extractLsb' 16 2 = 0 && !w.getLsbD 47 && (w.getLsbD 11 || fTile w = 0)

/-- COPY, OP 0xA8 (R261 to R266). -/
def decodeCopy (w : Word) : Option Instr :=
  let g := fFlg w
  let t0 := fTile w = 0 && !fLat w
  let b0 := fEB w = 0
  let c0 := fEC w = 0
  match fFn8 w with
  | 0x00 => req (copyReserved w) (.copy (copyForm w))
  | 0x01 => req (copyReserved w) (.copy2 (copyForm w))
  | 0x02 =>
      if g.getLsbD 2 then
        req (t0 && b0 && c0 && g.extractLsb' 3 15 = 0) (.cwaitPtr (g.extractLsb' 0 2) (fEA w))
      else
        req (t0 && fEA w = 0 && b0 && c0 && g.extractLsb' 3 15 = 0) (.cwait (g.extractLsb' 0 2))
  | 0x03 => req (t0 && c0 && g.extractLsb' 3 3 = 0) (.barinit (fEB w) (mop w))
  | 0x04 =>
      if g.getLsbD 4 then
        req (t0 && !g.getLsbD 5) (.bararrCount (fEB w) (fEC w) (g.getLsbD 3) (mop w))
      else
        req (t0 && b0 && !g.getLsbD 5 && !g.getLsbD 3) (.bararr (fEC w) (mop w))
  | 0x05 => req (t0 && c0 && g.extractLsb' 3 3 = 0) (.barwait (fEB w) (mop w))
  | _ => none

/-! ## The decoder -/

/-- The fields of a word whose reserved fields are zero, by OP (R26). -/
def decodeFields (w : Word) : Option Instr :=
  match fOp w with
  | 0x10 => decodeInt w
  | 0x20 => decodeImm w
  | 0x30 => decodeBranch w
  | 0x31 => decodeJump w
  | 0x32 => decodeThread w
  | 0x38 => decodeMem w
  | 0x39 => decodeSeg w
  | 0x40 => decodeVint w
  | 0x50 => decodeVfp w
  | 0x60 => decodeVperm w
  | 0x68 => decodeSync w
  | 0x69 => decodeAtom w
  | 0x70 => decodeGather w
  | 0x78 => decodeFence w
  | 0x80 => decodeRule w
  | 0x81 => decodeMsg w
  | 0x90 => decodeMatrix w
  | 0xA0 => decodeRank w
  | 0xA8 => decodeCopy w
  | 0xB0 => decodeConv w
  | 0xC0 => decodeSys w
  | _ => none

/-- The instruction a word is, or none where the word is not an instruction (R34). -/
def decode (w : Word) : Option Instr :=
  (decodeFields w).bind fun i => if i.wf then some i else none

/-- What executing a word means: its instruction, or R34's trap of a word that is none. -/
def fetched (w : Word) : Instr := (decode w).getD .notAnInstruction

/-- The eight bytes of an instruction word as memory holds them, the lowest address first (R25). -/
def wordBytes (w : Word) : List Byte :=
  (List.range 8).map fun i => w.extractLsb' (8 * i) 8

/-- The word that eight bytes in memory order spell (R25); missing bytes read as zero. -/
def bytesWord (l : List Byte) : Word :=
  (List.range 8).foldl (fun acc i => acc ||| ((l.getD i 0).zeroExtend 64 <<< (8 * i))) 0

/-- What the decoder makes of a table row's bits, laid out in memory order and read back. -/
def decodeTableWord (nbits w : Nat) : Option Instr :=
  some (fetched (bytesWord (wordBytes (BitVec.ofNat 64 (w % 2 ^ nbits)))))

/-! ## The encoder -/

/-- RRR (R27). -/
def rrr (op fn : Nat) (d a b c : RegNum) (ty : BitVec 5) (k : KReg) (m : BitVec 12) : Word :=
  BitVec.ofNat 8 op ++ BitVec.ofNat 8 fn ++ d ++ a ++ b ++ c ++ ty ++ k ++ m

/-- RI (R27). -/
def ri (op fn : Nat) (d a : RegNum) (ty : BitVec 4) (imm : BitVec 32) : Word :=
  BitVec.ofNat 8 op ++ BitVec.ofNat 6 fn ++ d ++ a ++ ty ++ imm

/-- M (R27). -/
def mfmt (op fn : Nat) (d base : RegNum) (seg : SegReg) (rel : Bool) (off : BitVec 32) : Word :=
  BitVec.ofNat 8 op ++ BitVec.ofNat 6 fn ++ d ++ base ++ seg ++ BitVec.ofBool rel ++ off

/-- G (R27). -/
def gfmt (fn : Nat) (g : GForm) : Word :=
  0x70#8 ++ BitVec.ofNat 6 fn ++ g.d ++ g.base ++ g.seg ++ BitVec.ofBool g.rel ++ g.idx ++ g.iw ++
    BitVec.ofBool g.is ++ g.sc ++ 0#1 ++ g.ew ++ g.k ++ BitVec.ofBool g.bnd ++ g.off

/-- B (R27). -/
def bfmt (op cc : Nat) (a b lnk : RegNum) (h : Hint) (disp : BitVec 29) : Word :=
  BitVec.ofNat 8 op ++ BitVec.ofNat 4 cc ++ a ++ b ++ lnk ++ h.code ++ disp

/-- S (R27). -/
def sfmt (op fn : Nat) (d a b : RegNum) (imm : BitVec 27) : Word :=
  BitVec.ofNat 8 op ++ BitVec.ofNat 8 fn ++ d ++ a ++ b ++ imm

/-- E (R27). -/
def efmt (op fn : Nat) (tile : BitVec 8) (a b c : RegNum) (lat : Bool) (flg : BitVec 18) : Word :=
  BitVec.ofNat 8 op ++ BitVec.ofNat 8 fn ++ tile ++ a ++ b ++ c ++ BitVec.ofBool lat ++ flg

/-- A mask or segment number in its seven-bit field (R27). -/
def wide3 (k : BitVec 3) : RegNum := 0#4 ++ k

/-- M of VINT and VPERM with Z (R29). -/
def mZ (z : Bool) : BitVec 12 := 0#11 ++ BitVec.ofBool z

/-- M with the second operand's IMMV and IMS, and Z (R29). -/
def mSrc (s : VSrc) (z : Bool) : BitVec 12 :=
  match s with
  | .reg _ => 0#6 ++ 0#4 ++ 0#1 ++ BitVec.ofBool z
  | .imm v => v ++ 0#4 ++ 1#1 ++ BitVec.ofBool z

/-- Register B of the second operand (R29). -/
def VSrc.field : VSrc → RegNum
  | .reg b => b
  | .imm _ => 0

/-- M of VFP (R29). -/
def mFp (satc : BitVec 2) (ty2 : BitVec 5) (z sl : Bool) (rnd : BitVec 3) : BitVec 12 :=
  satc ++ ty2 ++ BitVec.ofBool z ++ BitVec.ofBool sl ++ rnd

/-- FLG of a memory operand; `mid` is FLG[5:3] (R248). -/
def flgMem (m : MOp) (mid : BitVec 3) : BitVec 18 := m.off ++ mid ++ m.seg

/-- The four-bit type code of RI. -/
def Ty.code4 (t : Ty) : BitVec 4 := t.code.extractLsb' 0 4

/-- An instruction of INT with three register fields. -/
def eInt (fn : Nat) (d a b : RegNum) (ty : Ty) : Option Word := some (rrr 0x10 fn d a b 0 ty.code 0 0)

/-- An instruction of VINT or VPERM with D, A, B, C. -/
def eV (op fn : Nat) (d a b c : RegNum) (ty : Ty) (k : KReg) (z : Bool) : Option Word :=
  some (rrr op fn d a b c ty.code k (mZ z))

/-- An instruction of VFP without SATC and TY2. -/
def eF (fn : Nat) (d a b c : RegNum) (ty : Ty) (k : KReg) (z sl : Bool) (rnd : Rnd) : Option Word :=
  some (rrr 0x50 fn d a b c ty.code k (mFp 0 0 z sl rnd.code))

/-- A mask instruction (R122). -/
def eK (fn : Nat) (d a b : RegNum) : Option Word := some (rrr 0x60 fn d a b 0 0 0 0)

/-- A SYNC instruction (R180). -/
def eSync (form : Nat) (d base : RegNum) (seg : SegReg) (off : BitVec 32) (v : Bool) : Option Word :=
  some (mfmt 0x68 (form * 8 + if v then 4 else 3) d base seg false off)

/-- An ATOM instruction (R185). -/
def eAtom (form : Nat) (d base : RegNum) (seg : SegReg) (off : BitVec 32) (dbl : Bool) : Option Word :=
  some (mfmt 0x69 (form * 4 + if dbl then 1 else 0) d base seg false off)

/-- COPY and COPY2 (R261). -/
def eCopy (fn : Nat) (f : CopyForm) : Option Word :=
  match f.bar with
  | none => some (efmt 0xA8 fn 0 f.a f.b f.c false
      (0#2 ++ 0#3 ++ 0#1 ++ 0#1 ++ BitVec.ofBool f.bnd ++ f.segS ++ f.segD ++ f.mode.code ++ f.ch))
  | some b => some (efmt 0xA8 fn (0#1 ++ b.t) f.a f.b f.c false
      (0#2 ++ b.seg ++ BitVec.ofBool b.out ++ 1#1 ++ BitVec.ofBool f.bnd ++ f.segS ++ f.segD ++
        f.mode.code ++ f.ch))

/-- IMM of SPLIT (R126). -/
def immSplit (axis : BitVec 3) (pt : Bool) (rule : Option (BitVec 4)) : BitVec 27 :=
  0#18 ++ rule.getD 0 ++ BitVec.ofBool rule.isSome ++ BitVec.ofBool pt ++ axis

/-- The word of an instruction; an event has none. -/
def encode : Instr → Option Word
  | .add d a b ty => eInt 0x00 d a b ty
  | .sub d a b ty => eInt 0x01 d a b ty
  | .mul d a b ty => eInt 0x02 d a b ty
  | .mulh d a b ty => eInt 0x03 d a b ty
  | .mulhn d a b ty => eInt 0x04 d a b ty
  | .madd d a b c ty => some (rrr 0x10 0x05 d a b c ty.code 0 0)
  | .div d a b ty => eInt 0x06 d a b ty
  | .divn d a b ty => eInt 0x07 d a b ty
  | .rem d a b ty => eInt 0x08 d a b ty
  | .remn d a b ty => eInt 0x09 d a b ty
  | .min d a b ty => eInt 0x0A d a b ty
  | .max d a b ty => eInt 0x0B d a b ty
  | .minn d a b ty => eInt 0x0C d a b ty
  | .maxn d a b ty => eInt 0x0D d a b ty
  | .sel d a b c ty => some (rrr 0x10 0x0E d a b c ty.code 0 0)
  | .and d a b ty => eInt 0x10 d a b ty
  | .or d a b ty => eInt 0x11 d a b ty
  | .xor d a b ty => eInt 0x12 d a b ty
  | .andn d a b ty => eInt 0x13 d a b ty
  | .orn d a b ty => eInt 0x14 d a b ty
  | .shl d a b ty => eInt 0x15 d a b ty
  | .shr d a b ty => eInt 0x16 d a b ty
  | .sra d a b ty => eInt 0x17 d a b ty
  | .rol d a b ty => eInt 0x18 d a b ty
  | .ror d a b ty => eInt 0x19 d a b ty
  | .clz d a ty => eInt 0x1A d a 0 ty
  | .ctz d a ty => eInt 0x1B d a 0 ty
  | .pop d a ty => eInt 0x1C d a 0 ty
  | .bswap d a ty => eInt 0x1D d a 0 ty
  | .seq d a b ty => eInt 0x20 d a b ty
  | .sne d a b ty => eInt 0x21 d a b ty
  | .slt d a b ty => eInt 0x22 d a b ty
  | .sle d a b ty => eInt 0x23 d a b ty
  | .sltn d a b ty => eInt 0x24 d a b ty
  | .slen d a b ty => eInt 0x25 d a b ty
  | .ext d a ty pos len => some (rrr 0x10 0x28 d a 0 0 ty.code 0 (pos ++ len))
  | .ins d a b ty pos len => some (rrr 0x10 0x29 d a b 0 ty.code 0 (pos ++ len))
  | .sxt8 d a => eInt 0x30 d a 0 .i64
  | .sxt16 d a => eInt 0x31 d a 0 .i64
  | .sxt32 d a => eInt 0x32 d a 0 .i64
  | .zxt8 d a => eInt 0x33 d a 0 .i64
  | .zxt16 d a => eInt 0x34 d a 0 .i64
  | .zxt32 d a => eInt 0x35 d a 0 .i64
  | .addi d a ty imm => some (ri 0x20 0x00 d a ty.code4 imm)
  | .muli d a ty imm => some (ri 0x20 0x01 d a ty.code4 imm)
  | .andi d a ty imm => some (ri 0x20 0x02 d a ty.code4 imm)
  | .ori d a ty imm => some (ri 0x20 0x03 d a ty.code4 imm)
  | .xori d a ty imm => some (ri 0x20 0x04 d a ty.code4 imm)
  | .shli d a ty cnt => some (ri 0x20 0x05 d a ty.code4 (0#26 ++ cnt))
  | .shri d a ty cnt => some (ri 0x20 0x06 d a ty.code4 (0#26 ++ cnt))
  | .srai d a ty cnt => some (ri 0x20 0x07 d a ty.code4 (0#26 ++ cnt))
  | .slti d a ty imm => some (ri 0x20 0x08 d a ty.code4 imm)
  | .sltni d a ty imm => some (ri 0x20 0x09 d a ty.code4 imm)
  | .seqi d a ty imm => some (ri 0x20 0x0A d a ty.code4 imm)
  | .movi d ty imm => some (ri 0x20 0x0B d 0 ty.code4 imm)
  | .movhi d a imm => some (ri 0x20 0x0C d a 3 imm)
  | .br h disp => some (bfmt 0x30 0x0 0 0 0 h disp)
  | .beq a b h disp => some (bfmt 0x30 0x1 a b 0 h disp)
  | .bne a b h disp => some (bfmt 0x30 0x2 a b 0 h disp)
  | .blt a b h disp => some (bfmt 0x30 0x3 a b 0 h disp)
  | .bge a b h disp => some (bfmt 0x30 0x4 a b 0 h disp)
  | .bltn a b h disp => some (bfmt 0x30 0x5 a b 0 h disp)
  | .bgen a b h disp => some (bfmt 0x30 0x6 a b 0 h disp)
  | .bz a h disp => some (bfmt 0x30 0x7 a 0 0 h disp)
  | .bnz a h disp => some (bfmt 0x30 0x8 a 0 0 h disp)
  | .dbnz a h disp => some (bfmt 0x30 0x9 a 0 0 h disp)
  | .call lnk h disp => some (bfmt 0x30 0xA 0 0 lnk h disp)
  | .jmp a h disp => some (bfmt 0x31 0x0 a 0 0 h disp)
  | .callr lnk a h disp => some (bfmt 0x31 0x1 a 0 lnk h disp)
  | .nop => some (sfmt 0x32 0x00 0 0 0 0)
  | .endT => some (sfmt 0x32 0x01 0 0 0 0)
  | .yield => some (sfmt 0x32 0x02 0 0 0 0)
  | .pause imm => some (sfmt 0x32 0x03 0 0 0 imm)
  | .void d => some (sfmt 0x32 0x04 d 0 0 0)
  | .ld d base seg rel off size => some (mfmt 0x38 (0x00 + size.code) d base seg rel off)
  | .lds d base seg rel off size => some (mfmt 0x38 (0x08 + size.code) d base seg rel off)
  | .st d base seg rel off size => some (mfmt 0x38 (0x10 + size.code) d base seg rel off)
  | .lea d base seg off => some (mfmt 0x38 0x18 d base seg false off)
  | .segld d a imm => some (sfmt 0x39 0x00 (wide3 d) a 0 imm)
  | .segnar d a b rights => some (sfmt 0x39 0x01 (wide3 d) (wide3 a) b (0#21 ++ rights))
  | .segrd d a => some (sfmt 0x39 0x02 d (wide3 a) 0 0)
  | .vadd d a b ty k z => eV 0x40 0x00 d a b 0 ty k z
  | .vsub d a b ty k z => eV 0x40 0x01 d a b 0 ty k z
  | .vmul d a b ty k z => eV 0x40 0x02 d a b 0 ty k z
  | .vmulh d a b ty k z => eV 0x40 0x03 d a b 0 ty k z
  | .vmin d a b ty k z => eV 0x40 0x04 d a b 0 ty k z
  | .vmax d a b ty k z => eV 0x40 0x05 d a b 0 ty k z
  | .vadds d a b ty k z => eV 0x40 0x06 d a b 0 ty k z
  | .vsubs d a b ty k z => eV 0x40 0x07 d a b 0 ty k z
  | .vand d a b ty k z => eV 0x40 0x08 d a b 0 ty k z
  | .vor d a b ty k z => eV 0x40 0x09 d a b 0 ty k z
  | .vxor d a b ty k z => eV 0x40 0x0A d a b 0 ty k z
  | .vshl d a src ty k z => some (rrr 0x40 0x0B d a src.field 0 ty.code k (mSrc src z))
  | .vshr d a src ty k z => some (rrr 0x40 0x0C d a src.field 0 ty.code k (mSrc src z))
  | .vsra d a src ty k z => some (rrr 0x40 0x0D d a src.field 0 ty.code k (mSrc src z))
  | .vabs d a ty k z => eV 0x40 0x0E d a 0 0 ty k z
  | .vneg d a ty k z => eV 0x40 0x0F d a 0 0 ty k z
  | .vcnt d a ty k z => eV 0x40 0x10 d a 0 0 ty k z
  | .vdot4 d a b c ty k z => eV 0x40 0x11 d a b c ty k z
  | .vsel d a b ty k => eV 0x40 0x12 d a b 0 ty k false
  | .vcmpeq d a b ty k z => eV 0x40 0x18 (wide3 d) a b 0 ty k z
  | .vcmpne d a b ty k z => eV 0x40 0x19 (wide3 d) a b 0 ty k z
  | .vcmplt d a b ty k z => eV 0x40 0x1A (wide3 d) a b 0 ty k z
  | .vcmple d a b ty k z => eV 0x40 0x1B (wide3 d) a b 0 ty k z
  | .vfadd d a b ty k z sl rnd => eF 0x00 d a b 0 ty k z sl rnd
  | .vfsub d a b ty k z sl rnd => eF 0x01 d a b 0 ty k z sl rnd
  | .vfmul d a b ty k z sl rnd => eF 0x02 d a b 0 ty k z sl rnd
  | .vfdiv d a b ty k z sl rnd => eF 0x03 d a b 0 ty k z sl rnd
  | .vfma d a b c ty k z sl rnd => eF 0x04 d a b c ty k z sl rnd
  | .vfms d a b c ty k z sl rnd => eF 0x05 d a b c ty k z sl rnd
  | .vfnma d a b c ty k z sl rnd => eF 0x06 d a b c ty k z sl rnd
  | .vfsqrt d a ty k z sl rnd => eF 0x07 d a 0 0 ty k z sl rnd
  | .vfmin d a b ty k z sl => eF 0x08 d a b 0 ty k z sl .dflt
  | .vfmax d a b ty k z sl => eF 0x09 d a b 0 ty k z sl .dflt
  | .vfabs d a ty k z sl => eF 0x0A d a 0 0 ty k z sl .dflt
  | .vfneg d a ty k z sl => eF 0x0B d a 0 0 ty k z sl .dflt
  | .vfrcp d a ty k z sl => eF 0x0C d a 0 0 ty k z sl .dflt
  | .vfrsq d a ty k z sl => eF 0x0D d a 0 0 ty k z sl .dflt
  | .vfexp2 d a ty k z sl => eF 0x0E d a 0 0 ty k z sl .dflt
  | .vflog2 d a ty k z sl => eF 0x0F d a 0 0 ty k z sl .dflt
  | .vfround d a ty k z sl rnd => eF 0x10 d a 0 0 ty k z sl rnd
  | .vfcvt d a ty ty2 k z sl rnd satc =>
      some (rrr 0x50 0x11 d a 0 0 ty.code k (mFp satc.code ty2.code z sl rnd.code))
  | .vfcvti d a ty ty2 k z sl rnd =>
      some (rrr 0x50 0x12 d a 0 0 ty.code k (mFp 0 ty2.code z sl rnd.code))
  | .vicvtf d a ty ty2 k z sl rnd =>
      some (rrr 0x50 0x13 d a 0 0 ty.code k (mFp 0 ty2.code z sl rnd.code))
  | .vfcmpeq d a b ty k z sl => eF 0x18 (wide3 d) a b 0 ty k z sl .dflt
  | .vfcmplt d a b ty k z sl => eF 0x19 (wide3 d) a b 0 ty k z sl .dflt
  | .vfcmple d a b ty k z sl => eF 0x1A (wide3 d) a b 0 ty k z sl .dflt
  | .vfcmpun d a b ty k z sl => eF 0x1B (wide3 d) a b 0 ty k z sl .dflt
  | .vsplat d a ty k z => eV 0x60 0x00 d a 0 0 ty k z
  | .vextr d a src ty => some (rrr 0x60 0x01 d a src.field 0 ty.code 0 (mSrc src false))
  | .vinsr d a src ty => some (rrr 0x60 0x02 d a src.field 0 ty.code 0 (mSrc src false))
  | .vperm d a b ty k z => eV 0x60 0x03 d a b 0 ty k z
  | .vperm2 d a b c ty k z => eV 0x60 0x04 d a b c ty k z
  | .vrot d a src ty k z => some (rrr 0x60 0x05 d a src.field 0 ty.code k (mSrc src z))
  | .vcompr d a ty k z => eV 0x60 0x06 d a 0 0 ty k z
  | .vexpnd d a ty k z => eV 0x60 0x07 d a 0 0 ty k z
  | .viota d ty k => eV 0x60 0x08 d 0 0 0 ty k false
  | .vredadd d a ty k => eV 0x60 0x09 d a 0 0 ty k false
  | .vredmin d a ty k => eV 0x60 0x0A d a 0 0 ty k false
  | .vredmax d a ty k => eV 0x60 0x0B d a 0 0 ty k false
  | .vfredadd d a ty k => eV 0x60 0x0C d a 0 0 ty k false
  | .vfredmax d a ty k => eV 0x60 0x0D d a 0 0 ty k false
  | .vfredmin d a ty k => eV 0x60 0x0E d a 0 0 ty k false
  | .kand d a b => eK 0x10 (wide3 d) (wide3 a) (wide3 b)
  | .kor d a b => eK 0x11 (wide3 d) (wide3 a) (wide3 b)
  | .kxor d a b => eK 0x12 (wide3 d) (wide3 a) (wide3 b)
  | .knot d a => eK 0x13 (wide3 d) (wide3 a) 0
  | .kpop d a => eK 0x14 d (wide3 a) 0
  | .kfirst d a => eK 0x15 d (wide3 a) 0
  | .kmov d a => eK 0x16 (wide3 d) a 0
  | .kmovg d a => eK 0x17 d (wide3 a) 0
  | .ldw d base seg off v => eSync 0 d base seg off v
  | .ldc d base seg off v => eSync 1 d base seg off v
  | .stf d base seg off v => eSync 2 d base seg off v
  | .ste d base seg off v => eSync 3 d base seg off v
  | .feset d base seg off v => eSync 4 d base seg off v
  | .feget d base seg off v => eSync 5 d base seg off v
  | .waitv d base seg off v => eSync 6 d base seg off v
  | .aadd d base seg off dbl => eAtom 0x0 d base seg off dbl
  | .aand d base seg off dbl => eAtom 0x1 d base seg off dbl
  | .aor d base seg off dbl => eAtom 0x2 d base seg off dbl
  | .axor d base seg off dbl => eAtom 0x3 d base seg off dbl
  | .amin d base seg off dbl => eAtom 0x4 d base seg off dbl
  | .amax d base seg off dbl => eAtom 0x5 d base seg off dbl
  | .aminn d base seg off dbl => eAtom 0x6 d base seg off dbl
  | .amaxn d base seg off dbl => eAtom 0x7 d base seg off dbl
  | .aswp d base seg off dbl => eAtom 0x8 d base seg off dbl
  | .acas d base new seg off dbl => eAtom 0x9 d base seg (new ++ off) dbl
  | .afadd d base seg off dbl => eAtom 0xA d base seg off dbl
  | .gld g => some (gfmt 0x00 g)
  | .gst g => some (gfmt 0x01 g)
  | .gadd g => some (gfmt 0x02 g)
  | .gfadd g => some (gfmt 0x03 g)
  | .gldw g => some (gfmt 0x04 g)
  | .fence scope eng => some (sfmt 0x78 0x00 0 0 0 (0#18 ++ BitVec.ofBool eng ++ 0#5 ++ scope.code))
  | .ifence => some (sfmt 0x78 0x01 0 0 0 0)
  | .split axis pt rule => some (sfmt 0x80 0x00 0 0 (pt.getD 0) (immSplit axis pt.isSome rule))
  | .prune => some (sfmt 0x80 0x01 0 0 0 0)
  | .leaf => some (sfmt 0x80 0x02 0 0 0 0)
  | .defer => some (sfmt 0x80 0x03 0 0 0 0)
  | .jdone src => some (sfmt 0x80 0x04 0 (src.getD 0) 0 (0#26 ++ BitVec.ofBool src.isSome))
  | .stamp a b => some (sfmt 0x80 0x05 0 a b 0)
  | .boxrd d up => some (sfmt 0x80 0x06 d 0 0 (0#21 ++ up))
  | .budrd d sel => some (sfmt 0x80 0x07 d 0 0 (0#24 ++ sel))
  | .launch d a seg => some (sfmt 0x80 0x08 d a 0 (0#24 ++ seg))
  | .rgnq d a sel => some (sfmt 0x80 0x09 d a 0 (0#24 ++ sel))
  | .send d a b narrow count =>
      some (sfmt 0x81 0x00 d a b (0#22 ++ BitVec.ofBool narrow ++ count))
  | .sendr a reg slot prev =>
      some (sfmt 0x81 0x01 0 a 0 (0#13 ++ reg ++ slot ++ BitVec.ofBool prev))
  | .chset d a bits => some (sfmt 0x81 0x02 d a 0 (0#23 ++ bits))
  | .chget d a => some (sfmt 0x81 0x03 d a 0 0)
  | .migrate d a b => some (sfmt 0x81 0x04 d a b 0)
  | .syscall d a count svc => some (sfmt 0x81 0x05 d a 0 (0#7 ++ count ++ svc))
  | .mma tile a lat edge aux rel bnd rank skip =>
      some (efmt 0x90 0x00 tile a (edge.getD 0) (aux.getD 0) lat
        (0#12 ++ BitVec.ofBool skip ++ BitVec.ofBool rank ++ BitVec.ofBool aux.isSome ++
          BitVec.ofBool bnd ++ BitVec.ofBool edge.isSome ++ BitVec.ofBool rel))
  | .bload lat m => some (efmt 0x90 0x01 0 m.a 0 0 lat (flgMem m 0))
  | .brot lat dl => some (efmt 0x90 0x02 0 0 0 0 lat (0#17 ++ BitVec.ofBool dl))
  | .brel lat => some (efmt 0x90 0x03 0 0 0 0 lat 0)
  | .mcommit a => some (efmt 0x90 0x04 0 a 0 0 false 0)
  | .mwait n => some (efmt 0x90 0x05 0 0 0 0 false (0#15 ++ n))
  | .mzero tile => some (efmt 0x90 0x06 tile 0 0 0 false 0)
  | .mfill tile m => some (efmt 0x90 0x07 tile m.a 0 0 false (flgMem m 0))
  | .mdrain tile m => some (efmt 0x90 0x08 tile m.a 0 0 false (flgMem m 0))
  | .qrow b c m => some (efmt 0x90 0x0A 0 m.a b c false (flgMem m 0))
  | .rlset tile log2k col i32 =>
      some (efmt 0xA0 0x00 tile 0 0 0 false (0#13 ++ BitVec.ofBool i32 ++ BitVec.ofBool col ++ log2k))
  | .rlins tile a b list k => some (efmt 0xA0 0x01 tile a b 0 false (0#9 ++ list ++ k))
  | .rlmergeTile tile src => some (efmt 0xA0 0x02 tile 0 0 0 false (src ++ 0#10))
  | .rlmergeImage tile m => some (efmt 0xA0 0x02 tile m.a 0 0 false (flgMem m 1))
  | .rlthr a tile list => some (efmt 0xA0 0x03 tile a 0 0 false (0#12 ++ list))
  | .rldrain tile m => some (efmt 0xA0 0x04 tile m.a 0 0 false (flgMem m 0))
  | .rlclr tile => some (efmt 0xA0 0x05 tile 0 0 0 false 0)
  | .copy f => eCopy 0x00 f
  | .copy2 f => eCopy 0x01 f
  | .cwait ch => some (efmt 0xA8 0x02 0 0 0 0 false (0#15 ++ 0#1 ++ ch))
  | .cwaitPtr ch a => some (efmt 0xA8 0x02 0 a 0 0 false (0#15 ++ 1#1 ++ ch))
  | .barinit b m => some (efmt 0xA8 0x03 0 m.a b 0 false (flgMem m 0))
  | .bararr c m => some (efmt 0xA8 0x04 0 m.a 0 c false (flgMem m 0))
  | .bararrCount b c out m =>
      some (efmt 0xA8 0x04 0 m.a b c false (flgMem m (0#1 ++ 1#1 ++ BitVec.ofBool out)))
  | .barwait b m => some (efmt 0xA8 0x05 0 m.a b 0 false (flgMem m 0))
  | .cvtn d a ty ty2 k rnd satc =>
      some (rrr 0xB0 0x00 d a 0 0 ty.code k (mFp satc.code ty2.code false false rnd.code))
  | .cvtw d a ty ty2 k rnd satc =>
      some (rrr 0xB0 0x01 d a 0 0 ty.code k (mFp satc.code ty2.code false false rnd.code))
  | .qmx d a ty ty2 => some (rrr 0xB0 0x02 d a 0 0 ty.code 0 (mFp 0 ty2.code false false 0))
  | .dqmx d a ty ty2 rnd satc =>
      some (rrr 0xB0 0x03 d a 0 0 ty.code 0 (mFp satc.code ty2.code false false rnd.code))
  | .plane d a ty => some (rrr 0xB0 0x04 d a 0 0 ty.code 0 0)
  | .unplane d a ty => some (rrr 0xB0 0x05 d a 0 0 ty.code 0 0)
  | .srd d idx b => some (sfmt 0xC0 0x00 d 0 b (0#15 ++ idx))
  | .swr idx a b => some (sfmt 0xC0 0x01 0 a b (0#15 ++ idx))
  | .statusWrite a => some (sfmt 0xC0 0x01 0 a 0 (0#15 ++ 0x000#12))
  | .partitionWrite a b => some (sfmt 0xC0 0x01 0 a b (0#15 ++ 0x103#12))
  | .atollWrite a => some (sfmt 0xC0 0x01 0 a 0 (0#15 ++ 0x00F#12))
  | .channelEntryWrite a b => some (sfmt 0xC0 0x01 0 a b (0#15 ++ 0x104#12))
  | .scrub a b => some (sfmt 0xC0 0x01 0 a b (0#15 ++ 0x10A#12))
  | .errlogClear a b => some (sfmt 0xC0 0x01 0 a b (0#15 ++ 0x10B#12))
  | .thrd d a item => some (sfmt 0xC0 0x02 d a 0 (0#15 ++ item))
  | .thwr d a b item => some (sfmt 0xC0 0x03 d a b (0#15 ++ item))
  | .discardQueueImage d a b => some (sfmt 0xC0 0x03 d a b (0#15 ++ 0x190#12))
  | .debugHold d a b => some (sfmt 0xC0 0x03 d a b (0#15 ++ 0x191#12))
  | .thres d a => some (sfmt 0xC0 0x04 d a 0 0)
  | .thkill d a => some (sfmt 0xC0 0x05 d a 0 0)
  | .spill d a => some (sfmt 0xC0 0x06 d a 0 0)
  | .reghold d a finish nowait =>
      some (sfmt 0xC0 0x07 d a 0 (0#25 ++ BitVec.ofBool nowait ++ BitVec.ofBool finish))
  | .regrel d a => some (sfmt 0xC0 0x08 d a 0 0)
  | .rcbrd d a => some (sfmt 0xC0 0x09 d a 0 0)
  | .capq d a sel => some (sfmt 0xC0 0x0A d a 0 (0#24 ++ sel))
  | .brk imm => some (sfmt 0xC0 0x0B 0 0 0 imm)
  | .wakep a b => some (sfmt 0xC0 0x0C 0 a b 0)
  | .tlbinv a b scope => some (sfmt 0xC0 0x0D 0 a b (0#25 ++ scope))
  | .threadRetire | .pauseExpiry | .decisionTakesEffect | .unitMigration
  | .messageArrival | .bufferedMessageStart | .pageWake | .trapMessage
  | .migrationArrival | .forwardedReply | .forwardingEntryExpiry | .depositLanding
  | .accessAcknowledgement | .relaxedCompletion | .relaxedErrorResponse
  | .bankAccess | .refusalRetry | .becomeOldest | .dispatch | .evaluate
  | .leafDispatch | .joinDispatch | .regionCompletion | .cycleBudgetExhausted
  | .engineOpStart | .engineOpComplete | .brotArrival | .enginePageFault
  | .engineFailure | .copyLine | .copyComplete | .copyCancel | .pageFault
  | .mmuRewalk | .tlbinvComplete | .collapse | .collapseAck | .uncorrectableError
  | .hold | .spillWrite | .contextRestore | .throttleEvent | .powerLimitWrite
  | .inboundDoorbell | .mbxtgtWrite | .outboundDoorbell | .devstatWrite | .hostirq
  | .msixUnmask | .hostBar2Access | .hostConfigRequest | .functionLevelReset
  | .fmsend | .fabricMessageArrival | .fmdropClear | .peerAccessArrival
  | .fabricTimeout | .mgmtTransmit | .mgmtReceive | .powerOnReset | .notAnInstruction
  | .syscallReply | .pageMigration | .straitWithdrawal | .hostBlockAccess
  | .linkUpChange | .bootFabricStore => none

end Sys2Proof
end

