-- ==== Sys2Proof/Machine/State.lean ====
section
/-! DEFINITION. The state of the device, as plain data: every register, queue, table and memory that
the manual names, and the few fields of the model's own. -/

namespace Sys2Proof.Machine

/-! ## Stops of the model -/

/-- The faults of the model. -/
inductive Fault where
  /-- Raised by the meaning of an instruction when State's `cur` names no live thread. No step of the
  machine raises it: `step` issues only for live threads. Safe. -/
  | noThread
  deriving DecidableEq, Repr

/-- The refusals of the model. -/
inductive Refusal where
  /-- Raised by `exec` for an instruction that has no meaning yet, by its mnemonic. Safe. -/
  | notModelled (mnemonic : String)
  deriving DecidableEq, Repr

/-- A finite table: pairs of a key and a value, keys rising. An absent key stands for a default. -/
abbrev Tab (α : Type) := List (Nat × α)

/-! ## One thread -/

/-- Presence of a register (R6, R7). -/
inductive Presence where
  | present | awaiting | opened
  deriving DecidableEq, Repr

/-- One register entry of a window: contents, presence (R6), poison (R292). -/
structure RegEntry where
  val : Reg
  pres : Presence
  poison : Bool
  deriving DecidableEq, Repr

/-- The class of a channel and of the threads it starts (R70). -/
inductive Cls where
  | leaf | rule | join | message | trap | wake | migration
  deriving DecidableEq, Repr

/-- The states of a slot that holds a thread (R67, R313); a slot without one is FREE. -/
inductive SlotState where
  | ready | parked | held | spilled | trapped | migrating
  deriving DecidableEq, Repr

/-- What a trap records (R22, R23): cause, %tinfo, and the SEG, WR and MISS fields of %tcause. -/
structure TrapInfo where
  code : BitVec 8
  info : Word
  seg : SegReg
  wr : Bool
  miss : BitVec 6
  /-- The instruction that traps, where it is not the one at the program counter: a relaxed gather (R191). -/
  pc : Option Word := none
  deriving DecidableEq, Repr

/-- The atomic operations (R185), barrier updates apart. -/
inductive AtomOp where
  | add | and | or | xor | min | max | minn | maxn | swp | cas | fadd
  deriving DecidableEq, Repr

/-- What an access does in its one step at a bank (R152, R164). `v` marks the 64-byte forms. -/
inductive Form where
  /-- LD, LDS and GLD elements: bytes, sign extension. -/
  | load (n : Nat) (sgn : Bool)
  /-- ST and GST elements: bytes, data. -/
  | store (n : Nat) (x : Reg)
  | ldw (v : Bool)
  | ldc (v : Bool)
  | stf (v : Bool) (x : Reg)
  | ste (v : Bool) (x : Reg)
  | feset (v : Bool) (x : Reg)
  | feget (v : Bool)
  | waitv (v : Bool) (x : Reg)
  /-- Atomics, GADD and GFADD elements: operation, bytes, operand, new value of ACAS. -/
  | atom (op : AtomOp) (n : Nat) (x new : Word)
  /-- BARINIT with its EXP (R264). -/
  | barinit (exp : BitVec 20)
  /-- BARARR: the transfers it announces, on OUT or IN (R265). -/
  | bararr (out : Bool) (n : BitVec 32)
  /-- BARWAIT with the generation it compares (R266). -/
  | barwait (gen : BitVec 4)
  /-- A copy's countdown of IN or OUT (R242, R245). -/
  | barcount (out : Bool)
  deriving DecidableEq, Repr

/-- Who made an access (R163). -/
inductive Agent where
  | thread
  | copy (core : Nat) (ch : Nat)
  | completion (region : Nat)
  /-- The commit buffer of the access's thread, when it writes out a line to the peer window. -/
  | buffer
  deriving DecidableEq, Repr

/-- Where an access stands (R55, R57, R154, R158, R282, R288). -/
inductive Stage where
  | inFlight
  | atMmu
  | collapsing
  /-- Held at the MMU until a thread's TLBINV completes (R281). -/
  | invalidating (by' : Ident)
  | skerry
  | refused (retryAt : Nat)
  /-- Combined into another atomic to its word, which answers it (R159, R172). -/
  | riding
  | done (v : Reg)
  /-- Answered POISON, REVOKED or WITHDRAWN: the cause code of R23. -/
  | failed (code : BitVec 8)
  deriving DecidableEq, Repr

/-- A gather element's place: its index and width in bits, the offset of the gather's instruction, and what its destination
held before the issue (R191). -/
structure Lane where
  i : Nat
  w : Nat
  pc : Word
  old : RegEntry
  deriving DecidableEq, Repr

/-- An access that has been issued and has not completed. -/
structure Access where
  /-- Serial number of the access, in issue order. -/
  n : Nat
  /-- The access itself, or the gather it belongs to: the number of its first element. -/
  group : Nat
  agent : Agent
  /-- The thread that issued it, by its present identity. -/
  t : Ident
  /-- The identity to which the reply travels: the identity at issue (R303). -/
  home : Ident
  rel : Bool
  form : Form
  seg : SegReg
  /-- The segment carries the P right (R148). -/
  pRight : Bool
  off : Word
  dva : Word
  /-- Fault domain whose page tables translate the address. -/
  domain : BitVec 32
  /-- The memory key it translates to, once translated. -/
  key : Option Nat
  /-- Destination register. -/
  d : Option RegNum
  /-- For a gather element. -/
  lane : Option Lane
  stage : Stage
  refusals : Nat
  /-- Cycle of its issue (R188, R340). -/
  issued : Nat
  /-- A stamped leaf issued it through a segment with the T right (R93). -/
  tSeg : Bool
  /-- Atomics combined into this one, in their order, each with its operand (R159, R172). -/
  riders : List (Nat × Word)
  deriving DecidableEq, Repr

/-- A decision of a rule routine (R84, R126). -/
inductive Decision where
  | split (axis : BitVec 3) (pt : Option Word) (rule : Option (BitVec 4))
  | prune | leaf | defer
  deriving DecidableEq, Repr

/-- What a parked thread waits for (R67). A wait after which the same instruction issues again keeps
the program counter at it. -/
inductive Wait where
  | none
  /-- An absent register (R7). -/
  | reg (r : RegNum)
  /-- An ordinary access in flight, a Skerry or a refusal; its completion completes the instruction.
  `res` gathers the destination's lanes. -/
  | access (d : Option RegNum) (res : Reg)
  /-- The limit of eight relaxed accesses (R56). -/
  | relaxed8
  /-- Outstanding relaxed accesses to shared words (R56): the word numbers. -/
  | sameWord (ws : List Nat)
  /-- A missing page, kinds 0 and 3 (R282). -/
  | page
  /-- A missing page of removed engine operations, kind 1 (R224). -/
  | enginePage
  | pause (stop : Nat)
  | endDrain
  | decision (d : Decision)
  /-- A full engine queue (R221). -/
  | queueFull
  /-- Room in the engine queue for its queue image (R221, R227). -/
  | queueRoom
  /-- Sixteen uncompleted operations of the open batch (R222). -/
  | batchFull
  /-- Eight outstanding batches (R222). -/
  | commitFull
  | mwait (n : Nat)
  /-- Every queued operation on the slots (R221): slots, own thread only. -/
  | slotOps (slots : List Nat) (own : Bool)
  | copyFull (ch : Nat)
  | cwait (ch : Nat) (ptr : Option Nat)
  | fence (scope : Scope) (eng : Bool)
  | ifence
  /-- SEND awaiting acceptance: the message's number and the status register (R136). -/
  | send (msg : Nat) (d : RegNum)
  /-- A full deposit link, or a sub-ring about to change (R77, R217). -/
  | link (prev : Bool)
  /-- A stamped leaf that is not the oldest (R95). -/
  | oldest
  | launchLimit
  /-- MIGRATE's drain (R139). -/
  | migrate
  /-- The drain of a move for an absent unit, by its bit in %cap (R304). -/
  | unit (bit : Nat)
  /-- Another thread's accesses (R312). -/
  | target (t : Ident)
  /-- Another thread's end (R316). -/
  | kill (t : Ident)
  /-- Another thread, whose context cannot be written yet (R296, R317). -/
  | spill (t : Ident)
  /-- Another thread's context image, which SPILL has begun to write, with its result register (R317). -/
  | spilling (t : Ident) (d : RegNum)
  /-- REGHOLD until the hold completes, with its status register (R318). -/
  | region (r : Nat) (d : RegNum)
  /-- TLBINV awaiting the accesses that old entries translated (R320). -/
  | tlbinv (lo len : Word) (scope : BitVec 2)
  /-- CHSET awaiting the target core's acknowledgement (R138): the message's number and the status register. -/
  | chset (msg : Nat) (d : RegNum)
  /-- A read of a page that is being collapsed (R288): the key. -/
  | collapse (key : Nat)
  /-- An access that a TLBINV under way covers (R281): the thread of the TLBINV. -/
  | inval (by' : Ident)
  /-- A target of THKILL that is being discarded (R316). -/
  | killed
  /-- A leaf that was rolled back: an ordinary store of its earlier run is still on its way (R94, R166). -/
  | rolledBack
  deriving DecidableEq, Repr

/-- An engine operation: its word and the operands it sampled at issue (R298). -/
structure EngineOp where
  n : Nat
  t : Ident
  domain : BitVec 32
  word : Word
  batch : BitVec 16
  idx : BitVec 4
  xs : Bool
  fmta : BitVec 8
  fmtb : BitVec 8
  fmtc : BitVec 8
  fill : Word
  addr1 : Word
  addr2 : Word
  addr3 : Word
  mE : Nat
  nE : Nat
  kE : Nat
  scA : Word
  scB : Word
  base : BitVec 32
  u : BitVec 32
  mask : BitVec 16
  rows : Nat
  va : Reg
  vb : Reg
  /-- Absolute tile slot named, and the source slot of RLMERGE. -/
  slot : Nat
  slot2 : Nat
  /-- Every tile slot that it reads or writes. -/
  slots : List Nat
  /-- The configuration word that RLMERGE read at issue (R258). -/
  cfg : Word
  /-- Translations taken at its start: 128 KiB page of the DVA, key of the page's first byte. -/
  maps : List (Nat × Nat)
  started : Bool
  /-- Cycle at which a started operation may complete (R211). -/
  doneAt : Nat
  /-- Lines of memory that it has read so far, each by the key of its first byte (R164, R218). -/
  got : Tab (List Byte)
  /-- Lines of its result that it has written so far, by their numbers (R164). -/
  wrote : List Nat
  /-- Ranges of its operands that it reaches through a segment without the P right (R148). -/
  noP : List (Nat × Nat)
  /-- The cycle in which it started (R340), and why it is to fail, by a KIND of R226, where it has met that. -/
  since : Nat
  failing : Option Nat
  deriving DecidableEq, Repr

/-- A dispatched routine: what the unfolder hands to its thread (R100). -/
structure Dispatch where
  cls : Cls
  region : Nat
  domain : BitVec 32
  rcb : Word
  /-- Parent RCB address, which makes siblings (R65). -/
  parent : Word
  prio : Nat
  entry : Word
  /-- seg0: the kernel code descriptor (DESIGN CHOICE, log 7). -/
  code : BitVec 128
  g0 : Reg
  g1 : Reg
  /-- Pool allocation: scratch offset and bytes (R100). -/
  pool : Option (Nat × Nat)
  /-- Tile slots: first and number. -/
  tiles : Nat × Nat
  fmta : Word
  fmtb : Word
  fmtc : Word
  scla : Word
  sclb : Word
  deadline : Word
  stamp : Word
  /-- seg2 to seg7 of the launch record. -/
  segs : List (BitVec 128)
  /-- RCB of the outermost box split on a STAMPED axis, for a stamped leaf. -/
  stamped : Option Word
  /-- The channel's XS default, once the routine has started. -/
  xs : Bool
  deriving DecidableEq, Repr

/-- A copy in a channel's queue (R235). -/
structure CopyOp where
  n : Nat
  t : Ident
  domain : BitVec 32
  /-- Source and destination DVAs, and the bases and P rights of their segments (R148). -/
  src : Word
  dst : Word
  baseS : Word
  baseD : Word
  pS : Bool
  pD : Bool
  /-- Rows, row length and strides; COPY is one row. -/
  rows : Nat
  rowLen : Nat
  sStride : Word
  dStride : Word
  mode : CopyMode
  /-- Segments of source, destination and barrier. -/
  segS : SegReg
  segD : SegReg
  segK : SegReg
  /-- The barrier it counts down: its DVA, OUT rather than IN; the base and the P right of its segment (R148). -/
  bar : Option (Word × Bool)
  baseK : Word
  pK : Bool
  /-- The bounded form: %bound0 to %bound3 as sampled. -/
  bnd : Option (List Word)
  two : Bool
  fill : Word
  started : Bool
  landed : Nat
  /-- Bytes of the present line already read, lowest first, and in KEEP the full/empty bit of the word of each. -/
  buf : List Byte
  full : List Bool := []
  /-- The Skerry it stands on, if any. -/
  waitingOn : Option Nat
  deriving DecidableEq, Repr

/-- A buffered store of a stamped leaf (R93): its access number, memory key, DVA, bytes and data. -/
structure Buffered where
  n : Nat
  key : Nat
  dva : Word
  len : Nat
  data : Reg
  deriving DecidableEq, Repr

/-- A stamped leaf's speculation (R93 to R95). -/
structure Stamped where
  /-- RCB of the box split on the STAMPED axis. -/
  anc : Word
  cluster : Nat
  /-- Buffered stores in program order. -/
  stores : List Buffered
  /-- Word numbers of the read set. -/
  reads : List Nat
  /-- Leaves whose buffered stores it has loaded. -/
  fwd : List Ident
  direct : Bool
  /-- Its buffer's write-out has begun: it is the oldest, and is rolled back no more (R95). -/
  committing : Bool
  deriving DecidableEq, Repr

/-- The special registers of a thread that it holds itself (R19); the others are computed. -/
structure Specials where
  status : Word
  tcause : Word
  tinfo : Word
  tepc : Word
  febudget : Word
  fill : Word
  bounds : List Word
  cwp : List Word
  estat : Word
  fmta : Word
  fmtb : Word
  fmtc : Word
  scla : Word
  sclb : Word
  tileb : Word
  deadline : Word
  stamp : Word
  region : Word
  domain : Word
  deriving DecidableEq, Repr

/-- What a THKILL under way has found of its target, and puts back where a trap leaves the THKILL without effect
(R57, R316): the killer, the target's state and wait, and its unstarted copies by channel. -/
structure Killed where
  by' : Ident
  state : SlotState
  wait : Wait
  copies : List (Nat × CopyOp)
  deriving DecidableEq, Repr

/-- One thread (R4), with what the device keeps for its slot. -/
structure Thread where
  id : Ident
  state : SlotState
  wait : Wait
  /-- Held by THWR item 0x191, or its like (R313). -/
  dbg : Bool
  /-- Held because its region is. -/
  regionHeld : Bool
  /-- Traps to be taken at the next instruction boundaries, or at release, one after the other (R57, R67, R225). -/
  pending : List TrapInfo
  cls : Cls
  prio : Nat
  /-- RCB address; 0 for a thread started by a message (R276). -/
  rcb : Word
  /-- Parent RCB address; 0 for none (R65). -/
  parent : Word
  /-- Window base in the register file (R5); the size is the number of entries. -/
  wbase : Nat
  regs : List RegEntry
  /-- k1 to k7. -/
  masks : List Word
  segs : List (BitVec 128)
  pc : Word
  sp : Specials
  /-- Next batch ID (R222). -/
  nextBatch : BitVec 16
  /-- Operations issued into the open batch. -/
  batchOps : Nat
  /-- Operations of the batch that a parked END or MIGRATE has closed; a trap taken there opens it again (R57). -/
  reopen : Nat
  /-- Run count of the turn a YIELD gives up (R49). -/
  yielded : Option Nat
  /-- Run count of the first own turn after its start: it issues from then on (R73). -/
  firstTurn : Nat
  /-- Serial number at its last IFENCE: it fetches no word cached before (R194). -/
  ifenced : Nat
  /-- It was started on channel 1 (R275). -/
  chan1 : Bool
  /-- Registers voided, with the cycle of the VOID (R77). -/
  voids : List (Nat × RegNum)
  /-- REGREL released it while SPILLED, and it may be restored elsewhere (R301). -/
  released : Bool
  pool : Option (Nat × Nat)
  tiles : Nat × Nat
  /-- Base and stride set by STAMP (R130). -/
  stampArg : Option (Word × Word)
  /-- Queue image (R224, R227). -/
  image : List EngineOp
  /-- The queue image waits for room in the engine queue alone (R221, R227). -/
  roomWait : Bool
  /-- A THKILL of it is under way (R316). -/
  killed : Option Killed
  spec : Option Stamped
  disp : Option Dispatch
  /-- Address of its context image while SPILLED (R317), and the latches saved there, each with the serial number of
  its fill and whether the thread's own BLOAD made it (R228). -/
  ctx : Word
  saved : List (Bool × Nat × Bool)
  deriving DecidableEq, Repr

/-! ## Messages -/

/-- What a message carries (R73). -/
inductive MsgBody where
  /-- SEND: payload, sender's XS for a narrow payload. -/
  | user (regs : List Reg) (xs : Option Bool)
  /-- SYSCALL: payload, service number, the caller and its region (R140). -/
  | request (regs : List Reg) (svc : BitVec 16) (caller : Ident) (region : Nat)
  /-- A message of the device itself: one register (R73). -/
  | device (g0 : Reg)
  /-- A trap message (R276). -/
  | trap (g0 : Reg)
  /-- A page wake (R71). -/
  | wake (slot : Nat)
  /-- A routine dispatched by an unfolder (R72). -/
  | routine (d : Dispatch)
  /-- CHSET's new word for an entry of the target core (R138). -/
  | chset (v : Word)
  /-- A migrating context: its status register, if any, and its deadline (R139, R304). -/
  | context (t : Thread) (d : Option RegNum) (deadline : Word)
  deriving DecidableEq, Repr

/-- A message in the mesh or in an inbound buffer. -/
structure Msg where
  n : Nat
  core : CoreId
  chan : BitVec 5
  /-- Sender's identity; messages of one sender to one channel keep their order (R136). -/
  src : Option Ident
  /-- Fault domain the message carries (R136). -/
  domain : BitVec 32
  /-- In the inbound buffer: takes one of the four kept entries (R75). -/
  kept : Bool
  body : MsgBody
  deriving DecidableEq, Repr

/-- A deposit on a link (R77). -/
structure Deposit where
  slot : BitVec 6
  reg : RegNum
  val : Reg
  deriving DecidableEq, Repr

/-! ## One core -/

/-- The declared state of a tile slot (R214, R229). -/
inductive SlotKind where
  | plain
  /-- Ranked: log2 k, column orientation, i32 values. -/
  | ranked (log2k : Nat) (col i32 : Bool)
  /-- The second slot of a k = 64 pair. -/
  | second
  deriving DecidableEq, Repr

/-- A ranked header (R229): one length per list, NaN count, skip count, and its poison (R292). -/
structure RankHdr where
  lens : List Nat
  nans : Nat
  skips : Nat
  deriving DecidableEq, Repr

/-- A tile slot that is not in its reset condition. Its data are pool bytes from offset S. -/
structure TileSlot where
  /-- What an issue tests (R214). -/
  declared : SlotKind
  /-- What the queued operations performed so far have made of it. -/
  kind : SlotKind
  hdr : RankHdr
  poison : Bool
  deriving DecidableEq, Repr

/-- A B latch (R215, R228). Its 8,192 bytes stand in memory under keys of their own. -/
structure Latch where
  full : Bool
  poison : Bool
  /-- Serial number of the fill, and the thread whose BLOAD made it. -/
  fillNo : Nat
  filler : Option Ident
  deriving DecidableEq, Repr

/-- A channel table entry without QCNT (R70). -/
structure Chan where
  npay : Nat
  prio : Nat
  cls : Cls
  xsd : Bool
  ready : Bool
  hold : Bool
  win : Nat
  entry : BitVec 32
  deriving DecidableEq, Repr

/-- One core. -/
structure Core where
  /-- ACC of the partition word (R142). -/
  acc : Nat
  chans : List Chan
  inbuf : List Msg
  next : List Deposit
  prev : List Deposit
  dropNext : Nat
  dropPrev : Nat
  engq : List EngineOp
  latch0 : Latch
  latch1 : Latch
  tiles : Tab TileSlot
  copyq : List (List CopyOp)
  /-- Cached instruction words: memory key, word, and the serial number when it was brought in (R14). -/
  icache : List (Nat × Word × Nat)
  /-- What IFENCEs have dropped from the instruction cache: a thread that has not executed its own since may still
  fetch it (R14, R194). -/
  stale : List (Nat × Word × Nat)
  /-- Run count of each slot's last issue (R64, R65). -/
  issued : Tab Nat
  deriving DecidableEq, Repr

/-! ## Regions -/

/-- How a region is held (R300, R318). -/
inductive RegionHold where
  | free | hold | finish
  deriving DecidableEq, Repr

/-- Which unfolder holds a box (R87). -/
inductive Holder where
  | device | die (d : Nat) | cluster (c : Nat)
  deriving DecidableEq, Repr

/-- What the unfolders keep of a box beside its RCB in memory. -/
structure BoxNote where
  addr : Word
  /-- Its parent's address; 0 for the root. -/
  parent : Word
  holder : Holder
  /-- The cluster a STAMPED split confines it to (R88). -/
  pinned : Option Nat
  /-- Outermost ancestor split on a STAMPED axis (R93). -/
  stamped : Option Word
  /-- The axis on which it has been split (R92). -/
  axis : Option Nat
  /-- It has reached a terminal state (R98). -/
  ended : Bool
  deriving DecidableEq, Repr

/-- A live region. -/
structure Region where
  id : Nat
  domain : BitVec 32
  record : Word
  ruleTab : Word
  rules : List (BitVec 512)
  root : Word
  prio : Nat
  arenaBase : Word
  arenaLen : Word
  arenaNext : Word
  budget : Word
  count : Nat
  /-- Cycle and thread of each instruction counted in the last 64 cycles, latest first (R132). -/
  recent : List (Nat × Ident)
  /-- The count has reached the budget (R104). -/
  spent : Bool
  expired : Nat
  faulted : Nat
  complWord : Word
  fmta : BitVec 8
  fmtb : BitVec 8
  fmtc : BitVec 8
  scla : Word
  sclb : Word
  /-- seg0 of its routines: the kernel code descriptor (DESIGN CHOICE, log 7). -/
  code : BitVec 128
  segs : List (BitVec 128)
  boxes : List BoxNote
  hold : RegionHold
  /-- The completion store has been sent to its bank and waits there (R106). -/
  completing : Bool
  deriving DecidableEq, Repr

/-! ## Translation -/

/-- What of an RCB the device still has to write, because the RCB's page is missing (R96). -/
inductive OwedWrite where
  | flag (bit : Nat)
  | state (v : Nat)
  /-- One state in place of another, where the RCB is in that (R98). -/
  | turn (a b : Nat)
  deriving DecidableEq, Repr

/-- A write into an RCB that waits for the RCB's page (R96). -/
structure Owed where
  region : Nat
  domain : BitVec 32
  rcb : Word
  what : OwedWrite
  deriving DecidableEq, Repr

/-- A cached translation of a cluster MMU (R281): root, page number, page bits, leaf entry. -/
structure TlbEntry where
  cluster : Nat
  root : Word
  page : Nat
  bits : Nat
  entry : Word
  /-- Where the entry stands in its table. -/
  pte : Nat
  deriving DecidableEq, Repr

/-- Whose translation waits at an MMU: each is a requester of its own (R163, R282). -/
inductive Requester where
  | copy (core : Nat) (ch : Nat)
  | unfolder (h : Holder)
  /-- The commit buffer of a leaf. -/
  | buffer (t : Ident)
  | completion
  | spill
  deriving DecidableEq, Repr

/-- A translation that waits at an MMU for a page and has no Access record (R282). -/
structure MmuWait where
  cluster : Nat
  domain : BitVec 32
  dva : Word
  who : Requester
  /-- Region that the requester serves; 0 for a copy channel. -/
  region : Nat
  deriving DecidableEq, Repr

/-- A copy channel waits, and not an agent that is no thread's (R283). -/
def MmuWait.isCopy (w : MmuWait) : Bool :=
  match w.who with
  | .copy _ _ => true
  | _ => false

/-- A read-duplicated page (R287, R288). -/
structure Dup where
  /-- First physical address of the home frame, and the page's size in bits. -/
  home : Nat
  bits : Nat
  /-- Copy frames by die. -/
  copies : List (Nat × Nat)
  /-- During a collapse: dies that have not acknowledged. -/
  collapsing : Option (List Nat)
  /-- Where the leaf entry stands. -/
  pteKey : Nat
  deriving DecidableEq, Repr

/-! ## The system registers and the base die -/

/-- A column's throttle state (R306, R309, R333). -/
structure Column where
  word : Word
  /-- Cycles swallowed since reset. -/
  swallowed : Nat
  changes : Nat
  /-- Number of the throttle message last sent. -/
  event : Option Nat
  deriving DecidableEq, Repr

/-- The unit map (R305, R309): differences from a full part. -/
structure UnitMap where
  /-- Words of cores that differ: [8] present, [7:0] capability. -/
  cores : Tab (BitVec 9)
  /-- Straits, 64 × die + Strait: [0] present, [1] retired, [2] withdrawn. -/
  straits : Tab (BitVec 3)
  noChannels : List Nat
  noPorts : List Nat
  deriving DecidableEq, Repr

/-- The system registers (R309) that no other table holds. -/
structure Sys where
  units : UnitMap
  columns : Tab Column
  pagesvc : Word
  syscall : Word
  shares : List Word
  spillBase : Word
  spillLimit : Word
  /-- The domain table: four words an entry (R311). -/
  domains : Tab (List Word)
  errlog : List Word
  /-- %atoll of each cluster, 64 the system cluster: in effect, and written but waiting (R217). -/
  atoll : Tab (BitVec 2)
  atollNext : Tab (BitVec 2)
  deriving DecidableEq, Repr

/-- An MSI-X table entry (R335): address words, data, vector control. -/
structure MsixEntry where
  addr : Word
  data : Word
  /-- The host has written the address. -/
  written : Bool
  deriving DecidableEq, Repr

/-- What a host request accesses: device memory through an aperture, the host block, INDB, or a vector's mask (R335
to R338). -/
inductive HostKind where
  | memory
  | block
  | doorbell (v : Word)
  | unmask (v : Nat)
  deriving DecidableEq, Repr

/-- What is left of a host request (R335, R338): the lines still to access, each by its key, in the host block by its
offset, and bytes; the data still to write, or those read so far with whether a word was poisoned. -/
structure Bar2Req where
  write : Bool
  todo : List (Nat × Nat)
  data : List Byte
  ep : Bool
  kind : HostKind := .memory
  deriving DecidableEq, Repr

/-- A frame that the management port is receiving into its buffer or reading from it (R346): the descriptor's address,
the last word it is to have, the lines still to access, each by its address and bytes, and the bytes still to
write, or those read so far. -/
structure Frame where
  rx : Bool
  desc : Nat
  hi : Word
  todo : List (Nat × Nat)
  data : List Byte
  deriving DecidableEq, Repr

/-- The base-die registers (R331 to R346) but for the message buffers, which are memory. -/
structure Base where
  plimit : BitVec 12
  indb : Word
  inack : Word
  outdb : Word
  outack : Word
  mbxtgt : Word
  devstat : Word
  apbase : List Word
  msix : List MsixEntry
  msixPending : BitVec 32
  /-- The kept inbound doorbell (R337). -/
  kept : Option Word
  myid : BitVec 20
  fmtgt : Word
  fmdrop : BitVec 32
  impbase : Word
  implen : Word
  /-- The base die's cache of import entries, by slot (R342). -/
  imports : Tab Word
  /-- Host requests, in device memory or in the host block, whose lines have not all been accessed, in the host's
  order (R179, R337, R338). -/
  bar2 : List Bar2Req
  ports : List (BitVec 5)
  route : Tab Word
  exports : Tab Word
  mgmt : List Word
  /-- Frames of the management port under way, at most one on each ring (R346). -/
  frames : List Frame
  /-- The port from which boot stores are accepted, and whether 0xF1 has come (R344). -/
  bootPort : Option (BitVec 5)
  bootDone : Bool
  deriving DecidableEq, Repr

/-- What configuration space says of the device (R334). -/
structure PciConfig where
  vendor : BitVec 16
  device : BitVec 16
  cls : BitVec 24
  /-- Bytes of BAR0 and BAR2; each is a 64-bit BAR, and prefetchable or not. -/
  bar0 : Nat
  bar0Is64 : Bool
  bar0Prefetch : Bool
  bar2 : Nat
  bar2Is64 : Bool
  bar2Prefetch : Bool
  /-- MSI-X vectors, and the offsets of table and pending bits in BAR0. -/
  vectors : Nat
  msixTable : Nat
  msixPending : Nat
  maxPayload : Nat
  maxRead : Nat
  flitMode : Bool
  aer : Bool
  flr : Bool
  /-- Physical functions, and what the device does not have. -/
  functions : Nat
  sriov : Bool
  ats : Bool
  pri : Bool
  pasid : Bool
  msi : Bool
  intx : Bool
  /-- Whether it reads or writes host memory, MSI-X messages apart. -/
  hostMemory : Bool
  deriving DecidableEq, Repr

/-- What the device has sent to the outside. -/
inductive Out where
  | msix (vec : Nat)
  | hostData (data : List Byte) (ep : Bool)
  | unsupported
  | configRetry
  /-- A configuration request is answered (R334, R343). -/
  | configOk (c : PciConfig)
  | fabricMsg (dst : BitVec 20) (v : BitVec 512)
  /-- The answer to a peer's access: 0 and the data, or a cause of R23. -/
  | peerReply (dst : BitVec 20) (code : BitVec 8) (v : BitVec 512)
  | frame (data : List Byte)
  | bootAsk (port : Nat)
  deriving DecidableEq, Repr

/-- A forwarding entry of MIGRATE (R139, R303). -/
structure Forward where
  n : Nat
  old : Ident
  new : Ident
  regs : List RegNum
  stop : Nat
  deriving DecidableEq, Repr

/-- A context spilled because slots ran short; the thread is only its image (R67, R297). -/
structure SpilledCtx where
  addr : Word
  bytes : Nat
  /-- What the device keeps of the thread beside its image. -/
  keep : Thread
  deriving DecidableEq, Repr

/-- The writing of a context into the spill arena, or its reading from there, while it is under way (R296 to R299): the
lines are accessed one by one, and pass through a buffer of the spill engine. -/
structure CtxJob where
  /-- The thread that is written, or the slot in which one is being placed. -/
  t : Ident
  restore : Bool
  addr : Word
  /-- Lines in all, lines before the pool section, and lines done. -/
  lines : Nat
  head : Nat
  done : Nat
  /-- The pool line that comes next has been read, and is still to be written. -/
  read : Bool
  /-- A spill: the slot is kept (R67), and the latches that the image saves. -/
  keepSlot : Bool
  saved : List (Bool × Nat × Bool)
  /-- A restore: the identity under which the thread left. -/
  home : Ident
  deriving DecidableEq, Repr

/-- The model's agenda: what the outside does, and the orders chosen among steps that the manual
leaves unordered (DESIGN CHOICE, log 6). -/
inductive Agendum where
  /-- An event happens now. -/
  | event (e : Event)
  /-- The machine moves of itself. -/
  | turn
  /-- The machine moves of itself, and an ordinary access issued by the move stays in flight. -/
  | slowTurn
  /-- An instruction line is brought into a core's instruction cache (R14). -/
  | prefetch (core : CoreId) (key : Nat)
  /-- Base-die routers combine the second atomic in flight into the first (R159, R172). -/
  | combine (a b : Nat)
  /-- The base-die directory records a copy of a home frame: key, page bits, die, copy frame (R287). -/
  | duplicate (home bits die frame pteKey : Nat)
  /-- A cycle passes, whatever events are enabled (R167). -/
  | tick
  /-- The base die brings an import entry into its cache (R342). -/
  | cacheImport (slot : Nat)
  /-- A started engine operation reads or writes one of the lines of its memory operands that are left (R164). -/
  | engineLine (core : CoreId) (n pick : Nat)
  /-- The loader fixes the kernel code descriptor of a fault domain (DESIGN CHOICE, log 7). -/
  | kernel (domain : BitVec 32) (desc : BitVec 128)
  deriving DecidableEq, Repr

/-- The device. -/
structure State where
  cyc : Nat
  threads : Tab Thread
  cores : Tab Core
  mem : List Host.Cell
  /-- Word numbers whose full/empty bit is empty, rising (R151). -/
  empties : List Nat
  /-- Word numbers that are poisoned, rising (R291). -/
  poisoned : List Nat
  accs : List Access
  regions : Tab Region
  mesh : List Msg
  tlb : List TlbEntry
  mmuWaits : List MmuWait
  /-- Page-service requests kept while %pagesvc has EN = 0: g0 of each (R309). -/
  pageReqs : List Reg
  /-- Wakes on their way to the MMUs: cluster, DVA, for agents (R283). -/
  rewalks : List (Nat × Word × Bool)
  dups : List Dup
  forwards : List Forward
  spilled : List SpilledCtx
  /-- Allocations of the spill arena: DVA and bytes (R297). -/
  arena : List (Word × Nat)
  /-- Contexts that are being written or read. -/
  jobs : List CtxJob
  /-- Kernel code descriptors by fault domain (R4, DESIGN CHOICE, log 7). -/
  codeSeg : Tab (BitVec 128)
  sys : Sys
  base : Base
  /-- Next serial number. -/
  serial : Nat
  /-- Writes into RCBs that wait for a page (R96). -/
  owed : List Owed
  /-- Region last served at each level (R102). -/
  lastServed : List Nat
  /-- By level: for each of the last 255 dispatches made while it had a box to dispatch, latest first, whether
  it was of a lower level (R103). -/
  shareWindow : Tab (List Bool)
  out : List Out
  /-- MODEL'S OWN: the issuing thread and the word being executed. -/
  cur : Ident
  word : Word
  /-- MODEL'S OWN: an ordinary access of this issue stays in flight. -/
  slow : Bool
  /-- MODEL'S OWN: what the event being performed is about. -/
  ev : Option Event
  /-- MODEL'S OWN: issues still due in this cycle. -/
  due : List Ident
  agenda : List Agendum
  /-- MODEL'S OWN: counter of free values (DESIGN CHOICE, log 1). -/
  free : Nat
  deriving DecidableEq, Repr

/-! ## Reset -/

/-- A channel table entry at reset (R71, R72). -/
def Chan.reset (cls : Cls) : Chan :=
  { npay := 0, prio := 0, cls := cls, xsd := false, ready := false, hold := false, win := 0,
    entry := 0 }

/-- A B latch at reset (R215). -/
def Latch.reset : Latch := { full := false, poison := false, fillNo := 0, filler := none }

/-- A core at reset: the partition word is 4 on a compute core and 0 on a system core (R142). -/
def Core.reset (c : Nat) : Core :=
  { acc := if c < 0x400 then 4 else 0,
    chans := [Chan.reset .wake, Chan.reset .trap, Chan.reset .message, Chan.reset .migration] ++
      List.replicate 28 (Chan.reset .message),
    inbuf := [], next := [], prev := [], dropNext := 0, dropPrev := 0, engq := [],
    latch0 := Latch.reset, latch1 := Latch.reset, tiles := [], copyq := [[], [], [], []],
    icache := [], stale := [], issued := [] }

/-- The system registers at reset (R309, R217; DESIGN CHOICE, log 2 for those without a reset value). -/
def Sys.reset : Sys :=
  { units := { cores := [], straits := [], noChannels := [], noPorts := [] },
    columns := [], pagesvc := 0, syscall := 0, shares := List.replicate 24 0,
    spillBase := 0, spillLimit := 0, domains := [], errlog := List.replicate 256 0,
    atoll := [], atollNext := [] }

/-- The base-die registers at reset (R332, R335, R339; DESIGN CHOICE, log 2 for the management block). -/
def Base.reset : Base :=
  { plimit := 2800, indb := 0, inack := 0, outdb := 0, outack := 0, mbxtgt := 0, devstat := 0,
    apbase := List.replicate 16 0,
    msix := List.replicate 32 { addr := 0, data := 0x0000_0001_0000_0000, written := false },
    msixPending := 0, kept := none, myid := 0xF_FFFF, fmtgt := 0, fmdrop := 0, impbase := 0,
    implen := 0, imports := [], bar2 := [], ports := List.replicate 32 0, route := [], exports := [],
    mgmt := List.replicate 8 0, frames := [], bootPort := none, bootDone := false }

/-- The device right after reset: no thread lives, memory lists nothing (R151), every register at its
reset value or at the value that log 2 names. -/
def State.reset : State :=
  { cyc := 0, threads := [], cores := [], mem := [], empties := [], poisoned := [], accs := [],
    regions := [], mesh := [], tlb := [], mmuWaits := [], pageReqs := [], rewalks := [], dups := [],
    forwards := [], spilled := [], arena := [], jobs := [], codeSeg := [], sys := Sys.reset, base := Base.reset, serial := 0,
    owed := [], lastServed := List.replicate 24 0, shareWindow := [], out := [], cur := 0, word := 0,
    slow := false, ev := none, due := [], agenda := [], free := 0 }

end Sys2Proof.Machine
end

