-- ==== Sys2Proof/Machine/Bits.lean ====
section
/-! DEFINITION. Tables, sorted sets, and the lanes and widths of registers. -/

namespace Sys2Proof.Machine

/-! ## Tables and sorted sets -/

/-- The value under a key. -/
def tabGet {α : Type} (k : Nat) : Tab α → Option α
  | [] => none
  | (j, v) :: t => if j = k then some v else tabGet k t

/-- The table with a value under a key. -/
def tabPut {α : Type} (k : Nat) (v : α) : Tab α → Tab α
  | [] => [(k, v)]
  | (j, u) :: t =>
    if j = k then (k, v) :: t
    else if k < j then (k, v) :: (j, u) :: t
    else (j, u) :: tabPut k v t

/-- The table without a key. -/
def tabDel {α : Type} (k : Nat) : Tab α → Tab α
  | [] => []
  | (j, u) :: t => if j = k then tabDel k t else (j, u) :: tabDel k t

/-- A rising list of numbers with one more. -/
def setAdd (k : Nat) : List Nat → List Nat
  | [] => [k]
  | j :: t => if j = k then j :: t else if k < j then k :: j :: t else j :: setAdd k t

/-- A list of numbers without one. -/
def setDel (k : Nat) : List Nat → List Nat
  | [] => []
  | j :: t => if j = k then setDel k t else j :: setDel k t

/-! ## Integers of a width -/

/-- The signed value of a w-bit pattern. -/
def sgn (w x : Nat) : Int := if x < 2 ^ (w - 1) then (x : Int) else (x : Int) - (2 : Int) ^ w

/-- An integer reduced to a w-bit pattern. -/
def wrap (w : Nat) (v : Int) : Nat := (v % (2 : Int) ^ w).toNat

/-- An integer clamped to an interval. -/
def clampInt (lo hi v : Int) : Int := if v < lo then lo else if hi < v then hi else v

/-- Number of one bits below bit n. -/
def popBelow (x : Nat) : Nat → Nat
  | 0 => 0
  | n + 1 => popBelow x n + (if x.testBit n then 1 else 0)

/-- Index of the lowest one bit at or above bit i, looking at `fuel` bits; i + fuel if none. -/
def lowBitFrom (x i : Nat) : Nat → Nat
  | 0 => i
  | fuel + 1 => if x.testBit i then i else lowBitFrom x (i + 1) fuel

/-! ## Registers -/

/-- Lane i of width w, as a pattern (R6). -/
def lane (r : Reg) (w i : Nat) : Nat := r.toNat / 2 ^ (w * i) % 2 ^ w

/-- The register whose lanes of width w are the given patterns, lane 0 first, the rest zero. -/
def ofLanes (w : Nat) (l : List Nat) : Reg :=
  BitVec.ofNat 512 (l.foldr (fun x acc => x % 2 ^ w + 2 ^ w * acc) 0)

/-- All lanes of width w. -/
def lanes (r : Reg) (w : Nat) : List Nat := (List.range (512 / w)).map fun i => lane r w i

/-- The 64-bit scalar part of a register (R6). -/
def scalar (r : Reg) : Word := r.extractLsb' 0 64

/-- A 64-bit lane as a word. -/
def lane64 (r : Reg) (i : Nat) : Word := r.extractLsb' (64 * i) 64

/-- A scalar result: [63:0] the word, the rest zero (R6). -/
def ofScalar (w : Word) : Reg := w.zeroExtend 512

/-- A register of 64-bit lanes. -/
def ofWords (l : List Word) : Reg := ofLanes 64 (l.map BitVec.toNat)

/-- R37's Put: v modulo 2^w, extended to 64 bits by the type's class. -/
def putTy (ty : Ty) (v : Int) : Reg :=
  let t := wrap ty.width v
  ofScalar (BitVec.ofInt 64 (if ty.isSigned then sgn ty.width t else (t : Int)))

/-- R37's operand read: the low w bits, signed or not. -/
def opnd (w : Nat) (signed : Bool) (r : Reg) : Int :=
  if signed then sgn w (lane r w 0) else (lane r w 0 : Int)

/-! ## Byte strings -/

/-- The number that bytes spell, the lowest address first. -/
def bytesNat (l : List Byte) : Nat := l.foldr (fun b acc => b.toNat + 256 * acc) 0

/-- The n low bytes of a number, the lowest address first. -/
def natBytes (n v : Nat) : List Byte := (List.range n).map fun i => BitVec.ofNat 8 (v / 256 ^ i)

/-- The sign extension of a word's low n bits. -/
def sext (n : Nat) (x : BitVec n) : Word := x.signExtend 64

end Sys2Proof.Machine
end

