-- ==== Sys2Proof/Machine/Mem.lean ====
section
/-! DEFINITION. Memory: bytes under keys, full/empty bits and poison by word. A key is the physical
address of paged memory (R145 to R148, R331), the DVA of a pool window's byte (R149), or a latch
byte. What no entry lists reads as zero, full and clean (R151, DESIGN CHOICE, log 3). -/

namespace Sys2Proof.Machine

/-! ## Bytes -/

/-- The byte under a key; an unlisted byte is zero (R151, R165). -/
def memByte (k : Nat) : List Host.Cell → Byte
  | [] => 0
  | (j, b) :: t => if j = k then b else if k < j then 0 else memByte k t

/-- Memory with a byte written; a zero byte is not listed. -/
def memPut (k : Nat) (b : Byte) : List Host.Cell → List Host.Cell
  | [] => if b = 0 then [] else [(k, b)]
  | (j, c) :: t =>
    if j = k then (if b = 0 then t else (k, b) :: t)
    else if k < j then (if b = 0 then (j, c) :: t else (k, b) :: (j, c) :: t)
    else (j, c) :: memPut k b t

/-- Keys strictly rising from a lower bound, and no zero byte listed. -/
def memSorted (lo : Nat) : List Host.Cell → Bool
  | [] => true
  | (j, b) :: t => decide (lo ≤ j) && (b != 0) && memSorted (j + 1) t

/-- The canonical form of memory. -/
def Memory.wf (m : List Host.Cell) : Bool := memSorted 0 m

/-- n bytes from a key on, the lowest first. -/
def memBytes (m : List Host.Cell) (k : Nat) : Nat → List Byte
  | 0 => []
  | n + 1 => memByte k m :: memBytes m (k + 1) n

/-- Memory with bytes written from a key on. -/
def memWrite (m : List Host.Cell) (k : Nat) : List Byte → List Host.Cell
  | [] => m
  | b :: t => memWrite (memPut k b m) (k + 1) t

/-- n bytes read as a little-endian number. -/
def memNat (m : List Host.Cell) (k n : Nat) : Nat := bytesNat (memBytes m k n)

/-! ## The memory of a state -/

/-- The n-byte value under a key. -/
def State.read (s : State) (k n : Nat) : Nat := memNat s.mem k n

/-- The state with an n-byte value written. -/
def State.write (s : State) (k n v : Nat) : State := { s with mem := memWrite s.mem k (natBytes n v) }

/-- The state with bytes written. -/
def State.writeBytes (s : State) (k : Nat) (l : List Byte) : State :=
  { s with mem := memWrite s.mem k l }

/-- The full/empty bit of the word that holds a key (R151): true is full. -/
def State.full (s : State) (k : Nat) : Bool := !s.empties.contains (k / 8)

/-- The state with a word's bit set. -/
def State.setFull (s : State) (k : Nat) (b : Bool) : State :=
  { s with empties := if b then setDel (k / 8) s.empties else setAdd (k / 8) s.empties }

/-- Whether the word that holds a key is poisoned (R291). -/
def State.bad (s : State) (k : Nat) : Bool := s.poisoned.contains (k / 8)

/-- The keys of the words that n bytes from k lie in, each word's first byte. -/
def wordsOf (k n : Nat) : List Nat :=
  if n = 0 then [] else (List.range ((k + n - 1) / 8 - k / 8 + 1)).map fun i => 8 * (k / 8 + i)

/-- Every word of an access made full. -/
def State.fillBits (s : State) (k n : Nat) : State :=
  (wordsOf k n).foldl (fun s w => s.setFull w true) s

/-- Bytes and bits cleared: zero and full, and poison removed (R100, R293). -/
def State.scrubbed (s : State) (k n : Nat) : State :=
  { s with
    mem := s.mem.filter fun c => !(decide (k ≤ c.1) && decide (c.1 < k + n)),
    empties := s.empties.filter fun w => !(decide (k / 8 ≤ w) && decide (8 * w < k + n)),
    poisoned := s.poisoned.filter fun w => !(decide (k / 8 ≤ w) && decide (8 * w < k + n)) }

/-- Zeroed and full, poison kept. -/
def State.zeroed (s : State) (k n : Nat) : State := { s.scrubbed k n with poisoned := s.poisoned }

/-! ## Keys -/

/-- First DVA of the pool windows (R149). -/
def poolBase : Nat := 0x1F_F000_0000_0000

/-- First DVA of the system cores' pool windows (R149). -/
def sysPoolBase : Nat := 0x1F_F001_0000_0000

/-- Bytes of a pool (R141). -/
def poolBytes : Nat := 0x20_0000

/-- Bytes from one pool window to the next (R149). -/
def windowStride : Nat := 0x40_0000

/-- Key and DVA of a byte of a core's pool (R149). -/
def poolKey (c o : Nat) : Nat :=
  if c < 0x400 then poolBase + c * windowStride + o else sysPoolBase + (c - 0x400) * windowStride + o

/-- The core and window offset of a pool-window DVA; none outside the windows (R149). -/
def poolOf (a : Nat) : Option (Nat × Nat) :=
  if a < poolBase then none
  else if a < sysPoolBase then some ((a - poolBase) / windowStride, (a - poolBase) % windowStride)
  else if a < sysPoolBase + 16 * windowStride then
    some (0x400 + (a - sysPoolBase) / windowStride, (a - sysPoolBase) % windowStride)
  else none

/-- Key of a byte of a B latch. -/
def latchKey (c : Nat) (lat : Bool) (i : Nat) : Nat :=
  2 ^ 57 + (c * 2 + if lat then 1 else 0) * 8192 + i

/-- The space field pa[51:48] of a physical address (R145). -/
def paSpace (k : Nat) : Nat := k / 2 ^ 48

/-- pa[47:0]. -/
def paOff (k : Nat) : Nat := k % 2 ^ 48

/-- The LPDDR-6 channels present (R147). -/
def State.channels (s : State) : Nat := 96 - s.sys.units.noChannels.length

/-- Bytes of far memory that one channel carries, of 1,512 GiB over 96 channels; on a part with fewer channels the
figure scales with them (R2, R147). -/
def channelBytes : Nat := 1512 * 2 ^ 30 / 96

/-- Bytes of each space (R2, R145, R147, R331): spaces 5 and 6 are bounded by their tables and blocks. -/
def State.spaceBytes (s : State) (sp : Nat) : Nat :=
  if sp < 4 then 0xC000_0000
  else if sp = 4 then s.channels * channelBytes
  else if sp = 5 then 2 ^ 48
  else if sp = 6 then 2 ^ 48
  else 0

/-- The bank of a cap line (R145). -/
def capBank (k : Nat) : Nat := (k / 2 ^ 6 % 4096) ^^^ (k / 2 ^ 18 % 4096) ^^^ (k / 2 ^ 30 % 4096)

/-- The bank of a scratch word (R144). -/
def scratchBank (o : Nat) : Nat := o / 64 % 32

/-- The upward Strait of a cap line, as 64 × die + Strait (R145). -/
def straitOf (k : Nat) : Nat := 64 * paSpace k + capBank k / 64

end Sys2Proof.Machine
end

