-- ==== Sys2Proof/Machine/Ops.lean ====
section
/-! DEFINITION. The named operations on the state: threads, cores and regions by name, registers with
their presence and poison, special-purpose registers, taking a trap and returning from it, and the
frame in which every instruction runs. -/

namespace Sys2Proof.Machine

/-! ## Threads, cores, regions -/

/-- The live thread of an identity. -/
def State.thread? (s : State) (t : Ident) : Option Thread := tabGet t.toNat s.threads

/-- The state with a thread's record. -/
def State.setThread (s : State) (t : Thread) : State :=
  { s with threads := tabPut t.id.toNat t s.threads }

/-- A core's record. -/
def State.core (s : State) (c : Nat) : Core := (tabGet c s.cores).getD (Core.reset c)

/-- The state with a core's record. -/
def State.setCore (s : State) (c : Nat) (k : Core) : State := { s with cores := tabPut c k s.cores }

/-- A latch that forgets the thread whose BLOAD filled it. -/
def Latch.forget (l : Latch) (t : Ident) : Latch := if l.filler = some t then { l with filler := none } else l

/-- The slot becomes FREE and its window is released (R67, R68); what a later thread of the slot did not fill is
not its own (R228). -/
def State.freeThread (s : State) (t : Ident) : State :=
  let c := t.core.toNat
  let k := s.core c
  let s1 := if k.latch0.filler = some t ∨ k.latch1.filler = some t then
      s.setCore c { k with latch0 := k.latch0.forget t, latch1 := k.latch1.forget t }
    else s
  { s1 with threads := tabDel t.toNat s1.threads }

/-- A live region. -/
def State.region? (s : State) (r : Nat) : Option Region := tabGet r s.regions

/-- The state with a region's record. -/
def State.setRegion (s : State) (r : Region) : State := { s with regions := tabPut r.id r s.regions }

/-- The threads of a core, by slot. -/
def State.threadsOf (s : State) (c : Nat) : List Thread :=
  (s.threads.map (·.2)).filter fun t => t.id.core.toNat = c

/-- The threads of a region. -/
def State.threadsIn (s : State) (r : Nat) : List Thread :=
  (s.threads.map (·.2)).filter fun t => t.sp.region.toNat = r

/-- The region ID of a thread. -/
def Thread.regionId (t : Thread) : Nat := (t.sp.region.extractLsb' 0 32).toNat

/-- The fault domain of a thread (R19, 0x01F). -/
def Thread.dom (t : Thread) : BitVec 32 := t.sp.domain.extractLsb' 0 32

/-- Window size N (R5). -/
def Thread.win (t : Thread) : Nat := t.regs.length

/-- A serial number not used before, and the state that has used it. -/
def State.fresh (s : State) : Nat × State := (s.serial, { s with serial := s.serial + 1 })

/-- A free choice, and the state that has made it (DESIGN CHOICE, log 1). -/
def State.choose (s : State) : Bool × State :=
  (Config.freeBool s.free, { s with free := s.free + 1 })

/-- A free value of 64 bytes, and the state that has taken it (DESIGN CHOICE, log 1). -/
def State.unknown (s : State) : Reg × State :=
  (Config.freeReg s.free, { s with free := s.free + 1 })

/-! ## Units of a core -/

/-- Whether a number names a core of the device. -/
def isCore (c : Nat) : Bool := c < Config.computeCores || (0x400 ≤ c && c < 0x410)

/-- The unit-map word of a core: [8] present, [7:0] capability (R309, R310; DESIGN CHOICE, log 2 for a full part). -/
def State.unitWord (s : State) (c : Nat) : BitVec 9 :=
  if isCore c then (tabGet c s.sys.units.cores).getD (if c < 0x400 then 0x103 else 0x101) else 0

/-- Whether a core exists and is present (R135, R305). -/
def State.reachable (s : State) (c : Nat) : Bool := (s.unitWord c).getLsbD 8

/-- The capability word of a core (R310). -/
def State.cap (s : State) (c : Nat) : Word :=
  if s.reachable c then
    ((s.unitWord c).extractLsb' 0 8).zeroExtend 64 ||| (if 0x400 ≤ c then 0x100 else 0)
  else 0

/-- Bytes of the accumulator partition (R142). -/
def State.accBytes (s : State) (c : Nat) : Nat := (s.core c).acc * 0x1_0000

/-- S, the bytes of scratch (R141). -/
def State.scratchBytes (s : State) (c : Nat) : Nat := poolBytes - s.accBytes c

/-- Tile slots of a core (R141). -/
def State.tileSlots (s : State) (c : Nat) : Nat := (s.core c).acc * 4

/-- The cluster of a core: 0 to 63, and 64 for the system cluster (R330). -/
def clusterOf (c : Nat) : Nat := if c < 0x400 then c / 16 else 64

/-- The compute die of a core; none for the system cluster (R330). -/
def dieOf (c : Nat) : Option Nat := if c < 0x400 then some (c / 256) else none

/-- The column of a compute core: 4 × die + column (R306). -/
def columnOf (c : Nat) : Option Nat := if c < 0x400 then some (c / 64) else none

/-- GS of a cluster's %atoll in effect (R217): 3 at reset. -/
def State.atollGs (s : State) (cl : Nat) : BitVec 2 := (tabGet cl s.sys.atoll).getD 3

/-- GS that a read of %atoll returns: the value last written (R217). -/
def State.atollRead (s : State) (cl : Nat) : BitVec 2 :=
  (tabGet cl s.sys.atollNext).getD (s.atollGs cl)

/-- The next core, or the previous one, of a sub-ring (R217); the system cluster is one sub-ring
(R137). -/
def State.ringCore (s : State) (c : Nat) (prev : Bool) : Nat :=
  let g := if c < 0x400 then 2 ^ ((s.atollGs (clusterOf c)).toNat + 1) else 16
  let i := c % 16
  c - i + (i / g) * g + (if prev then (i + g - 1) % g else (i + 1) % g) % g

/-! ## Stops of an instruction -/

/-- Why an instruction does not complete at this issue. -/
inductive Stop where
  /-- The thread parks before the instruction. -/
  | park (w : Wait)
  /-- The thread parks, and the state has changed beside it: `t` is the thread's record. -/
  | parkIn (s : State) (t : Thread)
  /-- The instruction traps (R21). -/
  | trap (i : TrapInfo)

/-- A result, or why the instruction stops. -/
abbrev X (α : Type) := Except Stop α

/-- A trap without SEG, WR and MISS (R24). -/
def TrapInfo.plain (code : BitVec 8) (info : Word) : TrapInfo :=
  { code := code, info := info, seg := 0, wr := false, miss := 0 }

/-- Stop with a trap that records a cause and %tinfo. -/
def trapX {α : Type} (code : BitVec 8) (info : Word) : X α := .error (.trap (.plain code info))

/-- Stop by parking. -/
def parkX {α : Type} (w : Wait) : X α := .error (.park w)

/-- Go on only where a condition holds. -/
def need (c : Bool) (st : Stop) : X Unit := if c then .ok () else .error st

/-- ILL with the word being executed (R23). -/
def ill (s : State) : Stop := .trap (.plain 0x01 s.word)

/-- PRIV with the word being executed (R23). -/
def priv (s : State) : Stop := .trap (.plain 0x02 s.word)

/-! ## Registers -/

/-- R5: every register number named lies below the window size; the first that does not is reported. -/
def windowX (t : Thread) : List RegNum → X Unit
  | [] => .ok ()
  | r :: rs =>
    if r.toNat < t.win then windowX t rs
    else trapX 0x03 (BitVec.ofNat 64 (r.toNat + 256 * t.win))

/-- A register entry; a number outside the window reads as an absent-free zero (R5 traps first). -/
def Thread.entry (t : Thread) (r : RegNum) : RegEntry :=
  t.regs.getD r.toNat { val := 0, pres := .present, poison := false }

/-- The contents of a register that the instruction reads: an absent one parks (R7). -/
def presentX (t : Thread) (r : RegNum) : X Reg :=
  if (t.entry r).pres ≠ .present then parkX (.reg r) else .ok (t.entry r).val

/-- A poisoned register traps POISON (R292). -/
def cleanX (t : Thread) (r : RegNum) : X Unit :=
  if (t.entry r).poison then trapX 0x0E (0x8000_0000_0000_0000#64 ||| r.zeroExtend 64) else .ok ()

/-- Several registers, in order. -/
def cleansX (t : Thread) : List RegNum → X Unit
  | [] => .ok ()
  | r :: rs => do
    cleanX t r
    cleansX t rs

/-- Read a register: an absent one parks (R7), a poisoned one traps POISON (R292). -/
def readX (t : Thread) (r : RegNum) : X Reg := do
  let v ← presentX t r
  cleanX t r
  return v

/-- Read a list of registers in order. -/
def readsX (t : Thread) : List RegNum → X (List Reg)
  | [] => .ok []
  | r :: rs => do
    let v ← readX t r
    let vs ← readsX t rs
    return v :: vs

/-- A destination that is awaiting parks (R7). -/
def destX (t : Thread) (r : RegNum) : X Unit :=
  if (t.entry r).pres = .awaiting then parkX (.reg r) else .ok ()

/-- Several destinations, in order. -/
def destsX (t : Thread) : List RegNum → X Unit
  | [] => .ok ()
  | r :: rs => do
    destX t r
    destsX t rs

/-- Write a register: it becomes present, and its poison is cleared (R7, R292). -/
def Thread.setReg (t : Thread) (r : RegNum) (v : Reg) : Thread :=
  { t with regs := t.regs.set r.toNat { val := v, pres := .present, poison := false } }

/-- Change a register's presence alone. -/
def Thread.setPres (t : Thread) (r : RegNum) (p : Presence) : Thread :=
  { t with regs := t.regs.set r.toNat { t.entry r with pres := p } }

/-- The r registers from a first one on. -/
def regRun (r : RegNum) (n : Nat) : List RegNum := (List.range n).map fun i => r + BitVec.ofNat 7 i

/-- R5 on a run of n registers, tested on its last register (R123, R267); a run of none is tested on the field's own
register. A number of 128 or more is cut to the seven bits of its field in %tinfo (DEDUCED, log 22). -/
def runX (t : Thread) (r : RegNum) (n : Nat) : X Unit :=
  if r.toNat + (n - 1) < t.win then .ok ()
  else trapX 0x03 (BitVec.ofNat 64 ((r.toNat + (n - 1)) % 128 + 256 * (t.win % 128)))

/-- A mask register; k0 reads as all ones (R9). -/
def Thread.mask (t : Thread) (k : KReg) : Word :=
  if k = 0 then BitVec.allOnes 64 else t.masks.getD (k.toNat - 1) 0

/-- Write a mask register; a write to k0 is discarded (R9). -/
def Thread.setMask (t : Thread) (k : KReg) (v : Word) : Thread :=
  if k = 0 then t else { t with masks := t.masks.set (k.toNat - 1) v }

/-- A segment descriptor. -/
def Thread.seg (t : Thread) (g : SegReg) : BitVec 128 := t.segs.getD g.toNat 0

/-- Write a segment register. -/
def Thread.setSeg (t : Thread) (g : SegReg) (d : BitVec 128) : Thread :=
  { t with segs := t.segs.set g.toNat d }

/-- The program counter past the instruction (R13). -/
def Thread.adv (t : Thread) : Thread := { t with pc := t.pc + 8 }

/-! ## Descriptors (R10) -/

/-- BASE. -/
def segBase (d : BitVec 128) : Word := d.extractLsb' 0 64
/-- LIMIT. -/
def segLimit (d : BitVec 128) : Nat := (d.extractLsb' 64 49).toNat
/-- Rights P T S X W R, from bit 5 to bit 0. -/
def segRights (d : BitVec 128) : BitVec 6 := d.extractLsb' 113 6
/-- The P right. -/
def segP (d : BitVec 128) : Bool := d.getLsbD 118
/-- The T right. -/
def segT (d : BitVec 128) : Bool := d.getLsbD 117

/-- A descriptor valid under R10. -/
def segValid (d : BitVec 128) : Bool :=
  d.extractLsb' 119 9 = 0 && d.extractLsb' 0 6 = 0 && d.extractLsb' 53 11 = 0 &&
    segLimit d ≤ 2 ^ 48

/-- A descriptor from its fields. -/
def mkSeg (base : Word) (limit : Nat) (rights : BitVec 6) : BitVec 128 :=
  0#9 ++ rights ++ BitVec.ofNat 49 limit ++ base

/-! ## %status (R20) -/

/-- PL. -/
def Thread.level (t : Thread) : Nat := (t.sp.status.extractLsb' 0 2).toNat

/-- RND as a rounding code, 1 to 5. -/
def Thread.rnd (t : Thread) : BitVec 3 := t.sp.status.extractLsb' 2 3

/-- XS. -/
def Thread.xs (t : Thread) : Bool := t.sp.status.getLsbD 5

/-- SAT. -/
def Thread.sat (t : Thread) : Bool := t.sp.status.getLsbD 6

/-- The thread with NV set where asked; NV is sticky (R16). -/
def Thread.orNv (t : Thread) (nv : Bool) : Thread :=
  if nv then { t with sp := { t.sp with status := t.sp.status ||| 0x80 } } else t

/-- A RND value that %status never holds (R20). -/
def rndBad (r : BitVec 3) : Bool := r = 0 || r = 6 || r = 7

/-! ## The region's instruction count (R104) -/

/-- A region whose count has reached its budget is spent; all ones is no budget. -/
def Region.noteSpent (r : Region) : Region :=
  if r.budget != BitVec.allOnes 64 && decide (r.budget.toNat ≤ r.count) then { r with spent := true }
  else r

/-- One instruction of a thread has taken effect. -/
def State.countInstr (s : State) (t : Thread) : State :=
  match s.region? t.regionId with
  | none => s
  | some r => s.setRegion ({ r with
      count := r.count + 1,
      recent := (s.cyc, t.id) :: r.recent.filter fun p => s.cyc < p.1 + 64 }).noteSpent

/-- The thread's region has spent its cycle budget. -/
def State.spent (s : State) (t : Thread) : Bool :=
  match s.region? t.regionId with
  | none => false
  | some r => r.spent

/-! ## Taking a trap (R21 to R24, R275 to R277) -/

/-- %tcause from what a trap records (R22). -/
def TrapInfo.cause (i : TrapInfo) : Word :=
  0#46 ++ i.miss ++ BitVec.ofBool i.wr ++ i.seg ++ i.code

/-- A word of the domain table (R311); a domain above 4,095 has none. -/
def State.domWord (s : State) (d : BitVec 32) (i : Nat) : Word :=
  if d.toNat < 4096 then ((tabGet d.toNat s.sys.domains).getD []).getD i 0 else 0

/-- Where a trap message goes: core and channel (R275). A domain above 4,095 uses entry 0's firmware
channel (R311). -/
def State.trapTarget (s : State) (d : BitVec 32) (fromChannel1 : Bool) : CoreId × BitVec 5 :=
  let w := s.domWord d 0
  let hcore : CoreId := w.extractLsb' 0 11
  if !fromChannel1 && w.getLsbD 11 && s.reachable hcore.toNat then (hcore, 1)
  else
    let f := if d.toNat < 4096 then w else s.domWord 0 0
    ((0x400#11) + (f.extractLsb' 12 4).zeroExtend 11, f.extractLsb' 16 5)

/-- Put a message into the mesh. -/
def State.post (s : State) (core : CoreId) (chan : BitVec 5) (src : Option Ident)
    (domain : BitVec 32) (body : MsgBody) : State :=
  { s with
    mesh := s.mesh ++ [{ n := s.serial, core := core, chan := chan, src := src, domain := domain,
                         kept := false, body := body }],
    serial := s.serial + 1 }

/-- Whether an engine operation is an unstarted one of a thread. -/
def EngineOp.waits (o : EngineOp) (t : Ident) : Bool := o.t = t && !o.started

/-- Room for n operations in the engine queue of a core (R221). -/
def State.queueRoom (s : State) (c n : Nat) : Bool := decide ((s.core c).engq.length + n ≤ 32)

/-- A thread's unstarted operations leave the engine queue as its queue image (R227). -/
def State.unqueue (s : State) (t : Thread) : State × Thread :=
  let c := t.id.core.toNat
  let k := s.core c
  let out := k.engq.filter (·.waits t.id)
  if out.isEmpty then (s, t)
  else (s.setCore c { k with engq := k.engq.filter fun o => !o.waits t.id },
        { t with image := t.image ++ out })

/-- The thread waits for an ordinary access of its own. -/
def Thread.onAccess (t : Thread) : Bool :=
  match t.wait with
  | .access _ _ => true
  | _ => false

/-- READY, or PARKED where it waits: a READY thread whose ordinary access is on its way stays so until its next own
turn (R55, R67). -/
def Thread.rotation (t : Thread) : SlotState :=
  if t.wait = .none || (t.state = .ready && t.onAccess) then .ready else .parked

/-- The wait that a thread has, or goes back to where a THKILL that has stopped it is undone. -/
def Thread.ownWait (t : Thread) : Wait := (t.killed.map (·.wait)).getD t.wait

/-- The thread with that wait replaced. -/
def Thread.withWait (t : Thread) (w : Wait) : Thread :=
  match t.killed with
  | some k => { t with killed := some { k with wait := w } }
  | none => { t with wait := w }

/-- The thread ends itself by THKILL, which a trap may still leave without effect (R57, R316). -/
def Thread.selfKilled (t : Thread) : Bool := t.killed.any fun k => k.by' = t.id

/-- Another thread's THKILL of it is under way (R316). -/
def Thread.condemned (t : Thread) : Bool := t.killed.any fun k => k.by' != t.id

/-- A thread's queue image re-enters the queue tail (R227). Where the queue lacks the room, the image waits for it,
and the thread with it (R221, DESIGN CHOICE, log 50). A thread whose end is under way runs none of it (R316). -/
def State.requeue (s : State) (t : Thread) : State × Thread :=
  if t.image.isEmpty || t.killed.isSome then (s, t)
  else
    let c := t.id.core.toNat
    let k := s.core c
    if s.queueRoom c t.image.length then
      (s.setCore c { k with engq := k.engq ++ t.image },
        { t with image := [], roomWait := false, wait := if t.wait = .queueRoom then .none else t.wait })
    else (s, { t with roomWait := true, wait := if t.wait = .none then .queueRoom else t.wait })

/-- g0 of a trap message (R276). -/
def trapG0 (t : Thread) (i : TrapInfo) (tepc : Word) (cyc : Nat) : Reg :=
  ofWords [t.id.zeroExtend 64, i.cause, i.info, tepc,
    BitVec.ofNat 64 (t.regionId + 2 ^ 32 * t.dom.toNat), t.rcb, BitVec.ofNat 64 cyc, 0]

/-- Copies put back at the tails of their channels' queues. -/
def Core.pushCopies (k : Core) (l : List (Nat × CopyOp)) : Core :=
  { k with copyq := k.copyq.mapIdx fun ch q => q ++ (l.filter fun p => p.1 = ch).map (·.2) }

/-- The state to which a thread goes back when the kill that has stopped it is undone: a hold that has ended
meanwhile, or begun, counts. -/
def Thread.unkilledState (u : Thread) (k : Killed) : SlotState :=
  if k.state = .trapped || k.state = .migrating then k.state
  else if u.dbg || u.regionHeld then .held
  else if k.wait = .none || k.state = .ready then .ready
  else .parked

/-- A THKILL that takes no effect gives its target back what it had (R57). -/
def State.unkill (s : State) (u : Thread) : State :=
  match u.killed with
  | none => s
  | some k =>
    let c := u.id.core.toNat
    let s := if k.copies.isEmpty then s else s.setCore c ((s.core c).pushCopies k.copies)
    let v := { u with killed := none, wait := k.wait, state := u.unkilledState k }
    if v.state = .ready || (v.state = .parked && v.wait != .enginePage) then
      let (s, v) := s.requeue v
      s.setThread { v with state := v.rotation }
    else s.setThread v

/-- The other threads that a thread's THKILL has stopped. -/
def State.killsOf (s : State) (t : Ident) : List Thread :=
  (s.threads.map (·.2)).filter fun u => u.id != t && u.killed.any fun k => k.by' = t

/-- A REGHOLD that takes no effect leaves the region as it was; the leaves that it had held are released in the next
cycle (R57). -/
def State.unhold (s : State) (r : Nat) : State :=
  match s.region? r with
  | some x => s.setRegion { x with hold := .free }
  | none => s

/-- Copies that a thread which was ending itself had taken from their queues go back there (R57, R316). -/
def State.copiesBack (s : State) (t : Thread) : State :=
  match t.killed with
  | some k =>
    if t.selfKilled && !k.copies.isEmpty then s.setCore t.id.core.toNat ((s.core t.id.core.toNat).pushCopies k.copies)
    else s
  | none => s

/-- The context that is being written or read at a slot. -/
def State.jobOf (s : State) (t : Ident) : Option CtxJob := s.jobs.find? fun j => j.t = t

/-- Where the spill engine keeps the lines of a context under way: no agent reaches its buffer. -/
def stageKey (a : Word) (i : Nat) : Nat := 2 ^ 58 + a.toNat + 64 * i

/-- The buffer's lines of a context are empty again, and its job is over. -/
def State.dropJob (s : State) (j : CtxJob) : State :=
  ({ s with jobs := s.jobs.filter fun x => x.t != j.t }).scrubbed (stageKey j.addr 0) (64 * max j.lines j.head)

/-- A context that is not written or read any further: its place in the arena is free (R316, R317). -/
def State.cancelJob (s : State) (t : Ident) : State :=
  match s.jobOf t with
  | some j => { s.dropJob j with arena := s.arena.filter fun x => x.1 != j.addr }
  | none => s

/-- What an instruction had begun when its thread parked is undone where a trap leaves it without effect: a message that
the sender still waits to see accepted is withdrawn, a region's hold, a spill and a kill are taken back (R21, R57,
DEDUCED, log 22). -/
def State.undone (s : State) (t : Thread) : State :=
  let s := match t.wait with
    | .send n _ | .chset n _ => { s with mesh := s.mesh.filter fun m => m.n != n }
    | .region r _ => s.unhold r
    | .spilling u _ => s.cancelJob u
    | _ => s
  (s.killsOf t.id).foldl (fun s u => s.unkill u) s

/-- An instruction that closed the thread's open batch and then parked has no effect: the batch is open again
(R57, R222). -/
def Thread.reopened (t : Thread) : Thread :=
  if t.reopen = 0 then t else { t with nextBatch := t.nextBatch - 1, batchOps := t.reopen, reopen := 0 }

/-- The thread takes a trap at its program counter, or, where the trap is of an instruction further back, at that one
(R191): %tcause, %tinfo and %tepc are set, the slot is TRAPPED, an end of its own making that was under way is off, its
unstarted engine operations leave the queue, and a trap message is sent (R21, R275). Traps that are recorded stay so
(R57). -/
def takeTrap (s : State) (t : Thread) (i : TrapInfo) : State :=
  let (s1, t1) := ((s.undone t).copiesBack t).unqueue t.reopened
  let t2 := { t1 with
    state := .trapped, wait := .none, killed := if t1.selfKilled then none else t1.killed, pc := i.pc.getD t1.pc,
    sp := { t1.sp with tcause := i.cause, tinfo := i.info, tepc := i.pc.getD t1.pc } }
  let (core, chan) := s1.trapTarget t2.dom t2.chan1
  (s1.setThread t2).post core chan (some t2.id) t2.dom (.trap (trapG0 t2 i t2.pc s1.cyc))

/-- FMTMISMATCH again: %status.XS still differs from the sender's XS that %tinfo holds (R278). -/
def Thread.mismatched (t : Thread) : Bool := t.sp.tcause.extractLsb' 0 8 = 0x08 && t.xs != t.sp.tinfo.getLsbD 8

/-- The thread resumes at %tepc: its queue image re-enters the queue and it is READY, or HELD where
its region is held (R278, R315). An image that waits for room in the queue keeps it PARKED (R221). -/
def resumeTrap (s : State) (t : Thread) : State :=
  let held : Bool := match s.region? t.regionId with
    | some r => r.hold != .free
    | none => false
  let u := { t with wait := .none }
  let (s1, t1) := if held then (s, u) else s.requeue u
  s1.setThread { t1 with
    pc := t1.sp.tepc, state := if held then .held else if t1.wait = .none then .ready else .parked, regionHeld := held,
    pending := if t1.mismatched then .plain 0x08 t1.sp.tinfo :: t1.pending else t1.pending }

/-! ## The frame of an instruction -/

/-- The thread parks. -/
def State.parked (s : State) (t : Thread) (w : Wait) : State :=
  s.setThread { t with state := .parked, wait := w }

/-- An instruction has completed: the thread's record stands, and the instruction counts (R104). -/
def State.commit (s : State) (t : Thread) : State := (s.setThread t).countInstr t

/-- BUDGET, with the thread's RCB address (R104). -/
def budgetTrap (t : Thread) : TrapInfo := .plain 0x0B t.rcb

/-- What a stop does. -/
def stopped (s : State) (t : Thread) : Stop → State
  | .park w => s.parked t w
  | .parkIn s' t' => s'.setThread t'
  | .trap i => takeTrap s t i

/-- Where a region's cycle budget is spent, an issue traps BUDGET unless it meets an earlier cause of
R23's order, which `before` tells by its code. -/
def spentStop (before : BitVec 8 → Bool) (t : Thread) : X (State × Thread) → Stop
  | .error (.trap i) => if before i.code then .trap i else .trap (budgetTrap t)
  | _ => .trap (budgetTrap t)

/-- Causes above BUDGET in R23's table. -/
def beforeBudget (code : BitVec 8) : Bool := code.toNat < 0x0B

/-- Run an instruction for the issuing thread. -/
def runWith (before : BitVec 8 → Bool) (s : State) (f : State → Thread → X (State × Thread)) :
    Host.Outcome State Fault Refusal :=
  match s.thread? s.cur with
  | none => .fault .noThread
  | some t =>
    if s.spent t then .next (stopped s t (spentStop before t (f s t)))
    else
      match f s t with
      | .ok (s', t') => .next (s'.commit t')
      | .error st => .next (stopped s t st)

/-- Run an instruction under R23's order. -/
def runT (s : State) (f : State → Thread → X (State × Thread)) :
    Host.Outcome State Fault Refusal := runWith beforeBudget s f

/-- Run an instruction that touches only its own thread's registers. -/
def runReg (s : State) (f : Thread → X Thread) : Host.Outcome State Fault Refusal :=
  runT s fun s t => do
    let t' ← f t
    return (s, t'.adv)

/-- Write one scalar or vector result and step past the instruction. -/
def done (s : State) (t : Thread) (d : RegNum) (v : Reg) : X (State × Thread) :=
  .ok (s, (t.setReg d v).adv)

/-- An event that does not occur, because its condition does not hold, leaves the state (DESIGN CHOICE, log 15). -/
def noEvent (s : State) : Host.Outcome State Fault Refusal := .next s

end Sys2Proof.Machine
end

