-- ==== Sys2Proof/Machine/Operands.lean ====
section
/-! DEFINITION. The operand forms that name memory: effective offsets (R28, R189, R248), the checks of
R11, and the lists of registers an instruction names. -/

namespace Sys2Proof.Machine

/-! ## Effective offsets -/

/-- M format (R28). -/
def offM (base : Reg) (off : BitVec 32) : Word := scalar base + sext 32 off

/-- ACAS (R28, R186). -/
def offCas (base : Reg) (off : BitVec 25) : Word := scalar base + sext 25 off

/-- E-format memory operand (R248). -/
def offE (base : Reg) (off : BitVec 12) : Word := scalar base + 64 * sext 12 off

/-- The index of a gather element, as read (R190). -/
def gatherIndex (g : GForm) (idx : Reg) (i : Nat) : Int :=
  opnd (8 * 2 ^ g.iw.toNat) g.is (BitVec.ofNat 512 (lane idx (8 * 2 ^ g.iw.toNat) i))

/-- The effective offset of a gather element (R28). -/
def gatherOffset (g : GForm) (base idx : Reg) (i : Nat) : Word :=
  scalar base + sext 12 g.off + BitVec.ofInt 64 (gatherIndex g idx i) * BitVec.ofNat 64 (2 ^ g.sc.toNat)

/-- Bytes of an access size (R33). -/
def sizeBytes : MemSize → Nat
  | .b => 1 | .h => 2 | .w => 4 | .d => 8 | .v => 64

/-! ## The checks of R11 -/

/-- A trap of an access, with SEG and WR (R22, R24). -/
def accTrap {α : Type} (code : BitVec 8) (info : Word) (g : SegReg) (wr : Bool) (miss : BitVec 6) :
    X α :=
  .error (.trap { code := code, info := info, seg := g, wr := wr, miss := miss })

/-- The address check: bits [63:53] zero, and every byte at a DVA of the address map, whose pool windows
reach scratch only, on present cores, and which no access leaves or enters on its way (R11, R149, R150). -/
def State.dvaOk (s : State) (a : Word) (n : Nat) : Bool :=
  if n = 0 then decide (a.toNat < 2 ^ 53)
  else
    let last := a.toNat + n - 1
    decide (last < 2 ^ 53) &&
      (if last < poolBase then true
       else match poolOf last with
         | some (c, o) => s.reachable c && decide (o < s.scratchBytes c) && decide (poolKey c 0 ≤ a.toNat)
         | none => false)

/-- The checks of R11, in the order of R23: limit, address, rights, alignment. The answer is the DVA. -/
def checkX (s : State) (t : Thread) (g : SegReg) (e : Word) (n align : Nat) (rights : BitVec 6)
    (wr : Bool) : X Word :=
  let d := t.seg g
  let a := segBase d + e
  let miss := rights &&& ~~~(segRights d)
  if segLimit d < e.toNat + n then accTrap 0x04 e g wr 0
  else if !s.dvaOk a n then accTrap 0x04 e g wr 0
  else if miss ≠ 0 then accTrap 0x05 e g wr miss
  else if e.toNat % align ≠ 0 then accTrap 0x06 e g wr 0
  else .ok a

/-- A check among several of one instruction: the code of the cause that it reports, and its trap; none where it
passes. -/
def causeOf {α : Type} (x : X α) : Option (Nat × Stop) :=
  match x with
  | .error (.trap i) => some (i.code.toNat, .trap i)
  | _ => none

/-- Several checks of one instruction: the cause highest in R23's table is reported, and among equals that of the first
operand or the lowest element (R23, R191, R247, DEDUCED, log 14). -/
def firstCauseX {α : Type} (l : List (X α)) : X Unit :=
  match (l.filterMap causeOf).foldl (fun best c => match best with
      | none => some c
      | some b => if c.1 < b.1 then some c else some b) (none : Option (Nat × Stop)) with
  | some c => .error c.2
  | none => .ok ()

/-- A control transfer's target must be a multiple of 8 (R13). -/
def targetX (target : Word) : X Word :=
  if target.extractLsb' 0 3 = 0 then .ok target else trapX 0x06 target

/-- ILL for a register's contents (R23, R35). It comes before WINDOW on another register, and needs the
register to be there; it comes before the park on another register that is absent, too, for which no rule orders the two
(DESIGN CHOICE, log 14). -/
def valueX (s : State) (t : Thread) (r : RegNum) (ok : Reg → Bool) : X Unit :=
  let e := t.entry r
  if r.toNat < t.win && e.pres = .present && !e.poison && !ok e.val then .error (ill s) else .ok ()

/-! ## Unit checks (R304) -/

/-- Stop before an instruction whose unit, by its bit in %cap, the core lacks: a thread without pool
and tile slots moves itself, another traps UNAVAIL (R304). -/
def unitX (s : State) (t : Thread) (bit : Nat) : X Unit :=
  if (s.cap t.id.core.toNat).getLsbD bit then .ok ()
  else if segLimit (t.seg 1) = 0 && t.tiles.2 = 0 && t.pool.isNone then parkX (.unit bit)
  else trapX 0x0A (BitVec.ofNat 64 bit)

end Sys2Proof.Machine
end

