-- ==== Sys2Proof/Machine/BaseDie.lean ====
section
/-! DEFINITION. The base-die registers of physical space 6 as threads, the host and the device see
them: mailbox, MSI-X, fabric block, power and management blocks (R331 to R346). -/

namespace Sys2Proof.Machine

/-- The state with new base-die registers. -/
def State.withBase (s : State) (b : Base) : State := { s with base := b }

/-- The state with something sent to the outside. -/
def State.emit (s : State) (o : Out) : State := { s with out := s.out ++ [o] }

/-! ## Interrupts (R335, R336) -/

/-- A vector may be sent: its entry is unmasked and its address has been written. -/
def MsixEntry.ready (e : MsixEntry) : Bool := !e.data.getLsbD 32 && e.written

/-- Raise an MSI-X vector: sent, or held pending (R336). -/
def State.raise (s : State) (v : Nat) : State :=
  match s.base.msix[v]? with
  | none => s
  | some e =>
    if e.ready then s.emit (.msix v)
    else s.withBase { s.base with msixPending := s.base.msixPending ||| BitVec.ofNat 32 (2 ^ v) }

/-- Send a pending vector whose entry now allows it (R336). -/
def State.sendPending (s : State) (v : Nat) : State :=
  match s.base.msix[v]? with
  | none => s
  | some e =>
    if e.ready && s.base.msixPending.getLsbD v then
      (s.withBase { s.base with
        msixPending := s.base.msixPending &&& ~~~(BitVec.ofNat 32 (2 ^ v)) }).emit (.msix v)
    else s

/-! ## Targets (R336) -/

/-- A value as the target layout stores it: reserved bits hold zero (DEDUCED, log 27), and a channel below 4 is stored
as 4. -/
def storeTarget (v : Word) : Word :=
  let v := v &&& 0x8000_0000_001F_07FF
  if (v.extractLsb' 16 5).toNat < 4 then (v &&& ~~~(0x1F_0000#64)) ||| 0x4_0000#64 else v

/-- A value as the doorbell layout stores it (R336, DEDUCED, log 27). -/
def storeDoorbell (v : Word) : Word := v &&& 0x0000_FFFF_0000_1FFF

/-- A value as INACK and OUTACK store it: SEQ (R335, DEDUCED, log 27). -/
def storeAck (v : Word) : Word := v &&& 0x0000_FFFF_0000_0000

/-- EN of a target. -/
def targetEn (v : Word) : Bool := v.getLsbD 63

/-- A channel that accepts messages of class message: channel 2 only on the system cluster (R71). -/
def State.acceptsOn (s : State) (c ch : Nat) : Bool :=
  s.reachable c && !(decide (ch = 2) && decide (c < 0x400)) &&
    (((s.core c).chans[ch]?).map (fun e => e.cls == .message)).getD false

/-- The channel of a target is usable: a reachable core, class message (R71, R337, R341). -/
def State.targetOk (s : State) (v : Word) : Bool :=
  s.acceptsOn (v.extractLsb' 0 11).toNat (v.extractLsb' 16 5).toNat

/-- Send a message of the device to a target; an unusable channel discards it (R337). -/
def State.sendTarget (s : State) (v : Word) (g0 : Reg) : State :=
  if s.targetOk v then s.post (v.extractLsb' 0 11) (v.extractLsb' 16 5) none 0 (.device g0) else s

/-- g0 of an inbound doorbell (R337). -/
def doorbellG0 (v : Word) (cyc : Nat) : Reg := ofWords [v, BitVec.ofNat 64 cyc]

/-- A host write to INDB (R337). -/
def State.inboundDoorbell (s : State) (v : Word) : State :=
  let v := storeDoorbell v
  let s := s.withBase { s.base with indb := v }
  if targetEn s.base.mbxtgt then s.sendTarget s.base.mbxtgt (doorbellG0 v s.cyc)
  else s.withBase { s.base with kept := some v }

/-- A device write to MBXTGT: a kept doorbell is sent when EN becomes 1 (R337). -/
def State.writeMbxtgt (s : State) (v : Word) : State :=
  let s := s.withBase { s.base with mbxtgt := storeTarget v }
  match s.base.kept with
  | some d =>
    if targetEn s.base.mbxtgt then
      (s.withBase { s.base with kept := none }).sendTarget s.base.mbxtgt (doorbellG0 d s.cyc)
    else s
  | none => s

/-- A device write to OUTDB raises vector 0 (R337). -/
def State.writeOutdb (s : State) (v : Word) : State :=
  (s.withBase { s.base with outdb := storeDoorbell v }).raise 0

/-- A device write to DEVSTAT raises vector 1 when STAGE changes (R337). -/
def State.writeDevstat (s : State) (v : Word) : State :=
  let old := s.base.devstat.extractLsb' 0 4
  let s := s.withBase { s.base with devstat := v &&& 0xFFFF_FFFF_0000_FF0F }
  if v.extractLsb' 0 4 ≠ old then s.raise 1 else s

/-- A device write to HOSTIRQ raises the vector of its field [4:0], from 2 to 31 (R335). -/
def State.writeHostirq (s : State) (v : Word) : State :=
  let vec := (v.extractLsb' 0 5).toNat
  if 2 ≤ vec then s.raise vec else s

/-- PLIMIT: a write above 2,800 stores 2,800 (R332). -/
def State.writePlimit (s : State) (v : Word) : State :=
  s.withBase { s.base with
    plimit := if 2800 < (v.extractLsb' 0 12).toNat then 2800 else v.extractLsb' 0 12 }

/-! ## The fabric (R339 to R341) -/

/-- The route entry of a destination (R340). -/
def State.routeOf (s : State) (d : BitVec 20) : Word :=
  let i := if d.extractLsb' 10 10 ≠ s.base.myid.extractLsb' 10 10 then (d.extractLsb' 10 10).toNat
           else 1024 + (d.extractLsb' 0 10).toNat
  (tabGet i s.base.route).getD 0

/-- A port that the unit map lists as present (R305). -/
def State.portPresent (s : State) (p : Nat) : Bool := !s.sys.units.noPorts.contains p

/-- The ports of a mask that lead to a destination and are present: from a device whose ID is unassigned only the
port of a direct link partner (R305, R339). -/
def State.portsTo (s : State) (d : BitVec 20) (mask : BitVec 32) : List Nat :=
  (List.range 32).filter fun p =>
    mask.getLsbD p && s.portPresent p && (s.base.myid != 0xF_FFFF || Config.partner p == d)

/-- A port of a mask is up (R340). -/
def State.portUp (s : State) (d : BitVec 20) (mask : BitVec 32) : Bool :=
  (s.portsTo d mask).any fun p => ((s.base.ports[p]?).getD 0).getLsbD 0

/-- Whether traffic to a destination has a route: V = 1 and a port of MASK that is up (R340). -/
def State.routed (s : State) (d : BitVec 20) : Bool :=
  (s.routeOf d).getLsbD 63 && s.portUp d ((s.routeOf d).extractLsb' 0 32)

/-- Count a discarded fabric message, saturating (R339). -/
def State.dropFabric (s : State) : State :=
  s.withBase { s.base with
    fmdrop := if s.base.fmdrop = BitVec.allOnes 32 then s.base.fmdrop else s.base.fmdrop + 1 }

/-- FMSEND: a route entry that is invalid discards the message and counts it (R341); one whose ports are all absent
or down carries nothing, and is taken in the same way (DEDUCED, log 27). -/
def State.fmsend (s : State) (v : BitVec 512) : State :=
  let d := v.extractLsb' 0 20
  if s.routed d then s.emit (.fabricMsg d v) else s.dropFabric

/-- FMDROP: a write clears the count (R339). -/
def State.clearFmdrop (s : State) : State := s.withBase { s.base with fmdrop := 0 }

/-! ## Register reads and writes by the device -/

/-- The host block's registers as the device reads them (R335, R336). -/
def State.hostReg (s : State) (o : Nat) : Word :=
  let b := s.base
  if o = 0x2000 then b.indb
  else if o = 0x2008 then b.inack
  else if o = 0x2010 then b.outdb
  else if o = 0x2018 then b.outack
  else if o = 0x2020 then b.mbxtgt
  else if o = 0x2030 then b.devstat
  else if 0x2100 ≤ o ∧ o < 0x2180 then (b.apbase[(o - 0x2100) / 8]?).getD 0
  else if 0x3000 ≤ o ∧ o < 0x3200 then
    match b.msix[(o - 0x3000) / 16]? with
    | some e => if o % 16 = 0 then e.addr else e.data
    | none => 0
  else if o = 0x3800 then b.msixPending.zeroExtend 64
  else 0

/-- A base-die word at an offset of space 6 (R331, R332, R335, R339, R346). -/
def State.baseWord (s : State) (o : Nat) : Word :=
  let b := s.base
  if o < 0x2000 then BitVec.ofNat 64 (memNat s.mem (6 * 2 ^ 48 + o) 8)
  else if o < 0x1_0000 then s.hostReg o
  else if o < 0x3_0000 then
    let f := o - 0x1_0000
    if f = 0 then b.myid.zeroExtend 64
    else if f = 8 then b.fmtgt
    else if f = 0x10 then b.fmdrop.zeroExtend 64
    else if f = 0x100 then b.impbase
    else if f = 0x108 then b.implen
    else if 0x1000 ≤ f ∧ f < 0x1100 then ((b.ports[(f - 0x1000) / 8]?).getD 0).zeroExtend 64
    else if 0x2000 ≤ f ∧ f < 0x6000 then (tabGet ((f - 0x2000) / 8) b.route).getD 0
    else if 0x1_0000 ≤ f then (tabGet ((f - 0x1_0000) / 8) b.exports).getD 0
    else 0
  else if o < 0x4_0000 then
    if o < 0x3_0040 then (b.mgmt[(o - 0x3_0000) / 8]?).getD 0 else 0
  else if o = 0x4_0000 then b.plimit.zeroExtend 64
  else 0

/-- A device write of one base-die word. Words that the tables do not list, or list as read-only,
discard it. -/
def State.writeBaseWord (s : State) (o : Nat) (v : Word) : State :=
  let b := s.base
  if o < 0x1000 then s
  else if o < 0x2000 then s.write (6 * 2 ^ 48 + o) 8 v.toNat
  else if o = 0x2008 then s.withBase { b with inack := storeAck v }
  else if o = 0x2010 then s.writeOutdb v
  else if o = 0x2020 then s.writeMbxtgt v
  else if o = 0x2028 then s.writeHostirq v
  else if o = 0x2030 then s.writeDevstat v
  else if 0x2100 ≤ o ∧ o < 0x2180 then
    s.withBase { b with apbase := b.apbase.set ((o - 0x2100) / 8) (v &&& 0x800F_FFFF_FFFE_0000) }
  else if o < 0x1_0000 then s
  else if o < 0x3_0000 then
    let f := o - 0x1_0000
    if f = 0 then s.withBase { b with myid := v.extractLsb' 0 20 }
    else if f = 8 then s.withBase { b with fmtgt := storeTarget v }
    else if f = 0x10 then s.clearFmdrop
    else if f = 0x100 then s.withBase { b with impbase := v }
    else if f = 0x108 then s.withBase { b with implen := v }
    else if 0x2000 ≤ f ∧ f < 0x6000 then
      s.withBase { b with route := tabPut ((f - 0x2000) / 8) (v &&& 0xC000_0000_FFFF_FFFF) b.route }
    else if 0x1_0000 ≤ f then
      s.withBase { b with exports := tabPut ((f - 0x1_0000) / 8)
                            (if f % 16 = 0 then v &&& 0xF000_0000_000F_FFFF else v) b.exports }
    else s
  else if o < 0x4_0000 then
    if o < 0x3_0040 then s.withBase { b with mgmt := b.mgmt.set ((o - 0x3_0000) / 8) v } else s
  else if o = 0x4_0000 then s.writePlimit v
  else s

/-- Whether a 64-byte access may stand at an offset of space 6: the registers from 0x2000 to 0x2178 accept only
aligned 8-byte accesses (R335), and the device reads the MSI-X table and pending bits only with such loads (R336). A
.V form there traps ALIGN, as R331 has it of a size that the space does not take (DEDUCED, log 17). -/
def baseTakesV (o : Nat) (write : Bool) : Bool :=
  !(decide (0x2000 ≤ o) && decide (o < 0x2180)) &&
    (write || !((decide (0x3000 ≤ o) && decide (o < 0x3200)) || decide (o / 64 = 0x3800 / 64)))

/-- A read of space 6 by a thread: .D, or .V as eight words (R331, DEDUCED, log 17). -/
def State.readBase (s : State) (o n : Nat) : Reg :=
  if n = 64 then ofWords ((List.range 8).map fun i => s.baseWord (o + 8 * i))
  else ofScalar (s.baseWord o)

/-- A write of space 6 by a thread: .D, or .V as eight words in ascending order, or as one fabric
message at FMSEND (R331, R341, DEDUCED, log 17). -/
def State.writeBase (s : State) (o n : Nat) (x : Reg) : State :=
  if n = 64 then
    if o = 0x1_0040 then s.fmsend x
    else (List.range 8).foldl (fun s i => s.writeBaseWord (o + 8 * i) (lane64 x i)) s
  else s.writeBaseWord o (scalar x)

end Sys2Proof.Machine
end

