-- ==== Sys2Proof/Machine/Float.lean ====
section
/-! DEFINITION. Floating formats (R16, R198 to R201) and exact arithmetic on them: a finite value is a
sign, a natural mantissa and an exponent of two, and every result is rounded once. -/

namespace Sys2Proof.Machine

/-! ## Formats -/

/-- What the codes with an exponent of all ones mean (R198, R199). -/
inductive Specials3 where
  /-- Infinity and NaNs, as IEEE 754-2019. -/
  | ieee
  /-- Only the code of all ones is a NaN; there is no infinity. -/
  | nanOnly
  /-- Every code is finite. -/
  | finite
  deriving DecidableEq, Repr

/-- A floating format: exponent and mantissa bits, bias, special codes, whether quiet and signaling
NaNs differ (R198). -/
structure Fmt where
  eb : Nat
  mb : Nat
  bias : Nat
  cls : Specials3
  signals : Bool
  deriving DecidableEq, Repr

/-- The format of a floating type; e4m3 is read under XS (R198, R199). Integer types have none. -/
def fmtOf (xs : Bool) : Ty → Option Fmt
  | .f16 => some ⟨5, 10, 15, .ieee, true⟩
  | .bf16 => some ⟨8, 7, 127, .ieee, true⟩
  | .f19 => some ⟨8, 10, 127, .ieee, true⟩
  | .f32 => some ⟨8, 23, 127, .ieee, true⟩
  | .f64 => some ⟨11, 52, 1023, .ieee, true⟩
  | .e4m3 => some ⟨4, 3, 7, if xs then .ieee else .nanOnly, false⟩
  | .e5m2 => some ⟨5, 2, 15, .ieee, false⟩
  | .e3m2 => some ⟨3, 2, 3, .finite, false⟩
  | .e2m3 => some ⟨2, 3, 1, .finite, false⟩
  | .e2m1 => some ⟨2, 1, 1, .finite, false⟩
  | _ => none

/-- f32. -/
def fmt32 : Fmt := ⟨8, 23, 127, .ieee, true⟩
/-- f64. -/
def fmt64 : Fmt := ⟨11, 52, 1023, .ieee, true⟩

/-- Bits of the magnitude. -/
def Fmt.mag (f : Fmt) : Nat := f.eb + f.mb

/-- The sign bit's weight. -/
def Fmt.signW (f : Fmt) : Nat := 2 ^ f.mag

/-- The magnitude code of the largest finite value. -/
def Fmt.maxCode (f : Fmt) : Nat :=
  match f.cls with
  | .ieee => (2 ^ f.eb - 1) * 2 ^ f.mb - 1
  | .nanOnly => f.signW - 2
  | .finite => f.signW - 1

/-- The magnitude code of infinity in an IEEE format. -/
def Fmt.infCode (f : Fmt) : Nat := (2 ^ f.eb - 1) * 2 ^ f.mb

/-- The NaN the device writes (R16, R198): the default quiet NaN, 0x7F in e4m3 and e5m2. -/
def Fmt.nan (f : Fmt) : Nat :=
  if f.signals then f.infCode + 2 ^ (f.mb - 1) else f.signW - 1

/-- The exponent of the last mantissa bit of subnormals. -/
def Fmt.emin (f : Fmt) : Int := 1 - (f.bias : Int) - f.mb

/-- What a code stands for. -/
inductive FVal where
  | nan (signaling : Bool)
  | inf (s : Bool)
  /-- (−1)^s × m × 2^e. -/
  | fin (s : Bool) (m : Nat) (e : Int)
  deriving DecidableEq, Repr

/-- Read a code (R198, R199). -/
def Fmt.read (f : Fmt) (x : Nat) : FVal :=
  let s := x.testBit f.mag
  let g := x % f.signW
  let ex := g / 2 ^ f.mb
  let mant := g % 2 ^ f.mb
  let num : FVal :=
    if ex = 0 then .fin s mant f.emin else .fin s (2 ^ f.mb + mant) (f.emin + (ex - 1 : Nat))
  match f.cls with
  | .ieee =>
    if ex = 2 ^ f.eb - 1 then
      if mant = 0 then .inf s else .nan (f.signals && decide (mant < 2 ^ (f.mb - 1)))
    else num
  | .nanOnly => if g = f.signW - 1 then .nan false else num
  | .finite => num

/-- A magnitude with its sign. -/
def Fmt.signed (f : Fmt) (s : Bool) (g : Nat) : Nat := if s then f.signW + g else g

/-! ## Rounding (R201) -/

/-- Whether the magnitude is rounded up: the mode, the sign, the last kept bit, and where the rest
stands: 0 exact, 1 below half, 2 half, 3 above half. -/
def roundsUp (rm : Rnd) (s odd : Bool) (rest : Nat) : Bool :=
  match rm with
  | .dflt | .rne => rest = 3 || (rest = 2 && odd)
  | .rna => rest = 3 || rest = 2
  | .rtz => false
  | .rup => rest != 0 && !s
  | .rdn => rest != 0 && s

/-- Where the remainder of a division by 2^sh stands against half; `sticky` marks a value slightly
above m. -/
def restOf (rem sh : Nat) (sticky : Bool) : Nat :=
  if sh = 0 then (if sticky then 1 else 0)
  else if rem < 2 ^ (sh - 1) then (if rem = 0 && !sticky then 0 else 1)
  else if rem = 2 ^ (sh - 1) then (if sticky then 3 else 2)
  else 3

/-- Round m × 2^e, or a value slightly above it, to the format's grid with the exponent range
unbounded above: the magnitude code, and whether it is inexact (R201). -/
def Fmt.roundMag (f : Fmt) (rm : Rnd) (s : Bool) (m : Nat) (e : Int) (sticky : Bool) : Nat × Bool :=
  if m = 0 then (0, false)
  else
    let q := max (e + (Nat.log2 m : Int) - f.mb) f.emin
    let sh := (q - e).toNat
    let up := (e - q).toNat
    let kept := m * 2 ^ up / 2 ^ sh
    let rest := restOf (m * 2 ^ up % 2 ^ sh) sh sticky
    ((q - f.emin).toNat * 2 ^ f.mb + kept + (if roundsUp rm s (kept % 2 = 1) rest then 1 else 0),
      rest != 0)

/-- Overflow as IEEE 754-2019 settles it, to the largest finite value or to infinity. -/
def overflowsToMax (rm : Rnd) (s : Bool) : Bool :=
  match rm with
  | .dflt | .rne | .rna => false
  | .rtz => true
  | .rup => s
  | .rdn => !s

/-- Round to a wide format; an overflow is settled as IEEE 754-2019 does. -/
def Fmt.round (f : Fmt) (rm : Rnd) (s : Bool) (m : Nat) (e : Int) (sticky : Bool) : Nat :=
  let g := (f.roundMag rm s m e sticky).1
  f.signed s (if f.maxCode < g then (if overflowsToMax rm s then f.maxCode else f.infCode) else g)

/-- A result code and whether NV is set. -/
structure FRes where
  code : Nat
  nv : Bool
  deriving DecidableEq, Repr

/-- The default NaN, with or without NV. -/
def Fmt.nanRes (f : Fmt) (nv : Bool) : FRes := ⟨f.nan, nv⟩

/-- Whether a value is a NaN. -/
def FVal.isNan : FVal → Bool
  | .nan _ => true
  | _ => false

/-- Whether a value is a signaling NaN. -/
def FVal.isSnan : FVal → Bool
  | .nan s => s
  | _ => false

/-- The sign of a value that is not a NaN. -/
def FVal.sign : FVal → Bool
  | .nan _ => false
  | .inf s => s
  | .fin s _ _ => s

/-- The value with its sign inverted. -/
def FVal.neg : FVal → FVal
  | .nan s => .nan s
  | .inf s => .inf (!s)
  | .fin s m e => .fin (!s) m e

/-! ## Exact dyadic numbers -/

/-- A signed mantissa at exponent e as an integer multiple of 2^e0, for e0 ≤ e. -/
def scaleTo (e0 : Int) (s : Bool) (m : Nat) (e : Int) : Int :=
  let v := (m * 2 ^ (e - e0).toNat : Nat)
  if s then -(v : Int) else (v : Int)

/-- Round an exact signed dyadic v × 2^e; `zs` is the sign of an exact zero. -/
def Fmt.roundInt (f : Fmt) (rm : Rnd) (v : Int) (e : Int) (zs : Bool) : Nat :=
  if v = 0 then f.signed zs 0 else f.round rm (v < 0) v.natAbs e false

/-- The sign of a sum of two zeros, or of an exact cancellation (IEEE 754-2019). -/
def zeroSign (rm : Rnd) (a b : Bool) : Bool := if a = b then a else rm = .rdn

/-! ## Operations -/

/-- a + b, rounded once (R114). -/
def Fmt.addV (f : Fmt) (rm : Rnd) (a b : FVal) : FRes :=
  let nv := a.isSnan || b.isSnan
  match a, b with
  | .nan _, _ => f.nanRes nv
  | _, .nan _ => f.nanRes nv
  | .inf s, .inf r => if s = r then ⟨f.signed s f.infCode, false⟩ else f.nanRes true
  | .inf s, _ => ⟨f.signed s f.infCode, false⟩
  | _, .inf s => ⟨f.signed s f.infCode, false⟩
  | .fin s m e, .fin r n g =>
    let e0 := min e g
    ⟨f.roundInt rm (scaleTo e0 s m e + scaleTo e0 r n g) e0
      (if m = 0 && n = 0 then zeroSign rm s r else rm = .rdn), false⟩

/-- a × b, rounded once (R114). -/
def Fmt.mulV (f : Fmt) (rm : Rnd) (a b : FVal) : FRes :=
  let nv := a.isSnan || b.isSnan
  let s := a.sign ^^ b.sign
  match a, b with
  | .nan _, _ => f.nanRes nv
  | _, .nan _ => f.nanRes nv
  | .inf _, .inf _ => ⟨f.signed s f.infCode, false⟩
  | .inf _, .fin _ n _ => if n = 0 then f.nanRes true else ⟨f.signed s f.infCode, false⟩
  | .fin _ m _, .inf _ => if m = 0 then f.nanRes true else ⟨f.signed s f.infCode, false⟩
  | .fin _ m e, .fin _ n g => ⟨f.round rm s (m * n) (e + g) false, false⟩

/-- a × b + c with the product exact, rounded once (R114). -/
def Fmt.fmaV (f : Fmt) (rm : Rnd) (a b c : FVal) : FRes :=
  let nv := a.isSnan || b.isSnan || c.isSnan
  let s := a.sign ^^ b.sign
  let infProd : FRes := match c with
    | .nan _ => f.nanRes nv
    | .inf r => if r = s then ⟨f.signed s f.infCode, false⟩ else f.nanRes true
    | .fin _ _ _ => ⟨f.signed s f.infCode, false⟩
  match a, b with
  | .nan _, _ => f.nanRes nv
  | _, .nan _ => f.nanRes nv
  | .inf _, .inf _ => infProd
  | .inf _, .fin _ n _ => if n = 0 then f.nanRes true else infProd
  | .fin _ m _, .inf _ => if m = 0 then f.nanRes true else infProd
  | .fin _ m e, .fin _ n g =>
    match c with
    | .nan _ => f.nanRes nv
    | .inf r => ⟨f.signed r f.infCode, false⟩
    | .fin r p h =>
      let e0 := min (e + g) h
      ⟨f.roundInt rm (scaleTo e0 s (m * n) (e + g) + scaleTo e0 r p h) e0
        (if m * n = 0 && p = 0 then zeroSign rm s r else rm = .rdn), false⟩

/-- m × 2^e divided by n × 2^g: a quotient of at least `bits` bits, its exponent, and whether the
exact quotient lies slightly above it. -/
def divDyadic (bits m : Nat) (e : Int) (n : Nat) (g : Int) : Nat × Int × Bool :=
  let k := bits + Nat.log2 n + 1
  (m * 2 ^ k / n, e - g - k, m * 2 ^ k % n != 0)

/-- a / b, rounded once (R114). -/
def Fmt.divV (f : Fmt) (rm : Rnd) (a b : FVal) : FRes :=
  let nv := a.isSnan || b.isSnan
  let s := a.sign ^^ b.sign
  match a, b with
  | .nan _, _ => f.nanRes nv
  | _, .nan _ => f.nanRes nv
  | .inf _, .inf _ => f.nanRes true
  | .inf _, .fin _ _ _ => ⟨f.signed s f.infCode, false⟩
  | .fin _ _ _, .inf _ => ⟨f.signed s 0, false⟩
  | .fin _ m e, .fin _ n g =>
    if n = 0 then (if m = 0 then f.nanRes true else ⟨f.signed s f.infCode, false⟩)
    else
      let (q, h, st) := divDyadic (f.mb + 4) m e n g
      ⟨f.round rm s q h st, false⟩

/-- Integer square root by bits: the root of n that extends `acc` below bit b. -/
def isqrtFrom (n : Nat) : Nat → Nat → Nat
  | 0, acc => acc
  | b + 1, acc =>
    let c := acc + 2 ^ b
    isqrtFrom n b (if c * c ≤ n then c else acc)

/-- Integer square root. -/
def isqrt (n : Nat) : Nat := isqrtFrom n (Nat.log2 n / 2 + 1) 0

/-- Square root of m × 2^e to at least `bits` bits: root, exponent, slightly-above mark. -/
def sqrtDyadic (bits m : Nat) (e : Int) : Nat × Int × Bool :=
  let k := 2 * bits + (if (e - 2 * bits) % 2 = 0 then 0 else 1)
  let n := m * 2 ^ k
  let r := isqrt n
  (r, (e - k) / 2, r * r != n)

/-- √a, rounded once (R114). -/
def Fmt.sqrtV (f : Fmt) (rm : Rnd) (a : FVal) : FRes :=
  match a with
  | .nan sn => f.nanRes sn
  | .inf s => if s then f.nanRes true else ⟨f.infCode, false⟩
  | .fin s m e =>
    if m = 0 then ⟨f.signed s 0, false⟩
    else if s then f.nanRes true
    else
      let (r, h, st) := sqrtDyadic (f.mb + 4) m e
      ⟨f.round rm false r h st, false⟩

/-- The integer that a dyadic rounds to, as a magnitude. -/
def roundIntegral (rm : Rnd) (s : Bool) (m : Nat) (e : Int) : Nat :=
  if 0 ≤ e then m * 2 ^ e.toNat
  else
    let sh := (-e).toNat
    let kept := m / 2 ^ sh
    kept + (if roundsUp rm s (kept % 2 = 1) (restOf (m % 2 ^ sh) sh false) then 1 else 0)

/-- a rounded to an integral value (R114). -/
def Fmt.roundV (f : Fmt) (rm : Rnd) (a : FVal) : FRes :=
  match a with
  | .nan sn => f.nanRes sn
  | .inf s => ⟨f.signed s f.infCode, false⟩
  | .fin s m e => ⟨f.round .rtz s (roundIntegral rm s m e) 0 false, false⟩

/-! ## Order -/

/-- A code's place in the order of an IEEE format, −0 and +0 together. -/
def Fmt.key (f : Fmt) (x : Nat) : Int :=
  if x.testBit f.mag then -((x % f.signW : Nat) : Int) else ((x % f.signW : Nat) : Int)

/-- a < b, of codes that are not NaNs. -/
def Fmt.lt (f : Fmt) (a b : Nat) : Bool := f.key a < f.key b

/-- The smaller, or the larger, of two codes under R116. -/
def Fmt.minmax (f : Fmt) (max : Bool) (a b : Nat) : FRes :=
  let va := f.read a
  let vb := f.read b
  let nv := va.isSnan || vb.isSnan
  if va.isNan && vb.isNan then f.nanRes nv
  else if va.isNan then ⟨b, nv⟩
  else if vb.isNan then ⟨a, nv⟩
  else
    let aLess := f.lt a b || (f.key a = f.key b && a.testBit f.mag)
    ⟨if aLess = max then b else a, nv⟩

/-! ## Conversions (R118, R202) -/

/-- Round a value into a format under the conversion rules: `sat` resolves overflow. -/
def Fmt.convert (f : Fmt) (rm : Rnd) (sat : Bool) (a : FVal) : FRes :=
  match a with
  | .nan sn => if f.cls = .finite then ⟨0, true⟩ else f.nanRes sn
  | .inf s =>
    match f.cls with
    | .ieee => ⟨f.signed s f.infCode, false⟩
    | .nanOnly => if sat then ⟨f.signed s f.maxCode, false⟩ else f.nanRes false
    | .finite => ⟨f.signed s f.maxCode, false⟩
  | .fin s m e =>
    let g := (f.roundMag rm s m e false).1
    if g ≤ f.maxCode then ⟨f.signed s g, false⟩
    else if overflowsToMax rm s || sat || f.cls = .finite then ⟨f.signed s f.maxCode, false⟩
    else
      match f.cls with
      | .ieee => ⟨f.signed s f.infCode, false⟩
      | _ => f.nanRes false

/-- The range of an integer type (R197). -/
def intRange : Ty → Int × Int
  | .i4 => (-8, 7)
  | .n4 => (0, 15)
  | ty => if ty.isSigned then (-(2 : Int) ^ (ty.width - 1), (2 : Int) ^ (ty.width - 1) - 1)
          else (0, (2 : Int) ^ ty.width - 1)

/-- An integer saturated to a type's range, and whether it had to be (R202). -/
def saturate (ty : Ty) (v : Int) : Int × Bool :=
  let (lo, hi) := intRange ty
  (clampInt lo hi v, decide (v < lo) || decide (hi < v))

/-- Bits of an integer type's value. -/
def intBits : Ty → Nat
  | .i4 | .n4 => 4
  | ty => ty.width

/-- A floating value to an integer under R118. -/
def cvtInt (ty : Ty) (rm : Rnd) (a : FVal) : FRes :=
  match a with
  | .nan _ => ⟨0, true⟩
  | .inf s => ⟨wrap (intBits ty) (if s then (intRange ty).1 else (intRange ty).2), true⟩
  | .fin s m e =>
    let g := roundIntegral rm s m e
    let (v, nv) := saturate ty (if s then -(g : Int) else (g : Int))
    ⟨wrap (intBits ty) v, nv⟩

/-- An integer value as a dyadic. -/
def intVal (v : Int) : FVal := .fin (v < 0) v.natAbs 0

/-! ## The approximate functions (R117) -/

/-- A result that lies between two neighbours: their codes, equal where the result is exact. -/
structure Bracket where
  lo : Nat
  hi : Nat
  nv : Bool
  deriving DecidableEq, Repr

/-- An exact result. -/
def Bracket.exact (c : Nat) (nv : Bool) : Bracket := ⟨c, c, nv⟩

/-- The neighbours of m × 2^e, or of a value slightly above it, with a sign. -/
def Fmt.bracket (f : Fmt) (s : Bool) (m : Nat) (e : Int) (sticky : Bool) : Bracket :=
  let (g, inexact) := f.roundMag .rtz s m e sticky
  if f.maxCode < g then ⟨f.signed s f.maxCode, f.signed s f.infCode, false⟩
  else if inexact then ⟨f.signed s g, f.signed s (g + 1), false⟩
  else .exact (f.signed s g) false

/-- 1/a. -/
def Fmt.rcpV (f : Fmt) (a : FVal) : Bracket :=
  match a with
  | .nan sn => .exact f.nan sn
  | .inf s => .exact (f.signed s 0) false
  | .fin s m e =>
    if m = 0 then .exact (f.signed s f.infCode) false
    else
      let (q, h, st) := divDyadic (2 * f.mb + 8) 1 0 m e
      f.bracket s q h st

/-- 1/√a. -/
def Fmt.rsqV (f : Fmt) (a : FVal) : Bracket :=
  match a with
  | .nan sn => .exact f.nan sn
  | .inf s => if s then .exact f.nan true else .exact 0 false
  | .fin s m e =>
    if m = 0 then .exact (f.signed s f.infCode) false
    else if s then .exact f.nan true
    else
      let (m, e) := if e % 2 = 0 then (m, e) else (2 * m, e - 1)
      let k := f.mb + 8 + Nat.log2 m
      let r := isqrt (2 ^ (2 * k) / m)
      f.bracket false r (-(e / 2) - k) (r * r * m != 2 ^ (2 * k))

/-- ln 2 × 2^256, rounded down. -/
def ln2Fix : Nat := 0xb17217f7d1cf79abc9e3b39803f2f6af40f343267298b62d8a0d175b8baafa2b

/-- Σ y^i / i! in fixed point with 256 fraction bits, from term i on; `term` is y^i / i!. -/
def expSeries (y : Nat) : Nat → Nat → Nat → Nat
  | 0, _, _ => 0
  | fuel + 1, i, term => term + expSeries y fuel (i + 1) (term * y / 2 ^ 256 / (i + 1))

/-- 2^x in fixed point with 256 fraction bits, for a fraction x / 2^256 below 1. -/
def exp2Fix (x : Nat) : Nat := expSeries (x * ln2Fix / 2 ^ 256) 70 0 (2 ^ 256)

/-- Σ z^(2i+1) / (2i+1) in fixed point with 256 fraction bits; `term` is z^(2i+1). -/
def atanhSeries (z2 : Nat) : Nat → Nat → Nat → Nat
  | 0, _, _ => 0
  | fuel + 1, i, term => term / (2 * i + 1) + atanhSeries z2 fuel (i + 1) (term * z2 / 2 ^ 256)

/-- log2 of m / 2^k in fixed point with 256 fraction bits, for a quotient from 1 to 2. -/
def log2Fix (m k : Nat) : Nat :=
  let z := (m - 2 ^ k) * 2 ^ 256 / (m + 2 ^ k)
  2 * atanhSeries (z * z / 2 ^ 256) 90 0 z * 2 ^ 256 / ln2Fix

/-- 2^a. The fixed-point value is within 2^−240 of the exact one, which is irrational for a non-integer
a; its neighbours in the format are read from it. -/
def Fmt.exp2V (f : Fmt) (a : FVal) : Bracket :=
  match a with
  | .nan sn => .exact f.nan sn
  | .inf s => .exact (if s then 0 else f.infCode) false
  | .fin s m e =>
    if m = 0 then f.bracket false 1 0 false
    else if e + (Nat.log2 m : Int) < -100 then
      if s then f.bracket false (2 ^ 120 - 1) (-120) true else f.bracket false (2 ^ 120) (-120) true
    else if 20 < e + (Nat.log2 m : Int) then
      if s then ⟨0, 1, false⟩ else ⟨f.maxCode, f.infCode, false⟩
    else
      let v := scaleTo (-256) s (m * 2 ^ (e + 256).toNat / 2 ^ (-(e + 256)).toNat) (-256)
      let n := v / (2 : Int) ^ 256
      let x := (v % (2 : Int) ^ 256).toNat
      if x = 0 then f.bracket false 1 n false
      else f.bracket false (exp2Fix x) (n - 256) true

/-- log2 a. The fixed-point value is within 2^−240 of the exact one, which is irrational unless a is a
power of two. -/
def Fmt.log2V (f : Fmt) (a : FVal) : Bracket :=
  match a with
  | .nan sn => .exact f.nan sn
  | .inf s => if s then .exact f.nan true else .exact f.infCode false
  | .fin s m e =>
    if m = 0 then .exact (f.signed true f.infCode) false
    else if s then .exact f.nan true
    else
      let k := Nat.log2 m
      let n : Int := e + k
      if m = 2 ^ k then
        f.bracket (n < 0) n.natAbs 0 false
      else
        let v := n * (2 : Int) ^ 256 + log2Fix m k
        f.bracket (v < 0) v.natAbs (-256) true

end Sys2Proof.Machine
end

