-- ==== Sys2Proof/Machine/Bank.lean ====
section
/-! DEFINITION. What a bank does with one access, and how it settles the Skerries of a word
(R151 to R158, R182 to R188, R244, R245). -/

namespace Sys2Proof.Machine

/-! ## Forms -/

/-- Bytes of an access. -/
def Form.bytes : Form → Nat
  | .load n _ | .store n _ => n
  | .ldw v | .ldc v | .stf v _ | .ste v _ | .feset v _ | .feget v | .waitv v _ => if v then 64 else 8
  | .atom _ n _ _ => n
  | .barinit _ | .bararr _ _ | .barwait _ | .barcount _ => 16

/-- Forms that store, which never touch a read-duplicated page without a collapse (R288). -/
def Form.writes : Form → Bool
  | .store _ _ | .ldc _ | .stf _ _ | .ste _ _ | .feset _ _ | .atom _ _ _ _ | .barinit _
  | .bararr _ _ | .barcount _ => true
  | .load _ _ | .ldw _ | .feget _ | .waitv _ _ | .barwait _ => false

/-- Forms that can wait at a bank (R152, R266). -/
def Form.mayWait : Form → Bool
  | .ldw _ | .ldc _ | .stf _ _ | .waitv _ _ | .barwait _ => true
  | _ => false

/-- The rights a form needs, in the order P T S X W R (R11, R180, R185, R264 to R266). -/
def Form.rights : Form → BitVec 6
  | .load _ _ => 0b000001
  | .store _ _ => 0b000010
  | .ldw _ | .feget _ | .waitv _ _ | .barwait _ => 0b001001
  | .stf _ _ | .ste _ _ | .feset _ _ => 0b001010
  | .ldc _ | .atom _ _ _ _ | .barinit _ | .bararr _ _ | .barcount _ => 0b001011

/-- A full/empty form, an atomic or a barrier form: what base-die space and the peer window refuse
(R148, R244). -/
def Form.sync : Form → Bool
  | .load _ _ | .store _ _ => false
  | _ => true

/-- Carried over the fabric as a system-scope atomic: AADD, ASWP and ACAS (R148, R185). -/
def Form.carried : Form → Bool
  | .atom .add n _ _ | .atom .swp n _ _ | .atom .cas n _ _ => n = 4 || n = 8
  | _ => false

/-! ## Units behind an address -/

/-- The state of a Strait, 64 × die + Strait: [0] present, [1] retired, [2] withdrawn (R309). -/
def State.strait (s : State) (i : Nat) : BitVec 3 := (tabGet i s.sys.units.straits).getD 1

/-- A cap address whose bank is withdrawn (R146, R305). -/
def State.withdrawn (s : State) (k : Nat) : Bool :=
  decide (paSpace k < 4) &&
    (let w := s.strait (straitOf k)
     w.getLsbD 2 || !w.getLsbD 0)

/-- The bank of a key, as a number, and its Skerry table's size (R154). -/
def State.bank (s : State) (k : Nat) : Nat × Nat :=
  match poolOf k with
  | some (c, o) => (2 ^ 20 + c * 32 + scratchBank o, 64)
  | none =>
    if paSpace k < 4 then (paSpace k * 4096 + capBank k, 256)
    else (2 ^ 19 + (paOff k / 256) % s.channels, 16384)

/-! ## One bank step -/

/-- What a bank answers to an access. -/
inductive Ans where
  | ok (v : Reg)
  | wait
  | bad (code : BitVec 8)
  deriving DecidableEq, Repr

/-- Whether every word of an access is full. -/
def State.allFull (s : State) (k n : Nat) : Bool := (wordsOf k n).all fun w => s.full w

/-- Whether every word of an access is empty. -/
def State.allEmpty (s : State) (k n : Nat) : Bool := (wordsOf k n).all fun w => !s.full w

/-- Every word's bit set to one value. -/
def State.setBits (s : State) (k n : Nat) (b : Bool) : State :=
  (wordsOf k n).foldl (fun s w => s.setFull w b) s

/-- The bits of an access, word j in bit j. -/
def State.bits (s : State) (k n : Nat) : Nat :=
  ((List.range ((n + 7) / 8)).map fun j => if s.full (k + 8 * j) then 2 ^ j else 0).sum

/-- Bits set from the low bits of a value, word j from bit j. -/
def State.setBitsFrom (s : State) (k n v : Nat) : State :=
  (List.range ((n + 7) / 8)).foldl (fun s j => s.setFull (k + 8 * j) (v.testBit j)) s

/-- A floating addition at a bank: RNE, default NaN, no flag (R187). -/
def bankFadd (n : Nat) (x y : Nat) : Nat :=
  let f := if n = 4 then fmt32 else fmt64
  (f.addV .rne (f.read x) (f.read y)).code

/-- The new value of an atomic (R185, R186). -/
def AtomOp.apply (op : AtomOp) (n t x new : Nat) : Nat :=
  let w := 8 * n
  match op with
  | .add => (t + x) % 2 ^ w
  | .and => t &&& x
  | .or => t ||| x
  | .xor => t ^^^ x
  | .min => if sgn w t ≤ sgn w x then t else x
  | .max => if sgn w t ≤ sgn w x then x else t
  | .minn => if t ≤ x then t else x
  | .maxn => if t ≤ x then x else t
  | .swp => x
  | .cas => if t = x then new else t
  | .fadd => bankFadd n t x

/-- The low word of a barrier object (R244). -/
def barLow (exp arr : BitVec 20) (gen : BitVec 4) : Word := 0#20 ++ exp ++ arr ++ gen

/-- The fields of a barrier object at a key: EXP, ARR, GEN, IN, OUT. -/
structure BarObj where
  exp : BitVec 20
  arr : BitVec 20
  gen : BitVec 4
  inn : BitVec 32
  out : BitVec 32
  deriving DecidableEq, Repr

/-- Read a barrier object (R244). -/
def State.readBar (s : State) (k : Nat) : BarObj :=
  let lo : Word := BitVec.ofNat 64 (s.read k 8)
  let hi : Word := BitVec.ofNat 64 (s.read (k + 8) 8)
  ⟨lo.extractLsb' 24 20, lo.extractLsb' 4 20, lo.extractLsb' 0 4, hi.extractLsb' 0 32,
    hi.extractLsb' 32 32⟩

/-- Write a barrier object, both words full (R245). Bits [63:44] of its low word, which a plain store may have left set,
are written as zero at every update, an over-arrival among them (DESIGN CHOICE, log 57). -/
def State.writeBar (s : State) (k : Nat) (b : BarObj) : State :=
  (((s.write k 8 (barLow b.exp b.arr b.gen).toNat).write (k + 8) 8 (b.out ++ b.inn).toNat)).fillBits
    k 16

/-- The phase test of R245: a complete phase advances GEN and reloads ARR. -/
def BarObj.phase (b : BarObj) : BarObj × Bool :=
  if b.arr = 0 && b.inn = 0 && b.out = 0 then ({ b with gen := b.gen + 1, arr := b.exp }, true)
  else (b, false)

/-- An arrival: the new object, over-arrival, phase complete (R245). -/
def BarObj.arrive (b : BarObj) (out : Bool) (n : BitVec 32) : BarObj × Bool × Bool :=
  if b.arr = 0 then (b, true, false)
  else
    let b1 := { b with arr := b.arr - 1 }
    let b2 := if out then { b1 with out := b1.out + n } else { b1 with inn := b1.inn + n }
    let (b3, p) := b2.phase
    (b3, false, p)

/-- A copy's countdown: the new object, phase complete (R245). -/
def BarObj.count (b : BarObj) (out : Bool) : BarObj × Bool :=
  (if out then { b with out := b.out - 1 } else { b with inn := b.inn - 1 }).phase

/-- What one access does at its bank, waiting Skerries apart: the new state, the answer, and whether a
barrier phase completed (R152, R182 to R188, R245). -/
def act (s : State) (k : Nat) : Form → State × Ans × Bool
  | .load n sx =>
    let x := s.read k n
    (s, .ok (if sx && n != 64 then ofScalar (BitVec.ofInt 64 (sgn (8 * n) x)) else BitVec.ofNat 512 x), false)
  | .store n x => ((s.write k n x.toNat).fillBits k n, .ok 0, false)
  | .ldw v =>
    let n := if v then 64 else 8
    if s.allFull k n then (s, .ok (BitVec.ofNat 512 (s.read k n)), false) else (s, .wait, false)
  | .ldc v =>
    let n := if v then 64 else 8
    if s.allFull k n then (s.setBits k n false, .ok (BitVec.ofNat 512 (s.read k n)), false)
    else (s, .wait, false)
  | .stf v x =>
    let n := if v then 64 else 8
    if s.allEmpty k n then ((s.write k n x.toNat).setBits k n true, .ok 0, false)
    else (s, .wait, false)
  | .ste v x =>
    let n := if v then 64 else 8
    ((s.write k n x.toNat).setBits k n false, .ok 0, false)
  | .feset v x => (s.setBitsFrom k (if v then 64 else 8) x.toNat, .ok 0, false)
  | .feget v => (s, .ok (BitVec.ofNat 512 (s.bits k (if v then 64 else 8))), false)
  | .waitv v x =>
    let n := if v then 64 else 8
    if s.read k n = x.toNat % 2 ^ (8 * n) then (s, .wait, false) else (s, .ok 0, false)
  | .atom op n x new =>
    let t := s.read k n
    ((s.write k n (op.apply n t (x.toNat % 2 ^ (8 * n)) (new.toNat % 2 ^ (8 * n)))).fillBits k n,
      .ok (BitVec.ofNat 512 t), false)
  | .barinit exp => (s.writeBar k ⟨exp, exp, 0, 0, 0⟩, .ok 0, false)
  | .bararr out n =>
    let b := s.readBar k
    let (b', late, p) := b.arrive out n
    (s.writeBar k b', .ok (BitVec.ofNat 512 (b.gen.toNat + (if late then 16 else 0))), p)
  | .barwait gen =>
    if (s.readBar k).gen = gen then (s, .wait, false) else (s, .ok 0, false)
  | .barcount out =>
    let (b', p) := (s.readBar k).count out
    (s.writeBar k b', .ok 0, p)

/-! ## Settling Skerries (R155) -/

/-- The words an access touches. -/
def Access.words (a : Access) : List Nat :=
  match a.key with
  | some k => (wordsOf k a.form.bytes).map (· / 8)
  | none => []

/-- An access is a Skerry on a word. -/
def Access.skerryOn (a : Access) (w : Nat) : Bool := a.stage = .skerry && a.words.contains w

/-- The accesses with one replaced, by number. -/
def setAcc (a : Access) (l : List Access) : List Access := l.map fun b => if b.n = a.n then a else b

/-- Replace an access. -/
def State.setAccess (s : State) (a : Access) : State := { s with accs := setAcc a s.accs }

/-- A bank has accepted a waiting access: its thread's %febudget becomes 64 (R158). -/
def State.refill (s : State) (a : Access) : State :=
  match a.agent with
  | .thread =>
    match s.thread? a.t with
    | some t => s.setThread { t with sp := { t.sp with febudget := 64 } }
    | none => s
  | _ => s

/-- A Skerry's kind in the settling order. -/
inductive SkerryKind where
  | waitv | ldw | ldc | stf | other
  deriving DecidableEq, Repr

/-- The kind of a form. -/
def Form.kind : Form → SkerryKind
  | .waitv _ _ => .waitv
  | .ldw _ => .ldw
  | .ldc _ => .ldc
  | .stf _ _ => .stf
  | _ => .other

/-- Complete one Skerry at the bank, on its thread's behalf: new state and words it writes. -/
def completeSkerry (s : State) (a : Access) : State × List Nat :=
  match a.key with
  | none => (s, [])
  | some k =>
    let (s1, ans, _) := act s k a.form
    match ans with
    | .ok v => ((s1.setAccess { a with stage := .done v }).refill a,
                if a.form.writes then a.words else [])
    | _ => (s, [])

/-- Whether a Skerry's condition holds. -/
def State.skerryReady (s : State) (a : Access) : Bool :=
  match a.key with
  | none => false
  | some k =>
    match (act s k a.form).2.1 with
    | .ok _ => true
    | _ => false

/-- The first Skerry of a kind on a word whose condition holds, in FIFO order. -/
def State.firstReady (s : State) (w : Nat) (kind : SkerryKind) : Option Access :=
  s.accs.find? fun a => a.skerryOn w && a.form.kind = kind && s.skerryReady a

/-- One settling of a word after a write: a WAITV Skerry returns; a full word completes its LDW
Skerries and then its first LDC; an empty one its first STF. -/
def settleOne (s : State) (w : Nat) : Option (State × List Nat) :=
  match s.accs.find? fun a => a.skerryOn w && a.form.kind = .waitv with
  | some a => some ((s.setAccess { a with stage := .done 0 }).refill a, [])
  | none =>
    if s.full (8 * w) then
      match s.firstReady w .ldw with
      | some a => some (completeSkerry s a)
      | none => (s.firstReady w .ldc).map (completeSkerry s)
    else (s.firstReady w .stf).map (completeSkerry s)

/-- Settle a list of words, one after the other; a completion that writes adds its own words. -/
def settleWords : Nat → List Nat → State → State
  | 0, _, s => s
  | _ + 1, [], s => s
  | fuel + 1, w :: ws, s =>
    match settleOne s w with
    | none => settleWords fuel ws s
    | some (s', more) => settleWords fuel (w :: ws ++ more) s'

/-- Settle the Skerries of the words of a write (R155), in ascending order of the words (DESIGN CHOICE, log 53). -/
def State.settle (s : State) (k n : Nat) : State :=
  if s.accs.isEmpty then s
  else settleWords (10 * s.accs.length + 10) ((wordsOf k n).map (· / 8)) s

/-- The words of a range on which Skerries wait, rising. -/
def State.waitedWords (s : State) (k n : Nat) : List Nat :=
  s.accs.foldr (fun (a : Access) l =>
    if a.stage = .skerry then a.words.foldr (fun w l =>
      if k / 8 ≤ w ∧ 8 * w < k + n then setAdd w l else l) l
    else l) []

/-- Settle every word of a range on which a Skerry waits: what a whole range's bits and data become without an
access by access store (R153, R155). -/
def State.settleIn (s : State) (k n : Nat) : State :=
  settleWords (10 * s.accs.length + 10) (s.waitedWords k n) s

/-- A range zeroed and made full, its Skerries settled (R100, R153). -/
def State.cleared (s : State) (k n : Nat) : State := (s.zeroed k n).settleIn k n

/-- A phase completion wakes every BARWAIT Skerry on the object (R245). -/
def State.wakeBarrier (s : State) (k : Nat) : State :=
  (s.accs.filter fun a => a.stage = .skerry && a.key = some k &&
      match a.form with | .barwait _ => true | _ => false).foldl
    (fun s a => (s.setAccess { a with stage := .done 0 }).refill a) s

/-! ## An access at its bank -/

/-- The cause of a word that no access can use: POISON, or else WITHDRAWN (R23, R146, R162). -/
def State.badAt (s : State) (k n : Nat) : Option (BitVec 8) :=
  if (wordsOf k n).any fun w => s.bad w then some 0x0E
  else if s.withdrawn k then some 0x0F
  else none

/-- The whole bank step of an access: a bad word answers its cause; otherwise the access acts, and a
write settles the Skerries of its words and a complete phase wakes its waiters. -/
def bankStep (s : State) (k : Nat) (f : Form) : State × Ans :=
  if paSpace k = 6 && (poolOf k).isNone then
    match f with
    | .load n _ => (s, .ok (s.readBase (paOff k) n))
    | .store n x => (s.writeBase (paOff k) n x, .ok 0)
    | _ => (s, .bad 0x09)
  else
    match s.badAt k f.bytes with
    | some c => (s, .bad c)
    | none =>
      let (s1, ans, p) := act s k f
      match ans with
      | .ok v =>
        let s2 := if f.writes then s1.settle k f.bytes else s1
        (if p then s2.wakeBarrier k else s2, .ok v)
      | a => (s1, a)

/-- Skerries at the bank of a key. -/
def State.skerriesAt (s : State) (k : Nat) : List Access :=
  s.accs.filter fun a => a.stage = .skerry && (a.key.map fun j => (s.bank j).1) = some (s.bank k).1

/-- A full/empty wait begins: the access's thread parks, if it has not yet (R67). -/
def State.beginWait (s : State) (a : Access) : State :=
  match (if a.agent = .thread && !a.rel then s.thread? a.t else none) with
  | some t => if t.state = .ready then s.setThread { t with state := .parked } else s
  | none => s

/-- A waiting access at its bank: it becomes a Skerry, last in FIFO order; a full table evicts its
oldest WAITV.D, or refuses the access (R154, R157). `cyc` fixes the retry. -/
def State.keepWaiting (s : State) (a : Access) : State :=
  match a.key with
  | none => s
  | some k =>
    let s := s.beginWait a
    let here := s.skerriesAt k
    let park (s : State) : State :=
      ({ s with accs := s.accs.filter (fun (b : Access) => b.n != a.n) ++
          [{ a with stage := .skerry, refusals := 0 }] }).refill a
    if here.length < (s.bank k).2 then park s
    else
      match here.find? fun b => b.form.kind = .waitv && b.form.bytes = 8 with
      | some b => park ((s.setAccess { b with stage := .done 0 }).refill b)
      | none =>
        s.setAccess { a with stage := .refused (s.cyc + 32 * 2 ^ (min a.refusals 5)),
                             refusals := a.refusals + 1 }

/-! ## Combined atomics (R159, R172) -/

/-- Terms added by some binary tree of roundings (R172): each step adds two of those left, as the free values
choose (DESIGN CHOICE, log 12). -/
def riderSum (n : Nat) : Nat → List Nat → State → Nat × State
  | 0, l, s => (l.headD 0, s)
  | fuel + 1, l, s =>
    if l.length < 2 then (l.headD 0, s)
    else
      let c := Config.freePair s.free l.length
      let rest := l.eraseIdx (c % l.length)
      let j := c / l.length % rest.length
      riderSum n fuel (rest.set j (bankFadd n (l.getD (c % l.length) 0) (rest.getD j 0)))
        { s with free := s.free + 1 }

/-- What the atomics of one combined write answer, in their order, and the word's new value: the floating additions
each by a tree of their own over the old value and the terms before their own (R172), the others one after the other
(R188). -/
def combinedVals (op : AtomOp) (n old : Nat) (xs : List Nat) (s : State) : List Nat × Nat × State :=
  if op = .fadd then
    let (l, s1) := (List.range xs.length).foldl (fun (p : List Nat × State) i =>
      let (v, s) := riderSum n xs.length (old :: xs.take i) p.2
      (p.1 ++ [v], s)) ([], s)
    let (v, s2) := riderSum n xs.length (old :: xs) s1
    (l, v, s2)
  else
    let l := xs.foldl (fun (p : List Nat × Nat) x => (p.1 ++ [p.2], op.apply n p.2 x 0)) ([], old)
    (l.1, l.2, s)

/-- The access of a number. -/
def State.acc? (s : State) (n : Nat) : Option Access := s.accs.find? fun a => a.n = n

/-- A stage given to the access of a number. -/
def State.stageAcc (s : State) (n : Nat) (g : Stage) : State :=
  match s.acc? n with
  | some a => s.setAccess { a with stage := g }
  | none => s

/-- One combined write at the bank: one step, the bit full, Skerries settled once, and an answer to each requester
(R159). -/
def State.combinedArrive (s : State) (a : Access) (k : Nat) (op : AtomOp) (n : Nat) (x : Word) : State :=
  let who := a.n :: a.riders.map (·.1)
  match s.badAt k n with
  | some c => who.foldl (fun s i => s.stageAcc i (.failed c)) s
  | none =>
    let xs := (x :: a.riders.map (·.2)).map fun (w : Word) => w.toNat % 2 ^ (8 * n)
    let (l, v, s1) := combinedVals op n (s.read k n) xs s
    let s2 := ((s1.write k n v).fillBits k n).settle k n
    (who.zip l).foldl (fun s p => s.stageAcc p.1 (.done (BitVec.ofNat 512 p.2))) s2

/-- An access in the accesses' list arrives at its bank (R155). -/
def State.bankArrive (s : State) (a : Access) : State :=
  match a.key with
  | none => s
  | some k =>
    match a.form, a.riders with
    | .atom op n x _, _ :: _ => s.combinedArrive a k op n x
    | _, _ =>
      let (s1, ans) := bankStep s k a.form
      match ans with
      | .ok v =>
        let s2 := s1.setAccess { a with stage := .done v }
        if a.form.mayWait then s2.refill a else s2
      | .wait => s1.keepWaiting a
      | .bad c => s1.setAccess { a with stage := .failed c }

end Sys2Proof.Machine
end

