-- ==== Sys2Proof/Machine/Start.lean ====
section
/-! DEFINITION. Slots, windows, pool allocations and tile slots of a core, and the state in which a
thread starts (R4, R17, R68, R73, R100). -/

namespace Sys2Proof.Machine

/-! ## Room on a core -/

/-- The lowest FREE slot of a core (R73). -/
def State.freeSlot (s : State) (c : Nat) : Option Nat :=
  (List.range Config.slotsPerCore).find? fun i =>
    (s.thread? (mkIdent (BitVec.ofNat 11 c) i)).isNone

/-- Two runs do not meet. -/
def apart (a n b m : Nat) : Bool := n = 0 || m = 0 || decide (a + n ≤ b) || decide (b + m ≤ a)

/-- The lowest base, a multiple of 8, at which n register entries are free (R68). -/
def State.freeRun (s : State) (c n : Nat) : Option Nat :=
  let busy := (s.threadsOf c).map fun t => (t.wbase, t.win)
  ((List.range (Config.regFile / 8)).map (8 * ·)).find? fun b =>
    decide (b + n ≤ Config.regFile) && busy.all fun w => apart b n w.1 w.2

/-- The routines dispatched to a core that have not started. -/
def State.routinesFor (s : State) (c : Nat) : List Dispatch :=
  ((s.mesh.filter fun m => m.core.toNat = c) ++ (s.core c).inbuf).filterMap fun m =>
    match m.body with
    | .routine d => some d
    | _ => none

/-- Scratch allocations of a core: offset and bytes. -/
def State.poolUse (s : State) (c : Nat) : List (Nat × Nat) :=
  (s.threadsOf c).filterMap (·.pool) ++ (s.routinesFor c).filterMap (·.pool)

/-- Tile slots held on a core: first and number. -/
def State.tileUse (s : State) (c : Nat) : List (Nat × Nat) :=
  (s.threadsOf c).map (·.tiles) ++ (s.routinesFor c).map (·.tiles)

/-- n units from b lie in [0, size) apart from what is in use. -/
def fitsAt (size n : Nat) (busy : List (Nat × Nat)) (b : Nat) : Bool :=
  decide (b + n ≤ size) && busy.all fun r => apart b n r.1 r.2

/-- A place for n units in [0, size) apart from what is in use, none where there is none: the place `free` if
it is one, else the lowest (DESIGN CHOICE, log 19). -/
def placeIn (free size n : Nat) (busy : List (Nat × Nat)) : Option Nat :=
  if n = 0 then some 0
  else
    match ((0 :: busy.map fun r => r.1 + r.2).filter (fitsAt size n busy)).min? with
    | none => none
    | some b => some (if fitsAt size n busy free then free else b)

/-- A contiguous free run of scratch bytes (R85). -/
def State.poolPlace (s : State) (c n : Nat) : Option Nat := 
  placeIn (64 * Config.freePlace s.free 0) (s.scratchBytes c) n (s.poolUse c)

/-- Contiguous free tile slots (R85). -/
def State.tilePlace (s : State) (c n : Nat) : Option Nat := 
  placeIn (Config.freePlace s.free 1) (s.tileSlots c) n (s.tileUse c)

/-- The state that has placed something: its next choice of a place is another one (DESIGN CHOICE, log 19). -/
def State.placed (s : State) : State := { s with free := s.free + 1 }

/-! ## A starting thread -/

/-- Window of a channel: (WIN + 1) × 8 (R73). -/
def Chan.window (e : Chan) : Nat := 8 * (e.win + 1)

/-- The kernel code descriptor of a domain (DESIGN CHOICE, log 7). -/
def State.codeOf (s : State) (d : BitVec 32) : BitVec 128 := (tabGet d.toNat s.codeSeg).getD 0

/-- Specials of a starting thread (R19, R20). -/
def Specials.start (xs : Bool) (pl : Nat) (region : Nat) (domain : BitVec 32) : Specials :=
  { status := BitVec.ofNat 64 (4 + pl + if xs then 32 else 0), tcause := 0, tinfo := 0, tepc := 0,
    febudget := 64, fill := 0, bounds := List.replicate 6 0, cwp := List.replicate 4 0, estat := 0,
    fmta := 0, fmtb := 0, fmtc := 0, scla := 0, sclb := 0, tileb := 0,
    deadline := BitVec.allOnes 64, stamp := 0, region := BitVec.ofNat 64 region,
    domain := domain.zeroExtend 64 }

/-- A window of n entries, zero and present (R68). -/
def freshRegs (n : Nat) : List RegEntry :=
  List.replicate n { val := 0, pres := .present, poison := false }

/-- The state of a thread that starts on a channel (R4, R73). -/
def Thread.start (id : Ident) (cls : Cls) (prio wbase win : Nat) (pc : Word) (sp : Specials)
    (code : BitVec 128) : Thread :=
  { id := id, state := .ready, wait := .none, dbg := false, regionHeld := false, pending := [],
    cls := cls, prio := prio, rcb := 0, parent := 0, wbase := wbase, regs := freshRegs win,
    masks := List.replicate 7 0, segs := code :: List.replicate 7 0, pc := pc, sp := sp,
    nextBatch := 0, batchOps := 0, reopen := 0, yielded := none, firstTurn := 0, ifenced := 0, chan1 := false,
    voids := [], released := false, pool := none, tiles := (0, 0), stampArg := none, image := [], roomWait := false,
    killed := none, spec := none, disp := none, ctx := 0, saved := [] }

/-- Payload registers g0 on written present. -/
def Thread.payload (t : Thread) (regs : List Reg) : Thread :=
  { t with regs := t.regs.mapIdx fun i e =>
      match regs[i]? with
      | some v => { val := v, pres := .present, poison := false }
      | none => e }

/-- seg1 of a leaf: its pool allocation with R, W and S (R100). -/
def poolSeg (c : Nat) (pool : Option (Nat × Nat)) : BitVec 128 :=
  match pool with
  | some (o, n) => if n = 0 then 0 else mkSeg (BitVec.ofNat 64 (poolKey c o)) n 0b001011
  | none => 0

/-- The thread of a dispatched routine (R73, R100). -/
def Thread.ofDispatch (id : Ident) (wbase win : Nat) (xs : Bool) (d : Dispatch) : Thread :=
  let sp := Specials.start xs 0 d.region d.domain
  let t := Thread.start id d.cls d.prio wbase win d.entry
    { sp with
      fmta := d.fmta, fmtb := d.fmtb, fmtc := d.fmtc, scla := d.scla, sclb := d.sclb,
      tileb := if d.tiles.2 = 0 then 0 else BitVec.ofNat 64 d.tiles.1,
      deadline := d.deadline, stamp := d.stamp } d.code
  { t.payload [d.g0, d.g1] with
    segs := d.code :: poolSeg id.core.toNat d.pool :: d.segs,
    rcb := d.rcb, parent := d.parent, pool := d.pool, tiles := d.tiles, disp := some d,
    spec := d.stamped.map fun a =>
      { anc := a, cluster := clusterOf id.core.toNat, stores := [], reads := [], fwd := [],
        direct := false, committing := false } }

/-- Tile slots returned to their reset condition, their bytes zero. -/
def State.clearTiles (s : State) (c first n : Nat) : State :=
  let k := s.core c
  let s := s.setCore c { k with
    tiles := k.tiles.filter fun p => !(decide (first ≤ p.1) && decide (p.1 < first + n)) }
  s.zeroed (poolKey c (s.scratchBytes c + 16384 * first)) (16384 * n)

/-- A leaf's pool allocation filled with zeros and full, and its Skerries settled (R94, R100, R153); poison stays
(R293). -/
def State.clearPool (s : State) (c : Nat) (pool : Option (Nat × Nat)) : State :=
  match pool with
  | some (o, n) => s.cleared (poolKey c o) n
  | none => s

/-- Level and domain of a thread that a message starts (R17). A firmware channel is any channel but 1
of a system core whose class is message or trap. -/
def startLevel (c : Nat) (chan : BitVec 5) (cls : Cls) : Nat :=
  if chan = 1 then 1
  else if 0x400 ≤ c && (cls == .message || cls == .trap) then 2
  else 0

end Sys2Proof.Machine
end

