-- ==== Sys2Proof/Machine/Stamp.lean ====
section
/-! DEFINITION. Stamped leaves: their order, the commit buffer, forwarding and rollback, and the arrival of an
access at its bank or in the commit buffer (R93 to R95, R155, R177). A STAMPED split here is the outermost one: its
leaves, under whatever further STAMPED splits, are one order. -/

namespace Sys2Proof.Machine

/-- A leaf's place: its stamp and, among equals, its RCB address (R93). -/
abbrev StampKey := Nat × Nat

/-- Stamp order. -/
def StampKey.before (a b : StampKey) : Bool := decide (a.1 < b.1) || (a.1 == b.1 && decide (a.2 < b.2))

/-- The place of a thread. -/
def Thread.stampKey (t : Thread) : StampKey := (t.sp.stamp.toNat, t.rcb.toNat)

/-- Whether a thread is a stamped leaf of a region's split in a cluster: two regions may have RCBs at one DVA, each
in its own domain's space. -/
def Thread.stampedIn (t : Thread) (r : Nat) (anc : Word) (cl : Nat) : Bool :=
  match t.spec with
  | some sp => t.regionId = r && sp.anc = anc && sp.cluster = cl
  | none => false

/-- The threads that are stamped leaves of a split. -/
def State.stampedThreads (s : State) (r : Nat) (anc : Word) (cl : Nat) : List Thread :=
  (s.threads.map (·.2)).filter fun t => t.stampedIn r anc cl

/-- The stamped leaves dispatched to a cluster, not yet started. -/
def State.stampedRoutines (s : State) (cl : Nat) : List Dispatch :=
  ((List.range Config.clusterSize).flatMap fun i => s.routinesFor (cl * Config.clusterSize + i)).filter
    (·.stamped.isSome)

/-- The leaves of a split in flight in a cluster, spilled ones among them (R93, R296). -/
def State.stampedKeys (s : State) (r : Nat) (anc : Word) (cl : Nat) : List StampKey :=
  (s.stampedThreads r anc cl).map (·.stampKey) ++
    (s.stampedRoutines cl).filterMap (fun d =>
      if d.region = r && d.stamped = some anc then some (d.stamp.toNat, d.rcb.toNat) else none) ++
    s.spilled.filterMap fun c => if c.keep.stampedIn r anc cl then some c.keep.stampKey else none

/-- The stamped leaves in flight in a cluster, of every split (R93). -/
def State.stampedInFlight (s : State) (cl : Nat) : Nat :=
  let here (t : Thread) : Bool := t.spec.any fun sp => sp.cluster = cl
  ((s.threads.map (·.2)).filter here).length + (s.stampedRoutines cl).length +
    (s.spilled.filter fun c => here c.keep).length

/-- A stamped leaf is the oldest in flight of its split (R93). -/
def State.isOldest (s : State) (t : Thread) : Bool :=
  match t.spec with
  | none => true
  | some sp => (s.stampedKeys t.regionId sp.anc sp.cluster).all fun k => !StampKey.before k t.stampKey

/-- A stamped leaf that is not DIRECT: its T stores are buffered and R95 applies. -/
def Thread.speculative (t : Thread) : Bool :=
  match t.spec with
  | some sp => !sp.direct
  | none => false

/-- R95: a speculative leaf parks before an instruction until it is the oldest. -/
def oldestX (t : Thread) : X Unit := if t.speculative then parkX .oldest else .ok ()

/-! ## The commit buffer -/

/-- Keys of the lines that stores touch. -/
def linesOf (l : List Buffered) : List Nat :=
  l.foldl (fun acc st => setAdd (st.key / 64) acc) []

/-- An access has its answer. -/
def Access.answered (a : Access) : Bool :=
  match a.stage with
  | .done _ | .failed _ => true
  | _ => false

/-- A store through a T segment that has not yet been performed. -/
def Access.tStore (a : Access) : Bool := a.tSeg && a.form.writes && !a.answered

/-- Buffer lines in use in a cluster (R93), with one for each store of its leaves that is on its way to the buffer
(DEDUCED, log 31). -/
def State.bufferLines (s : State) (cl : Nat) : Nat :=
  (((s.threads.map (·.2)).filterMap fun t =>
      match t.spec with
      | some sp => if sp.cluster = cl then
          some ((linesOf sp.stores).length + (s.accs.filter fun a => a.tStore && a.t = t.id).length) else none
      | none => none)).sum

/-- Bytes with one buffered store laid over them. -/
def overlay (k : Nat) (bytes : List Byte) (st : Buffered) : List Byte :=
  bytes.mapIdx fun i b =>
    if decide (st.key ≤ k + i) && decide (k + i < st.key + st.len) then
      BitVec.ofNat 8 (st.data.toNat / 256 ^ (k + i - st.key))
    else b

/-- Whether a buffered store meets n bytes at a key. -/
def meets (k n : Nat) (st : Buffered) : Bool := !apart k n st.key st.len

/-- A list of leaves in stamp order, the oldest first. -/
def insertByStamp (t : Thread) : List Thread → List Thread
  | [] => [t]
  | u :: l => if StampKey.before t.stampKey u.stampKey then t :: u :: l else u :: insertByStamp t l

/-- The older leaves of a split in flight, the oldest first. -/
def State.olderLeaves (s : State) (t : Thread) : List Thread :=
  match t.spec with
  | none => []
  | some sp =>
    ((s.stampedThreads t.regionId sp.anc sp.cluster).filter fun u =>
      StampKey.before u.stampKey t.stampKey).foldl (fun l u => insertByStamp u l) []

/-- The buffered stores of a thread. -/
def Thread.buffered (t : Thread) : List Buffered :=
  match t.spec with
  | some sp => sp.stores
  | none => []

/-! ## One word under several keys -/

/-- A key in a copy of a page, as the key of the same byte at home. -/
def Dup.homeKey (p : Dup) (k : Nat) : Nat :=
  if p.copies.any fun c => k / 2 ^ p.bits = c.2 / 2 ^ p.bits then p.home + k % 2 ^ p.bits else k

/-- The key of a word's home, where the key lies in a copy of a duplicated page (R287). -/
def State.homeKey (s : State) (k : Nat) : Nat :=
  match s.dups.find? fun p => p.copies.any fun c => k / 2 ^ p.bits = c.2 / 2 ^ p.bits with
  | some p => p.homeKey k
  | none => k

/-- The words of an access, by the keys of their homes. -/
def State.homeWords (s : State) (k n : Nat) : List Nat := (wordsOf (s.homeKey k) n).map (· / 8)

/-- What memory, or base-die register space, holds at n bytes (R331). -/
def State.plainBytes (s : State) (k n : Nat) : List Byte :=
  if (poolOf k).isNone && decide (paSpace k = 6) then natBytes n (s.readBase (paOff k) n).toNat
  else memBytes s.mem k n

/-- Bytes under the buffered stores of older leaves and then a leaf's own (R93). -/
def State.forwarded (s : State) (t : Thread) (k : Nat) (bytes : List Byte) : List Byte :=
  ((s.olderLeaves t).flatMap (·.buffered) ++ t.buffered).foldl (overlay (s.homeKey k)) bytes

/-- A load of a speculative leaf through a T segment: the leaf records the words, by their homes, and the leaves whose
stores it took (R93). -/
def State.noteRead (s : State) (t : Thread) (k n : Nat) : Thread :=
  let from' := (s.olderLeaves t).filterMap fun u =>
    if u.buffered.any (meets (s.homeKey k) n) then some u.id else none
  { t with spec := t.spec.map fun sp =>
    { sp with reads := (s.homeWords k n).foldl (fun l w => setAdd w l) sp.reads,
              fwd := sp.fwd ++ from' } }

/-- What a load of a speculative leaf through a T segment reads at n bytes (R93). -/
def State.stampedLoad (s : State) (t : Thread) (k n : Nat) : Nat × Thread :=
  (bytesNat (s.forwarded t k (s.plainBytes k n)), s.noteRead t k n)

/-! ## Rollback (R94) -/

/-- An access of a leaf that its rollback does not touch: a store through another segment than T that is on its way, or
relaxed (R94, R166, R178). -/
def Access.outlives (a : Access) : Bool :=
  a.form.writes && !a.tSeg && (a.rel || (match a.stage with
    | .skerry | .refused _ | .done _ | .failed _ => false
    | _ => true))

/-- A rolled-back thread starts again at its leaf entry, with the allocation it holds now; `late` says that an ordinary
store of its earlier run is still on its way, for which it waits first (DEDUCED, log 31). A HELD or TRAPPED one stays so
(DEDUCED, log 31). -/
def Thread.restarted (t : Thread) (late : Bool) : Thread :=
  match t.disp with
  | none => t
  | some d =>
    let u := Thread.ofDispatch t.id t.wbase t.win d.xs d
    let st : SlotState := match t.state with
      | .held => .held
      | .trapped => .trapped
      | _ => if late then .parked else .ready
    let w : Wait := if late then .rolledBack else .none
    { u with state := st, dbg := t.dbg, regionHeld := t.regionHeld, firstTurn := t.firstTurn, ifenced := t.ifenced,
             killed := t.killed.map fun k => { k with wait := w }, wait := if t.killed.isSome then .killed else w,
             nextBatch := t.nextBatch,
             sp := { u.sp with tcause := t.sp.tcause, tinfo := t.sp.tinfo,
                               tepc := if t.state = .trapped then d.entry else u.sp.tepc } }

/-- The accesses of a rolled-back leaf are discarded, but for those that outlive it. -/
def State.dropLoads (s : State) (t : Ident) : State :=
  { s with accs := s.accs.filter fun a => !(a.t = t && a.agent = .thread && !a.outlives) }

/-- A write into a thread's RCB is to be made as soon as the RCB's page is there; a new state takes the place of an
older one (R96). -/
def State.owe (s : State) (t : Thread) (w : OwedWrite) : State :=
  let o : Owed := { region := t.regionId, domain := t.dom, rcb := t.rcb, what := w }
  let stale (p : Owed) : Bool := match w, p.what with
    | .flag _, _ | _, .flag _ => p == o
    | _, _ => p.region = o.region && p.rcb = o.rcb
  if (s.region? t.regionId).isNone then s
  else { s with owed := (s.owed.filter fun p => !stale p) ++ [o] }

/-- Roll one leaf back; its RCB is to have flag ROLLBK (R94). -/
def State.rollback (s : State) (t : Thread) : State :=
  let s := s.dropLoads t.id
  let s := s.clearPool t.id.core.toNat t.pool
  let s := s.clearTiles t.id.core.toNat t.tiles.1 t.tiles.2
  let s := s.setThread (t.restarted (s.accs.any fun a => a.t = t.id && a.agent = .thread && !a.rel))
  s.owe t (.flag 8)

/-- Leaves, with those of a list that have loaded a value forwarded from one of them (R94). -/
def forwardSet (l : List Thread) (first : List Ident) : List Ident :=
  l.foldl (fun acc _ => acc ++ (l.filter fun t =>
    !acc.contains t.id && (match t.spec with
      | some sp => sp.fwd.any acc.contains
      | none => false)).map (·.id)) first

/-- The younger leaves to roll back when a leaf stores to words: those that have read one, and those
that have loaded from one of them. -/
def rollSet (l : List Thread) (words : List Nat) : List Ident :=
  forwardSet l ((l.filter fun t => match t.spec with
    | some sp => words.any sp.reads.contains
    | none => false).map (·.id))

/-- The speculative leaves of a leaf's split that are younger than it, and have not begun to write out. -/
def State.youngerLeaves (s : State) (t : Thread) : List Thread :=
  match t.spec with
  | none => []
  | some sp => (s.stampedThreads t.regionId sp.anc sp.cluster).filter fun u =>
      StampKey.before t.stampKey u.stampKey && u.speculative && !u.spec.any (·.committing)

/-- Roll a leaf back, and each younger one that has loaded a value forwarded from it (R94, R296). -/
def State.rollbackAll (s : State) (t : Thread) : State :=
  let younger := s.youngerLeaves t
  let back := forwardSet younger [t.id]
  (t :: younger.filter fun u => back.contains u.id).foldl (fun s u => s.rollback u) s

/-- A stamped leaf has stored to words: younger leaves that had read one are rolled back (R94). -/
def State.stampedStored (s : State) (t : Thread) (words : List Nat) : State :=
  let younger := s.youngerLeaves t
  let back := rollSet younger words
  (younger.filter fun u => back.contains u.id).foldl (fun s u => s.rollback u) s

/-- A write of a stamped leaf, of its engine or of one of its copies has been performed: younger leaves that had read
one of its words through a T segment are rolled back (R94, R177). -/
def State.storedBy (s : State) (t : Ident) (k n : Nat) : State :=
  match s.thread? t with
  | some u => s.stampedStored u (s.homeWords k n)
  | none => s

/-- A store of a speculative leaf through a T segment is written to the buffer (R93). -/
def State.stampedStore (s : State) (t : Thread) (b : Buffered) : State :=
  (s.setThread { t with spec := t.spec.map fun sp => { sp with stores := sp.stores ++ [b] } }).stampedStored t
    (s.homeWords b.key b.len)

/-! ## The arrival of an access -/

/-- The stores of a leaf through T segments reach buffer or bank in program order (R177): none goes before one of an
older instruction that has not been performed. The elements of one scatter keep no order (R191). -/
def State.inOrder (s : State) (a : Access) : Bool :=
  !a.tStore || !s.accs.any fun b => b.tStore && b.t = a.t && b.agent = .thread && decide (b.group < a.group)

/-- A plain access of a speculative leaf through a T segment: a load reads under the buffered stores, a store goes to
the buffer; a bad word fails it (R93, R57). -/
def State.bufferArrive (s : State) (t : Thread) (a : Access) (k : Nat) : State :=
  match s.badAt k a.form.bytes with
  | some c => s.setAccess { a with stage := .failed c }
  | none =>
    match a.form with
    | .load n sx =>
      let (v, t') := s.stampedLoad t k n
      let r := if sx && n != 64 then ofScalar (BitVec.ofInt 64 (sgn (8 * n) v)) else BitVec.ofNat 512 v
      (s.setThread t').setAccess { a with stage := .done r }
    | .store n x =>
      (s.setAccess { a with stage := .done 0 }).stampedStore t { n := a.n, key := k, dva := a.dva, len := n, data := x }
    | _ => s.bankArrive a

/-- An access that has been performed, and wrote: its leaf's younger ones may be rolled back (R94). -/
def State.notedWrite (s : State) (n : Nat) : State :=
  match s.acc? n with
  | some b => match b.stage, b.agent, b.key with
    | .done _, .thread, some k | .done _, .copy _ _, some k => s.storedBy b.t k b.form.bytes
    | _, _, _ => s
  | none => s

/-- An access is performed at its bank (R155), with those that ride with it (R159). -/
def State.bankDone (s : State) (a : Access) : State :=
  let s1 := s.bankArrive a
  if a.form.writes then (a.n :: a.riders.map (·.1)).foldl State.notedWrite s1 else s1

/-- An access arrives where it is performed: at its bank, or, for a speculative leaf's plain access through a T segment,
in the commit buffer (R93). -/
def State.arrive (s : State) (a : Access) : State :=
  match (if a.tSeg && a.agent = .thread then s.thread? a.t else none), a.key with
  | some t, some k => if t.speculative then s.bufferArrive t a k else s.bankDone a
  | _, _ => s.bankDone a

/-- An access whose turn has come is performed, unless an older store of its leaf holds it back (R177): it is then on
its way. -/
def State.arriveInTurn (s : State) (a : Access) : State :=
  if s.inOrder a then s.arrive a else s.setAccess { a with stage := .inFlight }

end Sys2Proof.Machine
end

