-- ==== Sys2Proof/Machine/Mmu.lean ====
section
/-! DEFINITION. Translation: the walk, the cluster MMUs' translation caches, page-fault requests, and
read-duplicated pages (R279 to R288). -/

namespace Sys2Proof.Machine

/-! ## The walk (R279, R280) -/

/-- Why a walk fails: the level and entry that failed, and the reason of R282. -/
structure Miss where
  level : Nat
  entry : Word
  reason : Nat
  deriving DecidableEq, Repr

/-- A leaf entry that a walk found: the entry, the page's size in bits, where the entry stands. -/
structure Leaf where
  entry : Word
  bits : Nat
  pte : Nat
  deriving DecidableEq, Repr

/-- Bits of a page at a level. -/
def pageBits (level : Nat) : Nat := 17 + 9 * level

/-- ADDR of an entry, as a physical address. -/
def pteAddr (e : Word) : Nat := (e.extractLsb' 12 40).toNat * 4096

/-- L of an entry. -/
def pteLeaf (e : Word) : Bool := e.getLsbD 1

/-- DUP of an entry. -/
def pteDup (e : Word) : Bool := e.getLsbD 4

/-- The conditions of R280 that make an entry with V = 1 invalid. -/
def State.pteBad (s : State) (level : Nat) (e : Word) : Bool :=
  let a := pteAddr e
  let n := if pteLeaf e then 2 ^ pageBits level else 4096
  e.extractLsb' 52 4 != 0 || e.extractLsb' 5 7 != 0 ||
  (pteLeaf e && level == 3) || (!pteLeaf e && level == 0) ||
  (!pteLeaf e && decide (4 < paSpace a)) ||
  (pteLeaf e && decide (6 < paSpace a)) ||
  (pteLeaf e && a % n != 0) ||
  (pteLeaf e && level == 2 && decide (paSpace a < 4)) ||
  decide (s.spaceBytes (paSpace a) < paOff a + n)

/-- What one entry of a walk gives: a leaf, the next table, or a failure. -/
inductive WalkStep where
  | leaf (l : Leaf)
  | table (next : Nat)
  | fail (m : Miss)
  deriving DecidableEq, Repr

/-- Read the entry of a table at a level (R280). -/
def State.walkStep (s : State) (dva table level : Nat) : WalkStep :=
  let k := table + 8 * (dva / 2 ^ pageBits level % 512)
  let e : Word := BitVec.ofNat 64 (s.read k 8)
  if s.bad k || s.withdrawn k then .fail ⟨level, e, 1⟩
  else if !e.getLsbD 0 then .fail ⟨level, e, 0⟩
  else if s.pteBad level e then .fail ⟨level, e, 1⟩
  else if pteLeaf e then .leaf ⟨e, pageBits level, k⟩
  else .table (pteAddr e)

/-- Walk from a table at a level down to a leaf. -/
def State.walkFrom (s : State) (dva : Nat) : Nat → Nat → Except Miss Leaf
  | table, 0 =>
    match s.walkStep dva table 0 with
    | .leaf l => .ok l
    | .fail m => .error m
    | .table _ => .error ⟨0, 0, 1⟩
  | table, level + 1 =>
    match s.walkStep dva table (level + 1) with
    | .leaf l => .ok l
    | .fail m => .error m
    | .table next => s.walkFrom dva next level

/-- The page-table root of a domain (R311). -/
def State.root (s : State) (d : BitVec 32) : Word := s.domWord d 1

/-- The walk of a DVA in a domain; one above 4,095 has no table (R311). -/
def State.walk (s : State) (d : BitVec 32) (dva : Nat) : Except Miss Leaf :=
  if 4096 ≤ d.toNat then .error ⟨3, 0, 1⟩ else s.walkFrom dva (s.root d).toNat 3

/-! ## The translation cache (R281, DESIGN CHOICE, log 9) -/

/-- A cached entry for a DVA. -/
def State.tlbFor (s : State) (cl : Nat) (root : Word) (dva : Nat) : Option TlbEntry :=
  s.tlb.find? fun c => c.cluster = cl && c.root = root && dva / 2 ^ c.bits = c.page

/-- An entry without A, D and SW. -/
def pteCore (e : Word) : Word := e &&& 0x00FF_FFFF_FFFF_FFF3#64

/-- The translation in effect: the walk's, or a cached one that differs from it, freely chosen. -/
def State.lookup (s : State) (cl : Nat) (d : BitVec 32) (dva : Nat) : State × Except Miss Leaf :=
  let now := s.walk d dva
  match s.tlbFor cl (s.root d) dva with
  | none => (s, now)
  | some c =>
    let same := match now with
      | .ok l => pteCore l.entry = pteCore c.entry && l.bits = c.bits
      | .error _ => false
    if same then (s, now)
    else
      let (old, s) := s.choose
      (s, if old then .ok ⟨c.entry, c.bits, c.pte⟩ else now)

/-- Set bits of an entry by an atomic OR at its bank (R279). -/
def State.orEntry (s : State) (pte : Nat) (bits : Word) : State :=
  if (BitVec.ofNat 64 (s.read pte 8) : Word) &&& bits = bits then s
  else (bankStep s pte (.atom .or 8 bits 0)).1

/-- Cache a translation: A is set when it is first cached; D before the first write (R279). -/
def State.useLeaf (s : State) (cl : Nat) (d : BitVec 32) (dva : Nat) (l : Leaf) (wr : Bool) : State :=
  let root := s.root d
  let s := match s.tlbFor cl root dva with
    | some _ => s
    | none =>
      { s.orEntry l.pte 0x4 with
        tlb := s.tlb ++ [{ cluster := cl, root := root, page := dva / 2 ^ l.bits, bits := l.bits,
                           entry := l.entry, pte := l.pte }] }
  if wr then s.orEntry l.pte 0x8 else s

/-- The die of a cluster. -/
def clusterDie (cl : Nat) : Option Nat := if cl < 64 then some (cl / 16) else none

/-! ## TLBINV under way (R281, R320) -/

/-- Whether a page overlaps the range of a TLBINV, widened to 128 KiB; length 0 is every DVA (R320). -/
def tlbHits (lo len : Word) (a n : Nat) : Bool :=
  len = 0 ||
    (let b := lo.toNat / 2 ^ 17 * 2 ^ 17
     let e := (lo.toNat + len.toNat + 2 ^ 17 - 1) / 2 ^ 17 * 2 ^ 17
     decide (a < e) && decide (b < a + n))

/-- Whether an MMU is in the scope of a TLBINV (R320). -/
def tlbScope (scope : BitVec 2) (mine cl : Nat) : Bool :=
  scope = 2 || (scope = 1 && clusterDie mine = clusterDie cl) || cl = mine

/-- A thread's TLBINV is under way, and covers a DVA at a cluster's MMU. -/
def Thread.invalidates (t : Thread) (cl : Nat) (a : Nat) : Bool :=
  match t.wait with
  | .tlbinv lo len scope => tlbScope scope (clusterOf t.id.core.toNat) cl && tlbHits lo len a 1
  | _ => false

/-- The thread of a TLBINV under way that covers a DVA at a cluster's MMU: what arrives there waits until it
completes (R281). -/
def State.invalBy (s : State) (cl : Nat) (a : Nat) : Option Ident :=
  ((s.threads.map (·.2)).find? fun t => t.invalidates cl a).map (·.id)

/-- The TLBINV of a thread is still under way. -/
def State.invalidating (s : State) (id : Ident) : Bool :=
  match s.thread? id with
  | some t => match t.wait with
    | .tlbinv _ _ _ => true
    | _ => false
  | none => false

/-! ## Where an address leads -/

/-- Where an address leads. -/
inductive Route where
  /-- A bank of this device, under its key. -/
  | bank (key : Nat)
  /-- A page that must collapse first, under its home key (R288). -/
  | collapse (key : Nat)
  /-- The peer window (R148). -/
  | peer (key : Nat)
  | miss (m : Miss)
  /-- The MMU holds the access until a thread's TLBINV completes (R281). -/
  | inval (by' : Ident)
  deriving DecidableEq, Repr

/-- The directory's record of a home page. -/
def State.dupOf (s : State) (key : Nat) : Option Dup :=
  s.dups.find? fun p => key / 2 ^ p.bits = p.home / 2 ^ p.bits

/-- Where a read of a duplicated page is performed: the copy on the reader's die, or home (R287). -/
def Dup.copyKey (p : Dup) (cl key : Nat) : Nat :=
  match (clusterDie cl).bind fun d => p.copies.find? fun c => c.1 = d with
  | some c => c.2 + key % 2 ^ p.bits
  | none => key

/-- Translate a DVA for a requester of a cluster; `wr` marks a write-type access, `sync` one that
collapses a duplicated page though it writes nothing (R288). A copy is read only through an entry with DUP = 1
(R287). -/
def State.route (s : State) (cl : Nat) (d : BitVec 32) (a : Word) (wr sync : Bool) : State × Route :=
  if poolBase ≤ a.toNat then (s, .bank a.toNat)
  else
    match s.invalBy cl a.toNat with
    | some t => (s, .inval t)
    | none =>
      match s.lookup cl d a.toNat with
      | (s, .error m) => (s, .miss m)
      | (s, .ok l) =>
        let key := pteAddr l.entry + a.toNat % 2 ^ l.bits
        let s := s.useLeaf cl d a.toNat l wr
        if paSpace key = 5 then (s, .peer key)
        else
          match s.dupOf key with
          | some p =>
            if p.collapsing.isSome then (s, .collapse key)
            else if !pteDup l.entry then (s, .bank key)
            else if wr || sync then (s, .collapse key)
            else (s, .bank (p.copyKey cl key))
          | none =>
            if pteDup l.entry && (wr || sync) then (s, .collapse key) else (s, .bank key)

/-! ## Page-fault requests (R282) -/

/-- Send or keep a page-service request: while EN is 0 it waits in its MMU (R309). -/
def State.pageRequest (s : State) (g0 : Reg) : State :=
  if s.sys.pagesvc.getLsbD 63 then
    s.post (s.sys.pagesvc.extractLsb' 0 11) (s.sys.pagesvc.extractLsb' 16 5) none 0 (.device g0)
  else { s with pageReqs := s.pageReqs ++ [g0] }

/-- g0 of a request (R282). -/
def pageG0 (dva : Word) (who : Option Ident) (kind : Nat) (wr : Bool) (m : Miss) (region : Nat)
    (d : BitVec 32) : Reg :=
  ofWords [dva,
    BitVec.ofNat 64 ((match who with | some t => t.toNat | none => 0) + 2 ^ 17 * kind +
      (if wr then 2 ^ 19 else 0) + 2 ^ 20 * m.reason + (if who.isNone then 2 ^ 22 else 0)),
    BitVec.ofNat 64 m.level, m.entry, BitVec.ofNat 64 (region + 2 ^ 32 * d.toNat), 0, 0, 0]

/-- A page fault of kind 0 or 3: the thread parks before the instruction, and nothing is saved. -/
def faultX {α : Type} (s : State) (t : Thread) (kind : Nat) (a : Word) (wr : Bool) (m : Miss) :
    X α :=
  .error (.parkIn (s.pageRequest (pageG0 a (some t.id) kind wr m t.regionId t.dom))
    { t with state := .parked, wait := .page })

/-! ## Collapse (R288) -/

/-- Accesses already translated to a copy of a page. -/
def Access.onCopy (a : Access) (p : Dup) : Bool :=
  match a.key with
  | some k => (a.stage = .inFlight) && p.copies.any fun c => k / 2 ^ p.bits = c.2 / 2 ^ p.bits
  | none => false

/-- Reads of a copy on one die, already translated, are performed. -/
def State.performCopies (s : State) (p : Dup) : State :=
  (s.accs.filter fun a => a.onCopy p).foldl (fun s a => s.arrive a) s

/-- A started engine operation reads at home what it has not yet read of a copy, so that no read of the copy follows
a write of the collapse (R168, R288, DEDUCED, log 23). -/
def State.opsHome (s : State) (p : Dup) : State :=
  { s with cores := s.cores.map fun c => (c.1, { c.2 with
      engq := c.2.engq.map fun o => { o with maps := o.maps.map fun m => (m.1, p.homeKey m.2) } }) }

/-- MMUs of a die drop their entries for a home page. -/
def State.dropHome (s : State) (p : Dup) (die : Option Nat) : State :=
  { s with
    tlb := s.tlb.filter fun c =>
      !((die.isNone || clusterDie c.cluster = die) && pteAddr c.entry / 2 ^ p.bits = p.home / 2 ^ p.bits) }

/-- The last acknowledgement is in: DUP is cleared, the copy frames are released, and the accesses that
joined are performed at home in the order in which they reached the directory; a leaf's store still waits for its older
ones, and what a rollback has discarded meanwhile is not performed (R94, R177). -/
def State.endCollapse (s : State) (p : Dup) : State :=
  let s := { s with dups := s.dups.filter fun q => q.home != p.home }
  let s := if (BitVec.ofNat 64 (s.read p.pteKey 8) : Word).getLsbD 4 then
      (bankStep s p.pteKey (.atom .and 8 (~~~0x10#64) 0)).1
    else s
  let s := (s.dropHome p none).opsHome p
  (s.accs.filter fun (a : Access) => a.stage = .collapsing &&
      (a.key.map (· / 2 ^ p.bits)) = some (p.home / 2 ^ p.bits)).foldl (fun s a => match s.acc? a.n with
        | some b => s.arriveInTurn b
        | none => s) s

/-- A collapse as one step, for the agents that are not threads: the reads already translated are
performed, and the page ends its duplication. -/
def State.collapseNow (s : State) (key : Nat) (d : BitVec 32) (a : Word) : State :=
  let p : Dup := match s.dupOf key with
    | some p => p
    | none =>
      match s.walk d a.toNat with
      | .ok l => { home := pteAddr l.entry, bits := l.bits, copies := [], collapsing := none,
                   pteKey := l.pte }
      | .error _ => { home := key, bits := 17, copies := [], collapsing := none, pteKey := 0 }
  (s.performCopies p).endCollapse p

/-! ## Agents that are not threads -/

/-- Where an agent's access leads. -/
inductive Reach where
  | key (k : Nat)
  /-- The peer window. -/
  | peer (k : Nat)
  /-- It waits at the MMU. -/
  | waits
  deriving DecidableEq, Repr

/-- A requester waits at the MMU of a cluster for the page of an address (R282). -/
def State.waitsAt (s : State) (cl : Nat) (who : Requester) (d : BitVec 32) (a : Word) : Bool :=
  s.mmuWaits.any fun w => w.cluster = cl && w.who = who && w.domain = d && decide (w.dva.toNat / 2 ^ 17 = a.toNat / 2 ^ 17)

/-- Where a requester's access leads through the MMU of a cluster, after a collapse where it needs one. A missing page
makes the requester wait at that MMU, until a wake makes the MMU walk again; one request is sent for each requester
(R282, R283). -/
def State.reachAt (s : State) (cl : Nat) (who : Requester) (region : Nat) (d : BitVec 32) (a : Word) (wr : Bool) :
    State × Reach :=
  if s.waitsAt cl who d a then (s, .waits)
  else
  match s.route cl d a wr false with
  | (s, .bank k) => (s, .key k)
  | (s, .collapse k) => (s.collapseNow k d a, .key k)
  | (s, .peer k) => (s, .peer k)
  | (s, .inval _) => (s, .waits)
  | (s, .miss m) =>
    let w : MmuWait := { cluster := cl, domain := d, dva := a, who := who, region := region }
    (({ s with mmuWaits := s.mmuWaits ++ [w] }).pageRequest (pageG0 a none 2 wr m region d), .waits)

/-- The cluster at whose memory port an agent that is no thread translates: its own, for a cluster unfolder and a commit
buffer (R87, R281); that of the system cluster for those that no cluster holds (DESIGN CHOICE, log 51). -/
def Requester.mmu : Requester → Nat
  | .copy c _ => clusterOf c
  | .unfolder (.cluster q) => q
  | .buffer t => clusterOf t.core.toNat
  | .unfolder _ | .completion | .spill => 64

/-- The same at the agent's own MMU. A completion store whose word lies in a pool window past S, or in the window of an
absent core, reaches that byte like any other (DESIGN CHOICE, log 51). -/
def State.agentReach (s : State) (who : Requester) (region : Nat) (d : BitVec 32) (a : Word) (wr : Bool) :
    State × Reach :=
  s.reachAt who.mmu who region d a wr

/-- The key that an agent's access reaches. An address in the peer window answers none (DESIGN CHOICE, log 18). -/
def State.agentKey (s : State) (who : Requester) (region : Nat) (d : BitVec 32) (a : Word) (wr : Bool) :
    State × Option Nat :=
  match s.agentReach who region d a wr with
  | (s, .key k) => (s, some k)
  | (s, _) => (s, none)

end Sys2Proof.Machine
end

