-- ==== Sys2Proof/Machine/Rcb.lean ====
section
/-! DEFINITION. Region control blocks in memory (R96 to R99) and rule table entries (R81). -/

namespace Sys2Proof.Machine

/-! ## Agents' stores -/

/-- A store by an agent at a key: it fills its words and settles their Skerries (R53, R96, R153). -/
def State.put (s : State) (k n v : Nat) : State := (bankStep s k (.store n (BitVec.ofNat 512 v))).1

/-! ## Fields of an RCB at a key (R96) -/

/-- lo[i]. -/
def State.rcbLo (s : State) (k i : Nat) : Nat := s.read (k + 4 * i) 4
/-- hi[i]. -/
def State.rcbHi (s : State) (k i : Nat) : Nat := s.read (k + 0x18 + 4 * i) 4
/-- State code. -/
def State.rcbState (s : State) (k : Nat) : Nat := s.read (k + 0x30) 1
/-- Rule index. -/
def State.rcbRule (s : State) (k : Nat) : Nat := s.read (k + 0x31) 1
/-- Axis count. -/
def State.rcbAxes (s : State) (k : Nat) : Nat := s.read (k + 0x32) 1
/-- Depth. -/
def State.rcbDepth (s : State) (k : Nat) : Nat := s.read (k + 0x33) 1
/-- Priority. -/
def State.rcbPrio (s : State) (k : Nat) : Nat := s.read (k + 0x34) 1
/-- Mode of an axis. -/
def State.rcbMode (s : State) (k i : Nat) : Nat := s.read (k + 0x35) 2 / 4 ^ i % 4
/-- Flags. -/
def State.rcbFlags (s : State) (k : Nat) : Nat := s.read (k + 0x37) 1
/-- Path stamp. -/
def State.rcbStamp (s : State) (k : Nat) : Word := BitVec.ofNat 64 (s.read (k + 0x38) 8)
/-- Parent RCB address. -/
def State.rcbParent (s : State) (k : Nat) : Word := BitVec.ofNat 64 (s.read (k + 0x40) 8)
/-- Children not yet terminal. -/
def State.rcbOutstanding (s : State) (k : Nat) : Nat := s.read (k + 0x48) 4
/-- Children created. -/
def State.rcbTotal (s : State) (k : Nat) : Nat := s.read (k + 0x4C) 4
/-- Deadline. -/
def State.rcbDeadline (s : State) (k : Nat) : Word := BitVec.ofNat 64 (s.read (k + 0x50) 8)
/-- Arena bytes remaining. -/
def State.rcbArena (s : State) (k : Nat) : Nat := s.read (k + 0x58) 8
/-- Pruned boxes among the descendants. -/
def State.rcbPruned (s : State) (k : Nat) : Nat := s.read (k + 0x70) 4
/-- Child index. -/
def State.rcbChild (s : State) (k : Nat) : Nat := s.read (k + 0x74) 4
/-- Join slot base. -/
def State.rcbJoin (s : State) (k : Nat) : Word := BitVec.ofNat 64 (s.read (k + 0x78) 8)

/-- The state byte written. -/
def State.setRcbState (s : State) (k v : Nat) : State := s.put (k + 0x30) 1 v
/-- Flags set. -/
def State.orRcbFlags (s : State) (k v : Nat) : State := s.put (k + 0x37) 1 (s.rcbFlags k ||| v)

/-- What a fresh RCB holds. -/
structure RcbInit where
  lo : List Nat
  hi : List Nat
  rule : Nat
  axes : Nat
  depth : Nat
  prio : Nat
  modes : Nat
  flags : Nat
  stamp : Word
  parent : Word
  deadline : Word
  arena : Nat
  domain : BitVec 32
  region : Nat
  child : Nat
  deriving DecidableEq, Repr

/-- The 128 bytes of a fresh RCB, in state PENDING (R96, R98). -/
def RcbInit.bytes (r : RcbInit) : List Byte :=
  ((List.range 6).flatMap fun i => natBytes 4 (r.lo.getD i 0)) ++
  ((List.range 6).flatMap fun i => natBytes 4 (r.hi.getD i 0)) ++
  natBytes 1 0 ++ natBytes 1 r.rule ++ natBytes 1 r.axes ++ natBytes 1 r.depth ++
  natBytes 1 r.prio ++ natBytes 2 r.modes ++ natBytes 1 r.flags ++ natBytes 8 r.stamp.toNat ++
  natBytes 8 r.parent.toNat ++ natBytes 4 0 ++ natBytes 4 0 ++ natBytes 8 r.deadline.toNat ++
  natBytes 8 r.arena ++ natBytes 4 r.domain.toNat ++ natBytes 4 r.region ++ natBytes 8 0 ++
  natBytes 4 0 ++ natBytes 4 r.child ++ natBytes 8 0

/-- A fresh RCB written, its words left full, as the two lines of one unfolder update. -/
def State.putRcb (s : State) (k : Nat) (r : RcbInit) : State :=
  (s.put k 64 (bytesNat (r.bytes.take 64))).put (k + 64) 64 (bytesNat (r.bytes.drop 64))

/-- State codes of R99. -/
def stPending : Nat := 0
/-- EVAL. -/
def stEval : Nat := 1
/-- SPLIT. -/
def stSplit : Nat := 2
/-- JOINING. -/
def stJoining : Nat := 3
/-- QUEUED. -/
def stQueued : Nat := 4
/-- RUNNING. -/
def stRunning : Nat := 5
/-- HELD. -/
def stHeld : Nat := 6
/-- SPILLED. -/
def stSpilled : Nat := 7
/-- DONE. -/
def stDone : Nat := 8
/-- PRUNED. -/
def stPruned : Nat := 9
/-- FAULTED. -/
def stFaulted : Nat := 10
/-- EXPIRED. -/
def stExpired : Nat := 11

/-- A terminal state has no row in R98. -/
def stTerminal (c : Nat) : Bool := 8 ≤ c

/-! ## Rule table entries (R81) -/

/-- A bit field of an entry. -/
def ruleField (r : BitVec 512) (lo n : Nat) : Nat := r.toNat / 2 ^ lo % 2 ^ n

/-- MAXG of an axis. -/
def ruleMaxg (r : BitVec 512) (i : Nat) : Nat := ruleField r (438 + 12 * i) 12
/-- GRAIN of an axis. -/
def ruleGrain (r : BitVec 512) (i : Nat) : Nat := ruleField r (366 + 12 * i) 12
/-- POOLK of an axis. -/
def rulePoolk (r : BitVec 512) (i : Nat) : Nat := ruleField r (270 + 16 * i) 16
/-- POOLC. -/
def rulePoolc (r : BitVec 512) : Nat := ruleField r 246 24
/-- Bytes of one join slot. -/
def ruleJoinBytes (r : BitVec 512) : Nat := 64 * 2 ^ ruleField r 242 4
/-- PRIOV. -/
def rulePriov (r : BitVec 512) : Nat := ruleField r 237 5
/-- UNITS. -/
def ruleUnits (r : BitVec 512) : Nat := ruleField r 229 8
/-- TILES. -/
def ruleTiles (r : BitVec 512) : Nat := ruleField r 221 8
/-- ARG, a signed displacement. -/
def ruleArg (r : BitVec 512) : Word := sext 32 (r.extractLsb' 189 32)
/-- SCLB, a signed displacement. -/
def ruleSclb (r : BitVec 512) : Word := sext 32 (r.extractLsb' 157 32)
/-- SCLA, a signed displacement. -/
def ruleScla (r : BitVec 512) : Word := sext 32 (r.extractLsb' 125 32)
/-- FMTC. -/
def ruleFmtc (r : BitVec 512) : BitVec 8 := r.extractLsb' 117 8
/-- FMTB. -/
def ruleFmtb (r : BitVec 512) : BitVec 8 := r.extractLsb' 109 8
/-- FMTA. -/
def ruleFmta (r : BitVec 512) : BitVec 8 := r.extractLsb' 101 8
/-- MODE of an axis. -/
def ruleMode (r : BitVec 512) (i : Nat) : Nat := ruleField r (89 + 2 * i) 2
/-- JPRES. -/
def ruleJpres (r : BitVec 512) : Bool := r.getLsbD 88
/-- JCH. -/
def ruleJch (r : BitVec 512) : BitVec 5 := r.extractLsb' 83 5
/-- Join entry offset. -/
def ruleJentry (r : BitVec 512) : Word := BitVec.ofNat 64 (8 * ruleField r 59 24)
/-- LCH. -/
def ruleLch (r : BitVec 512) : BitVec 5 := r.extractLsb' 54 5
/-- Leaf entry offset. -/
def ruleLentry (r : BitVec 512) : Word := BitVec.ofNat 64 (8 * ruleField r 30 24)
/-- RPRES. -/
def ruleRpres (r : BitVec 512) : Bool := r.getLsbD 29
/-- RCH. -/
def ruleRch (r : BitVec 512) : BitVec 5 := r.extractLsb' 24 5
/-- Rule routine entry offset. -/
def ruleRentry (r : BitVec 512) : Word := BitVec.ofNat 64 (8 * ruleField r 0 24)

/-- The rule of an index in a region. -/
def Region.rule (r : Region) (i : Nat) : BitVec 512 := r.rules.getD i 0

/-- What the unfolders keep of a box. -/
def Region.note (r : Region) (a : Word) : Option BoxNote := r.boxes.find? fun b => b.addr = a

/-- The region with a box's note replaced. -/
def Region.setNote (r : Region) (b : BoxNote) : Region :=
  { r with boxes := r.boxes.map fun c => if c.addr = b.addr then b else c }

/-- The note of a box, or that of a box just below the device. -/
def Region.noteOf (r : Region) (a : Word) : BoxNote :=
  (r.note a).getD { addr := a, parent := 0, holder := .device, pinned := none, stamped := none, axis := none,
                          ended := false }

/-- The unfolder that holds a box (R87). -/
def Region.holderOf (r : Region) (a : Word) : Holder := (r.noteOf a).holder

/-- The key of an RCB or join slot of a region, as an unfolder reaches it. -/
def State.rcbKey (s : State) (h : Holder) (r : Region) (a : Word) (wr : Bool) : State × Option Nat :=
  s.agentKey (.unfolder h) r.id r.domain a wr

/-! ## Writes into RCBs that wait for a page (R96) -/

/-- An owed write is made at its key. -/
def State.payAt (s : State) (k : Nat) : OwedWrite → State
  | .flag b => s.orRcbFlags k b
  | .state v => s.setRcbState k v
  | .turn a b => if s.rcbState k = a then s.setRcbState k b else s

/-- Each owed write whose RCB's page is there is made; the others wait at the MMU (R96, R282). -/
def State.payOwed (s : State) : State :=
  s.owed.foldl (fun s o =>
    let h := ((s.region? o.region).map fun r => r.holderOf o.rcb).getD .device
    match s.agentKey (.unfolder h) o.region o.domain o.rcb true with
    | (s, some k) => { s.payAt k o.what with owed := s.owed.erase o }
    | (s, none) => s) s

/-- An owed state. -/
def OwedWrite.isState : OwedWrite → Bool
  | .state _ | .turn _ _ => true
  | .flag _ => false

/-- What is owed of a thread's RCB, but for its flags, is owed no more: a later state has taken its place. -/
def State.settled (s : State) (t : Thread) : State :=
  { s with owed := s.owed.filter fun o =>
      !(o.region = t.regionId && o.rcb = t.rcb && o.what.isState) }

/-- Whether a write into an RCB of a region is still owed. -/
def State.owes (s : State) (region : Nat) : Bool := s.owed.any fun o => o.region = region

/-! ## The commit buffer's write-out (R93, R282) -/

/-- A line that the commit buffer of a leaf stores to the peer window (R178). -/
def State.postedStore (s : State) (t : Thread) (b : Buffered) (k : Nat) : Access :=
  { n := s.serial, group := s.serial, agent := .buffer, t := t.id, home := t.id, rel := true,
    form := .store b.len b.data, seg := 0, pRight := true, off := 0, dva := b.dva, domain := t.dom, key := some k,
    d := none, lane := none, stage := .inFlight, refusals := 0, issued := s.cyc, tSeg := false, riders := [] }

/-- The line of a leaf's commit buffer that is on its way to a peer. -/
def State.postedLine (s : State) (t : Ident) : Option Access := s.accs.find? fun a => a.t = t && a.agent = .buffer

/-- One buffered store is performed, translated by the MMU of the leaf's cluster (R281); a bad word keeps what it holds
(DESIGN CHOICE, log 31). A line of the peer window is posted, and has been performed when the peer acknowledges it, so
that no later store overtakes it (R177, R178). False while it waits at the MMU or for the peer. -/
def State.writeOne (s : State) (t : Thread) (b : Buffered) : State × Bool :=
  match s.postedLine t.id with
  | some a =>
    match a.stage with
    | .done _ => ({ s with accs := s.accs.filter fun x => x.n != a.n }, true)
    | _ => (s, false)
  | none =>
    match s.agentReach (.buffer t.id) t.regionId t.dom b.dva true with
    | (s, .key k) => ((bankStep s k (.store b.len b.data)).1, true)
    | (s, .peer k) => ({ s with accs := s.accs ++ [s.postedStore t b k], serial := s.serial + 1 }, false)
    | (s, .waits) => (s, false)

/-- A thread's commit buffer with its oldest stores gone. -/
def Thread.withStores (t : Thread) (l : List Buffered) : Thread :=
  { t with spec := t.spec.map fun sp => { sp with stores := l } }

/-- An action of an agent that has got through, or that has begun to wait for a page or a peer, or has come further
before it waited; one that only waits as before does not happen. -/
def gate (s : State) (r : State × Bool) (k : State → State) : Option State :=
  if r.2 then some (k r.1)
  else if r.1.mmuWaits.length = s.mmuWaits.length && r.1.accs.length = s.accs.length && r.1.serial = s.serial then none
  else some r.1

/-- A leaf whose buffer's write-out has begun: it is the oldest, and nothing rolls it back (R95). -/
def Thread.commits (t : Thread) : Thread := { t with spec := t.spec.map fun sp => { sp with committing := true } }

/-- The oldest buffered store of a leaf is written to memory, translated as an agent's access (R93, R179, R282); nothing
happens where it only waits as before for a missing page, or for a peer that has not answered. -/
def State.writeOut (s : State) (t : Thread) : Option State :=
  match t.buffered with
  | [] => none
  | b :: l => gate s ((s.setThread t.commits).writeOne t b) fun s => match s.thread? t.id with
    | some u => s.setThread (u.withStores l)
    | none => s

/-- The oldest leaf turns DIRECT, its stores written out (R95). -/
def State.goDirect (s : State) (t : Thread) : State :=
  ((s.setThread { t with spec := t.spec.map fun sp =>
      { sp with stores := [], reads := [], direct := true, committing := false } }).owe t (.flag 0x10)).payOwed

end Sys2Proof.Machine
end

