-- ==== Sys2Proof/Machine/Access.lean ====
section
/-! DEFINITION. One memory access of a thread, from its checks to its acknowledgement (R11, R55 to R58,
R148, R181, R282). -/

namespace Sys2Proof.Machine

/-! ## Outstanding accesses -/

/-- The relaxed accesses of a thread that have not completed. -/
def State.relaxedOf (s : State) (t : Ident) : List Access :=
  s.accs.filter fun a => a.rel && a.t = t && a.agent = .thread

/-- Their number, a gather counted once (R56, R192). -/
def State.relaxedCount (s : State) (t : Ident) : Nat :=
  (((s.relaxedOf t).map (·.group)).foldl (fun acc k => setAdd k acc) []).length

/-- The words of an access by DVA. -/
def dvaWords (a : Word) (n : Nat) : List Nat := (wordsOf a.toNat n).map (· / 8)

/-- The words by DVA that an access shares with the thread's relaxed accesses (R56). -/
def State.sharedWords (s : State) (t : Ident) (a : Word) (n : Nat) : List Nat :=
  (dvaWords a n).filter fun w =>
    (s.relaxedOf t).any fun b => (dvaWords b.dva b.form.bytes).contains w

/-- The same by key, for two names of one word (DEDUCED, log 29). -/
def State.sharedKeys (s : State) (t : Ident) (k n : Nat) : List Nat :=
  (s.homeWords k n).filter fun w => (s.relaxedOf t).any fun b => match b.key with
    | some j => (s.homeWords j b.form.bytes).contains w
    | none => false

/-- R56's same-word rule. -/
def sameWordX (s : State) (t : Thread) (a : Word) (n : Nat) : X Unit :=
  let ws := s.sharedWords t.id a n
  if ws.isEmpty then .ok () else parkX (.sameWord ws)

/-- The same for an address that has been translated. -/
def sameKeyX (s : State) (t : Thread) (k n : Nat) : X Unit :=
  let ws := s.sharedKeys t.id k n
  if ws.isEmpty then .ok () else parkX (.sameWord ws)

/-! ## The peer window -/

/-- A key in the peer window. -/
def isPeerKey (k : Nat) : Bool := (poolOf k).isNone && decide (paSpace k = 5)

/-- The import entry of a slot, as the base die has cached it, or as its table holds it (R342, DESIGN CHOICE, log 52). -/
def State.importEntry (s : State) (slot : Nat) : Word :=
  (tabGet slot s.base.imports).getD (BitVec.ofNat 64 (s.read (s.base.impbase.toNat + 8 * slot) 8))

/-- The base die brings an import entry into its cache, which nothing keeps current with stores (R342). -/
def State.cacheImport (s : State) (slot : Nat) : State :=
  let e : Word := BitVec.ofNat 64 (s.read (s.base.impbase.toNat + 8 * slot) 8)
  { s with base := { s.base with imports := tabPut slot e s.base.imports } }

/-- A valid route whose every port the unit map lists as absent (R305). -/
def State.portsGone (s : State) (route : Word) : Bool :=
  let ports := (List.range 32).filter route.getLsbD
  route.getLsbD 63 && !ports.isEmpty && ports.all fun p => !s.portPresent p

/-- Why the fabric does not carry an access: a cause of R23; none where it is carried (R340, R342). An atomic traps
ATOMROUTE where its route does not carry atomics, or only absent ports would (R305, R340). -/
def State.peerCause (s : State) (key : Nat) (atomic : Bool) : Option (BitVec 8) :=
  let slot := paOff key / 2 ^ 17
  let e := s.importEntry slot
  let dev : BitVec 20 := e.extractLsb' 43 20
  let route := s.routeOf dev
  if s.base.implen.toNat ≤ slot || !e.getLsbD 63 then some 0x0D
  else if atomic && (!route.getLsbD 62 || s.portsGone route) then some 0x09
  else if !s.routed dev then some 0x0D
  else none

/-! ## Records -/

/-- A record of an access. -/
def mkAccess (s : State) (t : Thread) (g : SegReg) (e a : Word) (f : Form) (rel : Bool)
    (d : Option RegNum) (key : Option Nat) (stage : Stage) : Access :=
  { n := s.serial, group := s.serial, agent := .thread, t := t.id, home := t.id, rel := rel, form := f, seg := g,
    pRight := segP (t.seg g), off := e, dva := a, domain := t.dom, key := key, d := d,
    lane := none, stage := stage, refusals := 0, issued := s.cyc, tSeg := t.spec.isSome && segT (t.seg g),
    riders := [] }

/-- The state with one more access. -/
def State.addAccess (s : State) (a : Access) : State :=
  { s with accs := s.accs ++ [a], serial := s.serial + 1 }

/-- The thread waits for an ordinary access that is on its way; it parks at its next own turn (R55, R67). -/
def awaitAccess (s : State) (t : Thread) (a : Access) : X (State × Thread) :=
  .error (.parkIn (s.addAccess a) { t with wait := .access a.d 0 })

/-- A relaxed access issues: a load's destination is awaiting (R7, R56). -/
def issueRelaxed (s : State) (t : Thread) (a : Access) : X (State × Thread) :=
  let t := match a.d with
    | some r => t.setPres r .awaiting
    | none => t
  .ok (s.addAccess a, t.adv)

/-- A trap that an answer brings: %tinfo is the DVA; SEG and WR stand for POISON alone (R23, R24). -/
def answerTrap (code : BitVec 8) (a : Word) (g : SegReg) (wr : Bool) : TrapInfo :=
  if code = 0x0E then { code := code, info := a, seg := g, wr := wr, miss := 0 }
  else .plain code a

/-- The cause that the answer to an access brings. SEGRIGHTS is the P test after translation, with the access's own fields
and its offset (R148); ALIGN that of base-die register space (R331). -/
def Access.causeOf (a : Access) (code : BitVec 8) : TrapInfo :=
  if code = 0x05 then { code := code, info := a.off, seg := a.seg, wr := a.form.writes, miss := 0b100000 }
  else if code = 0x06 then { code := code, info := a.off, seg := a.seg, wr := a.form.writes, miss := 0 }
  else answerTrap code a.dva a.seg a.form.writes

/-- What the answer to an access makes its thread trap with; a relaxed gather traps at its own instruction (R191). -/
def Access.trapOf (a : Access) (code : BitVec 8) : TrapInfo :=
  { a.causeOf code with pc := if a.rel then a.lane.map (·.pc) else none }

/-- An access completes: its destination is written, and the thread steps past it. -/
def Thread.completes (t : Thread) (d : Option RegNum) (v : Reg) : Thread :=
  match d with
  | some r => (t.setReg r v).adv
  | none => t.adv

/-- A DVA in the thread's own pool. -/
def ownPool (t : Thread) (a : Word) : Bool :=
  match poolOf a.toNat with
  | some (c, _) => c = t.id.core.toNat
  | none => false

/-- A bank has accepted a waiting form of the thread (R158). -/
def Thread.accepted (t : Thread) (f : Form) : Thread :=
  if f.mayWait then { t with sp := { t.sp with febudget := 64 } } else t

/-- Perform an ordinary access at its bank now (DESIGN CHOICE, log 5). -/
def performX (s : State) (t : Thread) (a : Access) (k : Nat) : X (State × Thread) :=
  match bankStep s k a.form with
  | (s1, .ok v) => .ok (s1, (t.accepted a.form).completes a.d v)
  | (s1, .wait) =>
    let s2 := (s1.setThread t).addAccess a
    let s3 := s2.keepWaiting a
    let t1 := (s3.thread? t.id).getD t
    .error (.parkIn s3 { t1 with state := .parked, wait := .access a.d 0 })
  | (_, .bad c) => .error (.trap (a.trapOf c))

/-- The same for a stamped leaf's access, which may go to the commit buffer, or roll younger leaves back (R58, R93,
R94). -/
def arriveX (s : State) (t : Thread) (a : Access) : X (State × Thread) :=
  let s1 := ((s.setThread t).addAccess a).arrive a
  let t1 := (s1.thread? t.id).getD t
  match (s1.acc? a.n).map fun (b : Access) => b.stage with
  | some (.done v) => .ok ({ s1 with accs := s1.accs.filter fun b => b.n != a.n }, t1.completes a.d v)
  | some (.failed c) => .error (.trap (a.trapOf c))
  | _ => .error (.parkIn s1 { t1 with state := .parked, wait := .access a.d 0 })

/-- A barrier form. -/
def Form.barrier : Form → Bool
  | .barinit _ | .bararr _ _ | .barwait _ | .barcount _ => true
  | _ => false

/-- Where a form may be performed: base-die registers take plain loads and stores alone (R148), and a
barrier object lies in scratch or cap memory (R244). -/
def Form.mayReach (f : Form) (k : Nat) : Bool :=
  if (poolOf k).isSome then true
  else if f.barrier then decide (paSpace k < 4)
  else !(paSpace k = 6 && f.sync)

/-- A plain access to the base-die registers is of 8 or 64 bytes, the latter not everywhere (R331, R335, R336). -/
def Form.dieSize (f : Form) (k : Nat) : Bool :=
  (poolOf k).isSome || paSpace k != 6 || f.bytes = 8 || (f.bytes = 64 && baseTakesV (paOff k) f.writes)

/-- The tests on a translated address of this device, and R56's rule on its words. -/
def reachX (s : State) (t : Thread) (a : Access) (k : Nat) : X Unit := do
  need (a.form.mayReach k) (.trap (.plain 0x09 a.dva))
  need (a.form.dieSize k) (.trap (a.trapOf 0x06))
  sameKeyX s t k a.form.bytes

/-- The store would need a line beyond the cluster's 256 (R95); an address without a key is taken to need one. -/
def State.bufferFull (s : State) (t : Thread) (k : Option Nat) : Bool :=
  match t.spec with
  | none => false
  | some sp =>
    decide (256 ≤ s.bufferLines sp.cluster) && !(k.any fun j => (linesOf sp.stores).contains (j / 64))

/-- A speculative leaf parks before a T store for which the buffer has no room (R95). -/
def roomX (s : State) (t : Thread) (a : Access) : X Unit :=
  need (!(a.tSeg && t.speculative && a.form.writes && s.bufferFull t a.key)) (.park .oldest)

/-- A translated access of a thread: a relaxed one is on its way; an ordinary one is performed, unless the model's
agenda or an older T store of its leaf holds it in flight. -/
def placeX (s : State) (t : Thread) (a : Access) (k : Nat) : X (State × Thread) := do
  roomX s t a
  if a.rel then issueRelaxed s t a
  else if (s.slow && !ownPool t a.dva) || !s.inOrder a then awaitAccess s t a
  else if t.spec.isSome then arriveX s t a
  else performX s t a k

/-- An access at a bank of this device; a poisoned data register traps after the tests on the address (R23, R292). -/
def bankX (s : State) (t : Thread) (a : Access) (k : Nat) (data : List RegNum) : X (State × Thread) := do
  reachX s t a k
  cleansX t data
  placeX s t { a with key := some k } k

/-- An access to the peer window: the P right, then the route (R148). A speculative leaf's T store goes to the commit
buffer (R93). -/
def peerX (s : State) (t : Thread) (a : Access) (k : Nat) (data : List RegNum) : X (State × Thread) := do
  need a.pRight (.trap (a.trapOf 0x05))
  need (!a.form.sync || a.form.carried) (.trap (.plain 0x09 a.dva))
  let a : Access := { a with key := some k }
  match s.peerCause k a.form.sync with
  | none => do
    sameKeyX s t k a.form.bytes
    cleansX t data
    if a.tSeg && t.speculative && a.form.writes then placeX s t a k
    else if a.rel then issueRelaxed s t a
    else awaitAccess s t a
  | some c =>
    if c = 0x09 then .error (.trap (.plain 0x09 a.dva))
    else if a.rel then do
      cleansX t data
      issueRelaxed s t { a with stage := .failed c }
    else .error (.trap (a.trapOf c))

/-- An access that joins a collapse, or causes it (R288). -/
def collapseX (s : State) (t : Thread) (a : Access) (k : Nat) (data : List RegNum) : X (State × Thread) := do
  reachX s t a k
  cleansX t data
  let a : Access := { a with key := some k, stage := .collapsing }
  roomX s t a
  if a.rel then issueRelaxed s t a else awaitAccess s t a

/-- The thread parks before the instruction, with what translation has changed. -/
def parkInX {α : Type} (s : State) (t : Thread) (w : Wait) : X α :=
  .error (.parkIn s { t with state := .parked, wait := w })

/-- One access of a thread, checked by R11, at an effective offset of a segment; `data` are the registers whose
contents it carries, and which it has found present. -/
def accessX (s : State) (t : Thread) (g : SegReg) (e : Word) (f : Form) (align : Nat) (rel : Bool)
    (d : Option RegNum) (data : List RegNum) : X (State × Thread) := do
  let a ← checkX s t g e f.bytes align f.rights f.writes
  if f.sync then oldestX t
  sameWordX s t a f.bytes
  if rel then need (s.relaxedCount t.id < 8) (.park .relaxed8)
  match s.route (clusterOf t.id.core.toNat) t.dom a f.writes f.sync with
  | (s1, .bank k) => bankX s1 t (mkAccess s1 t g e a f rel d none .inFlight) k data
  | (s1, .peer k) => peerX s1 t (mkAccess s1 t g e a f rel d none .inFlight) k data
  | (s1, .collapse k) => collapseX s1 t (mkAccess s1 t g e a f rel d none .inFlight) k data
  | (s1, .miss m) => do
    cleansX t data
    if rel then do
      roomX s1 t (mkAccess s1 t g e a f rel d none .atMmu)
      issueRelaxed (s1.pageRequest (pageG0 a (some t.id) 2 f.writes m t.regionId t.dom)) t
        (mkAccess s1 t g e a f rel d none .atMmu)
    else faultX s1 t 0 a f.writes m
  | (s1, .inval by') => do
    cleansX t data
    if rel then do
      roomX s1 t (mkAccess s1 t g e a f rel d none .atMmu)
      issueRelaxed s1 t (mkAccess s1 t g e a f rel d none (.invalidating by'))
    else parkInX s1 t (.inval by')

/-! ## Reads that an instruction makes beside its own access -/

/-- n bytes of this device that an instruction reads of itself, as an ordinary load would: a bad word traps, and so
does a size that base-die register space does not take (R55, R162, R331). -/
def localReadX (s : State) (t : Thread) (g : SegReg) (off a : Word) (k n : Nat) : X (State × Reg) := do
  sameKeyX s t k n
  need ((Form.load n false).dieSize k) (.trap { code := 0x06, info := off, seg := g, wr := false, miss := 0 })
  match s.badAt k n with
  | some c => .error (.trap (answerTrap c a g false))
  | none => .ok (s, BitVec.ofNat 512 (bytesNat (s.plainBytes k n)))

/-- The tables, records and headers that an instruction reads of itself, at a DVA of the thread's space (R60, R133,
R258): R56's rule holds for it, a missing page parks the thread as kind 0 (R282), and a collapse or a TLBINV under
way holds it (R281, R288). Through a segment, the peer window needs its P right. -/
def ownReadX (s : State) (t : Thread) (g : SegReg) (p : Bool) (off a : Word) (n : Nat) : X (State × Reg) := do
  sameWordX s t a n
  match s.route (clusterOf t.id.core.toNat) t.dom a false false with
  | (s, .bank k) => localReadX s t g off a k n
  | (s, .collapse k) => parkInX s t (.collapse k)
  | (s, .inval by') => parkInX s t (.inval by')
  | (s, .miss m) => faultX s t 0 a false m
  | (s, .peer k) => do
    need p (.trap { code := 0x05, info := off, seg := g, wr := false, miss := 0b100000 })
    sameKeyX s t k n
    match s.peerCause k false with
    | some c => .error (.trap (answerTrap c a g false))
    | none => let (v, s) := s.unknown; .ok (s, BitVec.ofNat 512 (v.toNat % 2 ^ (8 * n)))

end Sys2Proof.Machine
end

