-- ==== Sys2Proof/Machine/Drain.lean ====
section
/-! DEFINITION. What a thread has outstanding, the end of an access, the traps that arrive from outside
an instruction, and when a wait is over (R48, R55 to R57, R156, R222, R225, R238). -/

namespace Sys2Proof.Machine

/-! ## Engine operations and copies of a thread -/

/-- A thread's engine operations that have not completed, its queue image among them, unless it is ending itself and
leaves them behind (R316). -/
def State.opsOf (s : State) (t : Thread) : List EngineOp :=
  ((s.core t.id.core.toNat).engq.filter fun o => o.t = t.id) ++ if t.selfKilled then [] else t.image

/-- The copies of a thread on a channel that have not completed. -/
def State.copiesOn (s : State) (t : Ident) (ch : Nat) : List CopyOp :=
  ((s.core t.core.toNat).copyq.getD ch []).filter fun o => o.t = t

/-- The copies of a thread that have not completed. -/
def State.copiesOf (s : State) (t : Ident) : List CopyOp :=
  (List.range 4).flatMap fun ch => s.copiesOn t ch

/-- Uncompleted operations of the open batch (R222). -/
def State.openOps (s : State) (t : Thread) : Nat :=
  ((s.opsOf t).filter fun o => o.batch = t.nextBatch).length

/-- How many batches before `next` the oldest of some operations lies. -/
def oldestBatch (next : BitVec 16) (l : List EngineOp) : Nat :=
  (l.map fun o => (next - o.batch).toNat).foldl max 0

/-- Committed batches outstanding (R222). -/
def State.outstanding (s : State) (t : Thread) : Nat := oldestBatch t.nextBatch (s.opsOf t)

/-- Close the open batch (R222). -/
def Thread.closeBatch (t : Thread) : Thread := { t with nextBatch := t.nextBatch + 1, batchOps := 0 }

/-- Close a non-empty open batch, as END and MIGRATE do (R222); a trap taken while the instruction is parked opens it
again (R57). -/
def Thread.closeOpen (t : Thread) : Thread :=
  if t.batchOps = 0 then t else { t.closeBatch with reopen := t.batchOps }

/-- The open batch is closed as MCOMMIT would close it: a ninth outstanding batch parks the thread first (R48, R222). -/
def closeX (s : State) (t : Thread) : X Thread :=
  if t.batchOps = 0 then .ok t
  else do
    need (oldestBatch (t.nextBatch + 1) (s.opsOf t) ≤ 8) (.park .commitFull)
    return t.closeOpen

/-- What END and a decision wait for: relaxed accesses, engine operations, copies (R48). -/
def State.drained (s : State) (t : Thread) : Bool :=
  (s.relaxedOf t.id).isEmpty && (s.opsOf t).isEmpty && (s.copiesOf t.id).isEmpty

/-- An uncompleted operation of a committed batch. -/
def State.committedBusy (s : State) (t : Thread) : Bool :=
  (s.opsOf t).any fun o => o.batch != t.nextBatch

/-! ## The end of an access -/

/-- The accesses of one group: an access alone, or the elements of a gather. -/
def State.group (s : State) (g : Nat) : List Access := s.accs.filter fun a => a.group = g

/-- Nothing of a group is still on its way: a gather with a failed element traps only once its others have been answered
(DESIGN CHOICE, log 54). -/
def groupOver (l : List Access) : Bool := l.all Access.answered

/-- The failure of an access. -/
def Access.failure (a : Access) : Option (BitVec 8 × Access) :=
  match a.stage with
  | .failed c => some (c, a)
  | _ => none

/-- The failure of a group: the lowest element's, in whatever order the banks have kept the elements (R191). -/
def groupFailure (l : List Access) : Option (BitVec 8 × Access) :=
  (l.filterMap Access.failure).foldl (fun best p => match best with
    | none => some p
    | some b => if p.2.n < b.2.n then some p else some b) none

/-- A register with a lane replaced. -/
def putLane (r : Reg) (w i x : Nat) : Reg :=
  ofLanes w ((List.range (512 / w)).map fun j => if j = i then x else lane r w j)

/-- What a group's answers make of a register: a value alone, or lanes. -/
def groupValue (base : Reg) (l : List Access) : Reg :=
  l.foldl (fun r a => match a.stage, a.lane with
    | .done v, none => v
    | .done v, some l => putLane r l.w l.i v.toNat
    | _, _ => r) base

/-- The state without a group. -/
def State.dropGroup (s : State) (g : Nat) : State :=
  { s with accs := s.accs.filter fun a => a.group != g }

/-- A thread whose wait has ended: READY, or HELD as before (R67). One whose engine operations wait for
a page, or for room in the queue, is out of rotation until they are back in it (R221, R224). -/
def Thread.woken (t : Thread) : Thread :=
  if t.state = .parked || t.state = .ready then
    if t.image.isEmpty then { t with wait := .none, state := .ready }
    else { t with wait := if t.roomWait then .queueRoom else .enginePage, state := .parked }
  else { t with wait := .none }

/-- A trap reaches a thread that is not issuing: a HELD one records it (R67), and so does one that a THKILL under way
has stopped. -/
def State.trapNow (s : State) (t : Thread) (i : TrapInfo) : State :=
  if t.condemned then s.setThread { t with pending := i :: t.pending }
  else if t.state = .held then s.setThread { t with pending := i :: t.pending, wait := .none }
  else takeTrap s t i

/-- A Skerry of a DIRECT leaf that has stored rolls back the younger leaves that had read its words (R94). -/
def State.skerriesStored (s : State) (t : Thread) (l : List Access) : State :=
  (l.filter fun a => a.form.mayWait && a.form.writes && (groupFailure [a]).isNone).foldl
    (fun s a => match a.key with
      | some k => s.storedBy t.id k a.form.bytes
      | none => s) s

/-- An ordinary group has been answered: the instruction completes, or traps (R55, R57, R191). -/
def State.finishOrdinary (s : State) (t : Thread) (g : Nat) (l : List Access) : State :=
  let s := (s.dropGroup g).skerriesStored t l
  match groupFailure l with
  | some (c, a) => s.trapNow t (a.trapOf c)
  | none =>
    let (d, base) := match t.wait with
      | .access d res => (d, res)
      | _ => (none, 0)
    s.commit ((t.completes d (groupValue base l)).woken)

/-- An ordinary store that a rollback has left behind has been answered; its leaf, which waits for it, goes on, or traps
where it starts again (R57, R94, DEDUCED, log 31). -/
def State.finishLeft (s : State) (t : Thread) (g : Nat) (l : List Access) : State :=
  match groupFailure l with
  | some (c, a) => (s.dropGroup g).trapNow (t.withWait .none) (a.trapOf c)
  | none => s.dropGroup g

/-! ## Traps that arrive from outside an instruction -/

/-- The ordinary accesses of a thread. -/
def State.ordinaryOf (s : State) (t : Ident) : List Access :=
  s.accs.filter fun a => !a.rel && a.t = t && a.agent = .thread

/-- An access that a bank keeps, or has refused: it can still be withdrawn (R156). -/
def Access.withdrawable (a : Access) : Bool :=
  match a.stage with
  | .skerry | .refused _ => true
  | _ => false

/-- Withdraw what has not completed of a thread's waiting access (R156): the accesses that remain are
those that have been performed or are on their way. -/
def State.withdrawSkerries (s : State) (t : Ident) : State :=
  { s with accs := s.accs.filter fun a => !(!a.rel && a.t = t && a.agent = .thread && a.withdrawable) }

/-- The thread's waiting access is withdrawn: nothing of it is left. -/
def State.dropOrdinary (s : State) (t : Ident) : State :=
  { s with accs := s.accs.filter fun a => !(!a.rel && a.t = t && a.agent = .thread) }

/-- Record a trap for the next instruction boundary, behind those recorded before; of ENGINE traps, the latest failure
takes the place of an earlier one, as in %estat (R225). -/
def Thread.recordTrap (t : Thread) (i : TrapInfo) : Thread :=
  { t with pending := (t.pending.filter fun j => !(j.code = 0x0C && i.code = 0x0C)) ++ [i] }

/-- A trap reaches a PARKED thread: where its ordinary access is on its way, it completes first, and so does the store of
its earlier run for which a rolled-back leaf waits; otherwise the thread traps at once, a Skerry withdrawn (R57, R156). -/
def State.trapParked (s : State) (t : Thread) (i : TrapInfo) : Option State :=
  if t.wait = .rolledBack && !(s.ordinaryOf t.id).isEmpty then none
  else if !t.onAccess then some (takeTrap s t i)
  else if (s.ordinaryOf t.id).any fun a => a.withdrawable then some (takeTrap (s.dropOrdinary t.id) t i)
  else none

/-- A trap that a relaxed answer, an engine failure or a cancelled copy brings (R57, R225, R238, R290). A PARKED thread
takes it at once, unless its access in flight is to complete first; a READY or HELD one, and one that a THKILL under way
has stopped, at its next boundary. -/
def State.deliverTrap (s : State) (t : Thread) (i : TrapInfo) : State :=
  let later := s.setThread (t.recordTrap i)
  if t.state = .parked && !t.condemned then (s.trapParked t i).getD later else later

/-! ## When a wait is over -/

/-- Relaxed accesses that a fence of a scope covers, by the bank found (R169): those not yet
translated count for every scope. -/
def covers (scope : Scope) (c : Nat) (a : Access) : Bool :=
  match a.key with
  | none => true
  | some k =>
    match poolOf k with
    | some (owner, _) =>
      match scope with
      | .core => owner = c
      | .cluster => clusterOf owner = clusterOf c
      | .die => if c < 0x400 then dieOf owner = dieOf c else 0x400 ≤ owner
      | .device | .system => true
    | none =>
      if paSpace k = 5 then scope = .system
      else
        match scope with
        | .core | .cluster => false
        | .die => decide (paSpace k < 4) && dieOf c = some (paSpace k)
        | .device | .system => true

/-- Whether FENCE has nothing to wait for (R170). -/
def State.fenceClear (s : State) (t : Thread) (scope : Scope) (eng : Bool) : Bool :=
  ((s.relaxedOf t.id).all fun a => !covers scope t.id.core.toNat a) &&
    (!eng || ((s.copiesOf t.id).isEmpty && !s.committedBusy t))

/-- Whether IFENCE has nothing to wait for: relaxed stores (R194). -/
def State.ifenceClear (s : State) (t : Thread) : Bool :=
  (s.relaxedOf t.id).all fun a => !a.form.writes

/-- Queued operations on any of some tile slots that have not completed (R221): every thread's, or one thread's own; those
of a queue image are among them. -/
def State.slotBusy (s : State) (t : Thread) (slots : List Nat) (own : Bool) : Bool :=
  ((s.core t.id.core.toNat).engq.any fun o =>
    (!own || o.t = t.id) && o.slots.any slots.contains) ||
  ((if own then [t] else t :: s.threadsOf t.id.core.toNat).any fun u =>
    u.image.any fun o => o.slots.any slots.contains)

/-- The copy pointer of a thread on a channel (R241). -/
def Thread.cwp (t : Thread) (ch : Nat) : Word := t.sp.cwp.getD ch 0

/-- Whether CWAIT returns (R263). -/
def State.cwaitOver (s : State) (t : Thread) (ch : Nat) (ptr : Option Nat) : Bool :=
  let l := s.copiesOn t.id ch
  match ptr with
  | none => l.isEmpty
  | some p =>
    match l.getLast? with
    | none => true
    | some o => decide (p ≤ o.landed)

/-- MIGRATE's drain: no open register, every store acknowledged, engine and copies done (R139). -/
def State.migrateClear (s : State) (t : Thread) : Bool :=
  (t.regs.all fun e => e.pres != .opened) &&
    ((s.relaxedOf t.id).all fun a => !a.form.writes) &&
    (s.opsOf t).isEmpty && (s.copiesOf t.id).isEmpty

/-- Kept as a Skerry at its bank, or waiting at an MMU for a page. -/
def Access.kept (a : Access) : Bool :=
  match a.stage with
  | .skerry | .atMmu => true
  | _ => false

/-- What THRD and THWR wait for: the target's accesses but for Skerries and page waits, and for the elements of a gather
that have been answered while another of its elements is kept so (R192, R312); and the end of a spill or a restore of it
that is under way. -/
def State.targetClear (s : State) (t : Ident) : Bool :=
  (s.jobOf t).isNone && (s.accs.filter fun a => a.t = t && a.agent = .thread).all fun a =>
    a.kept || (a.answered && (s.group a.group).any Access.kept)

/-- An access of a killed thread is over: an ordinary one that has been answered, or can be withdrawn, or a line of its
commit buffer that a peer has acknowledged (R178, R316). -/
def Access.killOver (a : Access) : Bool :=
  match a.agent with
  | .thread => !a.rel && (a.answered || a.withdrawable)
  | .buffer => a.answered
  | _ => true

/-- A killed thread has nothing left under way (R316). -/
def State.killClear (s : State) (t : Ident) : Bool :=
  (s.accs.all fun a => a.t != t || a.killOver) &&
    (s.copiesOf t).isEmpty && (s.core t.core.toNat).engq.all fun o => o.t != t

/-- The ranges that a copy writes: its destination, the words that CONSUME empties, and its barrier (R237, R242). -/
def CopyOp.writes (p : CopyOp) : List (Nat × Nat) :=
  ((List.range p.rows).flatMap fun r =>
    ((p.dst + BitVec.ofNat 64 r * p.dStride).toNat, p.rowLen) ::
      if p.mode = .consume then [((p.src + BitVec.ofNat 64 r * p.sStride).toNat, p.rowLen)] else []) ++
  match p.bar with
  | some b => [(b.1.toNat, 16)]
  | none => []

/-- A copy writes into a scratch range of a core: queued or running on any core (R243). -/
def State.copyInto (s : State) (c : Nat) (pool : Option (Nat × Nat)) : Bool :=
  match pool with
  | none => false
  | some (o, n) => s.cores.any fun k => k.2.copyq.any fun q => q.any fun p =>
      p.writes.any fun w => !apart (poolKey c o) n w.1 w.2

/-- The context of a HELD thread may be written (R296). One that waits for what another core or region is to do at its
request is written only once that has come, and so is one whose commit buffer is being written out, or whose end is
under way (DEDUCED, log 25). -/
def State.spillReady (s : State) (t : Thread) : Bool :=
  ((s.accs.filter fun a => a.t = t.id && a.agent = .thread).all fun a => !a.rel && (a.withdrawable ||
    (a.answered && (s.group a.group).any (·.withdrawable)))) &&
    (s.copiesOf t.id).isEmpty && ((s.core t.id.core.toNat).engq.all fun o => o.t != t.id) &&
    !(t.spec.any (·.committing)) && t.killed.isNone &&
    (t.regs.all fun e => e.pres != .awaiting) && !s.copyInto t.id.core.toNat t.pool &&
    (s.jobOf t.id).isNone &&
    (match t.wait with | .send _ _ | .chset _ _ | .region _ _ | .kill _ | .spilling _ _ => false | _ => true)

/-- The deposits of a link. -/
def State.link (s : State) (c : Nat) (prev : Bool) : List Deposit :=
  if prev then (s.core c).prev else (s.core c).next

/-- A sub-ring change that has been written and has not taken effect (R217). -/
def State.atollPending (s : State) (cl : Nat) : Bool := (tabGet cl s.sys.atollNext).isSome

/-- No thread of a region is READY or PARKED (R300). -/
def State.regionQuiet (s : State) (r : Nat) : Bool :=
  (s.threadsIn r).all fun t => t.state != .ready && t.state != .parked

/-- A wait after which the instruction issues again is over. The waits that an event ends are not
listed as over here. -/
def State.waitOver (s : State) (t : Thread) : Bool :=
  match t.wait with
  | .reg r => (t.entry r).pres = .present
  | .relaxed8 => s.relaxedCount t.id < 8
  | .sameWord ws =>
    (s.relaxedOf t.id).all fun a =>
      !((dvaWords a.dva a.form.bytes).any ws.contains) &&
        (a.key.all fun k => !(s.homeWords k a.form.bytes).any ws.contains)
  | .queueFull => (s.core t.id.core.toNat).engq.length < 32
  | .batchFull => s.openOps t < 16
  | .commitFull => oldestBatch (t.nextBatch + 1) (s.opsOf t) ≤ 8
  | .mwait n => s.outstanding t ≤ n
  | .slotOps slots own => !s.slotBusy t slots own
  | .copyFull ch => ((s.core t.id.core.toNat).copyq.getD ch []).length < 8
  | .cwait ch ptr => s.cwaitOver t ch ptr
  | .fence scope eng => s.fenceClear t scope eng
  | .ifence => s.ifenceClear t
  | .link prev => (s.link t.id.core.toNat prev).length < 4 && !s.atollPending (clusterOf t.id.core.toNat)
  | .launchLimit => s.regions.length < 16384
  | .migrate => s.migrateClear t
  | .target u => s.targetClear u
  | .collapse k => (s.dupOf k).all fun p => p.collapsing.isNone
  | .inval by' => !s.invalidating by'
  | .rolledBack => (s.ordinaryOf t.id).isEmpty
  | .kill u => s.killClear u
  | .spill u =>
    match s.thread? u with
    | some x => x.state != .held || s.spillReady x
    | none => true
  | .spilling u _ => (s.jobOf u).isNone
  | _ => false

end Sys2Proof.Machine
end

