-- ==== Sys2Proof/Machine/Atom.lean ====
section
/-! DEFINITION. The meanings of the ATOM group (R185 to R188). -/

namespace Sys2Proof.Machine

/-- Bytes of an atomic (R185). -/
def atomBytes (dbl : Bool) : Nat := if dbl then 8 else 4

/-- An atomic: D is operand and result (R185). -/
def atomOp (s : State) (d base : RegNum) (g : SegReg) (off : BitVec 32) (dbl : Bool) (op : AtomOp) :
    Host.Outcome State Fault Refusal :=
  runT s fun s t => do
    windowX t [d, base]
    let x ← presentX t d
    let b ← readX t base
    accessX s t g (offM b off) (.atom op (atomBytes dbl) (scalar x) 0) (atomBytes dbl) false (some d) [d]

/-- AADD (R185). -/
def execAadd (d base : RegNum) (seg : SegReg) (off : BitVec 32) (dbl : Bool) (s : State) :
    Host.Outcome State Fault Refusal := atomOp s d base seg off dbl .add

/-- AAND (R185). -/
def execAand (d base : RegNum) (seg : SegReg) (off : BitVec 32) (dbl : Bool) (s : State) :
    Host.Outcome State Fault Refusal := atomOp s d base seg off dbl .and

/-- AOR (R185). -/
def execAor (d base : RegNum) (seg : SegReg) (off : BitVec 32) (dbl : Bool) (s : State) :
    Host.Outcome State Fault Refusal := atomOp s d base seg off dbl .or

/-- AXOR (R185). -/
def execAxor (d base : RegNum) (seg : SegReg) (off : BitVec 32) (dbl : Bool) (s : State) :
    Host.Outcome State Fault Refusal := atomOp s d base seg off dbl .xor

/-- AMIN (R185). -/
def execAmin (d base : RegNum) (seg : SegReg) (off : BitVec 32) (dbl : Bool) (s : State) :
    Host.Outcome State Fault Refusal := atomOp s d base seg off dbl .min

/-- AMAX (R185). -/
def execAmax (d base : RegNum) (seg : SegReg) (off : BitVec 32) (dbl : Bool) (s : State) :
    Host.Outcome State Fault Refusal := atomOp s d base seg off dbl .max

/-- AMINN (R185). -/
def execAminn (d base : RegNum) (seg : SegReg) (off : BitVec 32) (dbl : Bool) (s : State) :
    Host.Outcome State Fault Refusal := atomOp s d base seg off dbl .minn

/-- AMAXN (R185). -/
def execAmaxn (d base : RegNum) (seg : SegReg) (off : BitVec 32) (dbl : Bool) (s : State) :
    Host.Outcome State Fault Refusal := atomOp s d base seg off dbl .maxn

/-- ASWP (R185). -/
def execAswp (d base : RegNum) (seg : SegReg) (off : BitVec 32) (dbl : Bool) (s : State) :
    Host.Outcome State Fault Refusal := atomOp s d base seg off dbl .swp

/-- AFADD (R187). -/
def execAfadd (d base : RegNum) (seg : SegReg) (off : BitVec 32) (dbl : Bool) (s : State) :
    Host.Outcome State Fault Refusal := atomOp s d base seg off dbl .fadd

/-- ACAS: the new value comes from a third register (R186). -/
def execAcas (d base new : RegNum) (seg : SegReg) (off : BitVec 25) (dbl : Bool) (s : State) :
    Host.Outcome State Fault Refusal :=
  runT s fun s t => do
    windowX t [d, base, new]
    let x ← presentX t d
    let b ← readX t base
    let v ← presentX t new
    accessX s t seg (offCas b off) (.atom .cas (atomBytes dbl) (scalar x) (scalar v)) (atomBytes dbl)
      false (some d) [d, new]

end Sys2Proof.Machine
end

