-- ==== Sys2Proof/Machine/Barrier.lean ====
section
/-! DEFINITION. The meanings of the barrier instructions (R244, R245, R264 to R266). -/

namespace Sys2Proof.Machine

/-- A barrier access at an E-format memory operand: 16 bytes, 16-byte aligned (R244, R248). -/
def barAccess (s : State) (t : Thread) (m : MOp) (base : Reg) (f : Form) (d : Option RegNum)
    (data : List RegNum) : X (State × Thread) :=
  accessX s t m.seg (offE base m.off) f 16 false d data

/-- An expected count that BARINIT accepts: 1 to 1,048,575 (R264). -/
def barCountOk (x : Reg) : Bool :=
  decide (1 ≤ (scalar x).toNat) && decide ((scalar x).toNat ≤ 1048575)

/-- BARINIT (R264). -/
def execBarinit (b : RegNum) (m : MOp) (s : State) : Host.Outcome State Fault Refusal :=
  runT s fun s t => do
    valueX s t b barCountOk
    windowX t [m.a, b]
    let x ← readX t m.a
    let v ← presentX t b
    barAccess s t m x (.barinit ((scalar v).extractLsb' 0 20)) none [b]

/-- BARARR without a count (R265). -/
def execBararr (c : RegNum) (m : MOp) (s : State) : Host.Outcome State Fault Refusal :=
  runT s fun s t => do
    windowX t [m.a, c]
    let x ← readX t m.a
    destX t c
    barAccess s t m x (.bararr false 0) (some c) []

/-- BARARR with a count of transfers (R265). -/
def execBararrCount (b c : RegNum) (out : Bool) (m : MOp) (s : State) :
    Host.Outcome State Fault Refusal :=
  runT s fun s t => do
    windowX t [m.a, b, c]
    let x ← readX t m.a
    let v ← presentX t b
    destX t c
    barAccess s t m x (.bararr out ((scalar v).extractLsb' 0 32)) (some c) [b]

/-- BARWAIT (R266). -/
def execBarwait (b : RegNum) (m : MOp) (s : State) : Host.Outcome State Fault Refusal :=
  runT s fun s t => do
    windowX t [m.a, b]
    let x ← readX t m.a
    let v ← presentX t b
    barAccess s t m x (.barwait ((scalar v).extractLsb' 0 4)) none [b]

end Sys2Proof.Machine
end

