-- ==== Sys2Proof/Machine/Branch.lean ====
section
/-! DEFINITION. The meanings of the BRANCH and JUMP groups (R44 to R46). A hint has no effect. -/

namespace Sys2Proof.Machine

/-- Eight times a displacement (R28). -/
def dispBytes (disp : BitVec 29) : Word := 8 * sext 29 disp

/-- The program counter of a branch, taken or not (R44). -/
def Thread.branch (t : Thread) (taken : Bool) (disp : BitVec 29) : Thread :=
  { t with pc := if taken then t.pc + dispBytes disp else t.pc + 8 }

/-- A branch that compares two registers. -/
def branch2 (s : State) (a b : RegNum) (disp : BitVec 29) (taken : Word → Word → Bool) :
    Host.Outcome State Fault Refusal :=
  runT s fun s t => do
    windowX t [a, b]
    let x ← readX t a
    let y ← readX t b
    return (s, t.branch (taken (scalar x) (scalar y)) disp)

/-- A branch that tests one register. -/
def branch1 (s : State) (a : RegNum) (disp : BitVec 29) (taken : Word → Bool) :
    Host.Outcome State Fault Refusal :=
  runT s fun s t => do
    windowX t [a]
    let x ← readX t a
    return (s, t.branch (taken (scalar x)) disp)

/-- BR (R44). -/
def execBr (_hint : Hint) (disp : BitVec 29) (s : State) : Host.Outcome State Fault Refusal :=
  runT s fun s t => .ok (s, t.branch true disp)

/-- BEQ (R44). -/
def execBeq (a b : RegNum) (_hint : Hint) (disp : BitVec 29) (s : State) :
    Host.Outcome State Fault Refusal := branch2 s a b disp fun x y => x = y

/-- BNE (R44). -/
def execBne (a b : RegNum) (_hint : Hint) (disp : BitVec 29) (s : State) :
    Host.Outcome State Fault Refusal := branch2 s a b disp fun x y => x ≠ y

/-- BLT (R44). -/
def execBlt (a b : RegNum) (_hint : Hint) (disp : BitVec 29) (s : State) :
    Host.Outcome State Fault Refusal := branch2 s a b disp fun x y => x.toInt < y.toInt

/-- BGE (R44). -/
def execBge (a b : RegNum) (_hint : Hint) (disp : BitVec 29) (s : State) :
    Host.Outcome State Fault Refusal := branch2 s a b disp fun x y => y.toInt ≤ x.toInt

/-- BLTN (R44). -/
def execBltn (a b : RegNum) (_hint : Hint) (disp : BitVec 29) (s : State) :
    Host.Outcome State Fault Refusal := branch2 s a b disp fun x y => x.toNat < y.toNat

/-- BGEN (R44). -/
def execBgen (a b : RegNum) (_hint : Hint) (disp : BitVec 29) (s : State) :
    Host.Outcome State Fault Refusal := branch2 s a b disp fun x y => y.toNat ≤ x.toNat

/-- BZ (R44). -/
def execBz (a : RegNum) (_hint : Hint) (disp : BitVec 29) (s : State) :
    Host.Outcome State Fault Refusal := branch1 s a disp fun x => x = 0

/-- BNZ (R44). -/
def execBnz (a : RegNum) (_hint : Hint) (disp : BitVec 29) (s : State) :
    Host.Outcome State Fault Refusal := branch1 s a disp fun x => x ≠ 0

/-- DBNZ: the decremented register is written, taken or not (R44). -/
def execDbnz (a : RegNum) (_hint : Hint) (disp : BitVec 29) (s : State) :
    Host.Outcome State Fault Refusal :=
  runT s fun s t => do
    windowX t [a]
    let x ← readX t a
    let v := scalar x - 1
    return (s, (t.setReg a (ofScalar v)).branch (v ≠ 0) disp)

/-- CALL (R44). -/
def execCall (lnk : RegNum) (_hint : Hint) (disp : BitVec 29) (s : State) :
    Host.Outcome State Fault Refusal :=
  runT s fun s t => do
    windowX t [lnk]
    destX t lnk
    return (s, (t.setReg lnk (ofScalar (t.pc + 8))).branch true disp)

/-- JMP (R45). -/
def execJmp (a : RegNum) (_hint : Hint) (disp : BitVec 29) (s : State) :
    Host.Outcome State Fault Refusal :=
  runT s fun s t => do
    windowX t [a]
    let x ← readX t a
    let pc ← targetX (scalar x + dispBytes disp)
    return (s, { t with pc := pc })

/-- CALLR: the target is formed before the link is written (R45). -/
def execCallr (lnk a : RegNum) (_hint : Hint) (disp : BitVec 29) (s : State) :
    Host.Outcome State Fault Refusal :=
  runT s fun s t => do
    windowX t [a, lnk]
    let x ← readX t a
    let pc ← targetX (scalar x + dispBytes disp)
    destX t lnk
    return (s, { t.setReg lnk (ofScalar (t.pc + 8)) with pc := pc })

end Sys2Proof.Machine
end

