-- ==== Sys2Proof/Machine/Quant.lean ====
section
/-! DEFINITION. Block formats: E8M0 scales and MX blocks, S128 rows, and bit planes (R200, R203 to R206). -/

namespace Sys2Proof.Machine

/-! ## MX blocks (R203, R204) -/

/-- The exponent of an MX element format's largest normal value (R204). -/
def mxEmax : Ty → Int
  | .e4m3 => 8
  | .e5m2 => 15
  | .e3m2 => 4
  | .e2m3 | .e2m1 => 2
  | _ => 0

/-- Floor(Log2) of a non-zero finite value; none of a zero or of what is not finite. -/
def FVal.floorLog2 : FVal → Option Int
  | .fin _ m e => if m = 0 then none else some (e + (Nat.log2 m : Int))
  | _ => none

/-- Whether a value is an infinity or a NaN. -/
def FVal.isSpecial : FVal → Bool
  | .fin _ _ _ => false
  | _ => true

/-- The largest exponent among the values that have one. -/
def maxLog2 (l : List FVal) : Option Int := (l.filterMap FVal.floorLog2).max?

/-- A magnitude rounded to an element format under RNE and saturated, with its sign; a zero is +0
(R204, R205). -/
def Fmt.quantise (f : Fmt) (s : Bool) (m : Nat) (e : Int) (sticky : Bool) : Nat :=
  let g := min (f.roundMag .rne s m e sticky).1 f.maxCode
  if g = 0 then 0 else f.signed s g

/-- One element of an MX block, of a value already scaled (R204). MXINT8 codes are multiples of 2^−6. -/
def mxElem (ty : Ty) (s : Bool) (m : Nat) (e : Int) : Nat :=
  match fmtOf false ty with
  | some f => f.quantise s m e false
  | none =>
    let g := min (roundIntegral .rne s m (e + 6)) 127
    wrap 8 (if s then -(g : Int) else (g : Int))

/-- Quantise a block to an MX format: scale, elements, and whether NV is set (R204). -/
def mxQuantise (ty : Ty) (l : List FVal) : Nat × List Nat × Bool :=
  if l.any FVal.isSpecial then (0xFF, l.map fun _ => 0, true)
  else
    match maxLog2 l with
    | none => (0, l.map fun _ => 0, false)
    | some g =>
      let x := clampInt (-127) 127 (g - mxEmax ty)
      ((x + 127).toNat, l.map fun v => match v with
        | .fin s m e => mxElem ty s m (e - x)
        | _ => 0, false)

/-- The value of an element code of a block without its scale; MXINT8 is i × 2^−6 (R203). -/
def mxCode (ty : Ty) (c : Nat) : FVal :=
  match fmtOf false ty with
  | some f => f.read c
  | none => let i := sgn 8 (c % 256); .fin (i < 0) i.natAbs (-6)

/-- A value times an E8M0 scale; 0xFF makes it a NaN (R200, R203). -/
def FVal.scaled (v : FVal) (s : Nat) : FVal :=
  if s = 0xFF then .nan false
  else match v with
    | .fin g m e => .fin g m (e + (s : Int) - 127)
    | v => v

/-! ## S128 rows (R205) -/

/-- The greater of two finite magnitudes. -/
def maxMag (a b : Nat × Int) : Nat × Int :=
  let e0 := min a.2 b.2
  if a.1 * 2 ^ (a.2 - e0).toNat < b.1 * 2 ^ (b.2 - e0).toNat then b else a

/-- The largest finite e4m3 value under XS: 448 or 240 (R205). -/
def s128Max (xs : Bool) : Nat := if xs then 240 else 448

/-- Quantise one row to S128: f32 scale code, e4m3 codes, and whether NV is set (R205). -/
def s128Quantise (xs : Bool) (l : List FVal) : Nat × List Nat × Bool :=
  if l.any FVal.isSpecial then (fmt32.nan, l.map fun _ => 0, true)
  else
    let a := l.foldl (fun acc v => match v with
      | .fin _ m e => maxMag acc (m, e)
      | _ => acc) (0, 0)
    if a.1 = 0 then (0, l.map fun _ => 0, false)
    else
      let (q, h, st) := divDyadic 28 a.1 a.2 (s128Max xs) 0
      let c := min (max (fmt32.round .rne false q h st) 0x0040_0000) 0x7F00_0000
      match fmt32.read c, fmtOf xs .e4m3 with
      | .fin _ n g, some f =>
        (c, l.map fun v => match v with
          | .fin s m e =>
            let (q, h, st) := divDyadic 8 m e n g
            f.quantise s q h st
          | _ => 0, false)
      | _, _ => (c, l.map fun _ => 0, false)

/-! ## Bit planes (R206) -/

/-- Bits of an element in planes; 0 for a format of bytes. -/
def planeBits : Ty → Nat
  | .e3m2 | .e2m3 => 6
  | .e2m1 | .i4 | .n4 => 4
  | _ => 0

/-- The number whose bit i is given. -/
def ofBits (n : Nat) (f : Nat → Bool) : Nat :=
  ((List.range n).map fun i => if f i then 2 ^ i else 0).sum

/-- The group of 128 elements as the bits of 16 × b bytes: bit p of element i is bit 128p + i. -/
def toPlanes (b : Nat) (elems : List Nat) : Nat :=
  ((List.range b).map fun p =>
    2 ^ (128 * p) * bytesNat ((List.range 16).map fun j =>
      BitVec.ofNat 8 (ofBits 8 fun q => (elems.getD (8 * j + q) 0).testBit p))).sum

/-- Element i of a group given as the number that its bytes spell. -/
def fromPlanes (b g i : Nat) : Nat := ofBits b fun p => g.testBit (128 * p + i)

end Sys2Proof.Machine
end

