-- ==== Sys2Proof/Machine/Flags.lean ====
section
/-! DEFINITION. What %status gives an instruction and takes from it: the rounding in effect, the
saturation in effect, and the sticky NV (R16, R20, R29, R31). -/

namespace Sys2Proof.Machine

/-- The mode of a rounding code 1 to 5 (R31); %status.RND never holds another (R20). -/
def rndOf (c : BitVec 3) : Rnd :=
  if c = 2 then .rtz else if c = 3 then .rup else if c = 4 then .rdn else if c = 5 then .rna else .rne

/-- The rounding in effect: code 0 takes %status.RND (R31). -/
def Thread.rounding (t : Thread) (r : Rnd) : Rnd :=
  match r with
  | .dflt => rndOf t.rnd
  | r => r

/-- The saturation in effect: SATC, or %status.SAT (R29). -/
def Thread.saturates (t : Thread) (c : SatC) : Bool :=
  match c with
  | .status => t.sat
  | .nosat => false
  | .sat => true

/-- Whether any of the results sets NV. -/
def anyNv (l : List FRes) : Bool := l.any (·.nv)

/-- The codes of the results. -/
def codes (l : List FRes) : List Nat := l.map (·.code)

end Sys2Proof.Machine
end

