-- ==== Sys2Proof/Machine/VInt.lean ====
section
/-! DEFINITION. The meanings of the VINT group (R107 to R112), and the masked loop that every vector
group shares. -/

namespace Sys2Proof.Machine

/-! ## The masked loop (R108, R109) -/

/-- A vector instruction: the registers it names, then the vector unit (R110, R304). -/
def vecOp (s : State) (regs : List RegNum) (f : State → Thread → X (State × Thread)) :
    Host.Outcome State Fault Refusal :=
  runT s fun s t => do
    windowX t regs
    unitX s t 0
    f s t

/-- An element is computed: scalar lane first, then the mask. -/
def active (k : Word) (sl : Bool) (i : Nat) : Bool := (!sl || i == 0) && k.getLsbD i

/-- The destination as a masked instruction reads it: its old value where a mask other than k0 keeps
inactive elements, zero otherwise (R108). -/
def oldX (t : Thread) (d : RegNum) (k : KReg) (z : Bool) : X Reg :=
  if k ≠ 0 && !z then readX t d
  else do
    destX t d
    return 0

/-- n elements of width w: results where active, else zero under Z or SL, else the old value; the
elements beyond are zero. -/
def masked (k : Word) (z sl : Bool) (old : Reg) (w n : Nat) (res : Nat → Nat) : Reg :=
  ofLanes w ((List.range n).map fun i =>
    if sl && i != 0 then 0 else if k.getLsbD i then res i else if z then 0 else lane old w i)

/-- A mask result (R109, R119): bits from n on are zero, and so are those from 1 on under SL. -/
def maskBits (k : Word) (z sl : Bool) (old : Word) (n : Nat) (res : Nat → Bool) : Word :=
  BitVec.ofNat 64 (((List.range n).map fun i =>
    let b := if sl && i != 0 then false else if k.getLsbD i then res i else if z then false
             else old.getLsbD i
    if b then 2 ^ i else 0).sum)

/-- Elements of a register at a width (R107). -/
def count (w : Nat) : Nat := 512 / w

/-- A lane read signed or not (R111). -/
def slane (r : Reg) (w : Nat) (signed : Bool) (i : Nat) : Int :=
  if signed then sgn w (lane r w i) else (lane r w i : Int)

/-- A masked instruction of two sources. -/
def vint2 (s : State) (d a b : RegNum) (ty : Ty) (k : KReg) (z : Bool) (f : Int → Int → Int) :
    Host.Outcome State Fault Refusal :=
  vecOp s [d, a, b] fun s t => do
    let x ← readX t a
    let y ← readX t b
    let old ← oldX t d k z
    let w := ty.width
    done s t d (masked (t.mask k) z false old w (count w) fun i =>
      wrap w (f (slane x w ty.isSigned i) (slane y w ty.isSigned i)))

/-- A masked instruction of one source. -/
def vint1 (s : State) (d a : RegNum) (ty : Ty) (k : KReg) (z : Bool) (f : Int → Int) :
    Host.Outcome State Fault Refusal :=
  vecOp s [d, a] fun s t => do
    let x ← readX t a
    let old ← oldX t d k z
    let w := ty.width
    done s t d (masked (t.mask k) z false old w (count w) fun i =>
      wrap w (f (slane x w ty.isSigned i)))

/-- The registers that a second operand names. -/
def srcRegs : VSrc → List RegNum
  | .reg b => [b]
  | .imm _ => []

/-- The second operand's register, or nothing for an immediate. -/
def srcX (t : Thread) : VSrc → X Reg
  | .reg b => readX t b
  | .imm _ => .ok 0

/-- A masked shift: the count is the lane of B or IMMV, modulo w (R111). -/
def vshift (s : State) (d a : RegNum) (src : VSrc) (ty : Ty) (k : KReg) (z : Bool) (signed : Bool)
    (f : Int → Nat → Int) : Host.Outcome State Fault Refusal :=
  vecOp s ([d, a] ++ srcRegs src) fun s t => do
    let x ← readX t a
    let y ← srcX t src
    let old ← oldX t d k z
    let w := ty.width
    let cnt (i : Nat) : Nat := match src with
      | .reg _ => lane y w i % w
      | .imm v => v.toNat % w
    done s t d (masked (t.mask k) z false old w (count w) fun i =>
      wrap w (f (slane x w signed i) (cnt i)))

/-- A masked comparison into a mask register (R112). -/
def vcmp (s : State) (d : KReg) (a b : RegNum) (ty : Ty) (k : KReg) (z : Bool)
    (f : Int → Int → Bool) : Host.Outcome State Fault Refusal :=
  vecOp s [a, b] fun s t => do
    let x ← readX t a
    let y ← readX t b
    let w := ty.width
    return (s, (t.setMask d (maskBits (t.mask k) z false (t.mask d) (count w) fun i =>
      f (slane x w ty.isSigned i) (slane y w ty.isSigned i))).adv)

/-- A value clamped to an integer type's range (R111). -/
def clampTy (ty : Ty) (v : Int) : Int :=
  if ty.isSigned then clampInt (-(2 : Int) ^ (ty.width - 1)) ((2 : Int) ^ (ty.width - 1) - 1) v
  else clampInt 0 ((2 : Int) ^ ty.width - 1) v

/-- A bitwise operation on w-bit values. -/
def bitw (ty : Ty) (f : Nat → Nat → Nat) (x y : Int) : Int :=
  (f (wrap ty.width x) (wrap ty.width y) : Nat)

/-! ## VINT -/

/-- VADD (R111). -/
def execVadd (d a b : RegNum) (ty : Ty) (k : KReg) (z : Bool) (s : State) :
    Host.Outcome State Fault Refusal :=
  vint2 s d a b ty k z fun x y => x + y

/-- VSUB (R111). -/
def execVsub (d a b : RegNum) (ty : Ty) (k : KReg) (z : Bool) (s : State) :
    Host.Outcome State Fault Refusal :=
  vint2 s d a b ty k z fun x y => x - y

/-- VMUL (R111). -/
def execVmul (d a b : RegNum) (ty : Ty) (k : KReg) (z : Bool) (s : State) :
    Host.Outcome State Fault Refusal :=
  vint2 s d a b ty k z fun x y => x * y

/-- VMULH (R111). -/
def execVmulh (d a b : RegNum) (ty : Ty) (k : KReg) (z : Bool) (s : State) :
    Host.Outcome State Fault Refusal :=
  vint2 s d a b ty k z fun x y => x * y / 2 ^ ty.width

/-- VMIN (R111). -/
def execVmin (d a b : RegNum) (ty : Ty) (k : KReg) (z : Bool) (s : State) :
    Host.Outcome State Fault Refusal :=
  vint2 s d a b ty k z fun x y => min x y

/-- VMAX (R111). -/
def execVmax (d a b : RegNum) (ty : Ty) (k : KReg) (z : Bool) (s : State) :
    Host.Outcome State Fault Refusal :=
  vint2 s d a b ty k z fun x y => max x y

/-- VADDS (R111). -/
def execVadds (d a b : RegNum) (ty : Ty) (k : KReg) (z : Bool) (s : State) :
    Host.Outcome State Fault Refusal :=
  vint2 s d a b ty k z fun x y => clampTy ty (x + y)

/-- VSUBS (R111). -/
def execVsubs (d a b : RegNum) (ty : Ty) (k : KReg) (z : Bool) (s : State) :
    Host.Outcome State Fault Refusal :=
  vint2 s d a b ty k z fun x y => clampTy ty (x - y)

/-- VAND (R111). -/
def execVand (d a b : RegNum) (ty : Ty) (k : KReg) (z : Bool) (s : State) :
    Host.Outcome State Fault Refusal :=
  vint2 s d a b ty k z (bitw ty (· &&& ·))

/-- VOR (R111). -/
def execVor (d a b : RegNum) (ty : Ty) (k : KReg) (z : Bool) (s : State) :
    Host.Outcome State Fault Refusal :=
  vint2 s d a b ty k z (bitw ty (· ||| ·))

/-- VXOR (R111). -/
def execVxor (d a b : RegNum) (ty : Ty) (k : KReg) (z : Bool) (s : State) :
    Host.Outcome State Fault Refusal :=
  vint2 s d a b ty k z (bitw ty (· ^^^ ·))

/-- VSHL (R111). -/
def execVshl (d a : RegNum) (src : VSrc) (ty : Ty) (k : KReg) (z : Bool) (s : State) :
    Host.Outcome State Fault Refusal :=
  vshift s d a src ty k z ty.isSigned fun x n => x * 2 ^ n

/-- VSHR (R111). -/
def execVshr (d a : RegNum) (src : VSrc) (ty : Ty) (k : KReg) (z : Bool) (s : State) :
    Host.Outcome State Fault Refusal :=
  vshift s d a src ty k z false fun x n => x / 2 ^ n

/-- VSRA (R111). -/
def execVsra (d a : RegNum) (src : VSrc) (ty : Ty) (k : KReg) (z : Bool) (s : State) :
    Host.Outcome State Fault Refusal :=
  vshift s d a src ty k z true fun x n => x / 2 ^ n

/-- VABS (R111). -/
def execVabs (d a : RegNum) (ty : Ty) (k : KReg) (z : Bool) (s : State) :
    Host.Outcome State Fault Refusal :=
  vint1 s d a ty k z fun x => if x < 0 then -x else x

/-- VNEG (R111). -/
def execVneg (d a : RegNum) (ty : Ty) (k : KReg) (z : Bool) (s : State) :
    Host.Outcome State Fault Refusal :=
  vint1 s d a ty k z fun x => -x

/-- VCNT (R111). -/
def execVcnt (d a : RegNum) (ty : Ty) (k : KReg) (z : Bool) (s : State) :
    Host.Outcome State Fault Refusal :=
  vint1 s d a ty k z fun x => (popBelow (wrap ty.width x) ty.width : Nat)

/-- VDOT4 (R112). -/
def execVdot4 (d a b c : RegNum) (ty : Ty) (k : KReg) (z : Bool) (s : State) :
    Host.Outcome State Fault Refusal :=
  vecOp s [d, a, b, c] fun s t => do
    let x ← readX t a
    let y ← readX t b
    let acc ← readX t c
    let old ← oldX t d k z
    let sg := ty.isSigned
    done s t d (masked (t.mask k) z false old 32 16 fun i =>
      wrap 32 (slane acc 32 sg i +
        ((List.range 4).map fun j => slane x 8 sg (4 * i + j) * slane y 8 sg (4 * i + j)).sum))

/-- VSEL: K selects; every element is written (R112, R120). An awaiting D parks it under R7 (DEDUCED, log 22). -/
def execVsel (d a b : RegNum) (ty : Ty) (k : KReg) (s : State) : Host.Outcome State Fault Refusal :=
  vecOp s [d, a, b] fun s t => do
    let x ← readX t a
    let y ← readX t b
    destX t d
    let w := ty.width
    done s t d (ofLanes w ((List.range (count w)).map fun i =>
      if (t.mask k).getLsbD i then lane x w i else lane y w i))

/-- VCMPEQ (R112). -/
def execVcmpeq (d : KReg) (a b : RegNum) (ty : Ty) (k : KReg) (z : Bool) (s : State) :
    Host.Outcome State Fault Refusal :=
  vcmp s d a b ty k z fun x y => x == y

/-- VCMPNE (R112). -/
def execVcmpne (d : KReg) (a b : RegNum) (ty : Ty) (k : KReg) (z : Bool) (s : State) :
    Host.Outcome State Fault Refusal :=
  vcmp s d a b ty k z fun x y => x != y

/-- VCMPLT (R112). -/
def execVcmplt (d : KReg) (a b : RegNum) (ty : Ty) (k : KReg) (z : Bool) (s : State) :
    Host.Outcome State Fault Refusal :=
  vcmp s d a b ty k z fun x y => decide (x < y)

/-- VCMPLE (R112). -/
def execVcmple (d : KReg) (a b : RegNum) (ty : Ty) (k : KReg) (z : Bool) (s : State) :
    Host.Outcome State Fault Refusal :=
  vcmp s d a b ty k z fun x y => decide (x ≤ y)

end Sys2Proof.Machine
end

