-- ==== Sys2Proof/Machine/VFloat.lean ====
section
/-! DEFINITION. The meanings of the VFP group (R113 to R119). -/

namespace Sys2Proof.Machine

/-! ## Floating elements -/

/-- The format of a type that every caller has checked to be floating. -/
def fmtX (xs : Bool) (ty : Ty) : Fmt := (fmtOf xs ty).getD fmt32

/-- Bits below an f19 element's own (R107). -/
def padBits (ty : Ty) : Nat := if ty = .f19 then 13 else 0

/-- The code of floating element i. -/
def flane (ty : Ty) (r : Reg) (i : Nat) : Nat := lane r ty.width i / 2 ^ padBits ty

/-- A code as an element holds it. -/
def fput (ty : Ty) (x : Nat) : Nat := x * 2 ^ padBits ty

/-- A masked floating instruction: n elements of width w from results, and NV from the active ones. -/
def vfloat (s : State) (t : Thread) (d : RegNum) (w n : Nat) (k : KReg) (z sl : Bool)
    (put : Nat → Nat) (res : Nat → FRes) : X (State × Thread) := do
  let old ← oldX t d k z
  let m := t.mask k
  let nv := (List.range n).any fun i => active m sl i && (res i).nv
  done s (t.orNv nv) d (masked m z sl old w n fun i => put (res i).code)

/-- Two sources. -/
def vf2 (s : State) (d a b : RegNum) (ty : Ty) (k : KReg) (z sl : Bool)
    (f : Fmt → Thread → Nat → Nat → FRes) : Host.Outcome State Fault Refusal :=
  vecOp s [d, a, b] fun s t => do
    let x ← readX t a
    let y ← readX t b
    vfloat s t d ty.width (count ty.width) k z sl (fput ty) fun i =>
      f (fmtX t.xs ty) t (flane ty x i) (flane ty y i)

/-- Three sources. -/
def vf3 (s : State) (d a b c : RegNum) (ty : Ty) (k : KReg) (z sl : Bool)
    (f : Fmt → Thread → Nat → Nat → Nat → FRes) : Host.Outcome State Fault Refusal :=
  vecOp s [d, a, b, c] fun s t => do
    let x ← readX t a
    let y ← readX t b
    let v ← readX t c
    vfloat s t d ty.width (count ty.width) k z sl (fput ty) fun i =>
      f (fmtX t.xs ty) t (flane ty x i) (flane ty y i) (flane ty v i)

/-- One source. -/
def vf1 (s : State) (d a : RegNum) (ty : Ty) (k : KReg) (z sl : Bool)
    (f : Fmt → Thread → Nat → FRes) : Host.Outcome State Fault Refusal :=
  vecOp s [d, a] fun s t => do
    let x ← readX t a
    vfloat s t d ty.width (count ty.width) k z sl (fput ty) fun i =>
      f (fmtX t.xs ty) t (flane ty x i)

/-- A change of the sign bit alone; a NaN gives the default NaN (R116). -/
def signOp (f : Fmt) (neg : Bool) (x : Nat) : FRes :=
  let v := f.read x
  if v.isNan then f.nanRes v.isSnan
  else ⟨f.signed (neg && !x.testBit f.mag) (x % f.signW), false⟩

/-- One of the two values of a bracket, freely chosen (R117, DESIGN CHOICE, log 1). -/
def Bracket.pick (b : Bracket) (n : Nat) : FRes :=
  ⟨if b.lo = b.hi then b.lo else if Config.freeBool n then b.hi else b.lo, b.nv⟩

/-- An approximate function: each element takes a free choice of its own (R117). -/
def vapprox (s : State) (d a : RegNum) (ty : Ty) (k : KReg) (z sl : Bool)
    (f : Fmt → FVal → Bracket) : Host.Outcome State Fault Refusal :=
  vecOp s [d, a] fun s t => do
    let x ← readX t a
    let fm := fmtX t.xs ty
    vfloat { s with free := s.free + count ty.width } t d ty.width (count ty.width) k z sl (fput ty)
      fun i => (f fm (fm.read (flane ty x i))).pick (s.free + i)

/-- A comparison into a mask register (R119). -/
def vfcmp (s : State) (d : KReg) (a b : RegNum) (ty : Ty) (k : KReg) (z sl : Bool) (quiet : Bool)
    (f : Fmt → Nat → Nat → Bool) : Host.Outcome State Fault Refusal :=
  vecOp s [a, b] fun s t => do
    let x ← readX t a
    let y ← readX t b
    let fm := fmtX t.xs ty
    let n := count ty.width
    let m := t.mask k
    let nan (i : Nat) : Bool :=
      (fm.read (flane ty x i)).isNan || (fm.read (flane ty y i)).isNan
    let snan (i : Nat) : Bool :=
      (fm.read (flane ty x i)).isSnan || (fm.read (flane ty y i)).isSnan
    let nv := (List.range n).any fun i => active m sl i && (snan i || (!quiet && nan i))
    return (s, ((t.orNv nv).setMask d (maskBits m z sl (t.mask d) n fun i =>
      f fm (flane ty x i) (flane ty y i))).adv)

/-- Neither code is a NaN. -/
def ordered (f : Fmt) (x y : Nat) : Bool := !(f.read x).isNan && !(f.read y).isNan

/-! ## VFP -/

/-- VFADD (R114). -/
def execVfadd (d a b : RegNum) (ty : Ty) (k : KReg) (z sl : Bool) (rnd : Rnd) (s : State) :
    Host.Outcome State Fault Refusal :=
  vf2 s d a b ty k z sl fun f t x y =>
    f.addV (t.rounding rnd) (f.read x) (f.read y)

/-- VFSUB (R114). -/
def execVfsub (d a b : RegNum) (ty : Ty) (k : KReg) (z sl : Bool) (rnd : Rnd) (s : State) :
    Host.Outcome State Fault Refusal :=
  vf2 s d a b ty k z sl fun f t x y =>
    f.addV (t.rounding rnd) (f.read x) (f.read y).neg

/-- VFMUL (R114). -/
def execVfmul (d a b : RegNum) (ty : Ty) (k : KReg) (z sl : Bool) (rnd : Rnd) (s : State) :
    Host.Outcome State Fault Refusal :=
  vf2 s d a b ty k z sl fun f t x y =>
    f.mulV (t.rounding rnd) (f.read x) (f.read y)

/-- VFDIV (R114). -/
def execVfdiv (d a b : RegNum) (ty : Ty) (k : KReg) (z sl : Bool) (rnd : Rnd) (s : State) :
    Host.Outcome State Fault Refusal :=
  vf2 s d a b ty k z sl fun f t x y =>
    f.divV (t.rounding rnd) (f.read x) (f.read y)

/-- VFMA (R114). -/
def execVfma (d a b c : RegNum) (ty : Ty) (k : KReg) (z sl : Bool) (rnd : Rnd) (s : State) :
    Host.Outcome State Fault Refusal :=
  vf3 s d a b c ty k z sl fun f t x y v =>
    f.fmaV (t.rounding rnd) (f.read x) (f.read y) (f.read v)

/-- VFMS (R114). -/
def execVfms (d a b c : RegNum) (ty : Ty) (k : KReg) (z sl : Bool) (rnd : Rnd) (s : State) :
    Host.Outcome State Fault Refusal :=
  vf3 s d a b c ty k z sl fun f t x y v =>
    f.fmaV (t.rounding rnd) (f.read x) (f.read y) (f.read v).neg

/-- VFNMA (R114). -/
def execVfnma (d a b c : RegNum) (ty : Ty) (k : KReg) (z sl : Bool) (rnd : Rnd) (s : State) :
    Host.Outcome State Fault Refusal :=
  vf3 s d a b c ty k z sl fun f t x y v =>
    f.fmaV (t.rounding rnd) (f.read x).neg (f.read y) (f.read v)

/-- VFSQRT (R114). -/
def execVfsqrt (d a : RegNum) (ty : Ty) (k : KReg) (z sl : Bool) (rnd : Rnd) (s : State) :
    Host.Outcome State Fault Refusal :=
  vf1 s d a ty k z sl fun f t x => f.sqrtV (t.rounding rnd) (f.read x)

/-- VFROUND (R114). -/
def execVfround (d a : RegNum) (ty : Ty) (k : KReg) (z sl : Bool) (rnd : Rnd) (s : State) :
    Host.Outcome State Fault Refusal :=
  vf1 s d a ty k z sl fun f t x => f.roundV (t.rounding rnd) (f.read x)

/-- VFMIN (R116). -/
def execVfmin (d a b : RegNum) (ty : Ty) (k : KReg) (z sl : Bool) (s : State) :
    Host.Outcome State Fault Refusal :=
  vf2 s d a b ty k z sl fun f _ x y => f.minmax false x y

/-- VFMAX (R116). -/
def execVfmax (d a b : RegNum) (ty : Ty) (k : KReg) (z sl : Bool) (s : State) :
    Host.Outcome State Fault Refusal :=
  vf2 s d a b ty k z sl fun f _ x y => f.minmax true x y

/-- VFABS (R116). -/
def execVfabs (d a : RegNum) (ty : Ty) (k : KReg) (z sl : Bool) (s : State) :
    Host.Outcome State Fault Refusal :=
  vf1 s d a ty k z sl fun f _ x => signOp f false x

/-- VFNEG (R116). -/
def execVfneg (d a : RegNum) (ty : Ty) (k : KReg) (z sl : Bool) (s : State) :
    Host.Outcome State Fault Refusal :=
  vf1 s d a ty k z sl fun f _ x => signOp f true x

/-- VFRCP (R117). -/
def execVfrcp (d a : RegNum) (ty : Ty) (k : KReg) (z sl : Bool) (s : State) :
    Host.Outcome State Fault Refusal :=
  vapprox s d a ty k z sl Fmt.rcpV

/-- VFRSQ (R117). -/
def execVfrsq (d a : RegNum) (ty : Ty) (k : KReg) (z sl : Bool) (s : State) :
    Host.Outcome State Fault Refusal :=
  vapprox s d a ty k z sl Fmt.rsqV

/-- VFEXP2 (R117). -/
def execVfexp2 (d a : RegNum) (ty : Ty) (k : KReg) (z sl : Bool) (s : State) :
    Host.Outcome State Fault Refusal :=
  vapprox s d a ty k z sl Fmt.exp2V

/-- VFLOG2 (R117). -/
def execVflog2 (d a : RegNum) (ty : Ty) (k : KReg) (z sl : Bool) (s : State) :
    Host.Outcome State Fault Refusal :=
  vapprox s d a ty k z sl Fmt.log2V

/-- VFCVT (R118). -/
def execVfcvt (d a : RegNum) (ty ty2 : Ty) (k : KReg) (z sl : Bool) (rnd : Rnd) (satc : SatC)
    (s : State) : Host.Outcome State Fault Refusal :=
  vecOp s [d, a] fun s t => do
    let x ← readX t a
    vfloat s t d ty2.width (512 / max ty.width ty2.width) k z sl (fput ty2) fun i =>
      (fmtX t.xs ty2).convert (t.rounding rnd) (t.saturates satc)
        ((fmtX t.xs ty).read (flane ty x i))

/-- VFCVTI (R118). -/
def execVfcvti (d a : RegNum) (ty ty2 : Ty) (k : KReg) (z sl : Bool) (rnd : Rnd) (s : State) :
    Host.Outcome State Fault Refusal :=
  vecOp s [d, a] fun s t => do
    let x ← readX t a
    vfloat s t d ty2.width (512 / max ty.width ty2.width) k z sl id fun i =>
      cvtInt ty2 (t.rounding rnd) ((fmtX t.xs ty).read (flane ty x i))

/-- VICVTF: the source is of type TY2 (R118). -/
def execVicvtf (d a : RegNum) (ty ty2 : Ty) (k : KReg) (z sl : Bool) (rnd : Rnd) (s : State) :
    Host.Outcome State Fault Refusal :=
  vecOp s [d, a] fun s t => do
    let x ← readX t a
    vfloat s t d ty.width (512 / max ty.width ty2.width) k z sl (fput ty) fun i =>
      (fmtX t.xs ty).convert (t.rounding rnd) false (intVal (slane x ty2.width ty2.isSigned i))

/-- VFCMPEQ (R119). -/
def execVfcmpeq (d : KReg) (a b : RegNum) (ty : Ty) (k : KReg) (z sl : Bool) (s : State) :
    Host.Outcome State Fault Refusal :=
  vfcmp s d a b ty k z sl true fun f x y => ordered f x y && f.key x == f.key y

/-- VFCMPLT (R119). -/
def execVfcmplt (d : KReg) (a b : RegNum) (ty : Ty) (k : KReg) (z sl : Bool) (s : State) :
    Host.Outcome State Fault Refusal :=
  vfcmp s d a b ty k z sl false fun f x y => ordered f x y && f.lt x y

/-- VFCMPLE (R119). -/
def execVfcmple (d : KReg) (a b : RegNum) (ty : Ty) (k : KReg) (z sl : Bool) (s : State) :
    Host.Outcome State Fault Refusal :=
  vfcmp s d a b ty k z sl false fun f x y => ordered f x y && decide (f.key x ≤ f.key y)

/-- VFCMPUN (R119). -/
def execVfcmpun (d : KReg) (a b : RegNum) (ty : Ty) (k : KReg) (z sl : Bool) (s : State) :
    Host.Outcome State Fault Refusal :=
  vfcmp s d a b ty k z sl true fun f x y => !ordered f x y

end Sys2Proof.Machine
end

