-- ==== Sys2Proof/Machine/Conv.lean ====
section
/-! DEFINITION. The meanings of the CONV group (R267 to R270). -/

namespace Sys2Proof.Machine

/-- A CONV instruction: its two register runs, destination first, each on its last register, then the vector unit
(R267). -/
def convOp (s : State) (d : RegNum) (nd : Nat) (a : RegNum) (na : Nat)
    (f : State → Thread → X (State × Thread)) : Host.Outcome State Fault Refusal :=
  runT s fun s t => do
    runX t d nd
    runX t a na
    unitX s t 0
    f s t

/-- Element i of a run of registers whose elements have a width. -/
def runLane (rs : List Reg) (w i : Nat) : Nat := lane (rs.getD (i / (512 / w)) 0) w (i % (512 / w))

/-- One element under R268: by its class pair, to a code of TY2. -/
def convElem (t : Thread) (ty ty2 : Ty) (rnd : Rnd) (satc : SatC) (x : Nat) : FRes :=
  match fmtOf t.xs ty, fmtOf t.xs ty2 with
  | some f, some g => g.convert (t.rounding rnd) (t.saturates satc) (f.read (x / 2 ^ padBits ty))
  | some f, none => cvtInt ty2 (t.rounding rnd) (f.read (x / 2 ^ padBits ty))
  | none, some g =>
    let v := x % 2 ^ intBits ty
    g.convert (t.rounding rnd) (ty2.isNarrow && t.saturates satc)
      (intVal (if ty.isSigned then sgn (intBits ty) v else (v : Int)))
  | none, none =>
    let v := x % 2 ^ intBits ty
    let (r, nv) := saturate ty2 (if ty.isSigned then sgn (intBits ty) v else (v : Int))
    ⟨wrap (intBits ty2) r, nv⟩

/-- The old values of a run, read where a mask keeps elements (R268). -/
def oldsX (t : Thread) (k : KReg) : List RegNum → X (List Reg)
  | [] => .ok []
  | r :: rs => do
    let v ← oldX t r k false
    let vs ← oldsX t k rs
    return v :: vs

/-- Write a run of registers. -/
def Thread.setRegs (t : Thread) : List RegNum → List Reg → Thread
  | r :: rs, v :: vs => (t.setReg r v).setRegs rs vs
  | _, _ => t

/-- CVTN and CVTW: nd destination and na source registers (R268). -/
def convRun (s : State) (d : RegNum) (nd : Nat) (a : RegNum) (na : Nat) (ty ty2 : Ty) (k : KReg)
    (rnd : Rnd) (satc : SatC) : Host.Outcome State Fault Refusal :=
  convOp s d nd a na fun s t => do
    let xs ← readsX t (regRun a na)
    let old ← oldsX t k (regRun d nd)
    let w := ty2.width
    let per := 512 / w
    let res (i : Nat) : FRes := convElem t ty ty2 rnd satc (runLane xs ty.width i)
    let m := t.mask k
    let nv := (List.range (nd * per)).any fun i => m.getLsbD i && (res i).nv
    let out := old.mapIdx fun j o => ofLanes w ((List.range per).map fun i =>
      if m.getLsbD (j * per + i) then fput ty2 (res (j * per + i)).code else lane o w i)
    return (s, ((t.orNv nv).setRegs (regRun d nd) out).adv)

/-- CVTN (R268). -/
def execCvtn (d a : RegNum) (ty ty2 : Ty) (k : KReg) (rnd : Rnd) (satc : SatC) (s : State) :
    Host.Outcome State Fault Refusal :=
  convRun s d 1 a (ty.width / ty2.width) ty ty2 k rnd satc

/-- CVTW (R268). -/
def execCvtw (d a : RegNum) (ty ty2 : Ty) (k : KReg) (rnd : Rnd) (satc : SatC) (s : State) :
    Host.Outcome State Fault Refusal :=
  convRun s d (ty2.width / ty.width) a 1 ty ty2 k rnd satc

/-- Registers that 32 elements of a wide type take (R269). -/
def mxRun (ty : Ty) : Nat := ty.width / 16

/-- QMX (R269). -/
def execQmx (d a : RegNum) (ty ty2 : Ty) (s : State) : Host.Outcome State Fault Refusal :=
  convOp s d 1 a (mxRun ty) fun s t => do
    let xs ← readsX t (regRun a (mxRun ty))
    destX t d
    let f := fmtX t.xs ty
    let (sc, es, nv) := mxQuantise ty2 ((List.range 32).map fun i => f.read (runLane xs ty.width i))
    done s (t.orNv nv) d (ofLanes 8 (es ++ [sc]))

/-- DQMX (R269). -/
def execDqmx (d a : RegNum) (ty ty2 : Ty) (rnd : Rnd) (satc : SatC) (s : State) :
    Host.Outcome State Fault Refusal :=
  convOp s d (mxRun ty2) a 1 fun s t => do
    let x ← readX t a
    destsX t (regRun d (mxRun ty2))
    let f := fmtX t.xs ty2
    let res (i : Nat) : FRes :=
      f.convert (t.rounding rnd) (t.saturates satc) ((mxCode ty (lane x 8 i)).scaled (lane x 8 32))
    let w := ty2.width
    let per := 512 / w
    let out := (List.range (mxRun ty2)).map fun j =>
      ofLanes w ((List.range per).map fun i => if j * per + i < 32 then (res (j * per + i)).code else 0)
    return (s, ((t.orNv ((List.range 32).any fun i => (res i).nv)).setRegs
      (regRun d (mxRun ty2)) out).adv)

/-- Registers that a group of 128 elements takes (R270). -/
def planeRun (ty : Ty) : Nat := if planeBits ty = 6 then 2 else 1

/-- PLANE (R270). -/
def execPlane (d a : RegNum) (ty : Ty) (s : State) : Host.Outcome State Fault Refusal :=
  convOp s d (planeRun ty) a 2 fun s t => do
    let xs ← readsX t (regRun a 2)
    destsX t (regRun d (planeRun ty))
    let g := toPlanes (planeBits ty) ((List.range 128).map fun i => runLane xs 8 i)
    let out := (List.range (planeRun ty)).map fun j => BitVec.ofNat 512 (g / 2 ^ (512 * j))
    return (s, (t.setRegs (regRun d (planeRun ty)) out).adv)

/-- UNPLANE (R270). -/
def execUnplane (d a : RegNum) (ty : Ty) (s : State) : Host.Outcome State Fault Refusal :=
  convOp s d 2 a (planeRun ty) fun s t => do
    let xs ← readsX t (regRun a (planeRun ty))
    destsX t (regRun d 2)
    let g := bytesNat (xs.flatMap fun r => natBytes 64 r.toNat)
    let out := (List.range 2).map fun j =>
      ofLanes 8 ((List.range 64).map fun i => fromPlanes (planeBits ty) g (64 * j + i))
    return (s, (t.setRegs (regRun d 2) out).adv)

end Sys2Proof.Machine
end

