-- ==== Sys2Proof/Machine/Fetch.lean ====
section
/-! DEFINITION. Fetching the next instruction of a thread: the checks of R13, the core's instruction
cache (R14), and the traps that wait for an instruction boundary (R57). -/

namespace Sys2Proof.Machine

/-- The words under a key that a thread's core has cached, or had before an IFENCE of another thread; none from before
the thread's own last IFENCE (R14, R194). -/
def State.cachedWords (s : State) (t : Thread) (k : Nat) : List Word :=
  let x := s.core t.id.core.toNat
  (x.icache ++ x.stale).filterMap fun p => if p.1 = k && decide (t.ifenced ≤ p.2.2) then some p.2.1 else none

/-- One of some words, freely chosen, or the present one (DESIGN CHOICE, log 10). -/
def State.pickWord (now : Word) : List Word → State → State × Word
  | [], s => (s, now)
  | w :: l, s =>
    if w = now then State.pickWord now l s
    else
      let (old, s) := s.choose
      if old then (s, w) else State.pickWord now l s

/-- The word under a key, as a thread fetches it: memory's, or a cached one that differs from it, freely chosen
(R14, R194, DESIGN CHOICE, log 10). -/
def State.fetchWord (s : State) (t : Thread) (k : Nat) : State × Word :=
  State.pickWord (BitVec.ofNat 64 (bytesNat (s.plainBytes k 8))) (s.cachedWords t k) s

/-- A trap of a fetch: %tinfo is the offset; a missing X right shows in MISS (R13). -/
def fetchTrap (code : BitVec 8) (pc : Word) (miss : BitVec 6) : Stop :=
  .trap { code := code, info := pc, seg := 0, wr := false, miss := miss }

/-- Fetch under the checks of R13. -/
def fetchX (s : State) (t : Thread) : X (State × Word) := do
  let d := t.seg 0
  let a := segBase d + t.pc
  need (decide (t.pc.toNat + 8 ≤ segLimit d)) (fetchTrap 0x04 t.pc 0)
  need (s.dvaOk a 8) (fetchTrap 0x04 t.pc 0)
  need ((segRights d).getLsbD 2) (fetchTrap 0x05 t.pc 0b000100)
  match s.route (clusterOf t.id.core.toNat) t.dom a false false with
  | (s1, .bank k) =>
    match s1.badAt k 8 with
    | some c => .error (.trap (answerTrap c a 0 false))
    | none => .ok (s1.fetchWord t k)
  | (s1, .collapse k) => parkInX s1 t (.collapse k)
  | (s1, .inval by') => parkInX s1 t (.inval by')
  | (s1, .peer k) => do
    need (segP d) (fetchTrap 0x05 t.pc 0b100000)
    match s1.peerCause k false with
    | some c => .error (.trap (answerTrap c a 0 false))
    | none =>
      let (v, s2) := s1.unknown
      .ok (s2, scalar v)
  | (s1, .miss m) => faultX s1 t 3 a false m

/-- A core brings a word into its instruction cache, which nothing keeps current with stores (R14). -/
def State.prefetched (s : State) (c k : Nat) : State :=
  let x := s.core c
  let line := { x with icache := x.icache.filter (fun p => p.1 != k) ++
    [(k, BitVec.ofNat 64 (bytesNat (s.plainBytes k 8)), s.serial)] }
  s.setCore c line

/-- The run count of a core: the cycles it has run (R63). -/
def State.runCount (s : State) (c : Nat) : Nat :=
  s.cyc - (match columnOf c with
    | some i => ((tabGet i s.sys.columns).map (·.swallowed)).getD 0
    | none => 0)

/-- The run count of a thread's slot's last issue, whichever thread of the slot it was (R64, R65). -/
def State.lastIssue (s : State) (t : Ident) : Option Nat := tabGet t.slot (s.core t.core.toNat).issued

/-- The thread's slot has had an issue in this cycle of its core's run (R64). -/
def State.noteIssue (s : State) (t : Thread) : State :=
  let c := t.id.core.toNat
  let k := s.core c
  s.setCore c { k with issued := tabPut t.id.slot (s.runCount c) k.issued }

/-- A fetch of a region whose cycle budget is spent traps BUDGET unless an earlier cause of R23 comes
first (R104). -/
def fetchStop (s : State) (t : Thread) (st : Stop) : Stop :=
  if s.spent t then spentStop beforeBudget t (.error st) else st

/-- An atomic that base-die routers may combine, on its way to a paged word: operation and bytes (R185, R188). -/
def Access.combinable (a : Access) : Option (AtomOp × Nat × Word) :=
  match a.form, a.key with
  | .atom op n x _, some k =>
    if op != .swp && op != .cas && decide (a.stage = .inFlight) && (poolOf k).isNone && decide (paSpace k < 5) &&
        !a.tSeg then some (op, n, x) else none
  | _, _ => none

/-- The cycles in which an access and those combined into it were issued. -/
def State.issuesOf (s : State) (a : Access) : List Nat :=
  a.issued :: a.riders.filterMap fun r => (s.acc? r.1).map (·.issued)

/-- Base-die routers combine a second atomic into a first: both on their way to one word, of one operation, and none
of them more than 64 cycles from another (R159, R172, R188; their times are those of the issues: DESIGN CHOICE,
log 12). -/
def State.combined (s : State) (a b : Nat) : State :=
  match s.acc? a, s.acc? b with
  | some x, some y =>
    match x.combinable, y.combinable with
    | some (op, n, _), some (op2, m, w) =>
      let near := (s.issuesOf x).all fun i => (s.issuesOf y).all fun j => decide (i ≤ j + 64) && decide (j ≤ i + 64)
      if op = op2 && n = m && x.key = y.key && a != b && near then
        (s.setAccess { x with riders := x.riders ++ (b, w) :: y.riders }).setAccess
          { y with stage := .riding, riders := [] }
      else s
    | _, _ => s
  | _, _ => s

/-- The base-die directory records a copy frame of a page on a die (R287). -/
def State.duplicated (s : State) (home bits die frame pte : Nat) : State :=
  match s.dupOf home with
  | some p =>
    { s with dups := s.dups.map fun q =>
        if q.home = p.home then { q with copies := tabPut die frame q.copies } else q }
  | none =>
    { s with dups := s.dups ++ [{ home := home, bits := bits, copies := [(die, frame)],
                                  collapsing := none, pteKey := pte }] }

end Sys2Proof.Machine
end

