-- ==== Sys2Proof/Machine/Engine.lean ====
section
/-! DEFINITION. The matrix engine's queue: formats and shapes, the checks at issue, what an operation
reads and writes, and its faults (R211 to R227, R247, R248). -/

namespace Sys2Proof.Machine

/-! ## Formats and shapes (R32, R207, R211, R212) -/

/-- The words that %fmta and %fmtb may hold (R32). -/
def operandWords : List Nat :=
  [0x0C, 0x0B, 0x0A, 0x09, 0x08, 0x0D, 0x0E, 0x0F, 0x10, 0x11, 0x00, 0x04, 0x12, 0x13, 0x2D, 0x2E,
   0x2F, 0x30, 0x31, 0x20, 0x4D]

/-- A valid word of %fmta or %fmtb. -/
def fmtOk (w : Word) : Bool := operandWords.contains w.toNat

/-- A valid word of %fmtc. -/
def fmtcOk (w : Word) : Bool := w = 0x02 || w = 0x0B || w = 0x0C

/-- Element type of a format word. -/
def wordTy (w : BitVec 8) : Ty := (Ty.ofCode (w.extractLsb' 0 5)).getD .i8

/-- Scale mode MX. -/
def isMx (w : BitVec 8) : Bool := w.extractLsb' 5 3 = 1

/-- Scale mode S128. -/
def isS128 (w : BitVec 8) : Bool := w.extractLsb' 5 3 = 2

/-- Bits of an element as memory holds it (R207). -/
def wordBits (w : BitVec 8) : Nat :=
  match wordTy w with
  | .f64 => 64
  | .f32 | .f19 => 32
  | .bf16 | .f16 => 16
  | .e3m2 | .e2m3 => 6
  | .e2m1 | .i4 | .n4 => 4
  | _ => 8

/-- A shape row: M, N, K, the significand bits of a wide accumulator, %fmtc, engine cycles (R211). -/
structure Shape where
  m : Nat
  n : Nat
  k : Nat
  wide : Option Nat
  acc : BitVec 8
  cycles : Nat
  deriving DecidableEq, Repr

/-- Words of the narrow floating types, unscaled, 8 and 6 bits. -/
def narrow86 : List (BitVec 8) := [0x0D, 0x0E, 0x0F, 0x10]
/-- The 4-bit integer words. -/
def int4 : List (BitVec 8) := [0x12, 0x13]
/-- The integer words. -/
def ints : List (BitVec 8) := [0x00, 0x04, 0x12, 0x13]
/-- The MX words. -/
def mxWords : List (BitVec 8) := [0x2D, 0x2E, 0x2F, 0x30, 0x31, 0x20]

/-- The shape row of a pair of operand words (R212). -/
def pairShape (a b : BitVec 8) : Option Shape :=
  if a = 0x0C && b = 0x0C then some ⟨32, 64, 16, some 53, 0x0C, 256⟩
  else if a = 0x0B && b = 0x0B then some ⟨64, 64, 32, some 24, 0x0B, 512⟩
  else if a = 0x0A && b = 0x0A then some ⟨64, 64, 32, some 24, 0x0B, 128⟩
  else if (a = 0x08 || a = 0x09) && (b = 0x08 || b = 0x09) then some ⟨64, 64, 64, some 24, 0x0B, 128⟩
  else if a = 0x11 && b = 0x11 then some ⟨64, 64, 256, none, 0x0B, 128⟩
  else if (0x11 :: narrow86).contains a && (0x11 :: narrow86).contains b then
    some ⟨64, 64, 128, none, 0x0B, 128⟩
  else if int4.contains a && int4.contains b then some ⟨64, 64, 256, none, 0x02, 128⟩
  else if ints.contains a && ints.contains b then some ⟨64, 64, 128, none, 0x02, 128⟩
  else if a = 0x31 && b = 0x31 then some ⟨64, 64, 256, none, 0x0B, 128⟩
  else if mxWords.contains a && mxWords.contains b then some ⟨64, 64, 128, none, 0x0B, 128⟩
  else if a = 0x4D && b = 0x4D then some ⟨64, 64, 128, none, 0x0B, 128⟩
  else none

/-- Bytes of one row of A, or one column of B (R213). -/
def rowBytes (sh : Shape) (w : BitVec 8) : Nat := sh.k * wordBits w / 8

/-- The value type of a ranked operation on a pair: i32 rather than f32. -/
def Shape.isInt (sh : Shape) : Bool := sh.acc = 0x02

/-! ## Checks at issue -/

/-- A format word as the engine samples it. -/
def fmt8 (w : Word) : BitVec 8 := w.extractLsb' 0 8

/-- No tile slot is named. -/
def noSlot : Nat := 0

/-- %estat (R226). -/
def estatWord (kind idx batch fn : Nat) (rank : Bool) (slot removed : Nat) : Word :=
  BitVec.ofNat 64 (2 ^ 63 + 2 ^ 56 * (kind % 16) + 2 ^ 52 * (idx % 16) + 2 ^ 36 * (batch % 2 ^ 16) +
    2 ^ 28 * (fn % 256) + (if rank then 2 ^ 27 else 0) + 2 ^ 16 * (slot % 256) + removed % 64)

/-- ENGINE at issue: %estat records the condition, and the instruction traps with no other effect
(R225). -/
def engineTrap {α : Type} (s : State) (t : Thread) (kind slot : Nat) : X α :=
  let e := estatWord kind t.batchOps t.nextBatch.toNat (fFn8 s.word) (fOp s.word = 0xA0) slot 0
  let s1 := takeTrap s { t with sp := { t.sp with estat := e } } (.plain 0x0C e)
  .error (.parkIn s1 ((s1.thread? t.id).getD t))

/-- The absolute slot of a TILE field: %tileb + TILE as natural numbers, which do not wrap at 2^64, so that a %tileb near
2^64 names no slot (R27, R214, DESIGN CHOICE, log 20). -/
def Thread.absSlot (t : Thread) (tile : BitVec 8) : Nat := t.sp.tileb.toNat + tile.toNat

/-- A tile slot's record; one that is not listed is in its reset condition. -/
def State.tile (s : State) (c i : Nat) : TileSlot :=
  (tabGet i (s.core c).tiles).getD
    { declared := .plain, kind := .plain, hdr := ⟨[], 0, 0⟩, poison := false }

/-- The state with a tile slot's record; the reset condition is not listed. -/
def State.setTile (s : State) (c i : Nat) (x : TileSlot) : State :=
  let k := s.core c
  s.setCore c { k with
    tiles := if x = ⟨.plain, .plain, ⟨[], 0, 0⟩, false⟩ then tabDel i k.tiles else tabPut i x k.tiles }

/-- The slots of a slot of a kind: both of a k = 64 pair. -/
def kindSlots (k : SlotKind) (i : Nat) : List Nat :=
  match k with
  | .plain => [i]
  | .ranked l _ _ => if l = 6 then [i, i + 1] else [i]
  | .second => [i - 1, i]

/-- A slot passes R214. -/
def State.slotAllowed (s : State) (t : Thread) (i : Nat) : Bool :=
  let c := t.id.core.toNat
  decide (i < s.tileSlots c) &&
    (if t.tiles.2 = 0 then (s.tileUse c).all fun r => apart i 1 r.1 r.2
     else decide (t.tiles.1 ≤ i) && decide (i < t.tiles.1 + t.tiles.2))

/-- R214 on every slot that a named slot stands for. -/
def slotX (s : State) (t : Thread) (named : Nat) (l : List Nat) : X Unit :=
  if l.all fun i => s.slotAllowed t i then .ok () else engineTrap s t 5 named

/-- A slot declared plain; or KIND 7 (R214). -/
def plainX (s : State) (t : Thread) (i : Nat) : X Unit :=
  if (s.tile t.id.core.toNat i).declared = .plain then .ok () else engineTrap s t 7 i

/-- A slot declared ranked: log2 k, orientation, i32; or KIND 7, as for the second slot of a pair (DEDUCED, log 20). -/
def rankedX (s : State) (t : Thread) (i : Nat) : X (Nat × Bool × Bool) :=
  match (s.tile t.id.core.toNat i).declared with
  | .ranked l col i32 => .ok (l, col, i32)
  | _ => engineTrap s t 7 i

/-- The P right where the translation in effect leads to the peer window (R148, R248). -/
def peerRightX (s : State) (t : Thread) (g : SegReg) (e a : Word) (n : Nat) (wr : Bool) : X Unit :=
  let far (b : Nat) : Bool := decide (b < poolBase) && (match s.walk t.dom b with
    | .ok l => paSpace (pteAddr l.entry) = 5
    | .error _ => false)
  if !segP (t.seg g) && (far a.toNat || far (a.toNat + n - 1)) then accTrap 0x05 e g wr 0b100000
  else .ok ()

/-- A check that its own registers' poison leaves without a value is left to the poison, which stands below ENGINE
(R23, R292, DEDUCED, log 14). -/
def unlessBad (t : Thread) (l : List RegNum) (c : X Word) : X Word :=
  if l.any fun r => (t.entry r).poison then .ok 0 else c

/-- An E-format memory operand of n bytes, checked under R11: its DVA (R248). -/
def memX (s : State) (t : Thread) (m : MOp) (base : Reg) (n : Nat) (wr : Bool) : X Word := do
  let e := offE base m.off
  let a ← checkX s t m.seg e n 64 (if wr then 0b000010 else 0b000001) wr
  peerRightX s t m.seg e a n wr
  return a

/-! ## Enqueueing -/

/-- An operation of a thread as it samples what every operation samples (R247). -/
def newOp (s : State) (t : Thread) (slots : List Nat) : EngineOp :=
  { n := s.serial, t := t.id, domain := t.dom, word := s.word, batch := t.nextBatch,
    idx := BitVec.ofNat 4 t.batchOps, xs := t.xs, fmta := fmt8 t.sp.fmta, fmtb := fmt8 t.sp.fmtb,
    fmtc := fmt8 t.sp.fmtc, fill := t.sp.fill, addr1 := 0, addr2 := 0, addr3 := 0, mE := 0, nE := 0,
    kE := 0, scA := 0, scB := 0, base := 0, u := 0, mask := 0, rows := 0, va := 0, vb := 0,
    slot := slots.headD noSlot, slot2 := noSlot, slots := slots, cfg := 0, maps := [],
    started := false, doneAt := 0, got := [], wrote := [], noP := [], since := 0, failing := none }

/-- The range of an operand that a thread reaches through a segment without the P right. -/
def lacksP (t : Thread) (g : SegReg) (a : Word) (n : Nat) : List (Nat × Nat) :=
  if segP (t.seg g) then [] else [(a.toNat, n)]

/-- log2 k of an image, as RLMERGE read it and RLDRAIN writes it (R258). -/
def EngineOp.log2k (o : EngineOp) : Nat := o.cfg.toNat % 8

/-- Take an entry of the engine queue: under R95, R221 and R222 the thread may have to park. -/
def enqueue (s : State) (t : Thread) (o : EngineOp) : X (State × Thread) := do
  oldestX t
  let c := t.id.core.toNat
  let k := s.core c
  need (k.engq.length < 32) (.park .queueFull)
  need (s.openOps t < 16) (.park .batchFull)
  return ({ s.setCore c { k with engq := k.engq ++ [o] } with serial := s.serial + 1 },
    { t with batchOps := t.batchOps + 1 }.adv)

/-- Causes that an MMA or BLOAD tests before its pair of words (R247). -/
def beforePair (code : BitVec 8) : Bool := code = 0x01 || code = 0x03 || code = 0x0A

/-! ## What an operation touches -/

/-- The instruction of an operation. -/
def EngineOp.instr (o : EngineOp) : Option Instr := decode o.word

/-- The shape row of an operation's words. -/
def EngineOp.shape (o : EngineOp) : Shape :=
  (pairShape o.fmta o.fmtb).getD ⟨64, 64, 128, none, 0x0B, 128⟩

/-- An MMA whose extents are all non-zero reads its operands (R219). -/
def EngineOp.active (o : EngineOp) : Bool := o.mE != 0 && o.nE != 0 && o.kE != 0

/-- The bytes of k elements from the start of a row or column (R206, R213). -/
def rowRanges (start : Nat) (w : BitVec 8) (k : Nat) : List (Nat × Nat) :=
  let b := wordBits w
  if 8 ≤ b then [(start, k * b / 8)]
  else (List.range ((k + 127) / 128)).flatMap fun g =>
    (List.range b).map fun p => (start + g * 16 * b + 16 * p, (min 128 (k - 128 * g) + 7) / 8)

/-- The A bytes in use. -/
def EngineOp.aRanges (o : EngineOp) : List (Nat × Nat) :=
  if o.active then (List.range o.mE).flatMap fun m =>
    rowRanges (o.addr2.toNat + m * rowBytes o.shape o.fmta) o.fmta o.kE
  else []

/-- The scale bytes in use (R218, R219): those of A, then those of B. -/
def EngineOp.scaleRanges (o : EngineOp) : List (Nat × Nat) :=
  if !o.active then []
  else if isMx o.fmta then
    let per := o.shape.k / 32
    let used := (o.kE + 31) / 32
    ((List.range o.mE).map fun m => ((o.scA + BitVec.ofNat 64 (m * per)).toNat, used)) ++
      ((List.range o.nE).map fun n => ((o.scB + BitVec.ofNat 64 (n * per)).toNat, used))
  else if isS128 o.fmta then
    ((List.range o.mE).map fun m => ((o.scA + BitVec.ofNat 64 (4 * m)).toNat, 4)) ++ [(o.scB.toNat, 4)]
  else []

/-- Bytes of a drained image of a k (R233). -/
def imageBytes (log2k : Nat) : Nat := 128 + 512 * 2 ^ log2k

/-- log2 k of the ranked slot an operation names, as the operations before it have made it. -/
def State.slotLog2k (s : State) (o : EngineOp) : Nat :=
  match (s.tile o.t.core.toNat o.slot).kind with
  | .ranked l _ _ => l
  | _ => 0

/-- The bytes that an operation reads from memory. -/
def EngineOp.reads (o : EngineOp) : List (Nat × Nat) :=
  match o.instr with
  | some (.mma ..) => o.aRanges ++ o.scaleRanges
  | some (.bload ..) => [(o.addr1.toNat, o.shape.n * rowBytes o.shape o.fmtb)]
  | some (.mfill ..) => [(o.addr1.toNat, 16384)]
  | some (.qrow ..) => [(o.addr1.toNat, 512 * o.rows)]
  | some (.rlmergeImage ..) => [(o.addr1.toNat, imageBytes o.log2k)]
  | _ => []

/-- The bytes that an operation writes to memory. -/
def EngineOp.writesMem (o : EngineOp) : List (Nat × Nat) :=
  match o.instr with
  | some (.mdrain ..) => [(o.addr1.toNat, 16384)]
  | some (.rldrain ..) => [(o.addr1.toNat, imageBytes o.log2k)]
  | some (.qrow ..) => [(o.addr2.toNat, 128 * o.rows), (o.addr3.toNat, 4 * o.rows)]
  | _ => []

/-- The latch that an operation reads. -/
def EngineOp.readsLatch (o : EngineOp) : Option Bool :=
  match o.instr with
  | some (.mma _ _ lat ..) => some lat
  | some (.brot lat _) => some lat
  | _ => none

/-- The latch that an operation fills or empties, BROT's own apart. -/
def EngineOp.writesLatch (o : EngineOp) : Option Bool :=
  match o.instr with
  | some (.bload lat _) => some lat
  | some (.brel lat) => some lat
  | _ => none

/-- The latch that a started operation will leave empty. -/
def EngineOp.empties (o : EngineOp) : Option Bool :=
  match o.instr with
  | some (.mma _ _ lat _ _ rel ..) => if rel then some lat else none
  | some (.brot lat _) => some lat
  | some (.brel lat) => some lat
  | _ => none

/-! ## Translation at the start (R221, R224) -/

/-- The 128 KiB pages that ranges touch outside the pool windows, each with the first byte touched. -/
def pagesOf (l : List (Nat × Nat)) : List (Nat × Nat) :=
  l.foldl (fun acc r =>
    if r.2 = 0 then acc
    else (List.range ((r.1 + r.2 - 1) / 2 ^ 17 - r.1 / 2 ^ 17 + 1)).foldl (fun acc i =>
      let p := r.1 / 2 ^ 17 + i
      if poolBase ≤ 2 ^ 17 * p || acc.any (fun q => q.1 = p) then acc
      else acc ++ [(p, max r.1 (2 ^ 17 * p))]) acc) []

/-- Translate pages in order: the translations, or the page that misses. A duplicated page that is to be
written collapses (R288). -/
def State.mapPages (s : State) (cl : Nat) (d : BitVec 32) (wr : Bool) :
    List (Nat × Nat) → State × Except (Nat × Miss) (List (Nat × Nat))
  | [] => (s, .ok [])
  | (p, a) :: rest =>
    let dva : Word := BitVec.ofNat 64 a
    let go (s : State) (k : Nat) : State × Except (Nat × Miss) (List (Nat × Nat)) :=
      match s.mapPages cl d wr rest with
      | (s, .ok l) => (s, .ok ((p, k - a % 2 ^ 17) :: l))
      | (s, .error e) => (s, .error e)
    match s.route cl d dva wr false with
    | (s, .bank k) => go s k
    | (s, .peer k) => go s k
    | (s, .collapse k) => go (s.collapseNow k d dva) k
    | (s, .miss m) => (s, .error (a, m))
    | (s, .inval _) => (s, .error (a, ⟨0, 0, 0⟩))

/-- A TLBINV under way covers a page that an operation touches: the operation waits for it (R281). -/
def State.opHeld (s : State) (o : EngineOp) : Bool :=
  (pagesOf (o.reads ++ o.writesMem)).any fun p => (s.invalBy (clusterOf o.t.core.toNat) p.2).isSome

/-- Translate all that an operation touches, where no TLBINV holds it; writes last, with the write that missed marked. -/
def State.mapOp (s : State) (o : EngineOp) : State × Except (Nat × Bool × Miss) (List (Nat × Nat)) :=
  let cl := clusterOf o.t.core.toNat
  match s.mapPages cl o.domain false (pagesOf o.reads) with
  | (s, .error (a, m)) => (s, .error (a, false, m))
  | (s, .ok l) =>
    match s.mapPages cl o.domain true (pagesOf o.writesMem) with
    | (s, .error (a, m)) => (s, .error (a, true, m))
    | (s, .ok l2) => (s, .ok (l2 ++ l))

/-- The key of a byte under the translations taken at the start. -/
def EngineOp.key (o : EngineOp) (a : Nat) : Option Nat :=
  if poolBase ≤ a then some a
  else (o.maps.find? fun p => p.1 = a / 2 ^ 17).map fun p => p.2 + a % 2 ^ 17

/-- A byte of peer memory: a free value (DESIGN CHOICE, log 18). -/
def State.peerByte (s : State) (a : Nat) : Byte :=
  (Config.freeReg (s.free + a / 64 % 2 ^ 20)).extractLsb' (8 * (a % 64)) 8

/-- A byte as an operation reads it at its bank. -/
def State.opByte (s : State) (o : EngineOp) (a : Nat) : Byte :=
  match o.key a with
  | none => 0
  | some k => if isPeerKey k then s.peerByte a else memByte k s.mem

/-- n bytes as an operation reads them: of a line that it has read already, as it read it (R164, R218). -/
def State.opBytes (s : State) (o : EngineOp) (a n : Nat) : List Byte :=
  (List.range n).map fun i =>
    match tabGet ((a + i) / 64) o.got with
    | some l => l.getD ((a + i) % 64) 0
    | none => s.opByte o (a + i)

/-- n bytes as a number. -/
def State.opNat (s : State) (o : EngineOp) (a n : Nat) : Nat := bytesNat (s.opBytes o a n)

/-- The lines of a range, each cut at 64-byte boundaries. -/
def linesIn (a n : Nat) : List (Nat × Nat) :=
  if n = 0 then []
  else (List.range ((a + n - 1) / 64 - a / 64 + 1)).map fun i =>
    let lo := max a (64 * (a / 64 + i))
    (lo, min (a + n) (64 * (a / 64 + i) + 64) - lo)

/-- Why a range cannot be accessed: a KIND of R226. Peer memory reached without the P right, where the page was not
there to be tested at issue, counts as a recalled frame (DESIGN CHOICE, log 41). -/
def State.rangeTrouble (s : State) (o : EngineOp) (a n : Nat) : Option Nat :=
  (linesIn a n).findSome? fun l =>
    match o.key l.1 with
    | none => none
    | some k =>
      if (poolOf k).isNone && decide (paSpace k = 6) then some 11
      else if isPeerKey k then
        (if (s.peerCause k false).isSome || o.noP.any fun r => !apart l.1 l.2 r.1 r.2 then some 3 else none)
      else match s.badAt k l.2 with
        | some c => some (if c = 0x0F then 4 else 2)
        | none => none

/-- A line written as a plain store, which rolls back the younger leaves that had read its words (R94, R248); a peer's
memory is not this device's. -/
def State.storeLine (s : State) (o : EngineOp) (x : Nat × List Byte) : State :=
  match o.key x.1 with
  | none => s
  | some k =>
    if isPeerKey k then s.storedBy o.t k x.2.length
    else (bankStep s k (.store x.2.length (BitVec.ofNat 512 (bytesNat x.2)))).1.storedBy o.t k x.2.length

/-- Bytes as the lines in which they are written. -/
def linesOfBytes (a : Nat) (l : List Byte) : List (Nat × List Byte) :=
  (linesIn a l.length).map fun x => (x.1, (l.drop (x.1 - a)).take x.2)

/-- The pieces of some ranges, line by line. -/
def linesOfRanges (l : List (Nat × Nat)) : List (Nat × Nat) := l.flatMap fun r => linesIn r.1 r.2

/-- The pieces of what an operation reads that it has not read yet. -/
def EngineOp.unread (o : EngineOp) (l : List (Nat × Nat)) : List (Nat × Nat) :=
  (linesOfRanges l).filter fun x => (tabGet (x.1 / 64) o.got).isNone

/-- What an operation reads in lines of memory, given by their numbers: reading a line reads all of it (R174). -/
def EngineOp.inLines (o : EngineOp) (lines : List Nat) : List (Nat × Nat) :=
  (linesOfRanges o.reads).filter fun x => lines.contains (x.1 / 64)

/-- A line of memory that an operation reads, by its number: it keeps the bytes, or what it has met in the pieces of
that line (R164, R225). -/
def State.readLine (s : State) (l : List (Nat × Nat)) (o : EngineOp) (line : Nat) : EngineOp :=
  match o.failing, ((linesOfRanges l).filter fun x => x.1 / 64 = line).findSome? fun x => s.rangeTrouble o x.1 x.2 with
  | some _, _ => o
  | none, some k => { o with failing := some k }
  | none, none =>
    { o with got := tabPut line ((List.range 64).map fun i => s.opByte o (line * 64 + i)) o.got }

/-- The lines of some of an operation's ranges, read at once. -/
def State.readLines (s : State) (l : List (Nat × Nat)) (o : EngineOp) : EngineOp :=
  ((linesOfRanges l).foldl (fun acc x => setAdd (x.1 / 64) acc) []).foldl (s.readLine o.reads) o

/-! ## Conflicts within the queue (R174, R220) -/

/-- The pieces in which an operation writes its result, in the order of their numbers. -/
def EngineOp.outPieces (o : EngineOp) : List (Nat × Nat) :=
  match o.instr with
  | some (.qrow ..) => (List.range o.rows).flatMap fun r =>
      linesIn (o.addr2.toNat + 128 * r) 128 ++ linesIn (o.addr3.toNat + 4 * r) 4
  | _ => linesOfRanges o.writesMem

/-- What of a list of pieces, by their numbers, an operation has not written yet. -/
def EngineOp.left {α : Type} (o : EngineOp) (l : List α) : List (Nat × α) :=
  ((List.range l.length).zip l).filter fun p => !o.wrote.contains p.1

/-- The accesses to memory that a started operation has still to make. -/
def EngineOp.pending (o : EngineOp) : List (Nat × Nat) := o.unread o.reads ++ (o.left o.outPieces).map (·.2)

/-- The words of some pieces under an operation's translations, by the keys of their homes: first word and number. -/
def State.opWords (s : State) (o : EngineOp) (l : List (Nat × Nat)) : List (Nat × Nat) :=
  l.filterMap fun x => (o.key x.1).map fun k =>
    (s.homeKey k / 8, if x.2 = 0 then 0 else (s.homeKey k % 8 + x.2 + 7) / 8)

/-- Two lists of word runs share a word. -/
def runsMeet (l m : List (Nat × Nat)) : Bool := l.any fun r => m.any fun q => !apart r.1 r.2 q.1 q.2

/-- A later operation acts on a unit that an earlier one still has to act on: a slot or a latch. A latch's readers need
no rule of their own here: they start only when the latch is full (R174, R215). -/
def EngineOp.follows (late early : EngineOp) : Bool :=
  late.slots.any early.slots.contains ||
  (late.writesLatch.isSome && (late.writesLatch = early.writesLatch || late.writesLatch = early.readsLatch)) ||
  (early.empties.isSome && late.empties = early.empties)

/-- The operations ahead of one in its queue. -/
def opsBefore (n : Nat) (l : List EngineOp) : List EngineOp := l.takeWhile fun o => o.n != n

/-- Some accesses of an operation share no word with what the operations before it have still to access (R174). -/
def State.linesFree (s : State) (c : Nat) (o : EngineOp) (l : List (Nat × Nat)) : Bool :=
  (opsBefore o.n (s.core c).engq).all fun e => !runsMeet (s.opWords o l) (s.opWords e e.pending)

/-- A started BLOAD whose latch a BROT has filled first (R216): it waits until the latch is emptied again, and stands in
nobody's way to that (DESIGN CHOICE, log 45). -/
def State.yields (s : State) (c : Nat) (lat : Bool) (o : EngineOp) : Bool :=
  let k := s.core c
  o.started && (if lat then k.latch1 else k.latch0).full &&
    match o.instr with
    | some (.bload l _) => l = lat
    | _ => false

/-- The slots and latches of a started operation are free for it. BREL acts at the head of the queue (R252). -/
def State.unitsFree (s : State) (c : Nat) (o : EngineOp) : Bool :=
  let l := opsBefore o.n (s.core c).engq
  match o.instr with
  | some (.brel lat) => l.all (s.yields c lat)
  | _ => l.all fun e => !o.follows e

/-- A started operation may act: none before it has anything left to do that it must follow (R174). -/
def State.opFree (s : State) (c : Nat) (o : EngineOp) : Bool :=
  o.started && s.unitsFree c o && s.linesFree c o o.pending

/-- A started operation is next to be performed: it may act, and its cycles have passed (R211). -/
def State.opNext (s : State) (c : Nat) (o : EngineOp) : Bool := s.opFree c o && decide (o.doneAt ≤ s.runCount c)

/-! ## Latches (R215, R216) -/

/-- Started operations of a core. -/
def State.startedOps (s : State) (c : Nat) : List EngineOp := (s.core c).engq.filter (·.started)

/-- A started operation fills a latch: BLOAD. -/
def EngineOp.loads (o : EngineOp) (lat : Bool) : Bool :=
  match o.instr with
  | some (.bload l _) => l = lat
  | _ => false

/-- A started operation is a BROT to a latch of the next core. -/
def EngineOp.rotatesTo (o : EngineOp) (lat : Bool) : Bool :=
  match o.instr with
  | some (.brot _ dl) => dl = lat
  | _ => false

/-- A latch can take bytes: it is empty, no started operation reads it, and no BROT to it is under way (R174, R215). -/
def State.latchOpen (s : State) (c : Nat) (lat : Bool) : Bool :=
  let k := s.core c
  !(if lat then k.latch1 else k.latch0).full &&
    ((s.startedOps c).all fun o => o.readsLatch != some lat) &&
    ((s.startedOps (s.ringCore c true)).all fun o => !o.rotatesTo lat)

/-! ## Peers (R340) -/

/-- A started engine operation has accesses to a peer that have not been answered. -/
def EngineOp.atPeer (o : EngineOp) : Bool :=
  o.started && o.pending.any fun x => (o.key x.1).any isPeerKey

/-- A peer has not answered an operation within 2^24 cycles of its start. -/
def State.opLate (s : State) (o : EngineOp) : Bool := o.atPeer && decide (o.since + 2 ^ 24 ≤ s.cyc)

/-! ## Removal (R224, R225) -/

/-- The state with an operation gone from its queue. -/
def State.dropOp (s : State) (c n : Nat) : State :=
  let k := s.core c
  s.setCore c { k with engq := k.engq.filter fun o => o.n != n }

/-- GRP and FN of an operation's record. -/
def EngineOp.estat (o : EngineOp) (kind removed : Nat) : Word :=
  estatWord kind o.idx.toNat o.batch.toNat (fFn8 o.word) (fOp o.word = 0xA0) o.slot removed

/-- An operation put into a queue image, in the order of issue (R224). -/
def EngineOp.into (o : EngineOp) : List EngineOp → List EngineOp
  | [] => [o]
  | p :: l => if o.n < p.n then o :: p :: l else p :: o.into l

/-- An operation and every later unstarted one of its thread leave the queue as the thread's queue image, in their
original order with those that stand in it already; %estat records why (R224, R225). -/
def State.removeOps (s : State) (c : Nat) (o : EngineOp) (kind : Nat) : State :=
  match s.thread? o.t with
  | none => s.dropOp c o.n
  | some t =>
    let k := s.core c
    let gone (e : EngineOp) : Bool := e.n = o.n || (e.t = o.t && !e.started)
    let out := (k.engq.filter gone).map fun e =>
      { e with started := false, maps := [], got := [], wrote := [], failing := none }
    let s := s.setCore c { k with engq := k.engq.filter fun e => !gone e }
    s.setThread { t with
      image := out.foldl (fun l o => o.into l) t.image, roomWait := false, sp := { t.sp with estat := o.estat kind out.length } }

end Sys2Proof.Machine
end

