-- ==== Sys2Proof/Machine/Copy.lean ====
section
/-! DEFINITION. Copies: their checks at issue, their delivery line by line, and the meanings of COPY, COPY2
and CWAIT (R234 to R242, R261 to R263). -/

namespace Sys2Proof.Machine

/-! ## Shape of a copy -/

/-- Bytes of a copy in all. -/
def CopyOp.total (o : CopyOp) : Nat := o.rows * o.rowLen

/-- A sampled bound; all ones where the copy is not bounded. -/
def CopyOp.bound (o : CopyOp) (i : Nat) : Nat :=
  match o.bnd with
  | some l => (l.getD i 0).toNat
  | none => 2 ^ 64

/-- In-bounds columns of a row on the source or the destination side (R240). COPY has no row bounds. -/
def CopyOp.columns (o : CopyOp) (dest : Bool) (r : Nat) : Nat :=
  let i := if dest then 2 else 0
  if o.two && decide (o.bound (i + 1) ≤ r) then 0 else min o.rowLen (o.bound i)

/-- Effective offset or address of row r. -/
def rowAt (start stride : Word) (r : Nat) : Word := start + BitVec.ofNat 64 r * stride

/-- The line access at a delivery offset: source and destination DVAs, bytes, and how many of them, from
the first, have a source and a destination in bounds (R236, R240). -/
structure CopyPart where
  src : Nat
  dst : Nat
  n : Nat
  ms : Nat
  md : Nat
  deriving DecidableEq, Repr

/-- The part of a copy at delivery offset p. -/
def CopyOp.part (o : CopyOp) (p : Nat) : CopyPart :=
  let r := p / o.rowLen
  let col := p % o.rowLen
  let dst := (rowAt o.dst o.dStride r).toNat + col
  let n := min (o.rowLen - col) (64 - dst % 64)
  let md := min n (o.columns true r - col)
  { src := (rowAt o.src o.sStride r).toNat + col, dst := dst, n := n,
    ms := min (o.columns false r - col) md, md := md }

/-! ## Checks at issue (R235, R240, R244) -/

/-- The first of some traps in the order of R23; among equals, the first listed. -/
def firstTrap : List TrapInfo → Option TrapInfo
  | [] => none
  | i :: l => match firstTrap l with
    | some j => some (if j.code.toNat < i.code.toNat then j else i)
    | none => some i

/-- The trap of the checks of R11 on n bytes of row r. Offsets and strides are unsigned, and the limit check does not
wrap around (R11, R262): a row whose offset passes 2^64 lies past LIMIT. -/
def rowTrap (s : State) (t : Thread) (g : SegReg) (e stride : Word) (rights : BitVec 6) (wr : Bool) (r n : Nat) :
    Option TrapInfo :=
  if segLimit (t.seg g) < e.toNat + r * stride.toNat + n then
    some { code := 0x04, info := rowAt e stride r, seg := g, wr := wr, miss := 0 }
  else match checkX s t g (rowAt e stride r) n 1 rights wr with
    | .error (.trap i) => some i
    | _ => none

/-- The trap of the checks of R11 on one side's rows: the first in R23's order that any row meets. -/
def sideTraps (s : State) (t : Thread) (g : SegReg) (e stride : Word) (rights : BitVec 6) (wr : Bool)
    (rows : Nat) (cols : Nat → Nat) : Option TrapInfo :=
  firstTrap ((List.range rows).filterMap fun r =>
    if cols r = 0 then none else rowTrap s t g e stride rights wr r (cols r))

/-- An alignment trap on one side of a copy. -/
def alignTrap (g : SegReg) (e : Word) (wr : Bool) : TrapInfo :=
  { code := 0x06, info := e, seg := g, wr := wr, miss := 0 }

/-- Multiples of 8. -/
def mult8 (w : Word) : Bool := w.extractLsb' 0 3 = 0

/-- The alignment conditions of a mode on starts, strides and length, each tested where the registers that form it are
`clean` (R23, R235, R262, DEDUCED, log 21). -/
def alignTraps (f : CopyForm) (clean : RegNum → Bool) (d e len ds ss : Word) : Option TrapInfo :=
  let bad (l : List RegNum) (w : Word) : Bool := l.all clean && !mult8 w
  match f.mode with
  | .setfull => none
  | .keep => if bad [f.a, f.b] (d - e) || bad [f.c] (ds - ss) then some (alignTrap f.segD d true) else none
  | .consume | .fillwait =>
    if bad [f.a] d || bad [f.c] ds then some (alignTrap f.segD d true)
    else if bad [f.b] e || bad [f.c] ss then some (alignTrap f.segS e false)
    else if bad [f.c] len then some (alignTrap f.segD d true)
    else none

/-- The first byte of a range in each 128 KiB page that it touches. -/
def pageStarts (a n : Nat) : List Nat :=
  if n = 0 then []
  else (List.range ((a + n - 1) / 2 ^ 17 - a / 2 ^ 17 + 1)).map fun i => max a (2 ^ 17 * (a / 2 ^ 17 + i))

/-- A DVA leads to the peer window under the translation in effect. -/
def State.leadsToPeer (s : State) (d : BitVec 32) (a : Nat) : Bool :=
  decide (a < poolBase) && (match s.walk d a with
    | .ok l => decide (paSpace (pteAddr l.entry) = 5)
    | .error _ => false)

/-- The peer window on one side of a copy, in any page of any row: it needs P, and then the modes other than SETFULL
trap ATOMROUTE (R148, R235). -/
def peerTrap (s : State) (t : Thread) (f : CopyForm) (g : SegReg) (e stride : Word) (wr : Bool) (rows : Nat)
    (cols : Nat → Nat) : Option TrapInfo :=
  if f.mode = .setfull && segP (t.seg g) then none
  else (List.range rows).findSome? fun r =>
    let o := rowAt e stride r
    ((pageStarts (segBase (t.seg g) + o).toNat (cols r)).find? (s.leadsToPeer t.dom)).map fun a =>
      if !segP (t.seg g) then { code := 0x05, info := o, seg := g, wr := wr, miss := 0b100000 }
      else .plain 0x09 (BitVec.ofNat 64 a)

/-- Rights that the source needs, and the destination (R235). -/
def copyRights : CopyMode → BitVec 6 × BitVec 6
  | .keep => (0b001001, 0b001010)
  | .setfull => (0b000001, 0b000010)
  | .consume => (0b001011, 0b000010)
  | .fillwait => (0b000001, 0b001010)

/-- The barrier that a copy names: its DVA under the checks of R11 (R244, R261). -/
def barX (s : State) (t : Thread) (f : CopyForm) (x : Reg) : X (Option (Word × Bool)) :=
  match f.bar with
  | none => .ok none
  | some b => do
    let a ← checkX s t b.seg (scalar x) 16 16 0b001010 true
    return some (a, b.out)

/-- Whether a barrier's checks trap. -/
def barTrap (s : State) (t : Thread) (f : CopyForm) (x : Reg) : Option TrapInfo :=
  match barX s t f x with
  | .error (.trap i) => some i
  | _ => none

/-- Why a barrier at a key cannot be counted down: the P right of the peer window, and then its place (R148, R244). -/
def barCause (k : Nat) (a base : Word) (g : SegReg) (p : Bool) : Option TrapInfo :=
  if isPeerKey k && !p then some { code := 0x05, info := a - base, seg := g, wr := true, miss := 0b100000 }
  else if (poolOf k).isNone && !decide (paSpace k < 4) then some (.plain 0x09 a)
  else none

/-- A barrier that a copy names lies in scratch or cap memory, where its page is there to tell (R244). -/
def barPlace (s : State) (t : Thread) (f : CopyForm) (x : Reg) : Option TrapInfo :=
  match barX s t f x, f.bar with
  | .ok (some (a, _)), some b =>
    if decide (poolBase ≤ a.toNat) then none
    else match s.walk t.dom a.toNat with
      | .ok l => barCause (pteAddr l.entry) a (segBase (t.seg b.seg)) b.seg (segP (t.seg b.seg))
      | .error _ => none
  | _, _ => none

/-- The trap of a register that an instruction reads, where it is poisoned (R292). -/
def poisonTrap (t : Thread) (r : RegNum) : Option TrapInfo :=
  if (t.entry r).poison then some (.plain 0x0E (0x8000_0000_0000_0000#64 ||| r.zeroExtend 64)) else none

/-- %cwp of a channel set in a thread's record. -/
def Thread.setCwp (t : Thread) (ch v : Nat) : Thread :=
  { t with sp := { t.sp with cwp := t.sp.cwp.set ch (BitVec.ofNat 64 v) } }

/-- The traps of a copy that come before translation: of the checks of R11 on both sides, of alignment, and of the
barrier's checks, each where the registers that form it are not poisoned (R23, R235, R247). -/
def copyTraps (s : State) (t : Thread) (f : CopyForm) (o : CopyOp) (d e len k : Reg) (used : Nat) : List TrapInfo :=
  let clean (r : RegNum) : Bool := !(t.entry r).poison
  let (rs, rd) := copyRights f.mode
  let keep (ok : Bool) (i : Option TrapInfo) : Option TrapInfo := if ok then i else none
  [keep (clean f.c && decide (2 ^ 48 < o.total))
      (some { code := 0x04, info := scalar d, seg := f.segD, wr := true, miss := 0 }),
    keep (clean f.c && clean f.a && decide (o.total ≤ 2 ^ 48))
      (sideTraps s t f.segD (scalar d) o.dStride rd true used (o.columns true)),
    keep (clean f.c && clean f.b && decide (o.total ≤ 2 ^ 48))
      (sideTraps s t f.segS (scalar e) o.sStride rs (f.mode == .consume) used (o.columns false)),
    alignTraps f clean (scalar d) (scalar e) (scalar len) o.dStride o.sStride,
    keep (f.bar.all fun b => clean b.t) (barTrap s t f k)].filterMap id

/-- Those that come after: of the peer window, of the barrier's place, and of poisoned registers. -/
def copyRouteTraps (s : State) (t : Thread) (f : CopyForm) (o : CopyOp) (d e k : Reg) (used : Nat) : List TrapInfo :=
  let clean (r : RegNum) : Bool := !(t.entry r).poison
  let keep (ok : Bool) (i : Option TrapInfo) : Option TrapInfo := if ok then i else none
  [keep (clean f.c && clean f.a) (peerTrap s t f f.segD (scalar d) o.dStride true used (o.columns true)),
    keep (clean f.c && clean f.b)
      (peerTrap s t f f.segS (scalar e) o.sStride (f.mode == .consume) used (o.columns false)),
    keep (f.bar.all fun b => clean b.t) (barPlace s t f k),
    poisonTrap t f.a, poisonTrap t f.b, poisonTrap t f.c, f.bar.bind fun b => poisonTrap t b.t].filterMap id

/-- COPY and COPY2: rows, row length, strides from the shape register (R261, R262). -/
def copyOp (s : State) (f : CopyForm) (two : Bool) : Host.Outcome State Fault Refusal :=
  runT s fun s t => do
    windowX t ([f.a, f.b, f.c] ++ (f.bar.map (·.t)).toList)
    let d ← presentX t f.a
    let e ← presentX t f.b
    let c ← presentX t f.c
    let k ← match f.bar with
      | some b => presentX t b.t
      | none => .ok 0
    let rows := if two then (lane64 c 0).toNat else 1
    let len := if two then lane64 c 1 else scalar c
    let ss : Word := if two then lane64 c 2 else 0
    let ds : Word := if two then lane64 c 3 else 0
    let o : CopyOp :=
      { n := s.serial, t := t.id, domain := t.dom, src := segBase (t.seg f.segS) + scalar e,
        dst := segBase (t.seg f.segD) + scalar d, baseS := segBase (t.seg f.segS),
        baseD := segBase (t.seg f.segD), pS := segP (t.seg f.segS), pD := segP (t.seg f.segD), rows := rows, rowLen := len.toNat, sStride := ss,
        dStride := ds, mode := f.mode, segS := f.segS, segD := f.segD,
        segK := (f.bar.map (·.seg)).getD 0, bar := none,
        baseK := segBase (t.seg ((f.bar.map (·.seg)).getD 0)), pK := segP (t.seg ((f.bar.map (·.seg)).getD 0)),
        bnd := if f.bnd then some t.sp.bounds else none, two := two, fill := t.sp.fill,
        started := false, landed := 0, buf := [], waitingOn := none }
    let used := if o.rowLen = 0 then 0 else rows
    match firstTrap (copyTraps s t f o d e (ofScalar len) k used) with
    | some i => .error (.trap i)
    | none =>
      match firstTrap (copyRouteTraps s t f o d e k used) with
      | some i => .error (.trap i)
      | none => do
        let bar ← barX s t f k
        oldestX t
        let core := t.id.core.toNat
        let x := s.core core
        let q := x.copyq.getD f.ch.toNat []
        need (q.length < 8) (.park (.copyFull f.ch.toNat))
        return ({ s.setCore core { x with copyq := x.copyq.set f.ch.toNat (q ++ [{ o with bar := bar }]) }
                  with serial := s.serial + 1 }, (t.setCwp f.ch.toNat 0).adv)

/-- COPY (R261). -/
def execCopy (f : CopyForm) (s : State) : Host.Outcome State Fault Refusal := copyOp s f false

/-- COPY2 (R262). -/
def execCopy2 (f : CopyForm) (s : State) : Host.Outcome State Fault Refusal := copyOp s f true

/-- CWAIT cN (R263). -/
def execCwait (ch : BitVec 2) (s : State) : Host.Outcome State Fault Refusal :=
  runT s fun s t => do
    need (s.cwaitOver t ch.toNat none) (.park (.cwait ch.toNat none))
    return (s, t.adv)

/-- CWAIT cN, gA (R263). -/
def execCwaitPtr (ch : BitVec 2) (a : RegNum) (s : State) : Host.Outcome State Fault Refusal :=
  runT s fun s t => do
    windowX t [a]
    let x ← readX t a
    let p := ((scalar x).extractLsb' 0 49).toNat
    need (s.cwaitOver t ch.toNat (some p)) (.park (.cwait ch.toNat (some p)))
    return (s, t.adv)

/-! ## Delivery (R236 to R238, R240) -/

/-- A channel's queue. -/
def State.copyQueue (s : State) (c ch : Nat) : List CopyOp := (s.core c).copyq.getD ch []

/-- The state with the head of a channel's queue replaced. -/
def State.setCopy (s : State) (c ch : Nat) (o : CopyOp) : State :=
  let x := s.core c
  s.setCore c { x with copyq := x.copyq.set ch ((x.copyq.getD ch []).map fun p => if p.n = o.n then o else p) }

/-- The write pointer of a copy's thread follows the copy, where the copy is the thread's most recent one on its
channel: the pointer of a queued copy is 0 from its issue on (R241, DEDUCED, log 22). -/
def State.setCwp (s : State) (o : CopyOp) (ch v : Nat) : State :=
  if ((s.copiesOn o.t ch).getLast?.map (·.n)) = some o.n then
    match s.thread? o.t with
    | some x => s.setThread (x.setCwp ch v)
    | none => s
  else s

/-- Why the parts of a copy have no keys: a missing page, or a TLBINV under way (R238, R281). -/
inductive CopyHalt where
  | miss (a : Nat) (m : Miss)
  | held

/-- Where the parts of a range lie, each within one line: key and bytes. -/
def State.copyKeys (s : State) (cl : Nat) (d : BitVec 32) (wr : Bool) :
    List (Nat × Nat) → State × Except CopyHalt (List (Nat × Nat))
  | [] => (s, .ok [])
  | (a, n) :: rest =>
    let dva : Word := BitVec.ofNat 64 a
    let go (s : State) (k : Nat) : State × Except CopyHalt (List (Nat × Nat)) :=
      match s.copyKeys cl d wr rest with
      | (s, .ok l) => (s, .ok ((k, n) :: l))
      | (s, .error e) => (s, .error e)
    match s.route cl d dva wr false with
    | (s, .bank k) => go s k
    | (s, .peer k) => go s k
    | (s, .collapse k) => go (s.collapseNow k d dva) k
    | (s, .miss m) => (s, .error (.miss a m))
    | (s, .inval _) => (s, .error .held)

/-- What a copy's next part meets: its keys, a missing page, a TLBINV that holds it, or a cause that cancels it, with
the DVA and whether it is the destination (R238, R331). -/
inductive CopyView where
  | ready (s : State) (src dst : List (Nat × Nat))
  | miss (s : State) (a : Nat) (wr : Bool) (m : Miss)
  | held
  | bad (code : BitVec 8) (a : Nat) (dest : Bool)

/-- The cause that a part at a key brings; `p` is the P right of its segment (R148). -/
def State.copyCause (s : State) (mode : CopyMode) (p : Bool) (k n : Nat) : Option (BitVec 8) :=
  if (poolOf k).isSome then s.badAt k n
  else if paSpace k = 6 then some 0x09
  else if paSpace k = 5 then
    if !p then some 0x05 else if mode != .setfull then some 0x09 else s.peerCause k false
  else s.badAt k n

/-- The first cause among parts, with its DVA. -/
def firstCause (s : State) (mode : CopyMode) (p : Bool) (parts keys : List (Nat × Nat)) :
    Option (BitVec 8 × Nat) :=
  (parts.zip keys).findSome? fun x => (s.copyCause mode p x.2.1 x.2.2).map fun c => (c, x.1.1)

/-- Source bytes of the present line that a copy has read already. -/
def CopyOp.have' (o : CopyOp) : Nat := min o.buf.length (o.part o.landed).ms

/-- Look at the part of a copy that comes next: what it has still to read, and where it writes. -/
def State.copyView (s : State) (c : Nat) (o : CopyOp) : CopyView :=
  let p := o.part o.landed
  let cl := clusterOf c
  let sl := linesIn (p.src + o.have') (p.ms - o.have')
  let dl := linesIn p.dst p.md
  match s.copyKeys cl o.domain (o.mode == .consume) sl with
  | (s, .error (.miss a m)) => .miss s a (o.mode == .consume) m
  | (_, .error .held) => .held
  | (s, .ok ks) =>
    match s.copyKeys cl o.domain true dl with
    | (s, .error (.miss a m)) => .miss s a true m
    | (_, .error .held) => .held
    | (s, .ok kd) =>
      match firstCause s o.mode o.pS sl ks with
      | some (code, a) => .bad code a false
      | none => match firstCause s o.mode o.pD dl kd with
        | some (code, a) => .bad code a true
        | none => .ready s ks kd

/-- Bytes of %fill for destination bytes lo to hi − 1 of a part (R240). -/
def fillBytes (fill : Word) (dst lo hi : Nat) : List Byte :=
  (List.range (hi - lo)).map fun i => fill.extractLsb' (8 * ((dst + lo + i) % 8)) 8

/-- The words that a part writes wholly, by offset from its first byte. -/
def wholeWords (p : CopyPart) : List Nat :=
  (List.range p.md).filter fun j => (p.dst + j) % 8 = 0 && decide (j + 8 ≤ p.md)

/-- Write a part's bytes at its key for a copy's thread, leave its words' bits as given, and settle the words (R94, R153,
R237). -/
def State.copyStore (s : State) (t : Ident) (keys : List (Nat × Nat)) (data : List Byte) (bits : List (Nat × Bool)) :
    State :=
  match keys with
  | (k, n) :: _ =>
    let s := s.writeBytes k (data.take n)
    ((bits.foldl (fun s b => s.setFull (k + b.1) b.2) s).settle k n).storedBy t k n
  | [] => s

/-- An access of a copy channel at a word, on its source or its destination. -/
def copyAccess (s : State) (c ch : Nat) (o : CopyOp) (f : Form) (a k : Nat) (dest : Bool) : Access :=
  { n := s.serial, group := s.serial, agent := .copy c ch, t := o.t, home := o.t, rel := false, form := f,
    seg := if dest then o.segD else o.segS, pRight := if dest then o.pD else o.pS, off := 0, dva := BitVec.ofNat 64 a, domain := o.domain, key := some k,
    d := none, lane := none, stage := .inFlight, refusals := 0, issued := s.cyc, tSeg := false, riders := [] }

/-- A copy that has read the next piece of its line's source, on this device: its bytes and their words' bits. -/
def State.readPiece (s : State) (o : CopyOp) (k n : Nat) : CopyOp :=
  { o with buf := o.buf ++ memBytes s.mem k n, full := o.full ++ (List.range n).map fun j => s.full (k + j) }

/-- A copy whose next bytes, as many as given, have landed. -/
def CopyOp.land (o : CopyOp) (n : Nat) : CopyOp :=
  { o with landed := o.landed + n, buf := o.buf.drop n, full := [] }

/-- The copy at the head of a channel, with bytes that have landed. -/
def State.landCopy (s : State) (c ch : Nat) (o : CopyOp) (n : Nat) : State :=
  (s.setCopy c ch (o.land n)).setCwp o ch (o.landed + n)

/-- The next access of a line in KEEP or SETFULL: a piece of its source, while one is left to read; then its destination
(R236). A peer answers a read, and acknowledges a posted store, in its own time (R235). -/
def State.copyPlain (s : State) (c ch : Nat) (o : CopyOp) (ks kd : List (Nat × Nat)) : State :=
  let p := o.part o.landed
  match ks, kd with
  | (k, n) :: _, _ =>
    if isPeerKey k then
      let a := copyAccess s c ch o (.load n false) (p.src + o.buf.length) k false
      (s.addAccess a).setCopy c ch { o with waitingOn := some a.n }
    else s.setCopy c ch (s.readPiece o k n)
  | [], (k, n) :: _ =>
    let data := o.buf ++ fillBytes o.fill p.dst p.ms p.md
    if isPeerKey k then
      let a := copyAccess s c ch o (.store n (BitVec.ofNat 512 (bytesNat data))) p.dst k true
      (s.addAccess a).setCopy c ch { o with waitingOn := some a.n }
    else
      let bits := (wholeWords p).map fun j => (j, !(o.mode = .keep && decide (j < p.ms)) || o.full.getD j true)
      (s.copyStore o.t kd data bits).landCopy c ch o p.n
  | [], [] => s.landCopy c ch o p.n

/-- The answer of an access: its value, once it has one. -/
def State.answerOf (s : State) (n : Nat) : Option Reg :=
  (s.accs.find? fun a => a.n = n).bind fun a => match a.stage with
    | .done v => some v
    | _ => none

/-- The state without an access. -/
def State.dropAccess (s : State) (n : Nat) : State :=
  { s with accs := s.accs.filter fun a => a.n != n }

/-- Make an access and take it to its bank: the answer, or nothing while it waits there. -/
def State.copyTry (s : State) (a : Access) : State × Option Reg :=
  let s1 := (s.addAccess a).arrive a
  match s1.answerOf a.n with
  | some v => (s1.dropAccess a.n, some v)
  | none => (s1, none)

/-- The next access of a line in CONSUME: a word of its source, while one is left to take; then its destination (R236,
R237). -/
def State.copyConsume (s : State) (c ch : Nat) (o : CopyOp) (ks kd : List (Nat × Nat)) : State :=
  let p := o.part o.landed
  let j := o.buf.length
  match ks with
  | (k, _) :: _ =>
    let own := min (j + 8) p.ms - j
    let rest := fillBytes o.fill p.dst (j + own) (min (j + 8) p.md)
    if j + 8 ≤ p.md then
      let a := copyAccess s c ch o (.ldc false) (p.src + j) k false
      match s.copyTry a with
      | (s, some v) => s.setCopy c ch { o with buf := o.buf ++ natBytes own v.toNat ++ rest }
      | (s, none) => s.setCopy c ch { o with waitingOn := some a.n }
    else s.setCopy c ch { o with buf := o.buf ++ memBytes s.mem k own ++ rest }
  | [] =>
    (s.copyStore o.t kd (o.buf ++ fillBytes o.fill p.dst j p.md) ((wholeWords p).map fun j => (j, true))).landCopy c ch o p.n

/-- The next access of a line in FILLWAIT: a piece of its source, while one is left to read; then, once the line has been
read whole, a word of its destination, when it is empty (R236, R237). -/
def State.copyFillwait (s : State) (c ch : Nat) (o : CopyOp) (ks kd : List (Nat × Nat)) : State :=
  let p := o.part o.landed
  let filled (o : CopyOp) : CopyOp :=
    if (o.part o.landed).ms ≤ o.buf.length then { o with buf := o.buf ++ fillBytes o.fill p.dst o.buf.length p.md } else o
  match ks, kd with
  | (k, n) :: _, _ => s.setCopy c ch (filled (s.readPiece o k n))
  | [], (k, _) :: _ =>
    let o := filled o
    let data := o.buf.take 8
    if 8 ≤ p.md then
      let a := copyAccess s c ch o (.stf false (BitVec.ofNat 512 (bytesNat data))) p.dst k true
      match s.copyTry a with
      | (s, some _) => s.landCopy c ch o 8
      | (s, none) => s.setCopy c ch { o with waitingOn := some a.n }
    else ((((s.writeBytes k data).settle k data.length).storedBy o.t k data.length)).landCopy c ch o (min 8 p.n)
  | [], [] => s.landCopy c ch o p.n

/-- An access that a copy stood on has been answered: a word read or written, or a peer's answer (R235, R238). -/
def State.copyResume (s : State) (o : CopyOp) : State × CopyOp :=
  match o.waitingOn.bind s.acc? with
  | none => (s, o)
  | some a =>
    match s.answerOf a.n with
    | none => (s, o)
    | some v =>
      let s1 := s.dropAccess a.n
      let s1 := match a.form.writes, a.key with
        | true, some k => s1.storedBy o.t k a.form.bytes
        | _, _ => s1
      let o1 := { o with waitingOn := none }
      let p := o.part o.landed
      match o.mode, a.form with
      | .fillwait, _ => (s1, o1.land 8)
      | .consume, _ =>
        let j := o.buf.length
        let own := min (j + 8) p.ms - j
        (s1, { o1 with
          buf := o.buf ++ natBytes own v.toNat ++ fillBytes o.fill p.dst (j + own) (min (j + 8) p.md) })
      | _, .load n _ => (s1, { o1 with buf := o.buf ++ natBytes n v.toNat })
      | _, _ => (s1, o1.land p.n)

/-- Whether the copy stands on a word that has not yielded. -/
def State.copyWaits (s : State) (o : CopyOp) : Bool :=
  o.waitingOn.any fun n => (s.answerOf n).isNone

/-- A failed Skerry of a copy. -/
def State.copyFailed (s : State) (o : CopyOp) : Option (BitVec 8 × Nat) :=
  o.waitingOn.bind fun n => (s.accs.find? fun a => a.n = n).bind fun a => match a.stage with
    | .failed c => some (c, a.dva.toNat)
    | _ => none

/-- A copy waits at its MMU for a page. -/
def State.copyAtMmu (s : State) (c ch : Nat) : Bool :=
  s.mmuWaits.any fun w => w.who = .copy c ch

/-- A missing page: the copy waits at the MMU, and a request of kind 2 is sent (R238, R282). -/
def State.copyMiss (s : State) (c ch : Nat) (o : CopyOp) (a : Nat) (wr : Bool) (m : Miss) : State :=
  let region := match s.thread? o.t with
    | some t => t.regionId
    | none => 0
  let w : MmuWait :=
    { cluster := clusterOf c, domain := o.domain, dva := BitVec.ofNat 64 a, who := .copy c ch, region := region }
  ({ s with mmuWaits := s.mmuWaits ++ [w] }).pageRequest
    (pageG0 (BitVec.ofNat 64 a) (some o.t) 2 wr m region o.domain)

/-- The next access of the copy at the head of a channel (R236); none where it cannot go on. -/
def State.copyLine (s : State) (c ch : Nat) : Option State :=
  match s.copyQueue c ch with
  | [] => none
  | o :: _ =>
    if s.copyAtMmu c ch || s.copyWaits o || (s.copyFailed o).isSome || o.total ≤ o.landed then none
    else
      let (s, o) := s.copyResume { o with started := true }
      let s := s.setCwp o ch o.landed
      if o.total ≤ o.landed then some (s.setCopy c ch o)
      else
        match s.copyView c o with
        | .bad _ _ _ | .held => none
        | .miss s a wr m => some ((s.setCopy c ch o).copyMiss c ch o a wr m)
        | .ready s ks kd =>
          some (match o.mode with
            | .keep | .setfull => s.copyPlain c ch o ks kd
            | .consume => s.copyConsume c ch o ks kd
            | .fillwait => s.copyFillwait c ch o ks kd)

/-- The trap that a cause brings to a copy's thread: cause, DVA, which side. SEGRIGHTS is a missing P right met where
the page was not there to be tested at issue (R148, R238, DEDUCED, log 41). -/
def CopyOp.trapOf (o : CopyOp) (code : BitVec 8) (a : Nat) (dest : Bool) : TrapInfo :=
  let g := if dest then o.segD else o.segS
  let wr := dest || o.mode == .consume
  let dva : Word := BitVec.ofNat 64 a
  if code = 0x05 then
    { code := code, info := dva - (if dest then o.baseD else o.baseS), seg := g, wr := wr, miss := 0b100000 }
  else answerTrap code dva g wr

/-- The access that a copy stands on is at its destination. -/
def State.waitsAtDest (s : State) (o : CopyOp) : Bool :=
  match (o.waitingOn.bind s.acc?).map fun (a : Access) => a.form with
  | some (.store _ _) | some (.stf _ _) => true
  | _ => false

/-- Why the copy at the head of a channel is cancelled: cause, DVA, segment, write (R238). -/
def State.copyBad (s : State) (c ch : Nat) : Option TrapInfo :=
  match s.copyQueue c ch with
  | [] => none
  | o :: _ =>
    match s.copyFailed o with
    | some (code, a) => some (o.trapOf code a (s.waitsAtDest o))
    | none =>
      if s.copyAtMmu c ch || s.copyWaits o || o.total ≤ o.landed then none
      else
        let (s, o) := s.copyResume o
        if o.total ≤ o.landed then none
        else match s.copyView c o with
          | .bad code a dest => some (o.trapOf code a dest)
          | _ => none

/-- A copy leaves its queue. -/
def State.dropCopy (s : State) (c ch n : Nat) : State :=
  let x := s.core c
  s.setCore c { x with copyq := x.copyq.set ch ((x.copyq.getD ch []).filter fun o => o.n != n) }

/-- Cancel copies of a thread on a channel: their Skerries are withdrawn (R238). -/
def State.cancelCopies (s : State) (c ch : Nat) (t : Ident) : State :=
  let gone := ((s.copyQueue c ch).filter fun o => o.t = t).filterMap (·.waitingOn)
  let x := s.core c
  { s.setCore c { x with copyq := x.copyq.set ch ((x.copyq.getD ch []).filter fun o => o.t != t) } with
    accs := s.accs.filter fun a => !gone.contains a.n,
    mmuWaits := s.mmuWaits.filter fun w =>
      !(w.who = .copy c ch && ((s.copyQueue c ch).head?.map (·.t)) = some t) }

/-- Why the countdown of a finished copy cannot be made (R238, R244). A barrier whose page was missing at issue, and which
then lies outside scratch and cap memory, traps ATOMROUTE here, once the copy's data have been delivered (DESIGN CHOICE,
log 41). -/
def State.barrierBad (s : State) (c ch : Nat) : Option TrapInfo :=
  match s.copyQueue c ch with
  | [] => none
  | o :: _ =>
    if o.landed < o.total || s.copyAtMmu c ch then none
    else match o.bar with
      | none => none
      | some (a, _) =>
        match (s.route (clusterOf c) o.domain a true true).2 with
        | .peer k | .bank k | .collapse k =>
          match barCause k a o.baseK o.segK o.pK with
          | some i => some i
          | none => (s.badAt k 16).map fun code => answerTrap code a o.segK true
        | .miss _ | .inval _ => none

/-- A copy's barrier counts down in one bank step, which rolls back the younger leaves that had read it (R94, R242). -/
def State.countDown (s : State) (t : Ident) (k : Nat) (out : Bool) : Option State :=
  match bankStep s k (.barcount out) with
  | (s, .ok _) => some (s.storedBy t k 16)
  | _ => none

/-- The copy at the head of a channel completes: its barrier counts down (R242). -/
def State.copyDone (s : State) (c ch : Nat) : Option State :=
  match s.copyQueue c ch with
  | [] => none
  | o :: _ =>
    if o.landed < o.total || s.copyAtMmu c ch || (s.barrierBad c ch).isSome then none
    else
      let fin (s : State) : State := (s.setCwp o ch o.total).dropCopy c ch o.n
      match o.bar with
      | none => some (fin s)
      | some (a, out) =>
        match s.route (clusterOf c) o.domain a true true with
        | (s, .miss m) => some (s.copyMiss c ch o a.toNat true m)
        | (_, .peer _) | (_, .inval _) => none
        | (s, .bank k) => (s.countDown o.t k out).map fin
        | (s, .collapse k) => ((s.collapseNow k o.domain a).countDown o.t k out).map fin

end Sys2Proof.Machine
end

