-- ==== Sys2Proof/Machine/Thread.lean ====
section
/-! DEFINITION. The meanings of the THREAD group (R47 to R51). -/

namespace Sys2Proof.Machine

/-- NOP (R47). -/
def execNop (s : State) : Host.Outcome State Fault Refusal := runReg s fun t => .ok t

/-- The thread closes its open batch as MCOMMIT would, and parks until it has drained (R48). -/
def endPark (s : State) (t : Thread) (w : Wait) : X (State × Thread) := do
  let t ← closeX s t
  .error (.parkIn s { t with state := .parked, wait := w })

/-- END: THREAD_RETIRE follows when the thread has drained (R48). -/
def execEndT (s : State) : Host.Outcome State Fault Refusal :=
  runT s fun s t => endPark s t .endDrain

/-- The run count of a slot's next own turn after a cycle (R63). -/
def nextTurn (c slot : Nat) : Nat := c + 1 + (slot / 4 + 16 - (c + 1) % 16) % 16

/-- YIELD gives up the next own turn (R49). -/
def execYield (s : State) : Host.Outcome State Fault Refusal :=
  runReg s fun t =>
    .ok { t with yielded := some (nextTurn (s.runCount t.id.core.toNat) t.id.slot) }

/-- PAUSE: PAUSE_EXPIRY ends it; PAUSE 0 acts as NOP (R50). -/
def execPause (imm : BitVec 27) (s : State) : Host.Outcome State Fault Refusal :=
  runT s fun s t =>
    if imm = 0 then .ok (s, t.adv)
    else .error (.parkIn s { t with state := .parked, wait := .pause (s.cyc + imm.toNat) })

/-- A register made open, with the cycle, in which no deposit lands in it (R77). One that is open already stays as it is
(R51). -/
def Thread.voided (t : Thread) (cyc : Nat) (d : RegNum) : Thread :=
  if (t.entry d).pres = .opened then t
  else { t.setPres d .opened with voids := (cyc, d) :: t.voids.filter fun v => v.1 = cyc }

/-- VOID (R51). -/
def execVoid (d : RegNum) (s : State) : Host.Outcome State Fault Refusal :=
  runReg s fun t => do
    windowX t [d]
    destX t d
    return t.voided s.cyc d

end Sys2Proof.Machine
end

