-- ==== Sys2Proof/Machine/Tree.lean ====
section
/-! DEFINITION. The unfolders: fit, DEFER, splits, leaves, terminal boxes, and the order of dispatch (R80 to
R106). -/

namespace Sys2Proof.Machine

/-! ## Keys of RCBs -/

/-- The key of an agent's address, looked up without effect. -/
def State.peek (s : State) (d : BitVec 32) (a : Word) : Option Nat :=
  if poolBase ≤ a.toNat then some a.toNat
  else match s.walk d a.toNat with
    | .ok l =>
      let k := pteAddr l.entry + a.toNat % 2 ^ l.bits
      if paSpace k = 5 then none else some k
    | .error _ => none

/-- The keys of several addresses of a region for an unfolder; none while a page is missing (R96). -/
def State.agentKeys (s : State) (h : Holder) (r : Region) (wr : Bool) : List Word → State × Option (List Nat)
  | [] => (s, some [])
  | a :: l =>
    match s.rcbKey h r a wr with
    | (s, none) => (s, none)
    | (s, some k) =>
      match s.agentKeys h r wr l with
      | (s, some ks) => (s, some (k :: ks))
      | (s, none) => (s, none)

/-- The addresses of a box and its ancestors, from RCB to RCB. -/
def State.ancestry (s : State) (r : Region) : Nat → Word → List Word
  | 0, _ => []
  | fuel + 1, a =>
    if a = 0 then []
    else a :: (match s.peek r.domain a with
      | some k => s.ancestry r fuel (s.rcbParent k)
      | none => [])

/-! ## Extents and stamps (R80, R86, R90, R91) -/

/-- Extent of an axis. -/
def State.extent (s : State) (k i : Nat) : Nat := s.rcbHi k i - s.rcbLo k i

/-- Grain count of an axis. -/
def State.grains (s : State) (e : BitVec 512) (k i : Nat) : Nat :=
  (s.extent k i + ruleGrain e i - 1) / ruleGrain e i

/-- Grain-aligned midpoint. -/
def State.midpoint (s : State) (e : BitVec 512) (k i : Nat) : Nat :=
  s.rcbLo k i + ruleGrain e i * (s.grains e k i / 2)

/-- A stamp whose box cannot be split (R91). -/
def stampFixed (st : Word) : Bool := st = 0 || st.getLsbD 0

/-- The path stamp of a child (R90). -/
def childStamp (st : Word) (upper : Bool) : Word :=
  let p := lowBitFrom st.toNat 0 64
  let below := BitVec.ofNat 64 (2 ^ (p - 1))
  if upper then st ||| below else (st ^^^ BitVec.ofNat 64 (2 ^ p)) ||| below

/-- Modes of the axes of a box under a rule, as an RCB holds them. -/
def modesOf (e : BitVec 512) (n : Nat) : Nat := ((List.range n).map fun i => 4 ^ i * ruleMode e i).sum

/-- Bytes of join slots that a split on an axis allocates (R92). -/
def State.joinBytes (s : State) (e : BitVec 512) (k axis : Nat) : Nat :=
  if s.rcbMode k axis = 1 then 2 * ruleJoinBytes e else 0

/-! ## Fit (R85, R86) -/

/-- Pool(B). -/
def State.poolNeed (s : State) (e : BitVec 512) (k : Nat) : Nat :=
  rulePoolc e + ((List.range (s.rcbAxes k)).map fun i => rulePoolk e i * s.extent k i).sum

/-- Bytes rounded up to 64 (R100). -/
def up64 (n : Nat) : Nat := (n + 63) / 64 * 64

/-- A core's channel has a class. -/
def State.chanClass (s : State) (c : Nat) (ch : BitVec 5) (cls : Cls) : Bool :=
  (((s.core c).chans[ch.toNat]?).map (·.cls)) = some cls

/-- A core's %cap holds every bit of UNITS. -/
def State.unitsOk (s : State) (e : BitVec 512) (c : Nat) : Bool :=
  (s.cap c).toNat % 256 &&& ruleUnits e = ruleUnits e

/-- A slot remains for one more dispatched routine. -/
def State.slotFree (s : State) (c : Nat) : Bool :=
  decide ((s.threadsOf c).length + (s.routinesFor c).length < Config.slotsPerCore)

/-- Every extent is within MAXG (R85). -/
def State.maxgOk (s : State) (e : BitVec 512) (k : Nat) : Bool :=
  (List.range (s.rcbAxes k)).all fun i =>
    ruleMaxg e i = 0 || decide (s.extent k i ≤ ruleMaxg e i * ruleGrain e i)

/-- A leaf finds room on a core: the terms of R85 other than MAXG (DEDUCED, log 22). -/
def State.hasRoom (s : State) (e : BitVec 512) (k c : Nat) : Bool :=
  s.reachable c && s.chanClass c (ruleLch e) .leaf && s.unitsOk e c && s.slotFree c &&
    (s.poolPlace c (up64 (s.poolNeed e k))).isSome && (s.tilePlace c (ruleTiles e)).isSome

/-- A core could ever hold a leaf (R86). -/
def State.couldHold (s : State) (e : BitVec 512) (k c : Nat) : Bool :=
  s.reachable c && s.chanClass c (ruleLch e) .leaf && s.unitsOk e c &&
    decide (up64 (s.poolNeed e k) ≤ s.scratchBytes c) && decide (ruleTiles e ≤ s.tileSlots c)

/-- The cores of the device. -/
def allCores : List Nat :=
  List.range Config.computeCores ++ (List.range Config.systemCores).map (0x400 + ·)

/-- Index of the die of a core. The spec gives each compute die an unfolder and does not say which one a box passes through
on its way to the system cluster: the model gives that cluster a fifth die holder of its own (R87, DESIGN CHOICE,
log 46). -/
def dieIdx (c : Nat) : Nat := if c < 0x400 then c / 256 else 4

/-- A core lies under a holder (R87). -/
def Holder.has : Holder → Nat → Bool
  | .device, _ => true
  | .die d, c => dieIdx c = d
  | .cluster k, c => clusterOf c = k

/-- The unfolder below a holder on the way to a core (R87). -/
def Holder.below : Holder → Nat → Holder
  | .device, c => .die (dieIdx c)
  | .die _, c => .cluster (clusterOf c)
  | .cluster k, _ => .cluster k

/-- A box may be placed on a core: on any, but for the cluster to which a STAMPED split confines it (R88, R92). -/
def BoxNote.allows (b : BoxNote) (c : Nat) : Bool :=
  match b.pinned with
  | some k => clusterOf c = k
  | none => true

/-- Some core that a box may use has room for it as a leaf within MAXG (R85, R86). -/
def State.fitsSomewhere (s : State) (e : BitVec 512) (b : BoxNote) (k : Nat) : Bool :=
  s.maxgOk e k && allCores.any fun c => b.allows c && s.hasRoom e k c

/-! ## Terminal boxes (R98, R99) -/

/-- The state of a box and its counts (R99). -/
def Region.counted (r : Region) (code : Nat) : Region :=
  if code = stExpired then { r with expired := r.expired + 1 }
  else if code = stFaulted then { r with faulted := r.faulted + 1 }
  else r

/-- A box is noted as terminal. -/
def Region.ended (r : Region) (a : Word) : Region :=
  { r with boxes := r.boxes.map fun b => if b.addr = a then { b with ended := true } else b }

/-- A 32-bit saturating addition at a key. -/
def State.satAdd (s : State) (k n : Nat) : State := s.put k 4 (min (s.read k 4 + n) 0xFFFF_FFFF)

/-- A box becomes terminal; its parent's counts follow in the same step, and a parent that has no child
left joins or is done. The keys are those of the box and its ancestors (R92, R98, R99). -/
def settleBox (r : Nat) : List (Word × Nat) → Nat → State → State
  | [], _, s => s
  | (a, k) :: rest, code, s =>
    match s.region? r with
    | none => s
    | some reg =>
      let s := (s.setRegion ((reg.counted code).ended a)).setRcbState k code
      match rest with
      | [] => s
      | (pa, pk) :: _ =>
        let s := s.satAdd (pk + 0x70) (s.rcbPruned k + if code = stPruned then 1 else 0)
        let s := s.put (pk + 0x48) 4 (s.rcbOutstanding pk - 1)
        if s.rcbOutstanding pk = 0 && s.rcbState pk = stSplit then
          let e := reg.rule (s.rcbRule pk)
          let axis := ((reg.note pa).bind (·.axis)).getD 0
          let mode := s.rcbMode pk axis
          if (mode = 1 || mode = 2) && ruleJpres e then s.setRcbState pk stJoining
          else settleBox r rest stDone s
        else s

/-- A box becomes terminal, once the unfolder that holds it has translated every RCB on the way to the root. -/
def State.settleBoxAt (s : State) (r : Region) (a : Word) (code : Nat) : State × Bool :=
  let l := s.ancestry r 64 a
  match s.agentKeys (r.holderOf a) r true l with
  | (s, some ks) => (settleBox r.id (l.zip ks) code s, true)
  | (s, none) => (s, false)

/-- A trap message that names an RCB and no thread (R86, R276). -/
def State.trapBox (s : State) (r : Region) (a : Word) : State :=
  let (core, chan) := s.trapTarget r.domain false
  s.post core chan none r.domain (.trap (ofWords [0x2_0000, 0x0B, a, 0,
    BitVec.ofNat 64 (r.id + 2 ^ 32 * r.domain.toNat), a, BitVec.ofNat 64 s.cyc, 0]))

/-! ## Leaves and splits (R84, R86, R97) -/

/-- Leaf(B): queued; or, where no core could ever hold it, FAULTED in the same step, with a message, once every RCB on
the way to the root is translated (R86, R98). -/
def State.makeLeaf (s : State) (r : Region) (a : Word) (k flags : Nat) : State × Bool :=
  let flag (s : State) : State := if flags = 0 then s else s.orRcbFlags k flags
  if allCores.any fun c => s.couldHold (r.rule (s.rcbRule k)) k c then ((flag s).setRcbState k stQueued, true)
  else
    match s.settleBoxAt r a stFaulted with
    | (s, true) => ((flag s).trapBox r a, true)
    | (s, false) => (s, false)

/-- A child of a split: its interval on the axis, its stamp, whether the stamp is a programmer's. -/
structure Kid where
  lo : Nat
  hi : Nat
  stamp : Word
  prog : Bool
  deriving DecidableEq, Repr

/-- The children of a split at a point (R84, R90, R91, R127, R130). -/
def kidsOf (lo hi m : Nat) (st : Word) (prog : Option (Word × Word)) : List Kid :=
  let halves := ((if lo < min m hi then [(lo, min m hi, false)] else []) ++
    (if max m lo < hi then [(max m lo, hi, true)] else []))
  halves.mapIdx fun j h =>
    match prog with
    | some (b, d) => { lo := h.1, hi := h.2.1, stamp := b + BitVec.ofNat 64 j * d, prog := true }
    | none => { lo := h.1, hi := h.2.1, stamp := childStamp st h.2.2, prog := false }

/-- Cost of a split (R97). -/
def State.splitCost (s : State) (e : BitVec 512) (k axis n : Nat) : Nat :=
  128 * n + s.joinBytes e k axis

/-- The arena bytes of child j of n (R97). -/
def kidArena (rest n j : Nat) : Nat :=
  let each := rest / n / 128 * 128
  if j = 0 then each + (rest - each * n) else each

/-- A list with one entry replaced. -/
def setNth (l : List Nat) (i v : Nat) : List Nat := l.mapIdx fun j x => if j = i then v else x

/-- The lower or upper bounds of a box. -/
def State.bounds (s : State) (k : Nat) (hi : Bool) : List Nat :=
  (List.range 6).map fun i => if hi then s.rcbHi k i else s.rcbLo k i

/-- The RCB of a child. -/
def State.kidInit (s : State) (r : Region) (a : Word) (k axis n : Nat) (kids : List Kid) (rule rest : Nat)
    (deferred : Bool) (j : Nat) (c : Kid) : RcbInit :=
  let e := r.rule rule
  { lo := setNth (s.bounds k false) axis c.lo
    hi := setNth (s.bounds k true) axis c.hi
    rule := rule
    axes := n
    depth := s.rcbDepth k + 1
    prio := if rulePriov e = 31 then s.rcbPrio k else rulePriov e
    modes := modesOf e n
    flags := (if c.prog then 2 else 0) + (if deferred then 4 else 0)
    stamp := c.stamp
    parent := a
    deadline := s.rcbDeadline k
    arena := kidArena rest kids.length j
    domain := r.domain
    region := r.id
    child := j }

/-- A leaf of a rule could run on a core, but for its size (R88). -/
def State.serves (s : State) (e : BitVec 512) (c : Nat) : Bool :=
  s.reachable c && s.chanClass c (ruleLch e) .leaf && s.unitsOk e c

/-- The cluster that a STAMPED split of a box confines its descendants to (R88): the one that holds the box, or, for a
box above cluster level, that of a core, where it can serve the children's leaves, else the first that can
(DESIGN CHOICE, log 46). -/
def State.pin (s : State) (e : BitVec 512) (b : BoxNote) (core : Nat) : Nat :=
  match b.holder with
  | .cluster c => c
  | h =>
    if allCores.any fun c => clusterOf c = clusterOf core && s.serves e c then clusterOf core
    else match allCores.find? fun c => h.has c && s.serves e c with
      | some c => clusterOf c
      | none => clusterOf core

/-- What the unfolders keep of a child; `cl` is the cluster of a STAMPED split. -/
def BoxNote.kid (b : BoxNote) (stampedAxis : Bool) (cl : Nat) (addr : Word) : BoxNote :=
  if stampedAxis then
    { addr := addr, parent := b.addr, holder := .cluster cl, pinned := some (b.pinned.getD cl),
      stamped := some (b.stamped.getD b.addr), axis := none, ended := false }
  else
    { addr := addr, parent := b.addr, holder := b.holder, pinned := b.pinned, stamped := b.stamped, axis := none,
      ended := false }

/-- Split a box: children PENDING, join slots zero and full, the parent SPLIT (R84, R92, R97, R98). The
children's RCBs stand first in the arena, then the join slots (DEDUCED, log 22). -/
def State.makeSplit (s : State) (r : Region) (b : BoxNote) (k axis m : Nat) (rule : Option Nat)
    (prog : Option (Word × Word)) (deferred : Bool) (core : Nat) : State × Bool :=
  let e := r.rule (s.rcbRule k)
  let kids := kidsOf (s.rcbLo k axis) (s.rcbHi k axis) m (s.rcbStamp k) prog
  let n := kids.length
  let js := s.joinBytes e k axis
  let cost := s.splitCost e k axis n
  let rest := s.rcbArena k - cost
  let addrs := (List.range n).map fun j => r.arenaNext + BitVec.ofNat 64 (128 * j)
  let jbase := r.arenaNext + BitVec.ofNat 64 (128 * n)
  let lines := (List.range (js / 64)).map fun i => jbase + BitVec.ofNat 64 (64 * i)
  match s.agentKeys b.holder r true (addrs ++ lines) with
  | (s, none) => (s, false)
  | (s, some ks) =>
    let ck := rule.getD (s.rcbRule k)
    let s := ((addrs.zip ks).zip kids).foldl (fun s x =>
      s.putRcb x.1.2 (s.kidInit r b.addr k axis (s.rcbAxes k) kids ck rest deferred
        ((addrs.findIdx? fun a => a = x.1.1).getD 0) x.2)) s
    let s := (ks.drop n).foldl (fun s lk => s.put lk 64 0) s
    let s := s.put (k + 0x48) 4 n
    let s := s.put (k + 0x4C) 4 n
    let s := s.put (k + 0x58) 8 rest
    let s := if js = 0 then s else s.put (k + 0x78) 8 jbase.toNat
    let s := s.setRcbState k stSplit
    match s.region? r.id with
    | none => (s, true)
    | some r =>
      let stampedAxis := s.rcbMode k axis = 3
      let cl := s.pin (r.rule ck) b core
      let r := r.setNote { b with axis := some axis }
      (s.setRegion { r with
        arenaNext := r.arenaNext + BitVec.ofNat 64 cost,
        boxes := r.boxes ++ addrs.map (b.kid stampedAxis cl) }, true)

/-- The splittable axis with the largest extent in grains, the lowest among equals (R86). -/
def State.widest (s : State) (e : BitVec 512) (k : Nat) : Option Nat :=
  (List.range (s.rcbAxes k)).foldl (fun best i =>
    if s.grains e k i < 2 then best
    else match best with
      | none => some i
      | some j => if s.extent k j * ruleGrain e i < s.extent k i * ruleGrain e j then some i else some j) none

/-- DEFER (R86, R91). The fit comes first: a box that fits is a plain leaf, without flag SHORT, though its stamp be one of
those on which R91 makes DEFER's box a leaf with SHORT (DESIGN CHOICE, log 46). -/
def State.applyDefer (s : State) (r : Region) (b : BoxNote) (k core : Nat) : State × Bool :=
  let e := r.rule (s.rcbRule k)
  if s.fitsSomewhere e b k then s.makeLeaf r b.addr k 0
  else
    match s.widest e k with
    | none => s.makeLeaf r b.addr k 1
    | some a =>
      if stampFixed (s.rcbStamp k) then s.makeLeaf r b.addr k 1
      else if s.rcbDepth k = 48 then s.makeLeaf r b.addr k 0
      else if s.rcbArena k < s.splitCost e k a 2 then s.makeLeaf r b.addr k 0x20
      else s.makeSplit r b k a (s.midpoint e k a) none none true core

/-- A decision takes effect on a box (R84, R125 to R128). -/
def State.applyDecision (s : State) (r : Region) (b : BoxNote) (k core : Nat)
    (prog : Option (Word × Word)) : Decision → State × Bool
  | .prune => s.settleBoxAt r b.addr stPruned
  | .leaf => s.makeLeaf r b.addr k 0
  | .defer => s.applyDefer r b k core
  | .split axis pt rule =>
    let e := r.rule (s.rcbRule k)
    let a := axis.toNat
    if stampFixed (s.rcbStamp k) || s.grains e k a < 2 then s.makeLeaf r b.addr k 1
    else
      let m := match pt with
        | some w => w.toNat
        | none => s.midpoint e k a
      s.makeSplit r b k a m (rule.map BitVec.toNat) prog false core

/-! ## What a routine receives (R100) -/

/-- A box in the g0 layout of R100. -/
def State.boxLanes (s : State) (k : Nat) : Reg :=
  ofLanes 32 ((s.bounds k false) ++ [s.rcbAxes k, s.rcbDepth k] ++ (s.bounds k true) ++
    [(s.rcbStamp k).toNat % 2 ^ 32, (s.rcbStamp k).toNat / 2 ^ 32])

/-- A format word: the rule's, or for 0xFF the launch record's. -/
def fmtFrom (rule launch : BitVec 8) : Word := (if rule = 0xFF then launch else rule).zeroExtend 64

/-- A dispatched routine of a box (R100). -/
def State.routine (s : State) (r : Region) (b : BoxNote) (k : Nat) (cls : Cls) (entry : Word)
    (pool : Option (Nat × Nat)) (tiles : Nat × Nat) : Dispatch :=
  let e := r.rule (s.rcbRule k)
  let idx := if cls = .join then s.rcbTotal k else s.rcbChild k
  { cls := cls
    region := r.id
    domain := r.domain
    rcb := b.addr
    parent := s.rcbParent k
    prio := s.rcbPrio k
    entry := entry
    code := r.code
    g0 := s.boxLanes k
    g1 := ofWords [b.addr, r.ruleTab + ruleArg e, BitVec.ofNat 64 idx, BitVec.ofNat 64 r.id, r.record, 0, 0, 0]
    pool := pool
    tiles := tiles
    fmta := fmtFrom (ruleFmta e) r.fmta
    fmtb := fmtFrom (ruleFmtb e) r.fmtb
    fmtc := fmtFrom (ruleFmtc e) r.fmtc
    scla := if ruleScla e = 0 then r.scla else r.ruleTab + ruleScla e
    sclb := if ruleSclb e = 0 then r.sclb else r.ruleTab + ruleSclb e
    deadline := s.rcbDeadline k
    stamp := s.rcbStamp k
    segs := r.segs
    stamped := if cls = .leaf then b.stamped else none
    xs := false }

/-! ## The launch queue (R102, R103) -/

/-- A region's boxes may be evaluated and dispatched. -/
def Region.open' (r : Region) : Bool := r.hold = .free && !r.spent

/-- What may be dispatched of a box now. -/
inductive Ready where
  | evaluate | leaf | join
  deriving DecidableEq, Repr

/-- A deadline has passed (R105). -/
def State.passed (s : State) (d : Word) : Bool := d != BitVec.allOnes 64 && decide (d.toNat ≤ s.cyc)

/-- A thread, a context in memory or a routine of a box is there, of a class. -/
def State.runningFor (s : State) (r : Region) (a : Word) (cls : Cls) : Bool :=
  ((s.threads.map (·.2) ++ s.spilled.map (·.keep)).any fun t => t.regionId = r.id && t.rcb = a && t.cls = cls) ||
    (s.mesh ++ s.cores.flatMap fun c => c.2.inbuf).any fun m =>
      match m.body with
      | .routine d => d.region = r.id && d.rcb = a && d.cls = cls
      | _ => false

/-! ### Evaluation (R83, R87, R88) -/

/-- A core that may run a rule's routine; a rule without one needs none (R83). -/
def State.rules (s : State) (e : BitVec 512) (c : Nat) : Bool :=
  !ruleRpres e || (s.reachable c && s.chanClass c (ruleRch e) .rule)

/-- The cores that a fan-out of a box looks to: those that the box fits now, where there are some; else those with its
rule's units and leaf channel; else any (R88, DESIGN CHOICE, log 46). -/
def State.fanCores (s : State) (e : BitVec 512) (b : BoxNote) (k : Nat) : List Nat :=
  let under := allCores.filter b.holder.has
  let fit := if s.maxgOk e k then under.filter fun c => s.hasRoom e k c else []
  if !fit.isEmpty then fit
  else
    let able := under.filter fun c => s.serves e c
    if !able.isEmpty then able else under

/-- The unfolder that evaluates a box, where core `c` runs its routine: the root's is the device's, a cluster keeps its
boxes, and every other box passes down one unfolder. The routine's core lies in the cluster that holds the box, or
elsewhere where no core there will do (R83, R87). -/
def State.evalHolder (s : State) (e : BitVec 512) (b : BoxNote) (k c : Nat) : Option Holder :=
  if !s.rules e c then none
  else if b.parent = 0 then some b.holder
  else
    match b.holder with
    | .cluster q =>
      if clusterOf c = q || !(allCores.any fun x => clusterOf x = q && s.rules e x) then some b.holder else none
    | h =>
      let l := s.fanCores e b k
      match l.find? fun x => (h.below x).has c with
      | some x => some (h.below x)
      | none => (l.find? fun x => !(allCores.any fun y => (h.below x).has y && s.rules e y)).map h.below

/-- The addresses of a box's ancestors, from its parent up. -/
def Region.lineage (r : Region) : Nat → Word → List Word
  | 0, _ => []
  | fuel + 1, a =>
    if a = 0 then []
    else a :: (match r.note a with
      | some b => r.lineage fuel b.parent
      | none => [])

/-- A state that a box has in its RCB. -/
def State.boxState (s : State) (r : Region) (b : BoxNote) : Option Nat := (s.peek r.domain b.addr).map s.rcbState

/-- A cluster unfolder evaluates its boxes depth first: what a box's siblings have become comes before the box
(R87). -/
def State.depthFirst (s : State) (r : Region) (b : BoxNote) : Bool :=
  match b.holder with
  | .cluster _ => r.boxes.all fun y =>
      !(!y.ended && y.holder = b.holder && y.parent != b.parent && s.boxState r y = some stPending &&
        (r.lineage 50 y.parent).contains b.parent)
  | _ => true

/-- The unfolder is in the middle of its own DEFER of a box: a page that was missing held it up (R83, R96). -/
def State.midDefer (s : State) (e : BitVec 512) (k : Nat) : Bool := s.rcbState k = stEval && !ruleRpres e

/-! ### Leaves and joins -/

/-- A stamped leaf may be dispatched to a core: in ascending stamp order, behind no older box of its split that may
still lead to a leaf, and at most 8 in flight in the cluster (R93). -/
def State.stampTurn (s : State) (r : Region) (b : BoxNote) (k c : Nat) : Bool :=
  match b.stamped with
  | none => true
  | some anc =>
    let cl := clusterOf c
    let me : StampKey := ((s.rcbStamp k).toNat, b.addr.toNat)
    decide (s.stampedInFlight cl < 8) &&
      r.boxes.all fun x => x.ended || x.addr = b.addr || x.stamped != some anc ||
        (match s.peek r.domain x.addr with
         | some kx =>
           !(s.rcbState kx = stPending || s.rcbState kx = stEval || s.rcbState kx = stQueued) ||
             !StampKey.before ((s.rcbStamp kx).toNat, x.addr.toNat) me
         | none => x.axis.isSome || s.runningFor r x.addr .leaf)

/-- A leaf may be dispatched to a core now. -/
def State.leafCore (s : State) (r : Region) (b : BoxNote) (k c : Nat) : Bool :=
  b.allows c && s.stampTurn r b k c &&
    (s.passed (s.rcbDeadline k) || s.hasRoom (r.rule (s.rcbRule k)) k c)

/-- A join routine may be dispatched to a core. -/
def State.joinCore (s : State) (e : BitVec 512) (c : Nat) : Bool :=
  s.reachable c && s.chanClass c (ruleJch e) .join

/-! ### What may be dispatched -/

/-- What may be dispatched of a box to a core now. -/
def State.readyOn (s : State) (r : Region) (b : BoxNote) (c : Nat) : Option Ready :=
  match s.peek r.domain b.addr with
  | none => none
  | some k =>
    let e := r.rule (s.rcbRule k)
    if s.rcbState k = stPending then
      if s.depthFirst r b && (s.passed (s.rcbDeadline k) || (s.evalHolder e b k c).isSome) then some .evaluate
      else none
    else if s.midDefer e k then some .evaluate
    else if s.rcbState k = stQueued then
      if !(allCores.any fun x => s.couldHold e k x) || s.leafCore r b k c then some .leaf else none
    else if s.rcbState k = stJoining then
      if !s.runningFor r b.addr .join && s.joinCore e c then some .join else none
    else none

/-- A box's state leaves something to dispatch of it. -/
def State.awaits (s : State) (r : Region) (b : BoxNote) : Bool :=
  match s.peek r.domain b.addr with
  | none => false
  | some k =>
    let st := s.rcbState k
    st = stPending || s.midDefer (r.rule (s.rcbRule k)) k || st = stQueued ||
      (st = stJoining && !s.runningFor r b.addr .join)

/-- A box can be dispatched somewhere now: evaluation needs no more than a core for the rule's routine. -/
def State.dispatchable (s : State) (r : Region) (b : BoxNote) : Bool :=
  match s.peek r.domain b.addr with
  | none => false
  | some k =>
    if s.rcbState k = stPending then
      s.depthFirst r b && (s.passed (s.rcbDeadline k) || allCores.any fun c => s.rules (r.rule (s.rcbRule k)) c)
    else s.awaits r b && allCores.any fun c => (s.readyOn r b c).isSome

/-- The level of a box: that of its region for the root's evaluation, else its RCB's priority (R102, R133). -/
def State.levelOf (s : State) (r : Region) (b : BoxNote) : Nat :=
  match s.peek r.domain b.addr with
  | some k => if b.parent = 0 && (s.rcbState k = stPending || s.rcbState k = stEval) then r.prio else s.rcbPrio k
  | none => 0

/-- An unfolder needs a box's RCB, and its page is missing: the box is neither terminal nor running, and is not
waiting for children (R96, R282). -/
def State.lacksPage (s : State) (r : Region) (b : BoxNote) : Bool :=
  !b.ended && (s.peek r.domain b.addr).isNone &&
    (b.axis.isNone || r.boxes.all fun x => x.parent != b.addr || x.ended) &&
    !(s.runningFor r b.addr .leaf || s.runningFor r b.addr .rule || s.runningFor r b.addr .join)

end Sys2Proof.Machine
end

