-- ==== Sys2Proof/Machine/Rule.lean ====
section
/-! DEFINITION. The meanings of the RULE group's decisions, JDONE and STAMP, and of the reads of a box and its
budgets (R123 to R132). -/

namespace Sys2Proof.Machine

/-- A thread-class condition (R124). -/
def classX (s : State) (t : Thread) (l : List Cls) : X Unit := need (l.contains t.cls) (ill s)

/-- The region of a thread that serves a box. -/
def regionX (s : State) (t : Thread) : X Region :=
  match s.region? t.regionId with
  | some r => .ok r
  | none => .error (ill s)

/-- The key of an RCB or of a word of the tree in a domain's space, as an access of the thread: a missing
page parks it as kind 0 (DEDUCED, log 22), and a collapse or a TLBINV under way holds a read (R281, R288). -/
def treeKeyIn (s : State) (t : Thread) (d : BitVec 32) (a : Word) (wr : Bool) : X (State × Nat) :=
  match s.route (clusterOf t.id.core.toNat) d a wr false with
  | (s, .bank k) => .ok (s, k)
  | (s, .collapse k) => if wr then .ok (s.collapseNow k d a, k) else parkInX s t (.collapse k)
  | (s, .peer k) => .ok (s, k)
  | (s, .inval by') => parkInX s t (.inval by')
  | (s, .miss m) =>
    .error (.parkIn (s.pageRequest (pageG0 a (some t.id) 0 wr m t.regionId d))
      { t with state := .parked, wait := .page })

/-- The same in the thread's own space. -/
def treeKeyX (s : State) (t : Thread) (a : Word) (wr : Bool) : X (State × Nat) :=
  treeKeyIn s t t.dom a wr

/-- The key of a box's RCB for a read of n of its bytes from an offset on: R56's rule holds for its words, and a poisoned
or withdrawn word of them traps as a memory word does (R162, R292). -/
def rcbReadX (s : State) (t : Thread) (d : BitVec 32) (a : Word) (off n : Nat) : X (State × Nat) := do
  if d = t.dom then sameWordX s t (a + BitVec.ofNat 64 off) n
  let (s, k) ← treeKeyIn s t d a false
  sameKeyX s t (k + off) n
  match s.badAt (k + off) n with
  | some c => .error (.trap (answerTrap c (a + BitVec.ofNat 64 off) 0 false))
  | none => return (s, k)

/-- The thread closes its open batch and parks until its decision takes effect (R125). -/
def decideX (s : State) (t : Thread) (d : Decision) : X (State × Thread) := endPark s t (.decision d)

/-- The box of a SPLIT, whose axis it has: ILL comes before the WINDOW of the split point's register, and WINDOW before
what the read of the box meets (R23). -/
def splitBoxX (s : State) (t : Thread) (axis : Nat) (pt : Option RegNum) : X (State × Nat) :=
  match windowX t pt.toList, rcbReadX s t t.dom t.rcb 0 128 with
  | .error w, .error _ => .error w
  | .error w, .ok (s, k) => if axis < s.rcbAxes k then .error w else .error (ill s)
  | .ok _, .error e => .error e
  | .ok _, .ok (s, k) => if axis < s.rcbAxes k then .ok (s, k) else .error (ill s)

/-- What a SPLIT tests once its fields are valid, in R126's order: a box that becomes a leaf, the depth, and the cost of
the children at the split point, whose register it reads only then. The answer is that point. -/
def splitPointX (s : State) (t : Thread) (e : BitVec 512) (k a : Nat) (pt : Option RegNum) : X (Option Word) :=
  if stampFixed (s.rcbStamp k) || decide (s.grains e k a < 2) then .ok none
  else do
    need (s.rcbDepth k != 48) (.trap (budgetTrap t))
    let v ← readsX t pt.toList
    let m := (v.head?.map fun x => (scalar x).toNat).getD (s.midpoint e k a)
    let n := (kidsOf (s.rcbLo k a) (s.rcbHi k a) m (s.rcbStamp k) none).length
    need (s.splitCost e k a n ≤ s.rcbArena k) (.trap (budgetTrap t))
    return v.head?.map scalar

/-- SPLIT (R126, R127). -/
def execSplit (axis : BitVec 3) (pt : Option RegNum) (rule : Option (BitVec 4)) (s : State) :
    Host.Outcome State Fault Refusal :=
  runT s fun s t => do
    classX s t [.rule]
    let r ← regionX s t
    need (rule.all fun i => decide (i.toNat < r.rules.length)) (ill s)
    let (s, k) ← splitBoxX s t axis.toNat pt
    let p ← splitPointX s t (r.rule (s.rcbRule k)) k axis.toNat pt
    decideX s t (.split axis p rule)

/-- PRUNE (R128). -/
def execPrune (s : State) : Host.Outcome State Fault Refusal :=
  runT s fun s t => do
    classX s t [.rule]
    decideX s t .prune

/-- LEAF (R128). -/
def execLeaf (s : State) : Host.Outcome State Fault Refusal :=
  runT s fun s t => do
    classX s t [.rule]
    decideX s t .leaf

/-- DEFER (R128). -/
def execDefer (s : State) : Host.Outcome State Fault Refusal :=
  runT s fun s t => do
    classX s t [.rule]
    decideX s t .defer

/-- The join slot that a box owns in its parent; none for the root and for a parent without join slots
(R92, R129). -/
def joinSlotX (s : State) (t : Thread) (r : Region) : X (State × Option Word) := do
  let (s, k) ← rcbReadX s t t.dom t.rcb 0 128
  if s.rcbParent k = 0 then return (s, none)
  else
    let (s, p) ← rcbReadX s t t.dom (s.rcbParent k) 0 128
    if s.rcbJoin p = 0 then return (s, none)
    else
      return (s, some (s.rcbJoin p +
        BitVec.ofNat 64 (s.rcbChild k * ruleJoinBytes (r.rule (s.rcbRule p)))))

/-- JDONE's store: an ordinary store of 64 bytes, which leaves its words full (R129). -/
def joinStoreX (s : State) (t : Thread) (a : Word) (v : Reg) : X State := do
  sameWordX s t a 64
  let (s, k) ← treeKeyX s t a true
  sameKeyX s t k 64
  match bankStep s k (.store 64 v) with
  | (s, .ok _) => return s
  | (_, .wait) => return s
  | (_, .bad c) => .error (.trap (answerTrap c a 0 true))

/-- JDONE: its store is performed before the drain, and a trap that reaches the parked thread does not take it back
(R57, R129, DESIGN CHOICE, log 22). -/
def execJdone (src : Option RegNum) (s : State) : Host.Outcome State Fault Refusal :=
  runT s fun s t => do
    classX s t [.join]
    windowX t src.toList
    let v ← readsX t src.toList
    let r ← regionX s t
    match v with
    | [] => endPark s t .endDrain
    | x :: _ =>
      match ← joinSlotX s t r with
      | (s, none) => endPark s t .endDrain
      | (s, some a) => do
        let _ ← closeX s t
        let s ← joinStoreX s t a x
        endPark s t .endDrain

/-- STAMP (R130). -/
def execStamp (a b : RegNum) (s : State) : Host.Outcome State Fault Refusal :=
  runT s fun s t => do
    classX s t [.rule]
    windowX t [a, b]
    let x ← readX t a
    let y ← readX t b
    return (s, { t with stampArg := some (scalar x, scalar y) }.adv)

/-- The key of the box some levels above one (R131). -/
def climbX (s : State) (t : Thread) : Nat → Word → X (State × Nat)
  | 0, a => rcbReadX s t t.dom a 0 64
  | up + 1, a => do
    let (s, k) ← rcbReadX s t t.dom a 0x40 8
    climbX s t up (s.rcbParent k)

/-- BOXRD (R131). -/
def execBoxrd (d : RegNum) (up : BitVec 6) (s : State) : Host.Outcome State Fault Refusal :=
  runT s fun s t => do
    classX s t [.rule, .leaf, .join]
    windowX t [d]
    destX t d
    let (s, k) ← rcbReadX s t t.dom t.rcb 0x30 8
    if s.rcbDepth k < up.toNat then done s t d 0
    else
      let (s, j) ← climbX s t up.toNat t.rcb
      done s t d (s.boxLanes j)

/-- The bytes of the own RCB that BUDRD reads for a selector: none for the region's own count (R132). -/
def budgetField (sel : Nat) : Nat × Nat :=
  if sel = 0 then (0, 0) else if sel = 1 then (0x58, 8) else if sel = 4 then (0x30, 8) else (0x50, 8)

/-- The value of BUDRD for a selector below 5 (R132). -/
def State.budget (s : State) (r : Region) (k sel lag : Nat) : Word :=
  let dl := s.rcbDeadline k
  if sel = 0 then
    if r.budget = BitVec.allOnes 64 then r.budget else BitVec.ofNat 64 (r.budget.toNat - (r.count - lag))
  else if sel = 1 then BitVec.ofNat 64 (s.rcbArena k)
  else if sel = 2 then dl
  else if sel = 3 then
    if dl = BitVec.allOnes 64 then dl else BitVec.ofNat 64 (dl.toNat - s.cyc)
  else BitVec.ofNat 64 (48 - s.rcbDepth k)

/-- How many counted instructions the count that BUDRD reads lacks: a free number of those that other threads have
executed in the last 64 cycles (R132, DESIGN CHOICE, log 40). -/
def State.lag (s : State) (t : Thread) (r : Region) : Nat × State :=
  let (v, s1) := s.unknown
  (v.toNat % ((r.recent.filter fun p => p.2 != t.id && decide (s.cyc < p.1 + 64)).length + 1), s1)

/-- BUDRD (R132). -/
def execBudrd (d : RegNum) (sel : BitVec 3) (s : State) : Host.Outcome State Fault Refusal :=
  runT s fun s t => do
    classX s t [.rule, .leaf, .join]
    need (sel.toNat < 5) (ill s)
    windowX t [d]
    destX t d
    let r ← regionX s t
    let (off, n) := budgetField sel.toNat
    let (s, k) ← if n = 0 then .ok (s, 0) else rcbReadX s t t.dom t.rcb off n
    let (lag, s) := if sel = 0 then s.lag t r else (0, s)
    done s t d (ofScalar (s.budget r k sel.toNat lag))

end Sys2Proof.Machine
end

