-- ==== Sys2Proof/Machine/Launch.lean ====
section
/-! DEFINITION. LAUNCH and RGNQ (R82, R101, R133, R134). -/

namespace Sys2Proof.Machine

/-! ## Reading the record and the rules -/

/-- A 64-byte line as LAUNCH reads it (R133): the address check of R11 is made (R150), a page fault parks the thread, and
a bad word traps as for an ordinary load (log 42). -/
def lineX (s : State) (t : Thread) (g : SegReg) (a : Word) : X (State × Reg) :=
  if s.dvaOk a 64 then ownReadX s t g (segP (t.seg g)) (a - segBase (t.seg g)) a 64
  else accTrap 0x04 (a - segBase (t.seg g)) g false 0

/-- n lines from an address on, as one number. -/
def linesX (s : State) (t : Thread) (g : SegReg) (a : Word) : Nat → X (State × List Reg)
  | 0 => .ok (s, [])
  | n + 1 => do
    let (s, v) ← lineX s t g a
    let (s, l) ← linesX s t g (a + 64) n
    return (s, v :: l)

/-- A launch record as one number. -/
structure LaunchRec where
  dva : Word
  bits : Nat
  deriving DecidableEq, Repr

/-- The n-byte field at an offset. -/
def LaunchRec.at' (r : LaunchRec) (o n : Nat) : Nat := r.bits / 256 ^ o % 256 ^ n

/-- An 8-byte field. -/
def LaunchRec.word (r : LaunchRec) (o : Nat) : Word := BitVec.ofNat 64 (r.at' o 8)

/-- Rule count. -/
def LaunchRec.count (r : LaunchRec) : Nat := r.at' 8 1
/-- Axis count. -/
def LaunchRec.axes (r : LaunchRec) : Nat := r.at' 0x0A 1
/-- Priority. -/
def LaunchRec.prio (r : LaunchRec) : Nat := r.at' 0x0B 1
/-- Root lo. -/
def LaunchRec.lo (r : LaunchRec) (i : Nat) : Nat := r.at' (0x10 + 4 * i) 4
/-- Root hi. -/
def LaunchRec.hi (r : LaunchRec) (i : Nat) : Nat := r.at' (0x28 + 4 * i) 4
/-- Fault domain. -/
def LaunchRec.domain (r : LaunchRec) : BitVec 32 := BitVec.ofNat 32 (r.at' 0x40 4)
/-- seg2 to seg7. -/
def LaunchRec.segs (r : LaunchRec) : List (BitVec 128) :=
  (List.range 6).map fun i => BitVec.ofNat 128 (r.at' (0xA0 + 16 * i) 16)

/-! ## The checks (R82, R133) -/

/-- A segment of the launcher that covers n bytes with some rights. -/
def coverSeg (t : Thread) (a n : Nat) (rights : BitVec 6) : Option SegReg :=
  ((List.range 8).map fun i => BitVec.ofNat 3 i).find? fun g =>
    let d := t.seg g
    decide ((segBase d).toNat ≤ a) && decide (a + n ≤ (segBase d).toNat + segLimit d) &&
      rights &&& ~~~(segRights d) = 0

/-- A descriptor lies within a segment of the launcher (R12); the null descriptor gives nothing. -/
def derives (t : Thread) (d : BitVec 128) : Bool :=
  d = 0 || (segValid d && (coverSeg t (segBase d).toNat (segLimit d) (segRights d)).isSome)

/-- A channel has a class on a present core whose %cap holds every bit of UNITS. -/
def State.someCore (s : State) (e : BitVec 512) (ch : BitVec 5) (cls : Cls) : Bool :=
  allCores.any fun c => s.reachable c && s.chanClass c ch cls && s.unitsOk e c

/-- A rule's format word: 0xFF, or one that its register accepts (R32, R82). -/
def ruleFmtOk (w : BitVec 8) (ok : Word → Bool) : Bool := w = 0xFF || ok (w.zeroExtend 64)

/-- A rule table entry is valid (R82). -/
def State.ruleOk (s : State) (e : BitVec 512) (axes : Nat) : Bool :=
  ((List.range axes).all fun i => ruleGrain e i != 0) && decide (ruleTiles e ≤ 64) &&
  (decide (rulePriov e ≤ 23) || rulePriov e == 31) &&
  ruleFmtOk (ruleFmta e) fmtOk && ruleFmtOk (ruleFmtb e) fmtOk && ruleFmtOk (ruleFmtc e) fmtcOk &&
  e.extractLsb' 510 2 = 0 && s.someCore e (ruleLch e) .leaf &&
  (!ruleRpres e || s.someCore e (ruleRch e) .rule) && (!ruleJpres e || s.someCore e (ruleJch e) .join)

/-- The checks before the rule entries are read: codes 1 to 4, and the rule-table part of 7. No code refuses the format
words at 0x70 to 0x72: any byte is taken (R101, DESIGN CHOICE, log 35). -/
def LaunchRec.early (r : LaunchRec) (t : Thread) : Option Nat :=
  if !(decide (1 ≤ r.count) && decide (r.count ≤ 16) && decide (r.at' 9 1 < r.count)) then some 1
  else if !(decide (1 ≤ r.axes) && decide (r.axes ≤ 6) && (List.range r.axes).all fun i =>
      decide (r.lo i < r.hi i) && decide (r.hi i ≤ 2 ^ 31)) then some 2
  else if 23 < r.prio || (t.level == 0 && decide (t.prio < r.prio)) then some 3
  else if r.at' 0x0C 4 / 2 != 0 || r.at' 0x44 4 != 0 || r.at' 0x73 5 != 0 || r.at' 0x88 24 != 0 then some 4
  else if (r.word 0).extractLsb' 0 6 != 0 ||
      (coverSeg t (r.word 0).toNat (64 * r.count) 0b000001).isNone then some 7
  else none

/-- Codes 5 to 7: the answer of LAUNCH, with the failing rule. -/
def LaunchRec.middle (r : LaunchRec) (s : State) (t : Thread) (rules : List Reg) : Option Nat :=
  match rules.findIdx? fun e => !s.ruleOk e r.axes with
  | some j => some (5 + 256 * j)
  | none =>
    let scale (o : Nat) : Bool := r.at' o 8 = 0 || (coverSeg t (r.at' o 8) 1 0b000001).isSome
    if !(r.segs.all (derives t)) then some 6
    else if (coverSeg t (r.at' 0x60 8) 8 0b001010).isNone ||
        (coverSeg t (r.at' 0x68 8) (r.at' 0x50 8) 0b000010).isNone || !scale 0x78 || !scale 0x80 then some 7
    else none

/-- Code 8: the arena's size and place, by the key of its base; codes 9 and 10. -/
def LaunchRec.late (r : LaunchRec) (t : Thread) (key : Option Nat) : Option Nat :=
  match key with
  | none => some 8
  | some k =>
    if (poolOf k).isSome || decide (4 ≤ paSpace k) then some 8
    else if r.at' 0x60 8 % 8 != 0 then some 9
    else if r.domain != t.dom && t.level = 0 then some 10
    else none

/-- The key of the arena's base, where its size and alignment pass (R133). -/
def arenaX (s : State) (t : Thread) (r : LaunchRec) : X (State × Option Nat) :=
  if r.at' 0x50 8 < 128 || r.at' 0x68 8 % 128 != 0 then .ok (s, none)
  else do
    let (s, k) ← treeKeyX s t (r.word 0x68) false
    return (s, some k)

/-! ## Creating the region -/

/-- The deadline of a region: under DEADREL it counts from the launch. A sum of 2^64 or more is taken as the latest
deadline there is, all ones less one, for all ones is no deadline (DESIGN CHOICE, log 35). -/
def LaunchRec.deadline (r : LaunchRec) (cyc : Nat) : Word :=
  let d := r.word 0x58
  if r.at' 0x0C 4 % 2 = 1 && d != BitVec.allOnes 64 then BitVec.ofNat 64 (min (cyc + d.toNat) (2 ^ 64 - 2))
  else d

/-- The root's RCB (R90, R96, R97). -/
def LaunchRec.root (r : LaunchRec) (s : State) (rules : List Reg) (id : Nat) : RcbInit :=
  let e := rules.getD (r.at' 9 1) 0
  let p := if rulePriov e = 31 then r.prio else rulePriov e
  { lo := (List.range r.axes).map r.lo, hi := (List.range r.axes).map r.hi, rule := r.at' 9 1, axes := r.axes,
    depth := 0, prio := p, modes := modesOf e r.axes, flags := 0, stamp := 0x8000_0000_0000_0000,
    parent := 0, deadline := r.deadline s.cyc, arena := r.at' 0x50 8 - 128, domain := r.domain,
    region := id, child := 0 }

/-- The region of a record (R101). -/
def LaunchRec.region (r : LaunchRec) (t : Thread) (code : BitVec 128) (rules : List Reg) (id : Nat) :
    Region :=
  let reg : Region :=
    { id := id, domain := r.domain, record := r.dva, ruleTab := r.word 0, rules := rules,
      root := r.word 0x68, prio := r.prio, arenaBase := r.word 0x68, arenaLen := r.word 0x50,
      arenaNext := r.word 0x68 + 128, budget := r.word 0x48, count := 0, recent := [], spent := false, expired := 0,
      faulted := 0, complWord := r.word 0x60, fmta := BitVec.ofNat 8 (r.at' 0x70 1),
      fmtb := BitVec.ofNat 8 (r.at' 0x71 1), fmtc := BitVec.ofNat 8 (r.at' 0x72 1), scla := r.word 0x78,
      sclb := r.word 0x80, code := if r.domain = t.dom then t.seg 0 else code, segs := r.segs,
      boxes := [{ addr := r.word 0x68, parent := 0, holder := .device, pinned := none, stamped := none, axis := none, ended := false }],
      hold := .free, completing := false }
  reg.noteSpent

/-- The first number from n on, modulo 2^32, that is neither 0 nor in use; `fuel` bounds the search. -/
def freeId (used : List Nat) : Nat → Nat → Nat
  | 0, n => n % 2 ^ 32
  | fuel + 1, n =>
    if n % 2 ^ 32 = 0 || used.contains (n % 2 ^ 32) then freeId used fuel (n + 1) else n % 2 ^ 32

/-- The ID of a new region, non-zero and unique among live regions, and otherwise a free value (R96). -/
def State.newRegion (s : State) : Nat × State :=
  let (v, s1) := s.unknown
  (freeId (s.regions.map (·.1)) (s.regions.length + 1) v.toNat, s1)

/-- The region enters the launch queue with its root PENDING (R133). -/
def createX (s : State) (t : Thread) (d : RegNum) (r : LaunchRec) (rules : List Reg) :
    X (State × Thread) := do
  let (s, k) ← treeKeyIn s t r.domain (r.word 0x68) true
  let (id, s) := s.newRegion
  let s := (s.putRcb k (r.root s rules id)).setRegion (r.region t (s.codeOf r.domain) rules id)
  done s t d (ofScalar (BitVec.ofNat 64 id))

/-- A refused record: reason and rule (R133). -/
def refuse (s : State) (t : Thread) (d : RegNum) (code : Nat) : X (State × Thread) :=
  done s t d (ofScalar (0x8000_0000_0000_0000 ||| BitVec.ofNat 64 code))

/-- LAUNCH (R133). -/
def execLaunch (d a : RegNum) (seg : SegReg) (s : State) : Host.Outcome State Fault Refusal :=
  runT s fun s t => do
    windowX t [d, a]
    let x ← readX t a
    destX t d
    let dva ← checkX s t seg (scalar x) 256 64 0b000001 false
    oldestX t
    let (s, l) ← linesX s t seg dva 4
    need (s.regions.length < 16384) (.park .launchLimit)
    let r : LaunchRec := { dva := dva, bits := (l.foldr (fun v acc => v.toNat + 2 ^ 512 * acc) 0) }
    match r.early t with
    | some c => refuse s t d c
    | none => do
      let g := (coverSeg t (r.word 0).toNat (64 * r.count) 0b000001).getD seg
      let (s, rules) ← linesX s t g (r.word 0) r.count
      match r.middle s t rules with
      | some c => refuse s t d c
      | none => do
        let (s, k) ← arenaX s t r
        match r.late t k with
        | some c => refuse s t d c
        | none => createX s t d r rules

/-! ## RGNQ -/

/-- Live threads of a region, those that exist only as contexts in memory among them. -/
def State.liveThreads (s : State) (r : Nat) : Nat :=
  (s.threadsIn r).length + (s.spilled.filter fun c => c.keep.regionId = r).length

/-- The completion of a region waits on stores or operations of its threads, and on the lines that their commit buffers have
posted to a peer (R106, R134, R178). -/
def State.awaitsStores (s : State) (r : Nat) : Bool :=
  (s.accs.any fun a => (a.agent = .thread || a.agent = .buffer) && a.form.writes && !a.answered &&
      ((s.thread? a.t).any fun t => t.regionId = r)) ||
    (s.threadsIn r).any fun t => !(s.opsOf t).isEmpty || !(s.copiesOf t.id).isEmpty

/-- What RGNQ reads of a region, given its root's key where it reads the root's RCB (R134). -/
def State.regionWord (s : State) (r : Region) (k sel : Nat) : Nat :=
  if sel = 0 then r.root.toNat
  else if sel = 1 then s.rcbState k + (if stTerminal (s.rcbState k) && s.awaitsStores r.id then 256 else 0)
  else if sel = 2 then s.rcbPruned k
  else if sel = 3 then r.expired
  else if sel = 4 then r.faulted
  else if sel = 5 then r.count
  else s.liveThreads r.id

/-- RGNQ (R134). -/
def execRgnq (d a : RegNum) (sel : BitVec 3) (s : State) : Host.Outcome State Fault Refusal :=
  runT s fun s t => do
    need (sel != 7) (ill s)
    windowX t [d, a]
    let x ← readX t a
    destX t d
    let id := ((scalar x).extractLsb' 0 32).toNat
    match s.region? (if id = 0 then t.regionId else id) with
    | none => done s t d (ofScalar (BitVec.allOnes 64))
    | some r =>
      if r.domain != t.dom && t.level = 0 then done s t d (ofScalar (BitVec.allOnes 64))
      else
        let (s, k) ← if sel = 1 then rcbReadX s t r.domain r.root 0x30 8
          else if sel = 2 then rcbReadX s t r.domain r.root 0x70 8 else .ok (s, 0)
        done s t d (ofScalar (BitVec.ofNat 64 (s.regionWord r k sel.toNat)))

end Sys2Proof.Machine
end

