-- ==== Sys2Proof/Machine/Msg.lean ====
section
/-! DEFINITION. The MSG group: target words, channel entries, SEND, SENDR, CHSET, CHGET, MIGRATE and
SYSCALL, and the move of a thread to another core (R70, R135 to R140, R303). -/

namespace Sys2Proof.Machine

/-! ## Target words and channel entries -/

/-- The core of a target word (R135). -/
def targetCore (w : Word) : Nat := (w.extractLsb' 0 11).toNat

/-- The channel of a target word. -/
def targetChan (w : Word) : BitVec 5 := w.extractLsb' 16 5

/-- A channel table entry of a core (R70). -/
def State.chan (s : State) (c : Nat) (ch : BitVec 5) : Chan :=
  ((s.core c).chans[ch.toNat]?).getD (Chan.reset .message)

/-- The state with a channel table entry. -/
def State.setChan (s : State) (c : Nat) (ch : BitVec 5) (e : Chan) : State :=
  let k := s.core c
  s.setCore c { k with chans := k.chans.set ch.toNat e }

/-- The code of a class (R70). -/
def Cls.code : Cls → Nat
  | .leaf => 0 | .rule => 1 | .join => 2 | .message => 3 | .trap => 4 | .wake => 5 | .migration => 6

/-- Bits [63:0] of an entry. -/
def Chan.low (e : Chan) : Word :=
  BitVec.ofNat 64 (e.entry.toNat + 2 ^ 32 * e.win + (if e.hold then 2 ^ 36 else 0) +
    (if e.ready then 2 ^ 37 else 0) + (if e.xsd then 2 ^ 38 else 0) + 2 ^ 39 * e.cls.code +
    2 ^ 42 * e.prio + 2 ^ 47 * e.npay)

/-- QCNT: messages for a channel in the inbound buffer. -/
def State.queued (s : State) (c : Nat) (ch : BitVec 5) : Nat :=
  ((s.core c).inbuf.filter fun m => m.chan = ch).length

/-- The whole entry, 128 bits. -/
def State.chanWord (s : State) (c : Nat) (ch : BitVec 5) : BitVec 128 :=
  BitVec.ofNat 64 (s.queued c ch % 2 ^ 16) ++ (s.chan c ch).low

/-- At user level, some channels may not be used: PRIV (R23, R136, R138). It comes before WINDOW and needs
the target word. -/
def userChanX (s : State) (t : Thread) (a : RegNum) (barred : BitVec 5 → Bool) : X Unit :=
  let e := t.entry a
  if a.toNat < t.win && e.pres = .present && !e.poison && t.level = 0 && barred (targetChan (scalar e.val))
  then .error (priv s) else .ok ()

/-! ## SEND and SENDR -/

/-- SEND (R136). Where several statuses hold, the lowest is written (DESIGN CHOICE, log 44). -/
def execSend (d a b : RegNum) (narrow : Bool) (count : BitVec 4) (s : State) :
    Host.Outcome State Fault Refusal :=
  runT s fun s t => do
    need (count.toNat ≤ 8) (ill s)
    userChanX s t a fun ch => ch = 0 || ch = 1 || ch = 3
    windowX t [d, a]
    runX t b count.toNat
    let x ← readX t a
    let l ← readsX t (regRun b count.toNat)
    destX t d
    oldestX t
    let w := scalar x
    let c := targetCore w
    if !s.reachable c then done s t d (ofScalar 1)
    else if (s.chan c (targetChan w)).cls != .message then done s t d (ofScalar 2)
    else if targetChan w = 2 && decide (c < 0x400) then done s t d (ofScalar 3)
    else
      let s1 := s.post (w.extractLsb' 0 11) (targetChan w) (some t.id) t.dom
        (.user l (if narrow then some t.xs else none))
      .error (.parkIn s1 { t with state := .parked, wait := .send s.serial d })

/-- SENDR (R137). -/
def execSendr (a reg : RegNum) (slot : BitVec 6) (prev : Bool) (s : State) :
    Host.Outcome State Fault Refusal :=
  runT s fun s t => do
    windowX t [a]
    let x ← readX t a
    oldestX t
    let c := t.id.core.toNat
    need ((s.link c prev).length < 4 && !s.atollPending (clusterOf c)) (.park (.link prev))
    let k := s.core c
    let dep : Deposit := { slot := slot, reg := reg, val := x }
    let k1 := if prev then { k with prev := k.prev ++ [dep] } else { k with next := k.next ++ [dep] }
    return (s.setCore c k1, t.adv)

/-! ## CHSET and CHGET -/

/-- HOLD and READY as CHSET's bits write them (R138). -/
def Chan.withBits (e : Chan) (bits : BitVec 4) : Chan :=
  let e := if bits.getLsbD 2 then { e with hold := bits.getLsbD 0 } else e
  if bits.getLsbD 3 then { e with ready := bits.getLsbD 1 } else e

/-- CHSET (R76, R138): the target core's acknowledgement comes at once, unless the model's agenda has the change
travel as a message on which the thread parks (DESIGN CHOICE, log 5). -/
def execChset (d a : RegNum) (bits : BitVec 4) (s : State) : Host.Outcome State Fault Refusal :=
  runT s fun s t => do
    userChanX s t a fun ch => decide (ch.toNat < 4)
    windowX t [d, a]
    let x ← readX t a
    destX t d
    let w := scalar x
    let c := targetCore w
    let ch := targetChan w
    if !s.reachable c then done s t d (ofScalar 1)
    else if s.slow then
      .error (.parkIn (s.post (w.extractLsb' 0 11) ch (some t.id) t.dom (.chset (bits.zeroExtend 64)))
        { t with state := .parked, wait := .chset s.serial d })
    else done (s.setChan c ch ((s.chan c ch).withBits bits)) t d (ofScalar 0)

/-- CHGET (R138). -/
def execChget (d a : RegNum) (s : State) : Host.Outcome State Fault Refusal :=
  runT s fun s t => do
    windowX t [d, a]
    let x ← readX t a
    destX t d
    let w := scalar x
    let v : BitVec 128 :=
      if s.reachable (targetCore w) then s.chanWord (targetCore w) (targetChan w) else BitVec.allOnes 128
    done s t d (v.zeroExtend 512)

/-! ## MIGRATE -/

/-- MIGRATE (R139): tests, the drain, and the departure of the context. Cases 3 and 4 are tested, as case 2 is, before
the drain, and where several hold, 2 comes before 4 and 4 before 3 (DESIGN CHOICE, log 44). -/
def execMigrate (d a b : RegNum) (s : State) : Host.Outcome State Fault Refusal :=
  runT s fun s t => do
    windowX t [d, a, b]
    let x ← readX t a
    let y ← readX t b
    destX t d
    oldestX t
    let w := scalar x
    let c := targetCore w
    let stays (v : Word) : X (State × Thread) := done s { t with reopen := 0 } d (ofScalar v)
    if segLimit (t.seg 1) != 0 || t.tiles.2 != 0 then stays 2
    else if c = t.id.core.toNat then stays 4
    else if !s.reachable c || !(s.chan c 3).ready then stays 3
    else do
      let t ← closeX s t
      if !s.migrateClear t then .error (.parkIn s { t with state := .parked, wait := .migrate })
      else
        let t1 := { t with state := .migrating, wait := .none }
        .error (.parkIn (s.post (w.extractLsb' 0 11) 3 (some t.id) t.dom (.context t1 (some d) (scalar y))) t1)

/-- A trap message. -/
def MsgBody.isTrap : MsgBody → Bool
  | .trap _ => true
  | _ => false

/-- What a thread has sent and the mesh still carries keeps its place before what it sends under its new identity (R136);
its trap messages keep their order among those of the core that sent them (R277). -/
def State.resource (s : State) (old new : Ident) : State :=
  { s with mesh := s.mesh.map fun m => if m.src = some old && !m.body.isTrap then { m with src := some new } else m }

/-- Replies on their way to a moved thread are for its new identity, and so are what it has sent, what leaves have
loaded from it and what its region has counted of it. -/
def State.readdress (s0 : State) (old new : Ident) : State :=
  let s := s0.resource old new
  { s with
    accs := s.accs.map fun a => if a.t = old && a.agent = .thread then { a with t := new } else a,
    threads := s.threads.map fun p => (p.1, { p.2 with spec := p.2.spec.map fun sp =>
      { sp with fwd := sp.fwd.map fun i => if i = old then new else i } }),
    regions := s.regions.map fun p => (p.1, { p.2 with
      recent := p.2.recent.map fun x => (x.1, if x.2 = old then new else x.2) }) }

/-- The forwarding entries of a thread that leaves its slot: replies to its awaiting registers follow it. The entries of its
earlier moves lead on to its new slot, as the entry of the core that it leaves would send their replies on. One that had
left its slot before, and waited in a buffer, has its entry already (R139, R303). -/
def State.forwardNew (s0 : State) (t : Thread) (new : Ident) : State :=
  let wanted := ((List.range t.win).map fun i => BitVec.ofNat 7 i).filter fun r =>
    (t.entry r).pres = .awaiting
  let s := { s0 with forwards := s0.forwards.map fun f => if f.new = t.id then { f with new := new } else f }
  if !isCore t.id.core.toNat || wanted.isEmpty then s
  else { s with forwards := s.forwards ++ [{ n := s.serial, old := t.id, new := new, regs := wanted,
                                             stop := s.cyc + 4096 }],
                serial := s.serial + 1 }

/-- A thread leaves its slot for another core's slot and window; its awaiting registers are forwarded
(R139, R303). -/
def State.moveThread (s : State) (t : Thread) (c slot wbase : Nat) : State × Thread :=
  let new := mkIdent (BitVec.ofNat 11 c) slot
  let u := { t with id := new, wbase := wbase, state := .ready, wait := .none, reopen := 0, voids := [],
                    released := false, yielded := none }
  ((((s.freeThread t.id).readdress t.id new).setThread u).forwardNew t new, u)

/-- The first identity from a number on that no thread has; `fuel` bounds the search. -/
def State.freeIdent (s : State) : Nat → Nat → Option Ident
  | 0, _ => none
  | fuel + 1, n => if (s.thread? (BitVec.ofNat 17 n)).isNone then some (BitVec.ofNat 17 n) else s.freeIdent fuel (n + 1)

/-- A context that a buffer takes has left its slot, which is FREE (R67, R139): until it starts, the model keeps the
thread under an identity of no core, to which its replies go (DESIGN CHOICE, log 43). -/
def State.leaveSlot (s : State) (m : Msg) : State × Msg :=
  match m.body, m.src.bind s.thread? with
  | .context _ _ _, some t =>
    match s.freeIdent 0xFB00 0x1_0400 with
    | none => (s, m)
    | some id =>
      let (s, u) := s.moveThread t id.core.toNat id.slot 0
      (s.setThread { u with state := .migrating, wait := t.wait, reopen := t.reopen }, { m with src := some id })
  | _, _ => (s, m)

/-- A place on a core for a window of n registers: slot and base (R73). -/
def State.place (s : State) (c n : Nat) : Option (Nat × Nat) :=
  match s.freeSlot c, s.freeRun c n with
  | some i, some b => some (i, b)
  | _, _ => none

/-! ## SYSCALL -/

/-- SYSCALL (R140): g[D] awaits the kernel's reply; with no usable channel it is written at once. A stamped leaf that is
not the oldest sends it at once too, for R95's list of what waits does not name SYSCALL (DESIGN CHOICE, log 24). -/
def execSyscall (d a : RegNum) (count : BitVec 4) (svc : BitVec 16) (s : State) :
    Host.Outcome State Fault Refusal :=
  runT s fun s t => do
    need (count.toNat ≤ 8) (ill s)
    windowX t [d]
    runX t a count.toNat
    let l ← readsX t (regRun a count.toNat)
    destX t d
    let w := s.sys.syscall
    if targetEn w && s.targetOk w then
      return (s.post (w.extractLsb' 0 11) (targetChan w) (some t.id) t.dom
        (.request l svc t.id t.regionId), (t.setPres d .awaiting).adv)
    else done s t d (ofScalar (BitVec.allOnes 64))

end Sys2Proof.Machine
end

