-- ==== Sys2Proof/Machine/Ranked.lean ====
section
/-! DEFINITION. Ranked lists: their order, offers, thresholds and drained images (R229 to R233). -/

namespace Sys2Proof.Machine

/-- A pair: value code and index. -/
abbrev Pair := Nat × Nat

/-- The place of a value in its order: f32 with the zeros together, or signed i32 (R230). -/
def rankKey (i32 : Bool) (v : Nat) : Int := if i32 then sgn 32 v else fmt32.key v

/-- A pair ranks above another (R230). -/
def ranksAbove (i32 : Bool) (a b : Pair) : Bool :=
  decide (rankKey i32 b.1 < rankKey i32 a.1) ||
    (decide (rankKey i32 a.1 = rankKey i32 b.1) && decide (a.2 < b.2))

/-- A pair put into a list in rank order. -/
def rankInsert (i32 : Bool) (p : Pair) : List Pair → List Pair
  | [] => [p]
  | q :: l => if ranksAbove i32 p q then p :: q :: l else q :: rankInsert i32 p l

/-- A value is an f32 NaN. -/
def isRankNan (i32 : Bool) (v : Nat) : Bool := !i32 && (fmt32.read v).isNan

/-- Offer pairs to a list of at most k: NaNs are left out, −0 is stored as +0 (R230). -/
def offer (i32 : Bool) (k : Nat) (l : List Pair) (ps : List Pair) : List Pair :=
  ((ps.filter fun p => !isRankNan i32 p.1).foldl (fun l p =>
    rankInsert i32 (if !i32 && p.1 = 0x8000_0000 then 0 else p.1, p.2) l) l).take k

/-- How many NaNs are among some pairs. -/
def nanCount (i32 : Bool) (ps : List Pair) : Nat := (ps.filter fun p => isRankNan i32 p.1).length

/-- A 32-bit saturating sum (R229). -/
def satAdd32 (a b : Nat) : Nat := min (a + b) 0xFFFF_FFFF

/-- The key of a tile slot's first byte (R141). -/
def State.slotKey (s : State) (c i : Nat) : Nat := poolKey c (s.scratchBytes c + 16384 * i)

/-- Length of list j. -/
def RankHdr.len (h : RankHdr) (j : Nat) : Nat := h.lens.getD j 0

/-- List j of a ranked slot (R229). -/
def State.rankList (s : State) (c i k j : Nat) : List Pair :=
  (List.range ((s.tile c i).hdr.len j)).map fun p =>
    let w := s.read (s.slotKey c i + 8 * (j * k + p)) 8
    (w % 2 ^ 32, w / 2 ^ 32)

/-- A ranked header with list j's length. -/
def RankHdr.setLen (h : RankHdr) (j n : Nat) : RankHdr :=
  { h with lens := (List.range 64).map fun i => if i = j then n else h.len i }

/-- The state with list j of a ranked slot. -/
def State.setRankList (s : State) (c i k j : Nat) (l : List Pair) : State :=
  let x := s.tile c i
  (s.writeBytes (s.slotKey c i + 8 * (j * k)) (l.flatMap fun p => natBytes 8 (p.1 + 2 ^ 32 * p.2))).setTile c i
    { x with hdr := x.hdr.setLen j l.length }

/-- Offer pairs to list j of a ranked slot: the list, and the NaN count (R230). -/
def State.offerTo (s : State) (c i log2k : Nat) (i32 : Bool) (j : Nat) (ps : List Pair) : State :=
  if ps.isEmpty then s
  else
    let k := 2 ^ log2k
    let s := s.setRankList c i k j (offer i32 k (s.rankList c i k j) ps)
    let x := s.tile c i
    s.setTile c i { x with hdr := { x.hdr with nans := satAdd32 x.hdr.nans (nanCount i32 ps) } }

/-- Threshold and fullness of list j (R232). -/
def State.threshold (s : State) (c i log2k : Nat) (i32 : Bool) (j : Nat) : Nat × Bool :=
  let k := 2 ^ log2k
  let l := s.rankList c i k j
  if l.length = k then (((l.getD (k - 1) (0, 0))).1, true)
  else (if i32 then 0x8000_0000 else 0xFF80_0000, false)

/-- The bound of a skip lies strictly below a list's threshold, which stands full (R232). -/
def State.skips (s : State) (c i log2k : Nat) (i32 : Bool) (u j : Nat) : Bool :=
  let (v, full) := s.threshold c i log2k i32 j
  full && !isRankNan i32 u && decide (rankKey i32 u < rankKey i32 v)

/-! ## Images (R233) -/

/-- The configuration word of a ranked slot. -/
def rankConfig (log2k : Nat) (col i32 : Bool) : Nat :=
  log2k + (if col then 8 else 0) + (if i32 then 16 else 0)

/-- The 128 header bytes of an image. -/
def RankHdr.bytes (h : RankHdr) (cfg : Nat) : List Byte :=
  natBytes 8 cfg ++ natBytes 4 h.nans ++ natBytes 4 h.skips ++ natBytes 48 0 ++
    (List.range 64).map fun j => BitVec.ofNat 8 (h.len j)

/-- The image of a ranked slot. -/
def State.rankImage (s : State) (c i log2k : Nat) (col i32 : Bool) : List Byte :=
  let k := 2 ^ log2k
  (s.tile c i).hdr.bytes (rankConfig log2k col i32) ++
    (List.range 64).flatMap fun j =>
      let l := s.rankList c i k j
      (List.range k).flatMap fun p =>
        let q := l.getD p (0, 0)
        natBytes 8 (q.1 + 2 ^ 32 * q.2)

/-- An image that a merge may take: its configuration word is the one read at issue and matches the
target, and no length is above its k (R231, R258). -/
def imageValid (img : List Byte) (log2k : Nat) (col i32 : Bool) : Bool :=
  let cfg := bytesNat (img.take 8)
  let l := cfg % 8
  decide (cfg / 32 = 0) && decide (l ≤ 6) && cfg = rankConfig log2k col i32 &&
    (List.range 64).all fun j => decide ((img.getD (64 + j) 0).toNat ≤ 2 ^ l)

/-- List j of an image. -/
def imageList (img : List Byte) (log2k j : Nat) : List Pair :=
  (List.range (img.getD (64 + j) 0).toNat).map fun p =>
    let w := bytesNat ((img.drop (128 + 8 * (2 ^ log2k * j + p))).take 8)
    (w % 2 ^ 32, w / 2 ^ 32)

/-- Merge 64 lists and the counts into a ranked slot (R231). -/
def State.mergeInto (s : State) (c i log2k : Nat) (i32 : Bool) (lists : List (List Pair))
    (nans skips : Nat) : State :=
  let s := (List.range 64).foldl (fun s j => s.offerTo c i log2k i32 j (lists.getD j [])) s
  let x := s.tile c i
  s.setTile c i { x with hdr := { x.hdr with nans := satAdd32 x.hdr.nans nans,
                                             skips := satAdd32 x.hdr.skips skips } }

/-- A slot returns to its reset condition, its bytes zero. -/
def State.plainSlot (s : State) (c i : Nat) : State :=
  (s.zeroed (s.slotKey c i) 16384).setTile c i ⟨.plain, .plain, ⟨[], 0, 0⟩, false⟩

/-- The partner of a k = 64 pair, whose other slot is declared anew, becomes plain (DEDUCED, log 20). -/
def State.freePair (s : State) (c i : Nat) : State :=
  (kindSlots (s.tile c i).declared i).foldl (fun s j => if j = i then s else
    let x := s.tile c j
    s.setTile c j { x with declared := .plain, kind := .plain, hdr := ⟨[], 0, 0⟩ }) s

/-- RLSET's declaration (R229). -/
def State.declareRanked (s : State) (c i log2k : Nat) (col i32 : Bool) : State :=
  let s := (kindSlots (.ranked log2k col i32) i).foldl (fun s j => s.freePair c j) s
  let s := s.setTile c i ⟨.ranked log2k col i32, .ranked log2k col i32, ⟨[], 0, 0⟩, false⟩
  if log2k = 6 then s.setTile c (i + 1) ⟨.second, .second, ⟨[], 0, 0⟩, false⟩ else s

/-- MZERO declares its slots plain at issue (R214). -/
def State.declarePlain (s : State) (c i : Nat) : State :=
  (kindSlots (s.tile c i).declared i).foldl (fun s j =>
    s.setTile c j { s.tile c j with declared := .plain }) s

/-! ## The meanings -/

/-- Slots that a named slot stands for, as declared. -/
def State.slotsOf (s : State) (t : Thread) (i : Nat) : List Nat :=
  kindSlots (s.tile t.id.core.toNat i).declared i

/-- RLSET (R221, R229, R256). -/
def execRlset (tile : BitVec 8) (log2k : BitVec 3) (col i32 : Bool) (s : State) :
    Host.Outcome State Fault Refusal :=
  runT s fun s t => do
    unitX s t 1
    let i := t.absSlot tile
    let l := kindSlots (.ranked log2k.toNat col i32) i
    slotX s t i l
    oldestX t
    let busy := l.flatMap fun j => s.slotsOf t j
    need (!s.slotBusy t busy false) (.park (.slotOps busy false))
    return (s.declareRanked t.id.core.toNat i log2k.toNat col i32, t.adv)

/-- RLINS (R257). -/
def execRlins (tile : BitVec 8) (a b : RegNum) (_list : BitVec 6) (k : KReg) (s : State) :
    Host.Outcome State Fault Refusal :=
  runT s fun s t => do
    windowX t [a, b]
    let x ← presentX t a
    let y ← presentX t b
    unitX s t 1
    let i := t.absSlot tile
    slotX s t i (s.slotsOf t i)
    let _ ← rankedX s t i
    cleansX t [a, b]
    enqueue s t { newOp s t (s.slotsOf t i) with
      slot := i, mask := BitVec.ofNat 16 (t.mask k).toNat, va := x, vb := y }

/-- RLMERGE from a tile (R258). -/
def execRlmergeTile (tile src : BitVec 8) (s : State) : Host.Outcome State Fault Refusal :=
  runT s fun s t => do
    unitX s t 1
    let i := t.absSlot tile
    let j := t.absSlot src
    slotX s t i (s.slotsOf t i)
    slotX s t j (s.slotsOf t j)
    let (_, col, i32) ← rankedX s t i
    let (_, col2, i322) ← rankedX s t j
    if col = col2 ∧ i32 = i322 then
      enqueue s t { newOp s t (s.slotsOf t i ++ s.slotsOf t j) with slot := i, slot2 := j }
    else engineTrap s t 9 i

/-- What RLMERGE does with the configuration word it has read (R231, R247, R258). -/
def mergeFrom (s : State) (t : Thread) (tile : BitVec 8) (m : MOp) (b : Reg) (a cfg : Word) :
    X (State × Thread) := do
  let i := t.absSlot tile
  let l := cfg.toNat % 8
  if 6 < l then do
    slotX s t i (s.slotsOf t i)
    engineTrap s t 7 i
  else do
    let _ ← memX s t m b (imageBytes l) false
    slotX s t i (s.slotsOf t i)
    let (_, col, i32) ← rankedX s t i
    if cfg.toNat / 8 % 4 = (if col then 1 else 0) + (if i32 then 2 else 0) then
      enqueue s t { newOp s t (s.slotsOf t i) with
        slot := i, addr1 := a, cfg := cfg, noP := lacksP t m.seg a (imageBytes l) }
    else engineTrap s t 9 i

/-- The conditions on the target slot of RLMERGE that need no configuration word: it is allowed, and declared ranked
(R214, R247). -/
def mergeSlotX (s : State) (t : Thread) (tile : BitVec 8) : X Unit := do
  slotX s t (t.absSlot tile) (s.slotsOf t (t.absSlot tile))
  let _ ← rankedX s t (t.absSlot tile)

/-- A stop at which ENGINE is still to be tested: a trap below ENGINE in R23's table, or a park (R23, R282). -/
def Stop.behindEngine : Stop → Bool
  | .trap i => decide (0x0C ≤ i.code.toNat)
  | _ => true

/-- The configuration word of an image, read as a load of the thread's own (R258). Where it is bad, or its page is
missing, the image's size is not known, and the slot's own conditions come first, as ENGINE stands above POISON, REVOKED
and WITHDRAWN and before translation (R23). -/
def configX (s : State) (t : Thread) (tile : BitVec 8) (m : MOp) (b : Reg) (a : Word) : X (State × Reg) :=
  match ownReadX s t m.seg (segP (t.seg m.seg)) (offE b m.off) a 8 with
  | .ok r => .ok r
  | .error st => do
    if st.behindEngine then mergeSlotX s t tile
    .error st

/-- RLMERGE from an image (R258). Where the base register is poisoned, the slot's own conditions stand before that
(R23). An operand that is not 64-byte aligned traps ALIGN with the 8 bytes of the configuration word, before the word is
read and the whole image's SEGLIMIT can be tested (DESIGN CHOICE, log 14). -/
def execRlmergeImage (tile : BitVec 8) (m : MOp) (s : State) : Host.Outcome State Fault Refusal :=
  runT s fun s t => do
    windowX t [m.a]
    let b ← presentX t m.a
    let a ← unlessBad t [m.a] (memX s t m b 8 false)
    unitX s t 1
    if (t.entry m.a).poison then do
      mergeSlotX s t tile
      cleanX t m.a
    oldestX t
    let (s1, v) ← configX s t tile m b a
    mergeFrom s1 t tile m b a (scalar v)

/-- The slots that hold list j of a ranked slot: its header's, and for the upper lists of a k = 64 pair the second
one (R229). -/
def listSlots (i log2k j : Nat) : List Nat := if log2k = 6 && 32 ≤ j then [i, i + 1] else [i]

/-- RLTHR (R259). -/
def execRlthr (a : RegNum) (tile : BitVec 8) (list : BitVec 6) (s : State) :
    Host.Outcome State Fault Refusal :=
  runT s fun s t => do
    windowX t [a]
    destX t a
    unitX s t 1
    let c := t.id.core.toNat
    let i := t.absSlot tile
    slotX s t i (s.slotsOf t i)
    let (log2k, _, i32) ← rankedX s t i
    oldestX t
    need (!s.slotBusy t (s.slotsOf t i) true) (.park (.slotOps (s.slotsOf t i) true))
    if (listSlots i log2k list.toNat).any fun j => (s.tile c j).poison then engineTrap s t 2 i
    else
      let (v, full) := s.threshold c i log2k i32 list.toNat
      done s t a (ofScalar (BitVec.ofNat 64
        (v + (if full then 2 ^ 32 else 0) + 2 ^ 40 * (s.tile c i).hdr.len list.toNat)))

/-- RLDRAIN (R260). A slot that is not declared ranked gives no k: the checks of R11, which stand above ENGINE, then take
the smallest image, k = 1, before KIND 5 or 7 is reported (DESIGN CHOICE, log 14). -/
def execRldrain (tile : BitVec 8) (m : MOp) (s : State) : Host.Outcome State Fault Refusal :=
  runT s fun s t => do
    windowX t [m.a]
    let b ← presentX t m.a
    let i := t.absSlot tile
    let log2k := match (s.tile t.id.core.toNat i).declared with
      | .ranked l _ _ => l
      | _ => 0
    let a ← unlessBad t [m.a] (memX s t m b (imageBytes log2k) true)
    unitX s t 1
    slotX s t i (s.slotsOf t i)
    let _ ← rankedX s t i
    cleanX t m.a
    enqueue s t { newOp s t (s.slotsOf t i) with
      slot := i, addr1 := a, cfg := BitVec.ofNat 64 log2k, noP := lacksP t m.seg a (imageBytes log2k) }

/-- RLCLR (R221, R229). -/
def execRlclr (tile : BitVec 8) (s : State) : Host.Outcome State Fault Refusal :=
  runT s fun s t => do
    unitX s t 1
    let c := t.id.core.toNat
    let i := t.absSlot tile
    slotX s t i (s.slotsOf t i)
    let _ ← rankedX s t i
    oldestX t
    need (!s.slotBusy t (s.slotsOf t i) false) (.park (.slotOps (s.slotsOf t i) false))
    return (s.setTile c i { s.tile c i with hdr := ⟨[], 0, 0⟩ }, t.adv)

end Sys2Proof.Machine
end

