-- ==== Sys2Proof/Machine/Spill.lean ====
section
/-! DEFINITION. Holds and releases, special registers by index, the context image, and the spill engine
(R19, R222, R227, R228, R295 to R302). -/

namespace Sys2Proof.Machine

/-! ## Special registers by index (R19, R222) -/

/-- %batch: the next ID, committed batches outstanding, uncompleted operations of the open batch (R223). -/
def State.batchWord (s : State) (t : Thread) : Word :=
  BitVec.ofNat 64 (2 ^ 32 * t.nextBatch.toNat + 2 ^ 8 * s.outstanding t + s.openOps t)

/-- A special register 0x000 to 0x01F of a thread. -/
def State.special (s : State) (t : Thread) (i : Nat) : Word :=
  let p := t.sp
  if i = 0x00 then p.status else if i = 0x01 then p.tcause else if i = 0x02 then p.tinfo
  else if i = 0x03 then p.tepc else if i = 0x04 then p.febudget else if i = 0x05 then p.fill
  else if i < 0x0C then p.bounds.getD (i - 6) 0
  else if i = 0x0C then BitVec.ofNat 64 s.cyc
  else if i = 0x0D then t.id.zeroExtend 64
  else if i = 0x0E then s.cap t.id.core.toNat
  else if i = 0x0F then (s.atollRead (clusterOf t.id.core.toNat)).zeroExtend 64
  else if i < 0x14 then p.cwp.getD (i - 0x10) 0
  else if i = 0x14 then p.estat
  else if i = 0x15 then s.batchWord t
  else if i = 0x16 then p.fmta else if i = 0x17 then p.fmtb else if i = 0x18 then p.fmtc
  else if i = 0x19 then p.scla else if i = 0x1A then p.sclb else if i = 0x1B then p.tileb
  else if i = 0x1C then p.deadline else if i = 0x1D then p.stamp else if i = 0x1E then p.region
  else if i = 0x1F then p.domain
  else 0

/-! ## Holds and releases (R227, R295) -/

/-- A READY or PARKED thread becomes HELD; its unstarted engine operations become its queue image. -/
def State.holdThread (s : State) (t : Thread) : State × Thread :=
  if t.state = .ready || t.state = .parked then
    let (s, t) := s.unqueue t
    (s, { t with state := .held })
  else (s, t)

/-- A HELD thread that nothing holds any more is released: a recorded trap is taken as one that reaches a parked
thread is, or at its boundary (R57, R67); otherwise its image re-enters the queue, and it is READY, or PARKED where its
wait has not ended (R67, R227). One whose context is being written or read is let go with its context. -/
def State.releaseThread (s : State) (t : Thread) : State :=
  if t.state != .held || t.dbg || t.regionHeld || (s.jobOf t.id).isSome then s.setThread t
  else
    match (if t.condemned then [] else t.pending) with
    | i :: rest => (s.trapParked { t with pending := rest } i).getD (s.setThread { t with state := .parked })
    | [] =>
      if t.wait = .enginePage then s.setThread { t with state := .parked }
      else
        let (s, t) := s.requeue t
        s.setThread { t with state := if t.wait = .none then .ready else .parked }

/-! ## The context image (R297, R298) -/

/-- An address as an image stores it: an offset where it lies in the allocation, and whether it does. -/
def poolOff (base n : Nat) (a : Word) : Word × Bool :=
  if decide (base ≤ a.toNat) && decide (a.toNat < base + n) then (BitVec.ofNat 64 (a.toNat - base), true)
  else (a, false)

/-- A queue image entry (R298). -/
def EngineOp.image (o : EngineOp) (base n : Nat) : List Byte :=
  let (a1, f1) := poolOff base n o.addr1
  let (a2, f2) := poolOff base n o.addr2
  let (a3, f3) := poolOff base n o.addr3
  let bit (b : Bool) (i : Nat) : Nat := if b then 2 ^ i else 0
  natBytes 8 o.word.toNat ++
  natBytes 8 (o.batch.toNat + 2 ^ 16 * o.idx.toNat + bit o.xs 20 + bit f1 21 + bit f2 22 + bit f3 23) ++
  natBytes 8 (o.fmta.toNat + 2 ^ 8 * o.fmtb.toNat + 2 ^ 16 * o.fmtc.toNat) ++
  natBytes 8 o.fill.toNat ++ natBytes 8 a1.toNat ++ natBytes 8 a2.toNat ++
  natBytes 8 (o.mE + 2 ^ 16 * o.nE + 2 ^ 32 * o.kE) ++ natBytes 8 o.scA.toNat ++ natBytes 8 o.scB.toNat ++
  natBytes 8 (o.base.toNat + 2 ^ 32 * o.u.toNat) ++ natBytes 8 (o.mask.toNat + o.rows) ++
  natBytes 8 a3.toNat ++ natBytes 32 0 ++ natBytes 64 o.va.toNat ++ natBytes 64 o.vb.toNat

/-- A latch is saved with a context (R228). -/
def State.savesLatch (s : State) (t : Thread) (lat : Bool) : Bool :=
  let k := s.core t.id.core.toNat
  let l := if lat then k.latch1 else k.latch0
  let read := (t.image.filterMap fun o =>
    if o.readsLatch = some lat then some true
    else match o.instr with
      | some (.bload x _) => if x = lat then some false else none
      | _ => none).head?
  l.full && (read = some true || l.filler = some t.id)

/-- The header of a tile slot as an image holds it. -/
def State.tileHeader (s : State) (c i : Nat) : List Byte :=
  match (s.tile c i).kind with
  | .plain => natBytes 128 0
  | .second => natBytes 128 (2 ^ 128 * 2)
  | .ranked l col i32 =>
    ((s.tile c i).hdr.bytes (rankConfig l col i32)).set 16 1

/-- The end of a PAUSE; all ones for none. -/
def Thread.pauseAt (t : Thread) : Word :=
  match t.wait with
  | .pause stop => BitVec.ofNat 64 stop
  | _ => BitVec.allOnes 64

/-- Bytes of an image but for its pool section. -/
def State.imageHead (s : State) (t : Thread) (size : Nat) : List Byte :=
  let c := t.id.core.toNat
  let (po, pn) := t.pool.getD (0, 0)
  let l0 := s.savesLatch t false
  let l1 := s.savesLatch t true
  let paused := t.pauseAt != BitVec.allOnes 64
  natBytes 8 (t.win + 2 ^ 8 * t.cls.code + 2 ^ 11 * t.prio + 2 ^ 16 * t.image.length +
    (if l0 then 2 ^ 22 else 0) + (if l1 then 2 ^ 23 else 0) + 2 ^ 24 * t.tiles.2) ++
  natBytes 8 ((if paused then t.pc + 8 else t.pc).toNat) ++ natBytes 8 t.id.toNat ++
  natBytes 8 (t.regionId + 2 ^ 32 * t.dom.toNat) ++ natBytes 8 t.rcb.toNat ++ natBytes 8 pn ++
  natBytes 8 t.pauseAt.toNat ++ natBytes 8 size ++
  ((List.range 32).flatMap fun i => natBytes 8 (s.special t i).toNat) ++
  natBytes 8 0 ++ (t.masks.flatMap fun m => natBytes 8 m.toNat) ++
  (t.segs.flatMap fun d => natBytes 16 d.toNat) ++
  natBytes 16 ((List.range t.win).map fun i =>
    if (t.entry (BitVec.ofNat 7 i)).pres = .opened then 2 ^ i else 0).sum ++
  natBytes 112 0 ++
  (t.regs.flatMap fun e => natBytes 64 e.val.toNat) ++
  (t.image.flatMap fun o => o.image (poolKey c po) pn) ++
  (if l0 then memBytes s.mem (latchKey c false 0) 8192 else []) ++
  (if l1 then memBytes s.mem (latchKey c true 0) 8192 else []) ++
  ((List.range t.tiles.2).flatMap fun i =>
    memBytes s.mem (s.slotKey c (t.tiles.1 + i)) 16384 ++ s.tileHeader c (t.tiles.1 + i))

/-- Bytes of an image before its pool section. -/
def State.headBytes (s : State) (t : Thread) : Nat :=
  640 + 64 * t.win + 256 * t.image.length + (if s.savesLatch t false then 8192 else 0) +
    (if s.savesLatch t true then 8192 else 0) + 16512 * t.tiles.2

/-- A word of memory made poisoned. -/
def State.poisonWord (s : State) (k : Nat) : State := { s with poisoned := setAdd (k / 8) s.poisoned }

/-- A line of the engine's buffer stored at a key; poison goes with it (R292, R297). -/
def State.putLine (s : State) (src dst : Nat) : State :=
  let s1 := s.put dst 64 (bytesNat (memBytes s.mem src 64))
  if s.bad src then s1.poisonWord dst else s1

/-- Bytes, bits and poison of a scratch run copied line by line between keys, each line's Skerries settled once its
bits stand (R153, R237, R297). -/
def State.moveLines (s : State) : List (Nat × Nat) → State
  | [] => s
  | (src, dst) :: rest =>
    let s1 := s.writeBytes dst (memBytes s.mem src 64)
    let s2 := (List.range 8).foldl (fun s w =>
      let s := s.setFull (dst + 8 * w) (s.full (src + 8 * w))
      if s.bad (src + 8 * w) then s.poisonWord (dst + 8 * w) else s) s1
    (s2.settle dst 64).moveLines rest

/-! ## Writing a context (R296, R297) -/

/-- The Skerry of a thread is withdrawn: a WAITV returns; another instruction issues again (R156). -/
def State.withdrawFor (s : State) (t : Thread) : State × Thread :=
  if t.onAccess then
    let l := s.ordinaryOf t.id
    let s := s.dropOrdinary t.id
    match l with
    | [a] => if a.form.kind = .waitv then (s.countInstr t, { t.adv with wait := .none })
             else (s, { t with wait := .none })
    | _ => (s, { t with wait := .none })
  else (s, t)

/-- Where the arena has room for an image (R297). -/
def State.arenaPlace (s : State) (n : Nat) : Option Word :=
  (placeIn (64 * Config.freePlace s.free 2) s.sys.spillLimit.toNat n
    (s.arena.map fun x => (x.1.toNat - s.sys.spillBase.toNat, x.2))).map fun o => s.sys.spillBase + BitVec.ofNat 64 o

/-- The state in which a leaf's RCB stands when its context is written: SPILLED from HELD, the one row that R98 gives. The
RCB of a leaf that only a debugger holds is RUNNING, for no region hold has reached it, and stays so (DEDUCED,
log 25). -/
def State.spilledState (s : State) (t : Thread) (k : Nat) : Nat :=
  if s.rcbState k = stHeld || (s.owed.any fun o => o.region = t.regionId && o.rcb = t.rcb &&
      (o.what == .state stHeld || o.what == .turn stRunning stHeld))
  then stSpilled else s.rcbState k

/-- The RCB of a spilled or restored leaf: its state (for a leaf that a debugger holds: DEDUCED, log 25), its image
address, and a flag (R98, R301). -/
def State.leafRcb (s : State) (t : Thread) (code : Nat) (ctx : Word) (flag : Nat) : State × Bool :=
  if t.cls != .leaf then (s, true)
  else
    match s.region? t.regionId with
    | none => (s, true)
    | some r =>
      match s.rcbKey (r.holderOf t.rcb) r t.rcb true with
      | (s, none) => (s, false)
      | (s, some k) =>
        let st := if code = stSpilled then s.spilledState t k else code
        let s := ((s.settled t).setRcbState k st).put (k + 0x68) 8 ctx.toNat
        (if flag = 0 then s else s.orRcbFlags k flag, true)

/-- A leaf is HELD: its RCB's state follows at once, or, where the RCB's page is missing, as soon as it is there
(R96, R98). -/
def State.holdRcb (s : State) (t : Thread) : State :=
  if t.cls != .leaf then s
  else match s.leafRcb t stHeld 0 0 with
    | (s, true) => s
    | (s, false) => s.owe t (.state stHeld)

/-- What is left of a thread whose context is in memory. Nothing is recorded of a page fault (R296). -/
def Thread.written (t : Thread) (a : Word) (latches : List (Bool × Nat × Bool)) : Thread :=
  { t with state := .spilled, regs := [], wbase := 0, pool := none, tiles := (0, 0), image := [], roomWait := false,
           ctx := a, saved := latches, yielded := none, firstTurn := 0, released := false, voids := [],
           wait := if t.wait = .page || t.wait = .enginePage || t.wait = .queueRoom then .none else t.wait }

/-- The latches that an image saves, with the numbers of their fills, and whether they are the thread's own. -/
def State.savedLatches (s : State) (t : Thread) : List (Bool × Nat × Bool) :=
  let k := s.core t.id.core.toNat
  (if s.savesLatch t false then [(false, k.latch0.fillNo, k.latch0.filler == some t.id)] else []) ++
    (if s.savesLatch t true then [(true, k.latch1.fillNo, k.latch1.filler == some t.id)] else [])

/-- The sections of an image whose first word carries poison: of a register, of a saved latch, of a tile slot, by their
offsets (R292, DEDUCED, log 25). -/
def State.badSections (s : State) (t : Thread) : List Nat :=
  let c := t.id.core.toNat
  let l := 640 + 64 * t.win + 256 * t.image.length
  let n0 := if s.savesLatch t false then 8192 else 0
  let n1 := if s.savesLatch t true then 8192 else 0
  ((List.range t.win).filter fun i => (t.entry (BitVec.ofNat 7 i)).poison).map (fun i => 640 + 64 * i) ++
    (if n0 != 0 && (s.core c).latch0.poison then [l] else []) ++
    (if n1 != 0 && (s.core c).latch1.poison then [l + n0] else []) ++
    ((List.range t.tiles.2).filter fun i => (s.tile c (t.tiles.1 + i)).poison).map fun i => l + n0 + n1 + 16512 * i

/-- What precedes the writing of a context: a speculative leaf is rolled back, Skerries are withdrawn (R296). -/
def State.spillPrep (s : State) (t : Thread) : State × Thread :=
  let s := if t.speculative then s.rollbackAll t else s
  s.withdrawFor ((s.thread? t.id).getD t)

/-- Bytes of the image of a thread (R297). -/
def State.contextBytes (s : State) (t : Thread) : Nat := s.headBytes t + (t.pool.getD (0, 0)).2

/-- The writing of a HELD thread's context begins at a place of the arena: the fixed part and the sections before the pool
stand in the engine's buffer, with the poison of their sections. -/
def State.spillAt (s : State) (t : Thread) (keepSlot : Bool) (a : Word) : State :=
  let hb := s.headBytes t
  let n := s.contextBytes t
  let j : CtxJob := { t := t.id, restore := false, addr := a, lines := n / 64, head := hb / 64, done := 0, read := false,
                      keepSlot := keepSlot, saved := s.savedLatches t, home := t.id }
  let s1 := s.writeBytes (stageKey a 0) (s.imageHead t n)
  let s2 := (s.badSections t).foldl (fun s o => s.poisonWord (stageKey a 0 + o)) s1
  ({ s2.placed with arena := s2.arena ++ [(a, n)], jobs := s2.jobs ++ [j] }).setThread t

/-- Begin to write the context of a HELD thread that R296 lets go: where, if the arena has room. -/
def State.spillStart (s : State) (t : Thread) (keepSlot : Bool) : State × Option Word :=
  let p := s.spillPrep t
  match p.1.arenaPlace (p.1.contextBytes p.2) with
  | none => (p.1.setThread p.2, none)
  | some a => (p.1.spillAt p.2 keepSlot a, some a)

/-- The result of SPILL (R317). -/
def spillResult (a : Word) : Reg := ofScalar (a &&& 0x001F_FFFF_FFFF_FFFF)

/-- A thread whose SPILL has begun to write a context, with its result register. -/
def Thread.awaitsSpill (t : Thread) (id : Ident) : Option (Thread × RegNum) :=
  match t.wait with
  | .spilling u d => if u = id then some (t, d) else none
  | _ => none

/-- The SPILL that had a context written completes (R317). -/
def State.answerSpill (s : State) (id : Ident) (a : Word) : State :=
  match s.threads.findSome? fun p => p.2.awaitsSpill id with
  | some (t, d) => s.commit ((t.completes (some d) (spillResult a)).woken)
  | none => s

/-- A context has been written: its thread is SPILLED, or its slot FREE (R67). -/
def State.spilled' (s : State) (t : Thread) (j : CtxJob) : State :=
  let u := t.written j.addr j.saved
  let s1 := s.dropJob j
  (if j.keepSlot then s1.setThread u
   else { s1.freeThread t.id with
          spilled := s1.spilled ++ [{ addr := j.addr, bytes := 64 * j.lines, keep := u }] }).answerSpill t.id j.addr

/-- A job with one line more done, or with its next line read. -/
def State.setJob (s : State) (j : CtxJob) : State := { s with jobs := s.jobs.map fun x => if x.t = j.t then j else x }

/-- The key of a pool line of the context under way at a slot. -/
def Thread.poolLine (t : Thread) (j : CtxJob) : Nat :=
  poolKey t.id.core.toNat ((t.pool.getD (0, 0)).1 + 64 * (j.done - j.head))

/-- The next access of a context that is being written: a pool line is read, with its bits; a line is written to the arena;
and after the last the leaf's RCB is (R296, R297). -/
def State.spillLine (s : State) (t : Thread) (j : CtxJob) : Option State :=
  let x := stageKey j.addr j.done
  let next : CtxJob := { j with done := j.done + 1, read := false }
  if j.lines ≤ j.done then
    gate s (s.leafRcb t stSpilled j.addr 0) fun s => s.spilled' t j
  else if !j.read && j.head ≤ j.done then
    some ((s.moveLines [(t.poolLine j, x)]).setJob { j with read := true })
  else
    match s.agentKey .spill 0 0 (j.addr + BitVec.ofNat 64 (64 * j.done)) true with
    | (s', none) => gate s (s', false) id
    | (s', some k) => some ((if j.read then s'.moveLines [(x, k)] else s'.putLine x k).setJob next)

/-! ## Reading a context (R299) -/

/-- n bytes at an offset of an image whose lines have these keys. -/
def State.imageNat (s : State) (ks : List Nat) (o n : Nat) : Nat := s.read (ks.getD (o / 64) 0 + o % 64) n

/-- A 64-bit word of an image. -/
def State.imageWord (s : State) (ks : List Nat) (o : Nat) : Word := BitVec.ofNat 64 (s.imageNat ks o 8)

/-- The class of a code. -/
def Cls.ofCode (n : Nat) : Cls :=
  if n = 0 then .leaf else if n = 1 then .rule else if n = 2 then .join else if n = 4 then .trap
  else if n = 5 then .wake else if n = 6 then .migration else .message

/-- The tile slots and the configuration word of an operation's word for a thread (R214, R258). -/
def State.imageSlots (s : State) (t : Thread) (cfg : Word) (w : Word) : Nat × Nat × List Nat × Word :=
  let one (tile : BitVec 8) : Nat × Nat × List Nat × Word :=
    (t.absSlot tile, noSlot, s.slotsOf t (t.absSlot tile), 0)
  match decode w with
  | some (.mma tile ..) => one tile
  | some (.mzero tile) => one tile
  | some (.mfill tile _) => (t.absSlot tile, noSlot, [t.absSlot tile], 0)
  | some (.mdrain tile _) => (t.absSlot tile, noSlot, [t.absSlot tile], 0)
  | some (.rlins tile ..) => one tile
  | some (.rlmergeTile tile src) =>
    (t.absSlot tile, t.absSlot src, s.slotsOf t (t.absSlot tile) ++ s.slotsOf t (t.absSlot src), 0)
  | some (.rlmergeImage tile _) =>
    let (a, b, l, _) := one tile
    (a, b, l, cfg)
  | some (.rldrain tile _) =>
    let (a, b, l, _) := one tile
    (a, b, l, match (s.tile t.id.core.toNat a).declared with
      | .ranked k _ _ => BitVec.ofNat 64 k
      | _ => 0)
  | _ => (noSlot, noSlot, [], 0)

/-- The configuration word that an RLMERGE of an image reads again at a restore (DEDUCED, log 22). -/
def State.mergeCfg (s : State) (t : Thread) (a : Word) : Word :=
  match s.peek t.dom a with
  | some k => BitVec.ofNat 64 (s.read k 8)
  | none => 0

/-- An entry of a queue image, for the thread placed anew (R298). -/
def State.imageOp (s : State) (t : Thread) (ks : List Nat) (o n : Nat) : EngineOp :=
  let w := s.imageWord ks o
  let m := s.imageNat ks (o + 8) 8
  let f := s.imageNat ks (o + 0x10) 8
  let e := s.imageNat ks (o + 0x30) 8
  let base := segBase (t.seg 1)
  let addr (i bit : Nat) : Word :=
    if m.testBit bit then base + s.imageWord ks (o + i) else s.imageWord ks (o + i)
  let x := s.imageSlots t (s.mergeCfg t (addr 0x20 21)) w
  let q := s.imageNat ks (o + 0x50) 8
  let isQ := match decode w with | some (.qrow ..) => true | _ => false
  { n := n, t := t.id, domain := t.dom, word := w, batch := BitVec.ofNat 16 m,
    idx := BitVec.ofNat 4 (m / 2 ^ 16), xs := m.testBit 20, fmta := BitVec.ofNat 8 f,
    fmtb := BitVec.ofNat 8 (f / 2 ^ 8), fmtc := BitVec.ofNat 8 (f / 2 ^ 16), fill := s.imageWord ks (o + 0x18),
    addr1 := addr 0x20 21, addr2 := addr 0x28 22, addr3 := addr 0x58 23, mE := e % 2 ^ 16,
    nE := e / 2 ^ 16 % 2 ^ 16, kE := e / 2 ^ 32 % 2 ^ 16, scA := s.imageWord ks (o + 0x38),
    scB := s.imageWord ks (o + 0x40), base := BitVec.ofNat 32 (s.imageNat ks (o + 0x48) 4),
    u := BitVec.ofNat 32 (s.imageNat ks (o + 0x4C) 4), mask := if isQ then 0 else BitVec.ofNat 16 q,
    rows := if isQ then q % 128 else 0, va := BitVec.ofNat 512 (s.imageNat ks (o + 0x80) 64),
    vb := BitVec.ofNat 512 (s.imageNat ks (o + 0xC0) 64), slot := x.1, slot2 := x.2.1, slots := x.2.2.1,
    cfg := x.2.2.2, maps := [], started := false, doneAt := 0, got := [], wrote := [], noP := [], since := 0,
    failing := none }

/-- Special registers from an image, with R20's rule for RND (R299). -/
def State.imageSpecials (s : State) (ks : List Nat) : Specials :=
  let g (i : Nat) : Word := s.imageWord ks (0x40 + 8 * i)
  let st := g 0 &&& 0xFF
  { status := if rndBad (st.extractLsb' 2 3) then (st &&& ~~~0x1C#64) ||| 0x4 else st,
    tcause := g 1, tinfo := g 2, tepc := g 3, febudget := g 4, fill := g 5,
    bounds := (List.range 6).map fun i => g (6 + i), cwp := (List.range 4).map fun i => g (0x10 + i),
    estat := g 0x14, fmta := g 0x16, fmtb := g 0x17, fmtc := g 0x18, scla := g 0x19, sclb := g 0x1A,
    tileb := g 0x1B, deadline := g 0x1C, stamp := g 0x1D, region := g 0x1E, domain := g 0x1F }

/-- Registers from an image: values, open bits, poison. -/
def State.imageRegs (s : State) (ks : List Nat) (win : Nat) : List RegEntry :=
  let opens := s.imageNat ks 0x200 16
  (List.range win).map fun i =>
    { val := BitVec.ofNat 512 (s.imageNat ks (0x280 + 64 * i) 64),
      pres := if opens.testBit i then .opened else .present, poison := s.bad (ks.getD (10 + i) 0) }

/-- Where the sections of an image start: FORMAT, window, queue entries, latches, tile slots. -/
structure ImageShape where
  win : Nat
  q : Nat
  bl0 : Bool
  bl1 : Bool
  tiles : Nat
  pool : Nat
  deriving DecidableEq, Repr

/-- The shape of an image (R297). -/
def State.imageShape (s : State) (ks : List Nat) : ImageShape :=
  let f := s.imageNat ks 0 8
  { win := f % 256, q := f / 2 ^ 16 % 64, bl0 := f.testBit 22, bl1 := f.testBit 23,
    tiles := f / 2 ^ 24 % 128, pool := s.imageNat ks 0x28 8 }

/-- Start of the queue image. -/
def ImageShape.queue (m : ImageShape) : Nat := 0x280 + 64 * m.win
/-- Start of the latches. -/
def ImageShape.latches (m : ImageShape) : Nat := m.queue + 256 * m.q
/-- Start of the tile slots. -/
def ImageShape.tileAt (m : ImageShape) : Nat :=
  m.latches + (if m.bl0 then 8192 else 0) + (if m.bl1 then 8192 else 0)
/-- Start of the pool. -/
def ImageShape.poolAt (m : ImageShape) : Nat := m.tileAt + 16512 * m.tiles

/-- A thread as its image gives it, on the record that the device kept, but for its queue image. -/
def State.imageThread (s : State) (keep : Thread) (ks : List Nat) : Thread :=
  let m := s.imageShape ks
  let f := s.imageNat ks 0 8
  { keep with
    cls := Cls.ofCode (f / 2 ^ 8 % 8), prio := f / 2 ^ 11 % 32, rcb := s.imageWord ks 0x20,
    regs := s.imageRegs ks m.win, masks := (List.range 7).map fun i => s.imageWord ks (0x148 + 8 * i),
    segs := (List.range 8).map fun i => BitVec.ofNat 128 (s.imageNat ks (0x180 + 16 * i) 16),
    pc := s.imageWord ks 8, sp := s.imageSpecials ks }

/-- A tile slot from its section, as the operations performed so far had made it. -/
def State.loadTile (s : State) (ks : List Nat) (o c i : Nat) : State :=
  let s := s.writeBytes (s.slotKey c i) ((List.range 256).flatMap fun l => natBytes 64 (s.imageNat ks (o + 64 * l) 64))
  let h := o + 16384
  let cfg := s.imageNat ks h 8
  let kind := s.imageNat ks (h + 16) 1
  let k : SlotKind := if kind = 1 then .ranked (cfg % 8) (cfg.testBit 3) (cfg.testBit 4)
    else if kind = 2 then .second else .plain
  let hdr : RankHdr := if kind = 1 then
      ⟨(List.range 64).map fun j => s.imageNat ks (h + 64 + j) 1, s.imageNat ks (h + 8) 4, s.imageNat ks (h + 12) 4⟩
    else ⟨[], 0, 0⟩
  s.setTile c i ⟨k, k, hdr, s.bad (ks.getD (o / 64) 0)⟩

/-- The queue image of a thread placed anew, in its order: an MZERO in it has declared its slots plain for the operations
issued after it (R214, R298). -/
def State.imageOps (s : State) (t : Thread) (ks : List Nat) (o n : Nat) : State × List EngineOp :=
  (List.range n).foldl (fun (p : State × List EngineOp) i =>
    let e := p.1.imageOp t ks (o + 256 * i) p.1.serial
    let s := { p.1 with serial := p.1.serial + 1 }
    (match e.instr with
      | some (.mzero _) => s.declarePlain t.id.core.toNat e.slot
      | _ => s, p.2 ++ [e])) (s, [])

/-- A saved latch may be written: it can take bytes, or still holds the fill that was saved (R215, R216, R228). -/
def State.latchFree (s : State) (keep : Thread) (c : Nat) (lat : Bool) : Bool :=
  let k := s.core c
  let l := if lat then k.latch1 else k.latch0
  s.latchOpen c lat ||
    (l.full && keep.id.core.toNat = c && keep.saved.any fun x => x.1 = lat && x.2.1 = l.fillNo)

/-- The thread's own BLOAD made the fill of a latch that its image saves. -/
def Thread.ownFill (t : Thread) (lat : Bool) : Bool := t.saved.any fun x => x.1 = lat && x.2.2

/-- A saved latch is written from its section; one that still holds the fill that was saved stays as it is. A fill that
its own BLOAD had made is the thread's as before; one that a BROT had made is nobody's (R228). -/
def State.loadLatch (s : State) (ks : List Nat) (o c : Nat) (lat : Bool) (keep : Thread) (t : Ident) : State :=
  let k := s.core c
  let old := if lat then k.latch1 else k.latch0
  let who := if keep.ownFill lat then some t else none
  if old.full then
    let x := if keep.ownFill lat then { old with filler := who } else old
    s.setCore c (if lat then { k with latch1 := x } else { k with latch0 := x })
  else
    let s := s.writeBytes (latchKey c lat 0)
      ((List.range 128).flatMap fun l => natBytes 64 (s.imageNat ks (o + 64 * l) 64))
    let x : Latch := { full := true, poison := s.bad (ks.getD (o / 64) 0), fillNo := s.serial, filler := who }
    { s.setCore c (if lat then { k with latch1 := x } else { k with latch0 := x }) with serial := s.serial + 1 }

/-- Place an image, but for its pool section, on a core, in a slot, at a window base, a scratch offset and a first tile
slot (R299). -/
def State.placeImage (s : State) (keep : Thread) (ks : List Nat) (c slot wbase po ts : Nat) :
    State × Thread :=
  let m := s.imageShape ks
  let t := s.imageThread keep ks
  let id := mkIdent (BitVec.ofNat 11 c) slot
  let d1 := t.seg 1
  let seg1 := if m.pool = 0 then d1 else mkSeg (BitVec.ofNat 64 (poolKey c po)) (segLimit d1) (segRights d1)
  let stop := s.imageWord ks 0x30
  let t1 : Thread := { t with
    id := id, wbase := wbase, state := .held, released := false, firstTurn := 0,
    voids := ((List.range m.win).map fun i => (s.cyc, BitVec.ofNat 7 i)).filter fun v => (t.entry v.2).pres = .opened,
    segs := t.segs.set 1 seg1, ctx := 0, saved := [],
    pool := if m.pool = 0 then none else some (po, m.pool), tiles := (ts, m.tiles),
    disp := t.disp.map fun d => { d with
      pool := if m.pool = 0 then none else some (po, m.pool), tiles := (ts, m.tiles) },
    sp := { t.sp with tileb := if m.tiles = 0 then t.sp.tileb else BitVec.ofNat 64 ts },
    wait := if stop = BitVec.allOnes 64 then .none else .pause stop.toNat,
    pc := if stop = BitVec.allOnes 64 then t.pc else t.pc - 8 }
  let s := (List.range m.tiles).foldl (fun s i => s.loadTile ks (m.tileAt + 16512 * i) c (ts + i)) s
  let s := if m.bl0 then s.loadLatch ks m.latches c false keep id else s
  let s := if m.bl1 then s.loadLatch ks (m.tileAt - 8192) c true keep id else s
  let (s, ops) := s.imageOps t1 ks m.queue m.q
  let openN := ((ops.filter fun o => o.batch = t1.nextBatch).map fun o => o.idx.toNat + 1).foldl max 0
  (s, { t1 with image := ops, batchOps := max t1.batchOps openN })

/-- The record of a restored thread stands: HELD, then READY unless something still holds it (R67). -/
def State.settleRestored (s : State) (t : Thread) : State :=
  let held : Bool := match s.region? t.regionId with
    | some r => r.hold != .free && t.cls == .leaf
    | none => false
  s.releaseThread { t with regionHeld := held }

/-- A leaf may run on a core: units and channel of its rule are there, and a stamped leaf keeps its cluster (R85, R88,
R299, R301). -/
def State.leafMay (s : State) (t : Thread) (c : Nat) : Bool :=
  t.cls != .leaf ||
    ((t.spec.all fun sp => sp.cluster = clusterOf c) &&
      match s.region? t.regionId with
      | none => true
      | some r => match s.peek r.domain t.rcb with
        | some k => s.serves (r.rule (s.rcbRule k)) c
        | none => true)

/-- Where a context of a shape finds its scratch run and its first tile slot on a core that may take it (R299). -/
def State.ctxPlace (s : State) (keep : Thread) (m : ImageShape) (c : Nat) : Option (Nat × Nat) :=
  if !s.reachable c || !s.leafMay keep c || (m.bl0 && !s.latchFree keep c false) ||
      (m.bl1 && !s.latchFree keep c true) then none
  else
    match s.poolPlace c m.pool, s.tilePlace c m.tiles with
    | some po, some ts => some (po, ts)
    | _, _ => none

/-- Where a context of a shape finds room on a core: slot, window base, scratch offset, first tile slot (R299). -/
def State.ctxRoom (s : State) (keep : Thread) (m : ImageShape) (c : Nat) (slot : Option Nat) :
    Option (Nat × Nat × Nat × Nat) :=
  match (match slot with | some i => some i | none => s.freeSlot c), s.freeRun c m.win, s.ctxPlace keep m c with
  | some i, some b, some p => some (i, b, p.1, p.2)
  | _, _, _ => none

/-- The slot in which a context is being placed, while its lines are read: HELD, with its window, its allocations and what
the device kept of the thread (R67, R299). -/
def State.placing (keep : Thread) (m : ImageShape) (c : Nat) (p : Nat × Nat × Nat × Nat) : Thread :=
  { keep with
    id := mkIdent (BitVec.ofNat 11 c) p.1, state := .held, wbase := p.2.1, ctx := 0, released := false,
    regs := List.replicate m.win { val := 0, pres := .present, poison := false },
    pool := if m.pool = 0 then none else some (p.2.2.1, m.pool), tiles := (p.2.2.2, m.tiles) }

/-- The reading of a context begins on a core: its first line gives its shape, and it is placed where it finds room; none
where it finds none (R299, R301). -/
def State.restoreOn (s0 : State) (keep : Thread) (a : Word) (bytes c : Nat) (slot : Option Nat) : Option State :=
  let kept := ((s0.thread? keep.id).map (·.ctx)) = some a
  match s0.agentKey .spill 0 0 a false with
  | (s, none) => gate s0 (s, false) id
  | (s, some k) =>
    let m := s.imageShape [k]
    match s.ctxRoom keep m c slot with
    | none => none
    | some p =>
      let t := State.placing keep m c p
      let j : CtxJob := { t := t.id, restore := true, addr := a, lines := bytes / 64, head := m.poolAt / 64, done := 1,
                          read := false, keepSlot := kept, saved := keep.saved, home := keep.id }
      let s := s.moveLines [(k, stageKey a 0)]
      let s := if kept then s.placed.freeThread keep.id else s.placed
      some (({ s with jobs := s.jobs ++ [j], spilled := s.spilled.filter fun x => x.addr != a }).setThread t)

/-- A context has been read: the latches that it saves can be written, its RCB is, and the thread stands in its slot
(R299). -/
def State.restored (s : State) (t : Thread) (j : CtxJob) : Option State :=
  let ks := (List.range (max j.lines j.head)).map (stageKey j.addr)
  let m := s.imageShape ks
  let c := t.id.core.toNat
  let keep := { t with id := j.home }
  let held : Bool := match s.region? t.regionId with
    | some r => r.hold != .free
    | none => false
  if (m.bl0 && !s.latchFree keep c false) || (m.bl1 && !s.latchFree keep c true) then none
  else
    gate s (s.leafRcb (s.imageThread keep ks) (if held then stHeld else stRunning) 0
      (if j.home.core != t.id.core then 0x40 else 0)) fun s =>
      let (s, u) := s.placeImage keep ks c t.id.slot t.wbase (t.pool.getD (0, 0)).1 t.tiles.1
      let s := s.dropJob j
      ({ s with arena := s.arena.filter fun x => x.1 != j.addr }).settleRestored u

/-- The next access of a context that is being read: a line is read from the arena, and a pool line is then written, with
its bits; and after the last the thread is there (R299). -/
def State.restoreLine (s : State) (t : Thread) (j : CtxJob) : Option State :=
  let x := stageKey j.addr j.done
  let next : CtxJob := { j with done := j.done + 1, read := false }
  if j.lines ≤ j.done then s.restored t j
  else if j.read then some ((s.moveLines [(x, t.poolLine j)]).setJob next)
  else
    match s.agentKey .spill 0 0 (j.addr + BitVec.ofNat 64 (64 * j.done)) false with
    | (s', none) => gate s (s', false) id
    | (s', some k) =>
      let inPool := decide (j.head ≤ j.done) && decide (64 * (j.done - j.head) < (t.pool.getD (0, 0)).2)
      some ((s'.moveLines [(k, x)]).setJob (if inPool then { j with read := true } else next))

/-- The next access of a context under way at a slot; none while a kill of its thread is (R316). -/
def State.jobLine (s : State) (id : Ident) (restore : Bool) : Option State :=
  match s.jobOf id, s.thread? id with
  | some j, some t =>
    if t.killed.isSome || j.restore != restore then none
    else if restore then s.restoreLine t j else s.spillLine t j
  | _, _ => none

end Sys2Proof.Machine
end

