-- ==== Sys2Proof/Machine/Sys.lean ====
section
/-! DEFINITION. The SYS group's registers: SRD, SWR and the writes with rows of their own, CAPQ, RCBRD, BRK,
WAKEP and TLBINV (R18 to R20, R142, R217, R281, R283, R293, R307 to R311, R319 to R324). -/

namespace Sys2Proof.Machine

/-! ## Levels and peeks -/

/-- An instruction of system level (R18). -/
def systemX (s : State) (t : Thread) : X Unit := need (t.level = 2) (priv s)

/-- A register's contents, where a read of it would give them. -/
def Thread.peek (t : Thread) (r : RegNum) : Option Reg :=
  let e := t.entry r
  if r.toNat < t.win && e.pres = .present && !e.poison then some e.val else none

/-- A range test on a selector. -/
def inRange (x lo n : Nat) : Bool := decide (lo ≤ x) && decide (x < lo + n)

/-! ## The state word (R313) -/

/-- State code. -/
def SlotState.code : SlotState → Nat
  | .ready => 1 | .parked => 2 | .held => 3 | .spilled => 4 | .trapped => 5 | .migrating => 6

/-- WHY of a thread that waits for an ordinary access. -/
def State.whyAccess (s : State) (t : Thread) : Nat :=
  let l := s.ordinaryOf t.id
  if l.any fun a => match a.form with | .barwait _ => true | _ => false then 10
  else if l.any Access.withdrawable then 2
  else 1

/-- The park reason, none for a READY thread; DEDUCED, log 22 for the waits that the table does not list. -/
def State.why (s : State) (t : Thread) : Nat :=
  match (if t.state = .ready then .none else if t.state = .held then t.ownWait else t.wait) with
  | .none => 0
  | .access _ _ | .rolledBack => s.whyAccess t
  | .queueFull | .queueRoom | .batchFull | .commitFull | .mwait _ | .slotOps _ _ => 3
  | .copyFull _ | .cwait _ _ => 4
  | .reg _ => 5
  | .page | .enginePage => 6
  | .pause _ => 7
  | .endDrain | .decision _ | .migrate | .unit _ | .killed => 8
  | .send _ _ | .chset _ _ | .link _ => 9
  | .oldest => 11
  | .launchLimit => 12
  | .relaxed8 | .sameWord _ | .fence _ _ | .ifence | .target _ | .kill _ | .spill _ | .spilling _ _ | .region _ _
  | .tlbinv _ _ _ | .collapse _ | .inval _ => 1

/-- The state word. -/
def State.stateWord (s : State) (t : Thread) : Word :=
  BitVec.ofNat 64 (2 ^ 32 * t.regionId + 2 ^ 24 * t.prio + 2 ^ 20 * t.cls.code + 2 ^ 12 * (t.wbase / 8) +
    2 ^ 8 * (t.win / 8 - 1) + 2 ^ 4 * s.why t + (if t.dbg then 8 else 0) + t.state.code)

/-- The state word of a thread identity; a FREE slot reads zero, and so does one of no core. -/
def State.slotWord (s : State) (t : Ident) : Word :=
  match (if isCore t.core.toNat then s.thread? t else none) with
  | some x => s.stateWord x
  | none => 0

/-! ## System registers (R309) -/

/-- %unitmap. -/
def State.unitmap (s : State) (sel : Nat) : Word :=
  if isCore sel then (s.unitWord sel).zeroExtend 64
  else if inRange sel 0x1000 256 then (s.strait (sel - 0x1000)).zeroExtend 64
  else if inRange sel 0x2000 96 then if s.sys.units.noChannels.contains (sel - 0x2000) then 0 else 1
  else if inRange sel 0x3000 32 then if s.sys.units.noPorts.contains (sel - 0x3000) then 0 else 1
  else 0

/-- %fedir: live Skerries on a frame's words; an address of 2^52 or more names no frame. -/
def State.fedir (s : State) (frame : Nat) : Word :=
  if 2 ^ 52 ≤ frame then 0
  else BitVec.ofNat 64 (s.accs.filter fun a => a.stage = .skerry &&
    (a.key.map (· / 2 ^ 17)) = some (frame / 2 ^ 17)).length

/-- %engq. -/
def State.engqWord (s : State) (sel : Nat) : Word :=
  match (s.core (sel / 32)).engq[sel % 32]? with
  | some o => BitVec.ofNat 64 (2 ^ 63 + 2 ^ 32 * o.batch.toNat + 2 ^ 24 * fFn8 o.word +
      (if fOp o.word = 0xA0 then 2 ^ 23 else 0) + (if o.started then 2 ^ 22 else 0) + o.t.toNat)
  | none => 0

/-- %copyq. -/
def State.copyqWord (s : State) (sel : Nat) : Word :=
  match (s.copyQueue (sel / 32) (sel / 8 % 4))[sel % 8]? with
  | some o => BitVec.ofNat 64 (2 ^ 63 + (if o.started then 2 ^ 62 else 0) +
      2 ^ 17 * min o.landed (2 ^ 32 - 1) + o.t.toNat)
  | none => 0

/-- A column's %throttle word. -/
def State.throttleWord (s : State) (i : Nat) : Word := ((tabGet i s.sys.columns).map (·.word)).getD 0

/-- A system register read with its selector; an element that does not exist reads zero. -/
def State.sysReg (s : State) (idx : Nat) (sel : Word) : Word :=
  let n := sel.toNat
  let c := targetCore sel
  if idx = 0x100 then s.unitmap n
  else if idx = 0x101 then if n < 16 then s.throttleWord n else 0
  else if idx = 0x102 then s.sys.pagesvc
  else if idx = 0x103 then if s.reachable n then BitVec.ofNat 64 (s.core n).acc else 0
  else if idx = 0x104 then if s.reachable c then (s.chan c (targetChan sel)).low else 0
  else if idx = 0x105 then
    if s.reachable c then (s.chanWord c (targetChan sel)).extractLsb' 64 64 else 0
  else if idx = 0x106 then if n < 16384 then s.domWord (BitVec.ofNat 32 (n / 4)) (n % 4) else 0
  else if idx = 0x107 then if n < 24 then s.sys.shares.getD n 0 else 0
  else if idx = 0x108 then if n = 0 then s.sys.spillBase else if n = 1 then s.sys.spillLimit else 0
  else if idx = 0x109 then s.sys.syscall
  else if idx = 0x10B then if n < 256 then s.sys.errlog.getD n 0 else 0
  else if idx = 0x10C then s.fedir n
  else if idx = 0x10D then
    if isCore n then BitVec.ofNat 64 ((s.core n).dropNext % 2 ^ 32 + 2 ^ 32 * ((s.core n).dropPrev % 2 ^ 32))
    else 0
  else if idx = 0x10E then if isCore (n / 32) then s.engqWord n else 0
  else if idx = 0x10F then if n < 2 ^ 17 then s.slotWord (BitVec.ofNat 17 n) else 0
  else if idx = 0x110 then if isCore (n / 32) then s.copyqWord n else 0
  else 0

/-- Bits of %pagesvc and %syscall that exist. -/
def targetMask : Word := 0x8000_0000_001F_07FF

/-- Requests kept in the MMUs are sent once EN is 1 (R309). -/
def State.sendPageReqs (s : State) : State :=
  if s.sys.pagesvc.getLsbD 63 then
    s.pageReqs.foldl (fun s g => s.pageRequest g) { s with pageReqs := [] }
  else s

/-- A write of a domain table word (R311): word 0 is refused with reserved bits set. -/
def State.writeDomain (s : State) (n : Nat) (v : Word) : State :=
  let old := (tabGet (n / 4) s.sys.domains).getD []
  let new : Word := if n % 4 = 1 then v &&& 0x000F_FFFF_FFFF_F000
    else if n % 4 = 3 then v &&& 0xFFFF_FFFF else v
  if n % 4 = 0 && v.extractLsb' 21 43 != 0 then s
  else { s with sys := { s.sys with
    domains := tabPut (n / 4) ((List.range 4).map fun i => if i = n % 4 then new else old.getD i 0) s.sys.domains } }

/-- A system register that SWR writes by its own row: 0x102, 0x106 to 0x109. -/
def State.writeSysReg (s : State) (idx : Nat) (sel v : Word) : State :=
  let n := sel.toNat
  if idx = 0x102 then ({ s with sys := { s.sys with pagesvc := v &&& targetMask } }).sendPageReqs
  else if idx = 0x106 then if n < 16384 then s.writeDomain n v else s
  else if idx = 0x107 then
    if n < 24 then { s with sys := { s.sys with shares := s.sys.shares.set n (v &&& 0xFF) } } else s
  else if idx = 0x108 then
    if n = 0 then
      if v.extractLsb' 0 6 = 0 then { s with sys := { s.sys with spillBase := v } } else s
    else if n = 1 then { s with sys := { s.sys with spillLimit := v } }
    else s
  else if idx = 0x109 then { s with sys := { s.sys with syscall := v &&& targetMask } }
  else s

/-- An index that names a register (R19, R309). -/
def idxKnown (i : Nat) : Bool := decide (i < 0x20) || inRange i 0x100 0x11

/-- SRD (R308). -/
def execSrd (d : RegNum) (idx : BitVec 12) (b : RegNum) (s : State) :
    Host.Outcome State Fault Refusal :=
  runT s fun s t => do
    need (idxKnown idx.toNat) (ill s)
    if idx.toNat < 0x100 then do
      windowX t [d]
      destX t d
      done s t d (ofScalar (s.special t idx.toNat))
    else do
      need (1 ≤ t.level) (priv s)
      windowX t [d, b]
      let x ← readX t b
      destX t d
      done s t d (ofScalar (s.sysReg idx.toNat (scalar x)))

/-- Special registers that every thread may write. -/
def userWrites (i : Nat) : Bool := inRange i 5 7 || inRange i 0x16 6

/-- A special register written. -/
def Thread.setSpecial (t : Thread) (i : Nat) (v : Word) : Thread :=
  let p := t.sp
  let q : Specials := if i = 0x04 then { p with febudget := v } else if i = 0x05 then { p with fill := v }
    else if i < 0x0C then { p with bounds := p.bounds.set (i - 6) v }
    else if i = 0x16 then { p with fmta := v } else if i = 0x17 then { p with fmtb := v }
    else if i = 0x18 then { p with fmtc := v } else if i = 0x19 then { p with scla := v }
    else if i = 0x1A then { p with sclb := v } else if i = 0x1B then { p with tileb := v }
    else p
  { t with sp := q }

/-- A value that a format register accepts; other registers accept all (R32). -/
def fmtRegOk (i : Nat) (v : Word) : Bool :=
  if i = 0x16 || i = 0x17 then fmtOk v else if i = 0x18 then fmtcOk v else true

/-- SWR of a register without a row of its own (R19, R308). -/
def execSwr (idx : BitVec 12) (a b : RegNum) (s : State) : Host.Outcome State Fault Refusal :=
  runT s fun s t => do
    let i := idx.toNat
    need (idxKnown i) (ill s)
    valueX s t a fun x => fmtRegOk i (scalar x)
    if i < 0x100 then do
      need (userWrites i || (i = 0x04 && decide (1 ≤ t.level))) (priv s)
      windowX t [a]
      let x ← readX t a
      return (s, (t.setSpecial i (scalar x)).adv)
    else do
      need (t.level = 2 && (i = 0x102 || inRange i 0x106 4)) (priv s)
      windowX t [a, b]
      let x ← readX t a
      let y ← readX t b
      return (s.writeSysReg i (scalar y) (scalar x), t.adv)

/-! ## Writes with rows of their own -/

/-- SWR of %status: RND is never 0, 6 or 7, and the level never rises (R17, R20). -/
def execStatusWrite (a : RegNum) (s : State) : Host.Outcome State Fault Refusal :=
  runT s fun s t => do
    valueX s t a fun x => !rndBad ((scalar x).extractLsb' 2 3)
    let low := (t.peek a).map fun x => ((scalar x).extractLsb' 0 2).toNat
    need (low.all fun l => decide (l ≤ t.level)) (priv s)
    windowX t [a]
    let x ← readX t a
    return (s, { t with sp := { t.sp with status := scalar x &&& 0xFF } }.adv)

/-- Tile slots renumbered by a change of the partition: those that remain keep their bytes (R142). -/
def shiftTiles (old new : Nat) (l : Tab TileSlot) : Tab TileSlot :=
  (l.filter fun p => decide (4 * old ≤ p.1 + 4 * new)).map fun p => (p.1 + 4 * new - 4 * old, p.2)

/-- A valid write of ACC takes effect, or is refused (R142). One that names a system core, whose ACC is fixed, is
refused too, and traps nothing (DESIGN CHOICE, log 44). -/
def State.writePartition (s : State) (c new : Nat) : State :=
  let k := s.core c
  let lo := poolBytes - 0x1_0000 * max k.acc new
  let n := 0x1_0000 * (max k.acc new - min k.acc new)
  if 0x400 ≤ c || !s.reachable c || k.acc = new || !k.engq.isEmpty ||
      (s.poolUse c).any (fun r => !apart lo n r.1 r.2) || (s.tileUse c).any (fun r => r.2 != 0) then s
  else
    (s.setCore c { k with acc := new, tiles := shiftTiles k.acc new k.tiles }).cleared (poolKey c lo) n

/-- SWR of %partition (R142). -/
def execPartitionWrite (a b : RegNum) (s : State) : Host.Outcome State Fault Refusal :=
  runT s fun s t => do
    let bad := match t.peek a, t.peek b with
      | some x, some y => decide ((scalar y).toNat < 0x400) &&
          !(inRange ((scalar x).extractLsb' 0 5).toNat 1 16)
      | _, _ => false
    need (!bad) (ill s)
    systemX s t
    windowX t [a, b]
    let x ← readX t a
    let y ← readX t b
    return (s.writePartition (scalar y).toNat ((scalar x).extractLsb' 0 5).toNat, t.adv)

/-- Deposits or started BROTs in flight in a cluster (R217). -/
def State.ringBusy (s : State) (cl : Nat) : Bool :=
  s.cores.any fun p => clusterOf p.1 = cl &&
    (!p.2.next.isEmpty || !p.2.prev.isEmpty || p.2.engq.any fun o => o.started &&
      match o.instr with | some (.brot _ _) => true | _ => false)

/-- A sub-ring change takes effect once nothing is in flight (R217). -/
def State.settleAtoll (s : State) (cl : Nat) : State :=
  match tabGet cl s.sys.atollNext with
  | none => s
  | some g =>
    if s.ringBusy cl then s
    else { s with sys := { s.sys with atoll := tabPut cl g s.sys.atoll,
                                      atollNext := tabDel cl s.sys.atollNext } }

/-- SWR of %atoll (R217). -/
def execAtollWrite (a : RegNum) (s : State) : Host.Outcome State Fault Refusal :=
  runT s fun s t => do
    systemX s t
    windowX t [a]
    let x ← readX t a
    let cl := clusterOf t.id.core.toNat
    let s1 : State :=
      { s with sys := { s.sys with atollNext := tabPut cl ((scalar x).extractLsb' 0 2) s.sys.atollNext } }
    return (s1.settleAtoll cl, t.adv)

/-- A channel entry from its word (R70). -/
def Chan.ofWord (w : Word) : Chan :=
  { npay := (w.extractLsb' 47 4).toNat, prio := (w.extractLsb' 42 5).toNat,
    cls := Cls.ofCode (w.extractLsb' 39 3).toNat, xsd := w.getLsbD 38, ready := w.getLsbD 37,
    hold := w.getLsbD 36, win := (w.extractLsb' 32 4).toNat, entry := w.extractLsb' 0 32 }

/-- An entry that a write may store; channels 0 to 3 keep their classes (R70, R71). -/
def chanWordOk (w : Word) (ch : BitVec 5) (old : Cls) : Bool :=
  decide ((w.extractLsb' 42 5).toNat ≤ 23) && decide ((w.extractLsb' 47 4).toNat ≤ 8) &&
    w.extractLsb' 39 3 != 7 && w.extractLsb' 0 3 = 0 && w.extractLsb' 51 13 = 0 &&
    (decide (4 ≤ ch.toNat) || (Chan.ofWord w).cls == old)

/-- SWR of a channel entry (R70, R309). -/
def execChannelEntryWrite (a b : RegNum) (s : State) : Host.Outcome State Fault Refusal :=
  runT s fun s t => do
    systemX s t
    windowX t [a, b]
    let x ← readX t a
    let y ← readX t b
    let c := targetCore (scalar y)
    let ch := targetChan (scalar y)
    if s.reachable c && chanWordOk (scalar x) ch (s.chan c ch).cls then
      return (s.setChan c ch (Chan.ofWord (scalar x)), t.adv)
    else return (s, t.adv)

/-- SWR of %scrub (R293). It is no access: it settles no Skerry of the frame's words, and wakes no WAITV (R153, DESIGN
CHOICE, log 53). -/
def execScrub (a b : RegNum) (s : State) : Host.Outcome State Fault Refusal :=
  runT s fun s t => do
    systemX s t
    windowX t [a, b]
    let x ← readX t a
    let _ ← readX t b
    let k := (scalar x).toNat / 2 ^ 17 * 2 ^ 17
    return (if paSpace k < 5 then s.scrubbed k (2 ^ 17) else s, t.adv)

/-- SWR of %errlog: 0 clears an entry; another value is refused (R309). -/
def execErrlogClear (a b : RegNum) (s : State) : Host.Outcome State Fault Refusal :=
  runT s fun s t => do
    systemX s t
    windowX t [a, b]
    let x ← readX t a
    let y ← readX t b
    if scalar x = 0 && decide ((scalar y).toNat < 256) then
      return ({ s with sys := { s.sys with errlog := s.sys.errlog.set (scalar y).toNat 0 } }, t.adv)
    else return (s, t.adv)

/-! ## Readback -/

/-- The live region whose allocated arena holds an RCB address; the reader's own domain first (R321). -/
def State.arenaOf (s : State) (t : Thread) (a : Word) : Option Region :=
  let l := (s.regions.map (·.2)).filter fun r =>
    decide (r.arenaBase.toNat ≤ a.toNat) && decide (a.toNat + 128 ≤ r.arenaNext.toNat)
  match l.find? fun r => r.domain = t.dom with
  | some r => some r
  | none => if t.level = 0 then none else l.head?

/-- RCBRD (R321). -/
def execRcbrd (d a : RegNum) (s : State) : Host.Outcome State Fault Refusal :=
  runT s fun s t => do
    windowX t [d, d + 1, a]
    let x ← readX t a
    destsX t [d, d + 1]
    let w := scalar x
    match (if w.toNat % 128 = 0 then s.arenaOf t w else none) with
    | none =>
      return (s, ((t.setReg d (BitVec.allOnes 512)).setReg (d + 1) (BitVec.allOnes 512)).adv)
    | some r =>
      let (s, k) ← rcbReadX s t r.domain w 0 128
      return (s, ((t.setReg d (BitVec.ofNat 512 (s.read k 64))).setReg (d + 1)
        (BitVec.ofNat 512 (s.read (k + 64) 64))).adv)

/-- Upward Straits present and not withdrawn. -/
def State.liveStraits (s : State) : Nat :=
  ((List.range 256).filter fun i => (s.strait i).getLsbD 0 && !(s.strait i).getLsbD 2).length

/-- CAPQ's values (R322). -/
def State.capq (s : State) (w : Word) (sel : Nat) : Word :=
  if sel = 0 then s.cap (targetCore w)
  else if sel = 1 then
    BitVec.ofNat 64 (((List.range 0x400).filter s.reachable).length + 2 ^ 16 * s.liveStraits +
      2 ^ 32 * s.channels + 2 ^ 40 * (32 - s.sys.units.noPorts.length) +
      2 ^ 48 * (((List.range 16).map (0x400 + ·)).filter s.reachable).length)
  else if sel = 2 then BitVec.ofNat 64 (s.liveStraits * 0x300_0000)
  else if sel = 3 then s.base.myid.zeroExtend 64
  else s.unitmap w.toNat

/-- CAPQ (R322). -/
def execCapq (d a : RegNum) (sel : BitVec 3) (s : State) : Host.Outcome State Fault Refusal :=
  runT s fun s t => do
    need (sel.toNat < 5) (ill s)
    windowX t [d, a]
    let x ← readX t a
    destX t d
    done s t d (ofScalar (s.capq (scalar x) sel.toNat))

/-- BRK traps BREAK before itself (R324). -/
def execBrk (imm : BitVec 27) (s : State) : Host.Outcome State Fault Refusal :=
  runT s fun _ _ => trapX 0x10 (imm.zeroExtend 64)

/-! ## The page service -/

/-- A wake for a request's lane 1 and DVA (R283, R319). -/
def State.wakeFor (s : State) (w dva : Word) : State :=
  let id : Ident := w.extractLsb' 0 17
  if w.getLsbD 22 then { s with rewalks := s.rewalks ++ [(64, dva, true)] }
  else if w.extractLsb' 17 2 = 2 then
    { s with rewalks := s.rewalks ++ [(clusterOf id.core.toNat, dva, false)] }
  else s.post id.core 0 none 0 (.wake id.slot)

/-- WAKEP (R319). -/
def execWakep (a b : RegNum) (s : State) : Host.Outcome State Fault Refusal :=
  runT s fun s t => do
    systemX s t
    windowX t [a, b]
    let x ← readX t a
    let y ← readX t b
    return (s.wakeFor (scalar x) (scalar y), t.adv)

/-- The cached entries of a range in a scope are dropped; scope 2 drops the base die's cache of import entries too
(R342). -/
def State.dropTlb (s : State) (lo len : Word) (scope : BitVec 2) (mine : Nat) : State :=
  { s with
    tlb := s.tlb.filter fun c =>
      !(tlbScope scope mine c.cluster && tlbHits lo len (c.page * 2 ^ c.bits) (2 ^ c.bits))
    base := { s.base with imports := if scope = 2 then [] else s.base.imports } }

/-- TLBINV: entries are dropped now, and the thread parks until the accesses that old entries translated have
been performed (R281, R320). -/
def execTlbinv (a b : RegNum) (scope : BitVec 2) (s : State) : Host.Outcome State Fault Refusal :=
  runT s fun s t => do
    need (scope != 3) (ill s)
    systemX s t
    windowX t [a, b]
    let x ← readX t a
    let y ← readX t b
    let lo : Word := ((scalar x).extractLsb' 0 53).zeroExtend 64
    let s := s.dropTlb lo (scalar y) scope (clusterOf t.id.core.toNat)
    .error (.parkIn s { t with state := .parked, wait := .tlbinv lo (scalar y) scope })

end Sys2Proof.Machine
end

