-- ==== Sys2Proof/Machine/Other.lean ====
section
/-! DEFINITION. The SYS group's reach into other threads and regions: THRD, THWR, THRES, THKILL, SPILL, REGHOLD
and REGREL (R18, R295 to R302, R307, R312 to R318). -/

namespace Sys2Proof.Machine

/-! ## Targets -/

/-- A target identity (R307). One whose core does not exist names no thread. -/
def identOf (x : Reg) : Ident :=
  let id : Ident := (scalar x).extractLsb' 0 17
  if isCore id.core.toNat then id else BitVec.allOnes 17

/-- The domain right over a target thread (R18). -/
def hasRight (t u : Thread) : Bool := t.level = 2 || (t.level = 1 && t.dom = u.dom)

/-- PRIV for want of the domain right; a user has it over no target, and a domain-level thread is tested once
the identity can be read (R18, R307). -/
def rightX (s : State) (t : Thread) (a : RegNum) : X Unit := do
  need (1 ≤ t.level) (priv s)
  match (t.peek a).bind fun x => s.thread? (identOf x) with
  | some u => need (hasRight t u) (priv s)
  | none => return ()

/-- Status codes (R312). -/
def stOk : Word := 0
/-- GATED. -/
def stGated : Word := 1
/-- OPEN. -/
def stOpen : Word := 2
/-- NOSUCH. -/
def stNosuch : Word := 3
/-- BUSY. -/
def stBusy : Word := 4
/-- DENIED. -/
def stDenied : Word := 5

/-! ## THRD (R312) -/

/-- Items that THRD reads. -/
def itemOk (i : Nat) : Bool :=
  decide (i < 0x92) || inRange i 0x100 0x20 || inRange i 0x140 0x42 || inRange i 0x1A0 0x40

/-- The bits of absent and of open registers. -/
def Thread.presence (t : Thread) : Reg :=
  let bits (p : Presence → Bool) : Nat := ((List.range t.win).map fun i =>
    if p (t.entry (BitVec.ofNat 7 i)).pres then 2 ^ i else 0).sum
  BitVec.ofNat 512 (bits (· != .present) + 2 ^ 128 * bits (· == .opened))

/-- The queue image entry and the 64 bytes of it that an item names. -/
def queueItem (i : Nat) : Option (Nat × Nat) :=
  if inRange i 0x140 0x20 then some (i - 0x140, 0)
  else if inRange i 0x160 0x20 then some (i - 0x160, 64)
  else if inRange i 0x1A0 0x20 then some (i - 0x1A0, 128)
  else if inRange i 0x1C0 0x20 then some (i - 0x1C0, 192)
  else none

/-- The DVA of the word or line that a thread's Skerry waits on; all ones if none. -/
def State.skerryDva (s : State) (t : Ident) : Word :=
  match (s.ordinaryOf t).find? fun a => a.stage = .skerry with
  | some a => a.dva
  | none => BitVec.allOnes 64

/-- An item of a thread whose queue image has these entries: contents and status. -/
def State.readItem (s : State) (u : Thread) (q : List (List Byte)) (i : Nat) : Reg × Word :=
  if i < 0x80 then
    let e := u.entry (BitVec.ofNat 7 i)
    if u.win ≤ i then (0, stGated)
    else if e.pres = .opened then (0, stOpen)
    else (e.val, stOk)
  else if i < 0x88 then (ofScalar (u.mask (BitVec.ofNat 3 (i - 0x80))), stOk)
  else if i < 0x90 then ((u.seg (BitVec.ofNat 3 (i - 0x88))).zeroExtend 512, stOk)
  else if i = 0x90 then (ofScalar u.pc, stOk)
  else if i = 0x91 then (u.presence, stOk)
  else if inRange i 0x100 0x20 then (ofScalar (s.special u (i - 0x100)), stOk)
  else if i = 0x181 then (ofScalar (s.skerryDva u.id), stOk)
  else
    match queueItem i with
    | some (n, o) =>
      match q[n]? with
      | some b => (BitVec.ofNat 512 (bytesNat ((b.drop o).take 64)), stOk)
      | none => (0, stNosuch)
    | none => (0, stNosuch)

/-- The queue image of a resident thread as entries. -/
def Thread.imageEntries (u : Thread) : List (List Byte) :=
  let (po, pn) := u.pool.getD (0, 0)
  u.image.map fun o => o.image (poolKey u.id.core.toNat po) pn

/-- The keys of n lines of an image in domain 0's space, as accesses of the reader, under R56's rule. -/
def imageKeysX (s : State) (t : Thread) (a : Word) : Nat → X (State × List Nat)
  | 0 => .ok (s, [])
  | n + 1 => do
    if t.dom = 0 then sameWordX s t a 64
    let (s, k) ← treeKeyIn s t 0 a false
    sameKeyX s t k 64
    let (s, ks) ← imageKeysX s t (a + 64) n
    return (s, k :: ks)

/-- An item of a SPILLED thread, from its image (R312). -/
def spilledItemX (s : State) (t u : Thread) (i : Nat) : X (State × Reg × Word) := do
  let bytes := ((s.arena.find? fun x => x.1 = u.ctx).map (·.2)).getD 0
  let (s, ks) ← imageKeysX s t u.ctx (min (bytes / 64) 266)
  let m := s.imageShape ks
  let v := s.imageThread u ks
  let q := (List.range m.q).map fun n =>
    (List.range 4).flatMap fun j => natBytes 64 (s.imageNat ks (m.queue + 256 * n + 64 * j) 64)
  let special := if inRange i 0x100 0x20 then some (s.imageWord ks (0x40 + 8 * (i - 0x100))) else none
  let (x, st) := s.readItem v q i
  return (s, match special with | some w => (ofScalar w, st) | none => (x, st))

/-- g[D] and g[D + 1] of THRD. -/
def thrdDone (s : State) (t : Thread) (d : RegNum) (r : Reg × Word) : X (State × Thread) :=
  .ok (s, ((t.setReg d r.1).setReg (d + 1) (ofScalar r.2)).adv)

/-- THRD (R312). -/
def execThrd (d a : RegNum) (item : BitVec 12) (s : State) : Host.Outcome State Fault Refusal :=
  runT s fun s t => do
    let i := item.toNat
    need (itemOk i) (ill s)
    rightX s t a
    windowX t [d, d + 1, a]
    let x ← readX t a
    destsX t [d, d + 1]
    match s.thread? (identOf x) with
    | none => thrdDone s t d (0, stNosuch)
    | some u => do
      need (s.targetClear u.id) (.park (.target u.id))
      if i = 0x180 then thrdDone s t d (ofScalar (s.stateWord u), stOk)
      else if u.state = .held ∨ u.state = .trapped then thrdDone s t d (s.readItem u u.imageEntries i)
      else if u.state = .spilled then
        let (s, r) ← spilledItemX s t u i
        thrdDone s t d r
      else thrdDone s t d (0, stBusy)

/-! ## THWR (R314) -/

/-- An item written into a HELD or TRAPPED thread; none where the write is refused. -/
def Thread.writeItem (u : Thread) (level : Nat) (i : Nat) (v : Reg) : Option Thread :=
  let w := scalar v
  if i < 0x80 then if u.win ≤ i then none else some (u.setReg (BitVec.ofNat 7 i) v)
  else if i < 0x88 then some (u.setMask (BitVec.ofNat 3 (i - 0x80)) w)
  else if i < 0x90 then
    if level = 2 && segValid (v.extractLsb' 0 128) then
      some (u.setSeg (BitVec.ofNat 3 (i - 0x88)) (v.extractLsb' 0 128))
    else none
  else if i = 0x90 then
    if u.state = .held && w.extractLsb' 0 3 = 0 then some { u.reopened with pc := w } else none
  else if i = 0x100 then
    if decide ((w.extractLsb' 0 2).toNat ≤ u.level) && !rndBad (w.extractLsb' 2 3) then
      some { u with sp := { u.sp with status := w &&& 0xFF } }
    else none
  else if i = 0x103 then
    if w.extractLsb' 0 3 = 0 then some { u with sp := { u.sp with tepc := w } } else none
  else if inRange i 0x104 8 || inRange i 0x116 6 then
    if fmtRegOk (i - 0x100) w then some (u.setSpecial (i - 0x100) w) else none
  else none

/-- A HELD thread whose program counter THWR has written: the instruction on which it was parked is left behind without
effect, so that the thread issues next at the new address. What it waited for as an engine does not end with that
(R314, DEDUCED, log 37). -/
def State.redirected (s : State) (u v : Thread) : State :=
  let keeps : Bool := match u.ownWait with
    | .enginePage | .queueRoom => true
    | _ => false
  if keeps then s.setThread v
  else ((s.undone { u with wait := u.ownWait }).dropOrdinary u.id).setThread (v.withWait .none)

/-- What THWR and its rows of their own meet first: the right, the registers, the target's accesses. -/
def thwrX (s : State) (t : Thread) (d a b : RegNum) : X (Ident × Reg) := do
  rightX s t a
  windowX t [d, a, b]
  let x ← readX t a
  let v ← readX t b
  destX t d
  need ((s.thread? (identOf x)).isNone || s.targetClear (identOf x)) (.park (.target (identOf x)))
  return (identOf x, v)

/-- THWR (R314). -/
def execThwr (d a b : RegNum) (item : BitVec 12) (s : State) : Host.Outcome State Fault Refusal :=
  runT s fun s t => do
    need (item.toNat < 0x192) (ill s)
    let (id, v) ← thwrX s t d a b
    match s.thread? id with
    | none => done s t d (ofScalar stNosuch)
    | some u =>
      if u.state = .spilled then done s t d (ofScalar stNosuch)
      else if u.state ≠ .held ∧ u.state ≠ .trapped then done s t d (ofScalar stBusy)
      else
        match u.writeItem t.level item.toNat v with
        | some u1 => done (if item = 0x90 then s.redirected u u1 else s.setThread u1) t d (ofScalar stOk)
        | none => done s t d (ofScalar stDenied)

/-- THWR item 0x190: the queue image is discarded (R225, R314). -/
def execDiscardQueueImage (d a b : RegNum) (s : State) : Host.Outcome State Fault Refusal :=
  runT s fun s t => do
    let (id, _) ← thwrX s t d a b
    match s.thread? id with
    | none => done s t d (ofScalar stNosuch)
    | some u =>
      if u.state = .spilled then done s t d (ofScalar stNosuch)
      else if u.state ≠ .held ∧ u.state ≠ .trapped then done s t d (ofScalar stBusy)
      else
        let v := if u.ownWait = .enginePage ∨ u.ownWait = .queueRoom then u.withWait .none else u
        done (s.setThread { v with image := [], roomWait := false }) t d (ofScalar stOk)

/-- A debug hold (R295, R314). -/
def State.debugHold (s : State) (u : Thread) : State × Thread :=
  if u.state = .trapped then (s, u)
  else
    let (s, u) := s.holdThread u
    (s, { u with dbg := true })

/-- The state with the debug hold of a SPILLED context released. -/
def State.debugFree (s : State) (u : Thread) : State :=
  if u.state = .spilled then s.setThread { u with dbg := false }
  else if u.dbg then s.releaseThread { u with dbg := false }
  else s

/-- THWR item 0x191: hold a thread for debug, or release it (R295, R314). A thread that holds itself stops
after this instruction. -/
def execDebugHold (d a b : RegNum) (s : State) : Host.Outcome State Fault Refusal :=
  runT s fun s t => do
    let (id, v) ← thwrX s t d a b
    let on := (scalar v).getLsbD 0
    if id = t.id then
      let t1 := (t.setReg d (ofScalar stOk)).adv
      return (if on then s.debugHold t1 else (s, t1))
    else
      match s.thread? id with
      | none => done s t d (ofScalar stNosuch)
      | some u =>
        if u.state = .migrating then done s t d (ofScalar stBusy)
        else if u.state = .spilled ∧ on then done s t d (ofScalar stNosuch)
        else if on then
          let (s, u) := s.debugHold u
          done (s.setThread u) t d (ofScalar stOk)
        else done (s.debugFree u) t d (ofScalar stOk)

/-! ## THRES and THKILL (R315, R316) -/

/-- A TRAPPED thread resumes; where its region's hold keeps it, its RCB is HELD (R98, R315). -/
def State.resumed (s : State) (u : Thread) : State :=
  let s := resumeTrap s u
  match s.thread? u.id with
  | some v => if v.regionHeld then s.holdRcb v else s
  | none => s

/-- A thread that a debugger holds is released; where its region is held, it stays HELD with it (R315). -/
def State.debugResumed (s : State) (u : Thread) : State :=
  let held : Bool := match s.region? u.regionId with
    | some r => r.hold != .free
    | none => false
  if held && !u.regionHeld then
    let v := { u with dbg := false, regionHeld := true }
    (s.setThread v).holdRcb v
  else s.releaseThread { u with dbg := false }

/-- THRES (R315). A target whose end is under way is in another state (R316). -/
def execThres (d a : RegNum) (s : State) : Host.Outcome State Fault Refusal :=
  runT s fun s t => do
    rightX s t a
    windowX t [d, a]
    let x ← readX t a
    destX t d
    match s.thread? (identOf x) with
    | none => done s t d (ofScalar 3)
    | some u =>
      if u.killed.isSome then done s t d (ofScalar 1)
      else if u.state = .trapped then done (s.resumed u) t d (ofScalar 0)
      else if u.state = .held ∧ u.dbg then done (s.debugResumed u) t d (ofScalar 0)
      else done s t d (ofScalar 1)

/-- The copies of a thread that have not started are discarded. -/
def State.dropUnstarted (s : State) (id : Ident) : State :=
  let c := id.core.toNat
  let k := s.core c
  if (s.copiesOf id).all (·.started) then s
  else s.setCore c { k with copyq := k.copyq.map fun q => q.filter fun o => o.t != id || o.started }

/-- A context of a thread that is on its way is no more. -/
def State.dropContext (s : State) (id : Ident) : State :=
  let keep (m : Msg) : Bool := match m.body with
    | .context _ _ _ => m.src != some id
    | _ => true
  { s with mesh := s.mesh.filter keep
           cores := s.cores.map fun c => (c.1, { c.2 with inbuf := c.2.inbuf.filter keep }) }

/-- The copies of a thread that have not started, by channel. -/
def State.unstartedCopies (s : State) (id : Ident) : List (Nat × CopyOp) :=
  (List.range 4).flatMap fun ch => ((s.copiesOn id ch).filter fun o => !o.started).map fun o => (ch, o)

/-- The start of a kill: unstarted operations and copies leave their queues, and the thread runs no more: a READY one is
PARKED, and another stays in its state until its slot is FREE (R67). What it had is kept until the kill ends, for a trap
of the killer's leaves the THKILL without effect (R57, R316). -/
def State.killStart (s : State) (by' : Ident) (u : Thread) : State :=
  if u.killed.isSome then s
  else
    let k : Killed := { by' := by', state := u.state, wait := u.wait, copies := s.unstartedCopies u.id }
    let (s, u) := s.unqueue u
    (s.dropUnstarted u.id).setThread { u with
      killed := some k, wait := .killed,
      state := if u.state = .ready then .parked else u.state }

/-- What the target of a kill waits for once its Skerries have been withdrawn, where the THKILL is undone: its instruction
issues again, behind what of it is on its way, and a WAITV has returned (R57, R156). -/
def State.withdrawnFrom (s : State) (u : Thread) (l : List Access) : State :=
  let v := u.withWait (if (s.ordinaryOf u.id).isEmpty then .none else .rolledBack)
  match l with
  | [a] => if a.form.kind = .waitv then (s.countInstr u).setThread v.adv else s.setThread v
  | _ => s.setThread v

/-- The second step of a kill: once what the target had started in the engine and on the copy channels is over, its Skerries
are withdrawn, before its issued accesses complete (R156, R316). -/
def State.killWithdraw (s : State) (u : Thread) : State :=
  let l := s.ordinaryOf u.id
  if !(s.copiesOf u.id).isEmpty || ((s.core u.id.core.toNat).engq.any fun o => o.t = u.id) || !l.any (·.withdrawable) then s
  else (s.withdrawSkerries u.id).withdrawnFrom u l

/-- Nothing is left of the commit buffer of a thread that is gone: its posted line, which a peer has acknowledged, and its
wait at the MMU (R177, R316). -/
def State.dropPosted (s : State) (t : Ident) : State :=
  { s with accs := s.accs.filter fun a => !(a.t = t && a.agent = .buffer)
           mmuWaits := s.mmuWaits.filter fun w => w.who != .buffer t }

/-- A thread that a kill ends: what it had begun is undone, and its image, pool, tile slots and slot are free (R227,
R316). -/
def State.killFree (s : State) (u : Thread) : State :=
  let s := (((s.undone { u with wait := u.ownWait }).dropOrdinary u.id).dropPosted u.id).cancelJob u.id
  (if u.state = .migrating then s.dropContext u.id else s).freeThread u.id

/-- The end of a kill: the box is FAULTED, and nothing of the thread is left (R98, R316). -/
def State.killEnd (s : State) (u : Thread) : State × Bool :=
  let free (s : State) : State := s.killFree u
  if u.rcb = 0 then (free s, true)
  else
    match s.region? u.regionId with
    | none => (free s, true)
    | some r =>
      match s.settleBoxAt r u.rcb stFaulted with
      | (s, true) => (free s, true)
      | (s, false) => (s, false)

/-- The first steps of a kill, as far as they can be taken at once (R316). -/
def State.killBegin (s0 : State) (by' : Ident) (u : Thread) : State :=
  let s := s0.killStart by' u
  s.killWithdraw ((s.thread? u.id).getD u)

/-- A thread that ends itself drains as END does, its unstarted operations and copies gone from their queues; they are
kept until it has ended, for a trap taken meanwhile leaves the THKILL without effect (R57, R316). -/
def State.endSelf (s : State) (t : Thread) : Stop :=
  let k : Killed := { by' := t.id, state := .ready, wait := .none,
                      copies := (match t.killed with | some k => k.copies | none => []) ++ s.unstartedCopies t.id }
  let (s, t) := (s.dropUnstarted t.id).unqueue t
  .parkIn s { t with killed := some k, state := .parked, wait := .endDrain }

/-- THKILL (R316). A thread that ends itself drains as END does. -/
def execThkill (d a : RegNum) (s : State) : Host.Outcome State Fault Refusal :=
  runT s fun s t => do
    rightX s t a
    windowX t [d, a]
    let x ← readX t a
    destX t d
    let id := identOf x
    if id = t.id then
      if t.rcb = 0 then .error (s.endSelf t)
      else done s t d (ofScalar 1)
    else
      match s.thread? id with
      | none => done s t d (ofScalar 3)
      | some u =>
        if u.state ≠ .trapped ∧ u.rcb ≠ 0 then done s t d (ofScalar 1)
        else if u.state = .spilled then
          done ({ s.freeThread id with arena := s.arena.filter fun y => y.1 != u.ctx }) t d (ofScalar 0)
        else
          let s := s.killBegin t.id u
          if !s.killClear id then .error (.parkIn s { t with state := .parked, wait := .kill id })
          else
            match s.killEnd ((s.thread? id).getD u) with
            | (s, true) => done s t d (ofScalar 0)
            | (s, false) => .error (.parkIn s { t with state := .parked, wait := .kill id })

/-! ## SPILL (R317) -/

/-- A refused SPILL. -/
def spillCode (n : Nat) : Reg := ofScalar (0x8000_0000_0000_0000 ||| BitVec.ofNat 64 n)

/-- SPILL (R317). It completes with the last line of the image, whose lines the spill engine writes one by one. -/
def execSpill (d a : RegNum) (s : State) : Host.Outcome State Fault Refusal :=
  runT s fun s t => do
    systemX s t
    windowX t [d, a]
    let x ← readX t a
    destX t d
    let id := identOf x
    match s.thread? id with
    | none => done s t d (spillCode 3)
    | some u =>
      if u.state ≠ .held then done s t d (spillCode 1)
      else if !s.spillReady u then parkX (.spill id)
      else
        match s.spillStart u true with
        | (s, none) => done s t d (spillCode 2)
        | (s, some _) => .error (.parkIn s { t with state := .parked, wait := .spilling id d })

/-! ## REGHOLD and REGREL (R300, R301, R318) -/

/-- The leaves of a region that a hold stops. -/
def State.heldLeaves (s : State) (r : Nat) : List Thread :=
  (s.threadsIn r).filter fun u => u.cls == .leaf && u.state != .trapped && u.state != .migrating

/-- The leaves that a hold of a mode marks as held: in FINISH those run to END that are not SPILLED (R300). -/
def State.markedLeaves (s : State) (r : Nat) (finish : Bool) : List Thread :=
  (s.heldLeaves r).filter fun u => !finish || u.state == .spilled

/-- The leaves that a release frees: those that are held with the region, and every SPILLED one (R301). -/
def State.freedLeaves (s : State) (r : Nat) : List Thread :=
  (s.threadsIn r).filter fun u => u.regionHeld || (u.state == .spilled && u.cls == .leaf)

/-- One leaf is held with its region; its RCB is HELD where it was RUNNING, by a write of its unfolder's, which waits for
a missing page as an agent's does (R96, R282, R300). -/
def State.holdLeaf (s : State) (finish : Bool) (u : Thread) : State :=
  let (s, v) := s.holdThread u
  let s := s.setThread { v with regionHeld := true }
  if finish then s else s.owe v (.turn stRunning stHeld)

/-- One leaf is released with its region, and its RCB with it (R301). -/
def State.freeLeaf (s0 : State) (u : Thread) : State :=
  let s := s0.owe u (.turn stHeld stRunning)
  if u.state = .spilled then s.setThread { u with regionHeld := false, released := true }
  else s.releaseThread { u with regionHeld := false }

/-- The RCBs of a region's leaves whose contexts have no slot: one that is RUNNING is HELD with its region, and RUNNING
again with its release (R98). -/
def State.oweSpilled (s : State) (r : Nat) (held : Bool) : State :=
  (s.spilled.filter fun c => c.keep.regionId = r && c.keep.cls == .leaf).foldl (fun s c =>
    s.owe c.keep (if held then .turn stRunning stHeld else .turn stHeld stRunning)) s

/-- The contexts without a slot that belong to a region's leaves, held with it or released (R300, R301). -/
def State.markSpilled (s : State) (r : Nat) (held : Bool) : State :=
  { s with spilled := s.spilled.map fun c =>
      if c.keep.regionId = r && c.keep.cls == .leaf then
        { c with keep := { c.keep with regionHeld := held, released := !held } }
      else c }

/-- The same, with their RCBs. -/
def State.holdSpilled (s : State) (r : Nat) (held : Bool) : State := (s.oweSpilled r held).markSpilled r held

/-- A region is held (R300): its leaves that run, in HOLD mode, and in either mode those that are SPILLED. -/
def State.holdRegion (s : State) (r : Region) (finish : Bool) : State :=
  let s1 := (s.markedLeaves r.id finish).foldl (·.holdLeaf finish)
    (s.setRegion { r with hold := if finish then .finish else .hold })
  if finish then s1.markSpilled r.id true else (s1.holdSpilled r.id true).payOwed

/-- A region is released (R301). -/
def State.freeRegion (s : State) (r : Region) : State :=
  (((s.freedLeaves r.id).foldl State.freeLeaf (s.setRegion { r with hold := .free })).holdSpilled r.id false).payOwed

/-- REGHOLD (R318). It parks only until the hold completes: the RCBs' pages are the unfolders' concern (R96, R282). -/
def execReghold (d a : RegNum) (finish nowait : Bool) (s : State) : Host.Outcome State Fault Refusal :=
  runT s fun s t => do
    systemX s t
    windowX t [d, a]
    let x ← readX t a
    destX t d
    let id := ((scalar x).extractLsb' 0 32).toNat
    match s.region? id with
    | none => done s t d (ofScalar 1)
    | some r =>
      if r.hold ≠ .free then done s t d (ofScalar 2)
      else
        let s := s.holdRegion r finish
        if nowait || s.regionQuiet id then done s t d (ofScalar 0)
        else .error (.parkIn s { t with state := .parked, wait := .region id d })

/-- REGREL (R318). -/
def execRegrel (d a : RegNum) (s : State) : Host.Outcome State Fault Refusal :=
  runT s fun s t => do
    systemX s t
    windowX t [d, a]
    let x ← readX t a
    destX t d
    let id := ((scalar x).extractLsb' 0 32).toNat
    match s.region? id with
    | none => done s t d (ofScalar 1)
    | some r =>
      if r.hold = .free then done s t d (ofScalar 2)
      else done (s.freeRegion r) t d (ofScalar 0)

end Sys2Proof.Machine
end

