-- ==== Sys2Proof/Machine/Queue.lean ====
section
/-! DEFINITION. The launch queue: which boxes and contexts can be dispatched at each level, whose turn it is, and the
shares of lower levels (R102, R103, R299). -/

namespace Sys2Proof.Machine

/-! ## Contexts that can be restored (R299, R301, R317) -/

/-- The contexts in memory; the mark tells those whose slot is kept. -/
def State.contexts (s : State) : List (SpilledCtx × Bool) :=
  (s.threads.filterMap fun p =>
    if p.2.state = .spilled then
      some ({ addr := p.2.ctx, bytes := ((s.arena.find? fun x => x.1 = p.2.ctx).map (·.2)).getD 0,
              keep := p.2 }, true)
    else none) ++ s.spilled.map fun x => (x, false)

/-- The region of a thread is held, in either mode: nothing of it is dispatched, and a restore is a dispatch (R299,
R300). -/
def State.stops (s : State) (t : Thread) : Bool := t.rcb != 0 && (s.region? t.regionId).any fun r => r.hold != .free

/-- The contexts without a slot that a core restores, in spill order: those of no held region (R317). -/
def State.waitingCtx (s : State) (c : Nat) : List SpilledCtx :=
  s.spilled.filter fun x => x.keep.id.core.toNat = c && !x.keep.regionHeld && !s.stops x.keep

/-- A context may be restored on a core, its room apart, while its region is not held: into a kept slot once its hold is
released; one without a slot by its own core in spill order; and a leaf that REGREL has released on any core (R300, R301,
R317). -/
def State.ctxMay (s : State) (x : SpilledCtx) (kept : Bool) (c : Nat) : Bool :=
  !x.keep.regionHeld && !s.stops x.keep && !(kept && x.keep.dbg) &&
    ((x.keep.released && x.keep.cls == .leaf) ||
      (c = x.keep.id.core.toNat && (kept || ((s.waitingCtx c).head?.map (·.addr)) = some x.addr)))

/-- The slot that a context returns to on a core, if it has one. -/
def SpilledCtx.slotOn (x : SpilledCtx) (kept : Bool) (c : Nat) : Option Nat :=
  if kept && c = x.keep.id.core.toNat then some x.keep.id.slot else none

/-- A context can be restored on a core now. -/
def State.ctxReady (s : State) (x : SpilledCtx) (kept : Bool) (c : Nat) : Bool :=
  s.ctxMay x kept c && match s.peek 0 x.addr with
    | some k => (s.ctxRoom x.keep (s.imageShape [k]) c (x.slotOn kept c)).isSome
    | none => false

/-- A context of a region at a level can be restored somewhere now. -/
def State.restorable (s : State) (region level : Nat) : Bool :=
  s.contexts.any fun x => x.1.keep.rcb != 0 && x.1.keep.regionId = region && x.1.keep.prio = level &&
    (if x.1.keep.released then allCores.any fun c => s.ctxReady x.1 x.2 c
     else s.ctxReady x.1 x.2 x.1.keep.id.core.toNat)

/-! ## Levels and turns -/

/-- The regions that have a dispatchable box, or a context to restore, at a level. -/
def State.regionsAt (s : State) (level : Nat) : List Nat :=
  (s.regions.filter fun p => (p.2.open' && p.2.boxes.any fun b =>
    s.levelOf p.2 b = level && s.dispatchable p.2 b) || s.restorable p.1 level).map (·.1)

/-- How many of the last 255 dispatches made while a level had something to dispatch were of lower levels (R103). -/
def State.lowerShare (s : State) (level : Nat) : Nat := (((tabGet level s.shareWindow).getD []).filter id).length

/-- The level that is served next: the highest with something to dispatch, or the next below one that has given to
lower levels fewer of its last 255 dispatches than its share (R102, R103). -/
def State.levelMay (s : State) (level : Nat) : Bool :=
  (List.range 24).all fun h =>
    decide (h ≤ level) || (s.regionsAt h).isEmpty ||
      (decide (s.lowerShare h < (s.sys.shares.getD h 0).toNat % 256) &&
        (List.range 24).all fun m => !(decide (level < m) && decide (m < h)) || (s.regionsAt m).isEmpty)

/-- The region of a level whose turn it is: the next above the last one served, in a circle (R102; the order of the
circle: DESIGN CHOICE, log 43). -/
def State.regionTurn (s : State) (level : Nat) : Option Nat :=
  let l := s.regionsAt level
  let last := s.lastServed.getD level 0
  match l.find? fun r => decide (last < r) with
  | some r => some r
  | none => l.head?

/-- A dispatch of a region at a level is allowed now. -/
def State.turnOf (s : State) (region level : Nat) : Bool := s.levelMay level && s.regionTurn level = some region

/-- Levels that have something to dispatch. -/
def State.waitingLevels (s : State) : List Nat := (List.range 24).filter fun l => !(s.regionsAt l).isEmpty

/-- One more dispatch of a region at a level: the last region served, and, for each level that had something to
dispatch, whether the dispatch was of a lower one (R102, R103). -/
def State.noteDispatch (s : State) (region level : Nat) (waiting : List Nat) : State :=
  { s with
    lastServed := s.lastServed.set level region
    shareWindow := waiting.foldl (fun w h =>
      tabPut h ((decide (level < h) :: (tabGet h w).getD []).take 255) w) s.shareWindow }

end Sys2Proof.Machine
end

