-- ==== Sys2Proof/Machine/EvThread.lean ====
section
/-! DEFINITION. Events of threads and messages: ends, decisions, pauses, moves, arrivals, wakes, deposits
(R48, R50, R67, R73 to R79, R95, R125, R136, R139, R140, R276, R283, R295, R296, R299, R303, R304). -/

namespace Sys2Proof.Machine

/-- An event that is about something of its own kind, and whose condition holds, happens; another does not
(DESIGN CHOICE, log 15). -/
def happens (s : State) (r : Option State) : Host.Outcome State Fault Refusal :=
  match r with
  | some s' => .next s'
  | none => noEvent s

/-! ## Ends and decisions -/

/-- A decision takes effect on a thread's box (R84, R125). -/
def State.decide' (s : State) (t : Thread) (d : Decision) : State × Bool :=
  match s.region? t.regionId with
  | none => (s, true)
  | some r =>
    match s.rcbKey (r.holderOf t.rcb) r t.rcb true with
    | (s, none) => (s, false)
    | (s, some k) => s.applyDecision r (r.noteOf t.rcb) k t.id.core.toNat t.stampArg d

/-- What the end of a thread does to its box (R48, R98). -/
def State.endBox (s : State) (t : Thread) : State × Bool :=
  if t.rcb = 0 then (s, true)
  else if t.cls == .rule then s.decide' t .defer
  else
    match s.region? t.regionId with
    | none => (s, true)
    | some r => s.settleBoxAt r t.rcb stDone

/-- The thread ends: it counts, and its slot is FREE. -/
def State.ended (s : State) (t : Thread) : State := (s.countInstr t).freeThread t.id

/-- A thread parked or held on its drain. -/
def Thread.draining (t : Thread) : Bool := t.state = .parked || t.state = .held

/-- THREAD_RETIRE (R48, R93). A stamped leaf's buffer is written out first, one store after the other; those to the peer
window hold the end up until they are acknowledged (R178). A recorded trap comes before the end (R67). -/
def State.threadRetire (s : State) (id : Ident) : Option State :=
  match s.thread? id with
  | none => none
  | some t =>
    if t.wait = .endDrain && t.draining && t.pending.isEmpty && s.drained t && (!t.speculative || s.isOldest t) then
      if t.speculative && !t.buffered.isEmpty then s.writeOut t
      else gate s (s.endBox t) fun s => s.ended t
    else none

/-- DECISION_TAKES_EFFECT (R125). -/
def State.decisionTakesEffect (s : State) (id : Ident) : Option State :=
  match s.thread? id with
  | none => none
  | some t =>
    match t.wait with
    | .decision d =>
      if t.draining && t.pending.isEmpty && s.drained t then gate s (s.decide' t d) fun s => s.ended t else none
    | _ => none

/-- PAUSE_EXPIRY: the next cycle of the core is an own turn of the slot, at or past the pause's end (R50). -/
def State.pauseExpiry (s : State) (id : Ident) : Option State :=
  match s.thread? id with
  | none => none
  | some t =>
    match t.wait with
    | .pause stop =>
      if stop ≤ s.cyc + 1 && (s.runCount id.core.toNat + 1) % 16 = id.slot / 4 then
        some (s.commit t.adv.woken)
      else none
    | _ => none

/-! ## Moves to other cores -/

/-- A thread that starts on a core, or is placed there by a message, issues from its slot's next own turn (R73). -/
def State.fromNextTurn (s : State) (t : Thread) : Thread :=
  { t with firstTurn := nextTurn (s.runCount t.id.core.toNat) t.id.slot }

/-- A thread placed from a context, or by a dispatch: HELD, and its RCB with it, while its region is held; else READY
(R67, R98, R300). -/
def State.arrived (s : State) (t : Thread) : State :=
  let held : Bool := match s.region? t.regionId with
    | some r => r.hold == .hold && t.cls == .leaf
    | none => false
  let u := { t with state := if held then .held else .ready, regionHeld := held }
  let s1 := s.setThread u
  if held then s1.holdRcb u else s1

/-- The order in which R304 tries cores. -/
def moveOrder (c : Nat) : List Nat :=
  let cl := allCores.filter fun x => clusterOf x = clusterOf c
  let die := allCores.filter fun x => x < 0x400 && dieOf x = dieOf c && clusterOf x != clusterOf c
  let rest := allCores.filter fun x => x < 0x400 && dieOf x != dieOf c
  let sys := allCores.filter fun x => decide (0x400 ≤ x) && clusterOf x != clusterOf c
  (cl ++ die ++ rest ++ sys).filter (· != c)

/-- A core accepts a moving thread now (R73, R139). -/
def State.accepts (s : State) (c n : Nat) : Bool :=
  s.reachable c && (s.chan c 3).ready && !(s.chan c 3).hold && (s.chan c 3).cls == .migration &&
    (s.place c n).isSome

/-- UNIT_MIGRATION (R304). -/
def State.unitMigration (s : State) (id : Ident) : Option State :=
  match s.thread? id with
  | none => none
  | some t =>
    match t.wait with
    | .unit bit =>
      if t.state = .parked && s.migrateClear t then
        let t := match closeX s t with
          | .ok u => u
          | .error _ => t
        let l := ((moveOrder id.core.toNat).filter fun c => (s.cap c).getLsbD bit).take 16
        match l.find? fun c => s.accepts c t.win with
        | some c =>
          match s.place c t.win with
          | some (i, b) =>
            let (s, u) := s.moveThread t c i b
            some (s.arrived (s.fromNextTurn u))
          | none => none
        | none => some (takeTrap s t (.plain 0x0A (BitVec.ofNat 64 bit)))
      else none
    | _ => none

/-! ## Arrivals (R73 to R76, R136, R276) -/

/-- A message on whose fate its thread waits is not decided while a THKILL of that thread is under way (R316). -/
def State.stalled (s : State) (m : Msg) : Bool :=
  match m.body with
  | .context _ _ _ | .user _ _ | .chset _ => (m.src.bind s.thread?).any fun t =>
      t.killed.any fun k => match k.wait with
        | .send n _ | .chset n _ => n = m.n
        | _ => k.state = .migrating
  | _ => false

/-- The message with a number, if it is the first of its sender to its channel; trap messages of one core to one
channel keep their order too (R136, R277). -/
def State.arriving (s : State) (n : Nat) : Option Msg :=
  match s.mesh.find? fun m => m.n = n with
  | none => none
  | some m =>
    let ahead := s.mesh.takeWhile fun x => x.n != n
    if ahead.any fun x => x.core = m.core && x.chan = m.chan &&
        (match x.src, m.src with
         | some a, some b => a = b || (m.body.isTrap && x.body.isTrap && a.core = b.core)
         | _, _ => false) || s.stalled m then none
    else some m

/-- The state without a message in the mesh. -/
def State.unmesh (s : State) (n : Nat) : State := { s with mesh := s.mesh.filter fun m => m.n != n }

/-- The window a message needs. -/
def State.msgWindow (s : State) (m : Msg) : Nat :=
  match m.body with
  | .context t _ _ => t.win
  | _ => (s.chan m.core.toNat m.chan).window

/-- Priority in the buffer (R73): a routine's own, whatever class its channel has now (DESIGN CHOICE, log 44). -/
def State.msgPrio (s : State) (m : Msg) : Nat :=
  match m.body with
  | .routine d => d.prio
  | _ => (s.chan m.core.toNat m.chan).prio

/-- A message could start now, those buffered before it on its channel apart. -/
def State.startable (s : State) (m : Msg) : Bool :=
  let e := s.chan m.core.toNat m.chan
  e.ready && !e.hold && (s.place m.core.toNat (s.msgWindow m)).isSome

/-- The payload of a message to a channel, and the narrow-format bit it carries (R73, R74). How a request's words
lie in its registers is not stated: each is a free value (DESIGN CHOICE, log 24). -/
def payloadOf (e : Chan) (free : Nat) : MsgBody → List Reg × Option Bool
  | .user l xs => (l.take e.npay, xs)
  | .request _ _ _ _ => ((List.range e.npay).map fun i => Config.freeReg (free + i), none)
  | .device g | .trap g => ([g], none)
  | _ => ([], none)

/-- A message starts a thread in a slot; a narrow payload of the other reading traps it (R74). -/
def State.startUser (s : State) (m : Msg) (slot wbase : Nat) : State :=
  let c := m.core.toNat
  let e := s.chan c m.chan
  let id := mkIdent m.core slot
  let (regs, xs) := payloadOf e s.free m.body
  let s := match m.body with
    | .request _ _ _ _ => { s with free := s.free + e.npay }
    | _ => s
  let t := (Thread.start id e.cls e.prio wbase e.window (e.entry.zeroExtend 64)
    (Specials.start e.xsd (startLevel c m.chan e.cls) 0 m.domain) (s.codeOf m.domain)).payload regs
  let t := s.fromNextTurn { t with chan1 := m.chan = 1 }
  match xs with
  | some x =>
    if x != e.xsd then takeTrap s t (.plain 0x08 (BitVec.ofNat 64 (m.chan.toNat + if x then 256 else 0))) else s.setThread t
  | none => s.setThread t

/-- A dispatched routine starts; a leaf of a held region starts HELD (R72, R100, R300). It starts as the routine that was
dispatched, whatever class its channel has had written since (DESIGN CHOICE, log 44). -/
def State.startRoutine (s : State) (m : Msg) (d : Dispatch) (slot wbase : Nat) : State :=
  let e := s.chan m.core.toNat m.chan
  let t := Thread.ofDispatch (mkIdent m.core slot) wbase e.window e.xsd { d with xs := e.xsd }
  s.arrived (s.fromNextTurn { t with chan1 := m.chan = 1 })

/-- A migrating context takes its place: g[D] is 0, and the MIGRATE has taken effect (R139). -/
def State.startContext (s : State) (m : Msg) (d : Option RegNum) (slot wbase : Nat) : State :=
  match m.src.bind s.thread? with
  | none => s
  | some t =>
    let (s, u) := s.moveThread t m.core.toNat slot wbase
    let u := (s.fromNextTurn u).completes d 0
    (s.arrived u).countInstr u

/-- A message starts its thread. One that is no routine and no context starts an ordinary thread at ENTRY with e.PRIO,
whatever the channel's class: R73 would have it restore a context, or take the priority of an RCB, that it does not
carry (DESIGN CHOICE, log 44). -/
def State.startMsg (s : State) (m : Msg) : State :=
  match s.place m.core.toNat (s.msgWindow m) with
  | none => s
  | some (i, b) =>
    match m.body with
    | .routine d => s.startRoutine m d i b
    | .context _ d _ => s.startContext m d i b
    | _ => s.startUser m i b

/-- The sender of an accepted SEND goes on, with status 0 (R136). -/
def State.sendDone (s : State) (m : Msg) : State :=
  match m.src.bind s.thread? with
  | none => s
  | some t =>
    match t.wait with
    | .send n d => if n = m.n then s.commit ((t.completes (some d) 0).woken) else s
    | _ => s

/-- The inbound buffer of a core with one more message; a context has then left its slot (R67, R139). -/
def State.keepMsg (s : State) (m : Msg) : State :=
  let (s, m) := s.leaveSlot m
  let k := s.core m.core.toNat
  s.setCore m.core.toNat { k with inbuf := k.inbuf ++ [m] }

/-- A message enters the inbound buffer; nothing where it finds no entry (R75). -/
def State.buffer (s : State) (m : Msg) : Option State :=
  let k := s.core m.core.toNat
  let kept := (k.inbuf.filter (·.kept)).length
  if (m.chan = 0 || m.chan = 1 || m.chan = 3) && decide (kept < 4) then some (s.keepMsg { m with kept := true })
  else if k.inbuf.length - kept < 60 then some (s.keepMsg m)
  else none

/-- The first buffered message that starts next: the highest priority first, then the order of arrival; a message
that cannot start holds back the later ones of its channel (R75). -/
def State.nextBuffered (s : State) (c : Nat) : Option Msg :=
  let l := (s.core c).inbuf
  let heads := l.filter fun m =>
    s.startable m && !((l.takeWhile fun x => x.n != m.n).any fun x => x.chan = m.chan)
  heads.foldl (fun best m => match best with
    | none => some m
    | some b => if s.msgPrio b < s.msgPrio m then some m else some b) none

/-- A wait for a page ends with its wake. -/
def Wait.afterWake (w : Wait) : Wait := if w = .page || w = .enginePage then .none else w

/-- A page wake reaches a thread (R224, R283); one that a THKILL has stopped keeps it for the case that the THKILL is
undone. -/
def State.wakeThread (s : State) (t : Thread) : State :=
  if t.condemned then
    s.setThread { t with killed := t.killed.map fun k => { k with wait := k.wait.afterWake } }
  else if t.state = .held then s.setThread { t with wait := t.wait.afterWake }
  else if t.state = .parked || t.state = .ready then
    let (s, t) := s.requeue t
    s.setThread (if t.wait = .page || t.wait = .enginePage || t.wait = .queueRoom then t.woken else t)
  else s

/-- A wake of a slot (R73); one that finds no thread is discarded. -/
def State.wakeSlot (s : State) (c : CoreId) (slot : Nat) : State :=
  match s.thread? (mkIdent c slot) with
  | some t => s.wakeThread t
  | none => s

/-- The core's arrival decision on a message; nothing while the mesh holds it back, or while a buffered message starts
first (R73, R75). A channel of class wake wakes the message's slot and starts nothing; a message that names no slot
wakes one that is a free value (DESIGN CHOICE, log 44). Channel 2 of a compute core accepts nothing (R71): a message that
is no SEND, and finds nobody to answer to, is discarded there (DESIGN CHOICE, log 44). -/
def State.decideArrival (s : State) (m : Msg) : Option State :=
  let s0 := s.unmesh m.n
  let c := m.core.toNat
  if !s.reachable c || (m.chan = 2 && decide (c < 0x400)) then some s0
  else if (s0.chan c m.chan).cls == .wake then
    let (v, s1) := s0.unknown
    some ((s1.wakeSlot m.core (v.toNat % 64)).sendDone m)
  else if s0.startable m && !((s0.core c).inbuf.any fun x => x.chan = m.chan) then
    if (s0.nextBuffered c).isSome then none else some ((s0.startMsg m).sendDone m)
  else (s0.buffer m).map fun s => s.sendDone m

/-- CHSET's change reaches its core, and the acknowledgement its thread (R138). -/
def State.chsetArrival (s : State) (m : Msg) (bits : BitVec 4) : State :=
  let c := m.core.toNat
  let s1 := (s.unmesh m.n).setChan c m.chan ((s.chan c m.chan).withBits bits)
  match m.src.bind s1.thread? with
  | none => s1
  | some t =>
    match t.wait with
    | .chset n d => if n = m.n then s1.commit ((t.completes (some d) 0).woken) else s1
    | _ => s1

/-- MESSAGE_ARRIVAL (R73). -/
def State.messageArrival (s : State) (n : Nat) : Option State :=
  match s.arriving n with
  | none => none
  | some m => match m.body with
    | .user _ _ | .request _ _ _ _ | .device _ | .routine _ => s.decideArrival m
    | .chset v => some (s.chsetArrival m (v.extractLsb' 0 4))
    | _ => none

/-- TRAP_MESSAGE (R276). -/
def State.trapMessage (s : State) (n : Nat) : Option State :=
  match s.arriving n with
  | none => none
  | some m => match m.body with
    | .trap _ => s.decideArrival m
    | _ => none

/-- MIGRATION_ARRIVAL: past its deadline a context is refused, and the thread goes on at home (R139). Until the
decision its slot is MIGRATING, and a refusal takes it back to READY (DESIGN CHOICE, log 43). -/
def State.migrationArrival (s : State) (n : Nat) : Option State :=
  match s.arriving n with
  | none => none
  | some m => match m.body with
    | .context _ d deadline =>
      if s.passed deadline then
        match m.src.bind s.thread? with
        | none => some (s.unmesh n)
        | some t =>
          let u := { t with state := .ready, reopen := 0 }.completes d (ofScalar 1)
          some (((s.unmesh n).arrived u).countInstr u)
      else s.decideArrival m
    | _ => none

/-- BUFFERED_MESSAGE_START (R75). -/
def State.bufferedMessageStart (s : State) (c : Nat) : Option State :=
  match s.nextBuffered c with
  | none => none
  | some m =>
    let k := s.core c
    some ((s.setCore c { k with inbuf := k.inbuf.filter fun x => x.n != m.n }).startMsg m)

/-- PAGE_WAKE (R283). -/
def State.pageWake (s : State) (n : Nat) : Option State :=
  match s.arriving n with
  | none => none
  | some m => match m.body with
    | .wake slot =>
      some ((s.unmesh n).wakeSlot m.core slot)
    | _ => none

/-! ## Replies to moved threads, and the kernel's reply -/

/-- A load that was under way when its thread left the slot of a forwarding entry (R139). -/
def Forward.carries (f : Forward) (a : Access) : Bool := a.home = f.old && a.t = f.new && decide (a.n < f.n)

/-- FORWARDING_ENTRY_EXPIRY: the entry outlives its loads, wherever the thread has moved since (R139). -/
def State.forwardingEntryExpiry (s : State) (n : Nat) : Option State :=
  match s.forwards.find? fun f => f.n = n with
  | none => none
  | some f =>
    if decide (f.stop ≤ s.cyc) && !(s.accs.any f.carries) then
      some { s with forwards := s.forwards.filter fun g => g.n != n }
    else none

/-- Where a reply to an identity goes: along the forwarding entries. -/
def State.forwardTo (s : State) (t : Ident) (r : RegNum) : Ident :=
  s.forwards.foldl (fun t f => if f.old = t && f.regs.contains r then f.new else t) t

/-- SYSCALL_REPLY: the reply lands in the register that awaits it (R140). -/
def State.syscallReply (s : State) (id : Ident) (r : RegNum) (v : Reg) : Option State :=
  match s.thread? (s.forwardTo id r) with
  | none => none
  | some t =>
    if decide (r.toNat < t.win) && (t.entry r).pres = .awaiting &&
        !(s.accs.any fun a => a.t = t.id && a.d = some r) then some (s.setThread (t.setReg r v))
    else none

/-! ## Deposits (R77 to R79) -/

/-- The head deposit of a link leaves it. -/
def State.popLink (s : State) (c : Nat) (prev : Bool) (dropped : Bool) : State :=
  let k := s.core c
  s.setCore c (if prev then { k with prev := k.prev.tail, dropPrev := k.dropPrev + if dropped then 1 else 0 }
    else { k with next := k.next.tail, dropNext := k.dropNext + if dropped then 1 else 0 })

/-- A deposit may land in a register now: it is open, was so before this cycle, and the thread has no issue left in
this cycle (R77, R78). -/
def State.openFor (s : State) (t : Thread) (r : RegNum) : Bool :=
  (t.entry r).pres = .opened && !(t.voids.contains (s.cyc, r)) && !(s.due.contains t.id)

/-- DEPOSIT_LANDING: the head of a link lands in its open register, or is discarded (R77, R79). One for a SPILLED target
waits for the restore, and is discarded then if its register lies outside the window (DESIGN CHOICE, log 54); one for a
thread whose context is being written or read waits for its end. A MIGRATING
target has no open register (R79). -/
def State.depositLanding (s : State) (c : Nat) (prev : Bool) : Option State :=
  match s.link c prev with
  | [] => none
  | d :: _ =>
    let dst := s.ringCore c prev
    let landed (s : State) : State := s.settleAtoll (clusterOf c)
    match (if s.reachable dst then s.thread? (mkIdent (BitVec.ofNat 11 dst) d.slot.toNat) else none) with
    | none => some (landed (s.popLink c prev true))
    | some t =>
      if t.state = .spilled then none
      else if t.win ≤ d.reg.toNat then some (landed (s.popLink c prev true))
      else if s.openFor t d.reg && (s.jobOf t.id).isNone then
        some (landed ((s.popLink c prev false).setThread (t.setReg d.reg d.val)))
      else none

/-! ## Stamped leaves, holds, spills and restores -/

/-- Every access of a leaf that has been issued is over (R177). -/
def State.issuedOver (s : State) (t : Ident) : Bool :=
  s.accs.all fun a => !(a.t = t && a.agent = .thread) || a.answered

/-- BECOME_OLDEST: the leaf's buffer is written out behind every access that it has made, one store after the other,
and it goes on DIRECT (R95, R177). -/
def State.becomeOldest (s : State) (id : Ident) : Option State :=
  match s.thread? id with
  | none => none
  | some t =>
    if t.wait = .oldest && t.speculative && s.isOldest t && s.issuedOver id then
      if !t.buffered.isEmpty then s.writeOut t
      else
        let s := s.goDirect t
        some (match s.thread? id with
          | some u => s.setThread u.woken
          | none => s)
    else none

/-- HOLD: a region's hold or a debug hold reaches a thread (R295). -/
def State.holdEvent (s : State) (id : Ident) (dbg : Bool) : Option State :=
  match s.thread? id with
  | none => none
  | some t =>
    if t.state != .ready && t.state != .parked then none
    else
      let (s1, u) := s.holdThread t
      if dbg then some (s1.setThread { u with dbg := true })
      else match s.region? t.regionId with
        | some r =>
          if r.hold == .hold && t.cls == .leaf then
            some ((s1.setThread { u with regionHeld := true }).holdRcb u)
          else none
        | none => none

/-- The windows that messages and contexts of a core wait for, each with whether it needs a slot too: of contexts, those
that could be restored there but for slot and window (R296, R299). -/
def State.wants (s : State) (c : Nat) : List (Bool × Nat) :=
  (((s.core c).inbuf ++ s.mesh.filter fun m => m.core.toNat = c).filterMap fun m =>
    let e := s.chan c m.chan
    match m.body with
    | .wake _ | .chset _ => none
    | _ => if e.ready && !e.hold && e.cls != .wake then some (true, s.msgWindow m) else none) ++
  (s.contexts.filter fun x => s.ctxMay x.1 x.2 c).filterMap fun x =>
    (s.peek 0 x.1.addr).bind fun k =>
      let m := s.imageShape [k]
      (s.ctxPlace x.1.keep m c).map fun _ => ((x.1.slotOn x.2 c).isNone, m.win)

/-- A core lacks a slot, or a window run, for something that waits for it. -/
def State.shortOf (s : State) (c : Nat) (w : List (Bool × Nat)) : Bool × Bool :=
  ((s.freeSlot c).isNone && w.any (·.1), w.any fun n => (s.freeRun c n.2).isNone)

/-- Writing a HELD thread gives a slot that is lacking, or makes a run that is lacking (R296). -/
def State.helps (s : State) (t : Thread) (w : List (Bool × Nat)) : Bool :=
  let c := t.id.core.toNat
  (s.shortOf c w).1 ||
    w.any fun n => (s.freeRun c n.2).isNone && ((s.freeThread t.id).freeRun c n.2).isSome

/-- SPILL_WRITE: a shortage of slots, or of register entries, makes the spill engine write a HELD thread whose writing
relieves it, whatever trap the thread has recorded (R296); where no single one makes the run that is lacking, any
(DEDUCED, log 25). -/
def State.spillShort (s : State) (t : Thread) : Option State :=
  let c := t.id.core.toNat
  let w := s.wants c
  let short := s.shortOf c w
  if t.state = .held && s.spillReady t && (short.1 || short.2) &&
      (s.jobs.all fun j => j.restore || j.t.core != t.id.core) &&
      (s.helps t w || (s.threadsOf c).all fun u => u.state != .held || !s.helps u w) then
    match s.spillStart t (!short.1) with
    | (s1, some _) => some s1
    | (_, none) => none
  else none

/-- SPILL_WRITE: the next access of a context that is being written; or the writing of one begins (R296). -/
def State.spillWrite (s : State) (id : Ident) : Option State :=
  if (s.jobOf id).isSome then s.jobLine id false
  else (s.thread? id).bind s.spillShort

/-- A context begins to be restored on a core, where its hold is released, it may return there, and it is its region's turn
(R299, R301, R317). A restore is one dispatch. -/
def State.restoreCtx (s : State) (x : SpilledCtx) (kept : Bool) (c : Nat) : Option State :=
  let t := x.keep
  if !s.ctxMay x kept c then none
  else if (s.peek 0 x.addr).isNone then gate s ((s.agentKey .spill 0 0 x.addr false).1, false) fun s => s
  else if t.rcb != 0 && !s.turnOf t.regionId t.prio then none
  else
    let w := s.waitingLevels
    (s.restoreOn t x.addr x.bytes c (x.slotOn kept c)).map fun s1 =>
      if t.rcb = 0 || s1.jobs.length = s.jobs.length then s1 else s1.noteDispatch t.regionId t.prio w

/-- CONTEXT_RESTORE: the next access of a context that is being read into a slot; or, of the contexts that left under one
identity, the first that can be restored on a core now begins to be (R299, R301, R317). -/
def State.contextRestore (s : State) (id : Ident) (c : Nat) : Option State :=
  if (s.jobOf id).any (fun j => j.restore) && id.core.toNat = c then s.jobLine id true
  else (s.contexts.filter fun x => x.1.keep.id = id).findSome? fun x => s.restoreCtx x.1 x.2 c

/-! ## The rows -/

/-- THREAD_RETIRE (R48). -/
def execThreadRetire (s : State) : Host.Outcome State Fault Refusal :=
  happens s (match s.ev with | some (.threadRetire t) => s.threadRetire t | _ => none)

/-- PAUSE_EXPIRY (R50). -/
def execPauseExpiry (s : State) : Host.Outcome State Fault Refusal :=
  happens s (match s.ev with | some (.pauseExpiry t) => s.pauseExpiry t | _ => none)

/-- DECISION_TAKES_EFFECT (R125). -/
def execDecisionTakesEffect (s : State) : Host.Outcome State Fault Refusal :=
  happens s (match s.ev with | some (.decisionTakesEffect t) => s.decisionTakesEffect t | _ => none)

/-- UNIT_MIGRATION (R304). -/
def execUnitMigration (s : State) : Host.Outcome State Fault Refusal :=
  happens s (match s.ev with | some (.unitMigration t) => s.unitMigration t | _ => none)

/-- MESSAGE_ARRIVAL (R73). -/
def execMessageArrival (s : State) : Host.Outcome State Fault Refusal :=
  happens s (match s.ev with | some (.messageArrival n) => s.messageArrival n | _ => none)

/-- BUFFERED_MESSAGE_START (R75). -/
def execBufferedMessageStart (s : State) : Host.Outcome State Fault Refusal :=
  happens s (match s.ev with | some (.bufferedMessageStart c) => s.bufferedMessageStart c.toNat | _ => none)

/-- PAGE_WAKE (R283). -/
def execPageWake (s : State) : Host.Outcome State Fault Refusal :=
  happens s (match s.ev with | some (.pageWake n) => s.pageWake n | _ => none)

/-- TRAP_MESSAGE (R276). -/
def execTrapMessage (s : State) : Host.Outcome State Fault Refusal :=
  happens s (match s.ev with | some (.trapMessage n) => s.trapMessage n | _ => none)

/-- MIGRATION_ARRIVAL (R139). -/
def execMigrationArrival (s : State) : Host.Outcome State Fault Refusal :=
  happens s (match s.ev with | some (.migrationArrival n) => s.migrationArrival n | _ => none)

/-- FORWARDING_ENTRY_EXPIRY (R139). -/
def execForwardingEntryExpiry (s : State) : Host.Outcome State Fault Refusal :=
  happens s (match s.ev with | some (.forwardingEntryExpiry n) => s.forwardingEntryExpiry n | _ => none)

/-- SYSCALL_REPLY (R140). -/
def execSyscallReply (s : State) : Host.Outcome State Fault Refusal :=
  happens s (match s.ev with | some (.syscallReply t r v) => s.syscallReply t r v | _ => none)

/-- DEPOSIT_LANDING (R77). -/
def execDepositLanding (s : State) : Host.Outcome State Fault Refusal :=
  happens s (match s.ev with | some (.depositLanding c prev) => s.depositLanding c.toNat prev | _ => none)

/-- BECOME_OLDEST (R95). -/
def execBecomeOldest (s : State) : Host.Outcome State Fault Refusal :=
  happens s (match s.ev with | some (.becomeOldest t) => s.becomeOldest t | _ => none)

/-- HOLD (R295). -/
def execHold (s : State) : Host.Outcome State Fault Refusal :=
  happens s (match s.ev with | some (.hold t dbg) => s.holdEvent t dbg | _ => none)

/-- SPILL_WRITE (R296). -/
def execSpillWrite (s : State) : Host.Outcome State Fault Refusal :=
  happens s (match s.ev with | some (.spillWrite t) => s.spillWrite t | _ => none)

/-- CONTEXT_RESTORE (R299). -/
def execContextRestore (s : State) : Host.Outcome State Fault Refusal :=
  happens s (match s.ev with | some (.contextRestore t c) => s.contextRestore t c.toNat | _ => none)

end Sys2Proof.Machine
end

