-- ==== Sys2Proof/Machine/EvAccess.lean ====
section
/-! DEFINITION. Events of memory accesses, of translation, of read-duplicated pages and of soft errors (R55 to
R57, R155 to R158, R162, R281 to R288, R291, R292, R294, R340). -/

namespace Sys2Proof.Machine

/-! ## Answers from outside the device -/

/-- An access on its way to a peer. -/
def Access.atPeer (a : Access) : Bool :=
  decide (a.stage = .inFlight) && a.key.any isPeerKey

/-- A speculative leaf's T store, on its way to the commit buffer (R93). -/
def State.toBuffer (s : State) (a : Access) : Bool :=
  a.tStore && a.agent = .thread && (s.thread? a.t).any (·.speculative)

/-- An access that stands at a peer, and is answered from outside. -/
def State.outside (s : State) (a : Access) : Bool := a.atPeer && !s.toBuffer a && s.inOrder a

/-- What 64 bytes of a peer's answer make of a form's register. -/
def Form.answer (f : Form) (v : Reg) : Reg :=
  match f with
  | .load n sx =>
    if 8 < n then BitVec.ofNat 512 (v.toNat % 2 ^ (8 * n))
    else ofScalar (BitVec.ofInt 64 (if sx then sgn (8 * n) (v.toNat % 2 ^ (8 * n)) else (v.toNat % 2 ^ (8 * n) : Int)))
  | .atom _ n _ _ => BitVec.ofNat 512 (v.toNat % 2 ^ (8 * n))
  | _ => 0

/-- An access that a peer has performed. -/
def State.peerDone (s : State) (a : Access) : State :=
  let s1 := s.setAccess a
  if a.form.writes then s1.notedWrite a.n else s1

/-- A peer's data reach an access: the event's, or a free value (DESIGN CHOICE, log 18). A speculative leaf's T load
takes its buffered stores with it, and a leaf's store rolls back the younger leaves that had read its words
(R93, R94). -/
def State.peerAnswers (s : State) (a : Access) (v : Option Reg) : State :=
  let (x, s) : Reg × State := match v with
    | some x => (x, s)
    | none => s.unknown
  match (if a.tSeg && a.agent = .thread then s.thread? a.t else none), a.key with
  | some t, some k =>
    if t.speculative then
      let y : Reg := BitVec.ofNat 512 (bytesNat (s.forwarded t k (natBytes a.form.bytes x.toNat)))
      (s.setThread (s.noteRead t k a.form.bytes)).setAccess { a with stage := .done (a.form.answer y) }
    else s.peerDone { a with stage := .done (a.form.answer x) }
  | _, _ => s.peerDone { a with stage := .done (a.form.answer x) }

/-- The cause that a peer's refusal brings (R178, R290). -/
def failCode : PeerFail → BitVec 8
  | .revoked => 0x0D
  | .poison => 0x0E

/-- A peer has not answered an access within 2^24 cycles: it counts as REVOKED, and what comes later is no answer to it
(R340). -/
def State.accLate (s : State) (a : Access) : Bool := decide (a.issued + 2 ^ 24 ≤ s.cyc)

/-- An answer from outside to an access that stands at a peer; nothing for another. -/
def State.outerAnswer (s : State) (a : Access) (p : Option PeerAnswer) : Option State :=
  if !s.outside a || (s.accLate a && p != some (.fails .revoked)) then none
  else some (match p with
    | some (.fails f) => s.stageAcc a.n (.failed (failCode f))
    | some (.data v) => s.peerAnswers a (some v)
    | none => s.peerAnswers a none)

/-- A started engine operation of a number that a peer has still to answer. -/
def State.peerOp? (s : State) (n : Nat) : Option EngineOp :=
  (s.cores.flatMap fun c => c.2.engq).find? fun o => o.n = n && o.atPeer

/-- An engine operation is to fail, by a KIND of R226. -/
def State.failOp (s : State) (n kind : Nat) : State :=
  { s with cores := s.cores.map fun c => (c.1, { c.2 with
      engq := c.2.engq.map fun o => if o.n = n then { o with failing := some kind } else o }) }

/-- A peer refuses an engine operation (R225, R226). -/
def State.opAnswer (s : State) (n : Nat) (p : Option PeerAnswer) : Option State :=
  match s.peerOp? n, p with
  | some _, some (.fails f) => some (s.failOp n (match f with | .revoked => 3 | .poison => 2))
  | _, _ => none

/-! ## Arrivals and completions -/

/-- BANK_ACCESS: an access in flight reaches its bank, or the commit buffer (R93, R155). -/
def State.bankAccess (s : State) (n : Nat) : Option State :=
  match s.acc? n with
  | none => none
  | some a =>
    if a.stage = .inFlight && a.key.isSome && (!a.atPeer || s.toBuffer a) && s.inOrder a then some (s.arrive a)
    else none

/-- ACCESS_ACKNOWLEDGEMENT: the answer reaches the parked thread, and its instruction completes or traps
(R55, R57); a peer's answer reaches a copy or an engine operation (R225, R238). -/
def State.accessAcknowledgement (s : State) (n : Nat) (peer : Option PeerAnswer) : Option State :=
  match s.acc? n with
  | none => s.opAnswer n peer
  | some a =>
    let got := s.outerAnswer a peer
    match a.agent with
    | .copy _ _ | .buffer => got
    | .completion _ => none
    | .thread =>
      if a.rel then none
      else
        let s1 := got.getD s
        let l := s1.group a.group
        match s1.thread? a.t with
        | none => none
        | some t =>
          if !groupOver l then got
          else if t.onAccess then some (s1.finishOrdinary t a.group l)
          else if t.ownWait = .rolledBack then some (s1.finishLeft t a.group l)
          else got

/-- A relaxed group lands: its destination becomes present (R7, R56). -/
def State.landRelaxed (s : State) (a : Access) (l : List Access) : State :=
  let s := s.dropGroup a.group
  match s.thread? a.t with
  | none => s
  | some t =>
    match a.d with
    | some r => s.setThread (t.setReg r (groupValue (t.entry r).val l))
    | none => s

/-- A relaxed group that has been answered without failure. -/
def State.relaxedLands (s : State) (n : Nat) (peer : Option Reg) (moved : Bool) : Option State :=
  match s.acc? n with
  | none => none
  | some a =>
    if !a.rel || a.agent != .thread || (a.t != a.home) != moved then none
    else
      let got := s.outerAnswer a (peer.map .data)
      let s1 := got.getD s
      let l := s1.group a.group
      if groupOver l && (groupFailure l).isNone then some (s1.landRelaxed a l) else got

/-- RELAXED_COMPLETION (R56). -/
def State.relaxedCompletion (s : State) (n : Nat) (peer : Option Reg) : Option State :=
  s.relaxedLands n peer false

/-- FORWARDED_REPLY: the reply of a load issued before a move (R303). -/
def State.forwardedReply (s : State) (n : Nat) : Option State := s.relaxedLands n none true

/-- The destination of a relaxed group that has failed: zero and present (R57), and for a gather what it was before the
issue, for R191 has nothing written to it. -/
def Access.unloaded (a : Access) (t : Thread) : Thread :=
  match a.d, a.lane with
  | some r, none => t.setReg r 0
  | some r, some l => { t with regs := t.regs.set r.toNat l.old }
  | none, _ => if a.agent = .buffer then t.withStores t.buffered.tail else t

/-- RELAXED_ERROR_RESPONSE: the thread traps at its next boundary (R57, R290), a gather with %tepc at its own instruction
(R191, log 54); a line of a leaf's commit buffer that a peer refuses is gone, and traps the leaf so too. -/
def State.relaxedErrorResponse (s : State) (n : Nat) (peer : Option PeerFail) : Option State :=
  match s.acc? n with
  | none => none
  | some a =>
    if !a.rel || (a.agent != .thread && a.agent != .buffer) then none
    else
      let got := match peer with
        | some f => s.outerAnswer a (some (.fails f))
        | none => none
      let s1 := got.getD s
      let l := s1.group a.group
      match (if groupOver l then groupFailure l else none) with
      | none => got
      | some (c, b) =>
        let s2 := s1.dropGroup a.group
        match s2.thread? a.t with
        | none => some s2
        | some t =>
          let t := a.unloaded t
          some ((s2.setThread t).deliverTrap t (b.trapOf c))

/-! ## Translation -/

/-- Where an access that has been translated again stands: on its way, collapsing (last at the directory), held by a
TLBINV, or failed by the tests that follow a translation (R148, R244, R281, R288, R331). -/
def State.landRoute (s : State) (a : Access) : Route → State
  | .bank k =>
    if a.form.mayReach k && a.form.dieSize k then s.setAccess { a with key := some k, stage := .inFlight }
    else s.setAccess { a with stage := .failed (if a.form.mayReach k then 0x06 else 0x09) }
  | .collapse k =>
    if a.form.mayReach k then
      { s with accs := s.accs.filter (fun b => b.n != a.n) ++ [{ a with key := some k, stage := .collapsing }] }
    else s.setAccess { a with stage := .failed 0x09 }
  | .peer k =>
    if !a.pRight then s.setAccess { a with key := some k, stage := .failed 0x05 }
    else if a.form.sync && !a.form.carried then s.setAccess { a with key := some k, stage := .failed 0x09 }
    else match s.peerCause k a.form.sync with
      | some c => s.setAccess { a with key := some k, stage := .failed c }
      | none => s.setAccess { a with key := some k, stage := .inFlight, issued := s.cyc }
  | .inval by' => s.setAccess { a with key := none, stage := .invalidating by' }
  | .miss m =>
    let region := ((s.thread? a.t).map (·.regionId)).getD 0
    (s.setAccess { a with stage := .atMmu, key := none }).pageRequest
      (pageG0 a.dva (some a.home) 2 a.form.writes m region a.domain)

/-- An ordinary access that has met a missing page is set aside: its thread issues it again after the wake (R282). -/
def State.setAside (s : State) (t : Thread) (a : Access) (m : Miss) : State :=
  let s := (s.dropOrdinary t.id).pageRequest (pageG0 a.dva (some t.id) 0 a.form.writes m t.regionId a.domain)
  s.setThread { (t.withWait .page) with state := if t.state = .ready then .parked else t.state }

/-- An access is translated again by the MMU of the cluster that issued it (R283, R303). -/
def State.retranslate (s : State) (a : Access) : State :=
  match s.route (clusterOf a.home.core.toNat) a.domain a.dva a.form.writes a.form.sync, s.thread? a.t with
  | (s, .miss m), some t => if a.rel then s.landRoute a (.miss m) else s.setAside t a m
  | (s, r), _ => s.landRoute a r

/-- Accesses that a TLBINV held translate once it is over (R281). -/
def State.resumeInval (s : State) : State :=
  (s.accs.filter fun (a : Access) => match a.stage with
    | .invalidating t => !s.invalidating t
    | _ => false).foldl (fun s a => s.retranslate a) s

/-! ## Refusals -/

/-- FEBUDGET of a refused access (R158). -/
def budgetOut (a : Access) : TrapInfo :=
  { code := 0x07, info := a.off, seg := a.seg, wr := a.form.writes, miss := 0 }

/-- A refused access of a copy is issued again: in the peer window it lacks P, or traps ATOMROUTE (R148, R158, R160). -/
def State.copyRetry (s : State) (c ch : Nat) (a : Access) : Option State :=
  match s.route (clusterOf c) a.domain a.dva a.form.writes a.form.sync with
  | (s, .bank k) => some (s.arrive { a with key := some k, stage := .inFlight })
  | (s, .collapse k) => some ((s.collapseNow k a.domain a.dva).arrive { a with key := some k, stage := .inFlight })
  | (s, .peer _) => some (s.setAccess { a with stage := .failed (if a.pRight then 0x09 else 0x05) })
  | (_, .inval _) => none
  | (s, .miss m) =>
    match (s.copyQueue c ch).head? with
    | some o =>
      let o1 := { o with waitingOn := none }
      some (((s.dropAccess a.n).setCopy c ch o1).copyMiss c ch o1 a.dva.toNat a.form.writes m)
    | none => some (s.dropAccess a.n)

/-- A refused completion store is issued again; a page that is missing now is waited for first (R106, R158). -/
def State.completionRetry (s : State) (r : Nat) (a : Access) : Option State :=
  match s.agentReach .completion r a.domain a.dva true with
  | (s, .key k) => some (s.arrive { a with key := some k, stage := .inFlight })
  | (_, .peer _) => none
  | (s, .waits) =>
    match s.region? r with
    | some x => some ((s.dropAccess a.n).setRegion { x with completing := false })
    | none => some (s.dropAccess a.n)

/-- A refused access of a thread is issued again: it is translated anew, but for the elements of a gather, whose pages
are pinned (R158, R191). -/
def State.threadRetry (s : State) (a : Access) : State :=
  if a.lane.isSome then s.arrive { a with stage := .inFlight } else s.retranslate a

/-- REFUSAL_RETRY: a refused access is issued again, a thread's at the cost of one unit of %febudget (R158). -/
def State.refusalRetry (s : State) (n : Nat) : Option State :=
  match s.acc? n with
  | none => none
  | some a =>
    match a.stage with
    | .refused at' =>
      if s.cyc < at' then none
      else
        match a.agent with
        | .copy c ch => s.copyRetry c ch a
        | .buffer => none
        | .completion r => s.completionRetry r a
        | .thread =>
          match s.thread? a.t with
          | none => none
          | some t =>
            if t.killed.isSome then none
            else if t.sp.febudget = 0 then some ((s.dropOrdinary t.id).trapNow t (budgetOut a))
            else
              let t1 := { t with sp := { t.sp with febudget := t.sp.febudget - 1 } }
              some ((s.setThread t1).threadRetry a)
    | _ => none

/-- FABRIC_TIMEOUT: an access, or an engine operation, with no response within 2^24 cycles is answered as REVOKED
(R340). -/
def State.fabricTimeout (s : State) (n : Nat) : Option State :=
  match s.acc? n with
  | some a =>
    if s.outside a && s.accLate a then some (s.setAccess { a with stage := .failed 0x0D })
    else none
  | none =>
    match s.peerOp? n with
    | some o => if o.failing.isNone && s.opLate o then some (s.failOp n 3) else none
    | none => none

/-! ## Page faults and wakes -/

/-- PAGE_FAULT: an access still on its way meets a missing page. A relaxed one waits at its MMU; an ordinary
one is set aside, and its thread issues it again after the wake (R282). The pages of a gather that has been translated are
pinned (R191). -/
def State.pageFault (s : State) (n : Nat) : Option State :=
  match s.acc? n with
  | none => none
  | some a =>
    if a.stage != .inFlight || a.agent != .thread || !a.riders.isEmpty || a.lane.isSome ||
        decide (poolBase ≤ a.dva.toNat) then none
    else
      match s.walk a.domain a.dva.toNat with
      | .ok _ => none
      | .error m =>
        if a.rel then some (s.retranslate a)
        else
          match s.thread? a.t with
          | none => none
          | some t =>
            if !t.onAccess then none else some (s.setAside t a m)

/-- A DVA lies in the page of another: the page of the leaf that now stands there, or 128 KiB where none does
(R283). -/
def State.samePage (s : State) (d : BitVec 32) (a b : Word) : Bool :=
  let bits := match s.walk d b.toNat with
    | .ok l => l.bits
    | .error _ => 17
  decide (a.toNat / 2 ^ bits = b.toNat / 2 ^ bits)

/-- MMU_REWALK: a wake reaches a cluster's MMU, or every MMU for the agents, whose owed writes are then made
(R96, R283). -/
def State.mmuRewalk (s : State) (cl : Nat) (dva : Word) (agent : Bool) : Option State :=
  if !s.rewalks.contains (cl, dva, agent) then none
  else
    let s := { s with rewalks := s.rewalks.erase (cl, dva, agent) }
    if agent then
      some { s with mmuWaits := s.mmuWaits.filter fun w =>
        !(!w.isCopy && s.samePage w.domain w.dva dva) }.payOwed
    else
      let s := { s with mmuWaits := s.mmuWaits.filter fun w =>
        !(w.isCopy && decide (w.cluster = cl) && s.samePage w.domain w.dva dva) }
      some ((s.accs.filter fun (a : Access) => a.stage = .atMmu && decide (clusterOf a.home.core.toNat = cl) &&
        s.samePage a.domain a.dva dva).foldl (fun s a => s.retranslate a) s)

/-- Engine operations under way that a range's old entries may have translated. -/
def State.opsMapped (s : State) (lo len : Word) (scope : BitVec 2) (mine : Nat) : Bool :=
  s.cores.any fun k => tlbScope scope mine (clusterOf k.1) && k.2.engq.any fun o =>
    o.started && o.maps.any fun p => tlbHits lo len (p.1 * 2 ^ 17) (2 ^ 17)

/-- An access that is to be performed under the translation it has. -/
def Access.translated (a : Access) : Bool :=
  a.key.isSome && (match a.stage with
    | .inFlight | .riding | .collapsing => true
    | .refused _ => a.lane.isSome
    | _ => false)

/-- Accesses under way that a range's old entries may have translated. -/
def State.accsMapped (s : State) (lo len : Word) (scope : BitVec 2) (mine : Nat) : Bool :=
  s.accs.any fun a => a.translated &&
    tlbScope scope mine (clusterOf a.home.core.toNat) && decide (a.dva.toNat < poolBase) &&
    tlbHits lo len a.dva.toNat a.form.bytes

/-- TLBINV_COMPLETE (R281, R320). -/
def State.tlbinvComplete (s : State) (id : Ident) : Option State :=
  match s.thread? id with
  | none => none
  | some t =>
    match t.wait with
    | .tlbinv lo len scope =>
      let mine := clusterOf id.core.toNat
      if s.opsMapped lo len scope mine || s.accsMapped lo len scope mine then none
      else some ((s.dropTlb lo len scope mine).commit t.adv.woken)
    | _ => none

/-! ## Collapse (R288) -/

/-- The page of an access that waits for a collapse: its directory record, or a fresh one. -/
def State.collapseOf (s : State) (frame : Nat) : Option Dup :=
  match s.accs.find? fun a => a.stage = .collapsing && (match s.dupOf frame with
      | some p => (a.key.map (· / 2 ^ p.bits)) = some (p.home / 2 ^ p.bits)
      | none => (a.key.map (· / 2 ^ 17)) = some (frame / 2 ^ 17)) with
  | none => none
  | some a =>
    match s.dupOf frame with
    | some p => if p.collapsing.isSome then none else some p
    | none =>
      match s.walk a.domain a.dva.toNat with
      | .ok l => some { home := pteAddr l.entry, bits := l.bits, copies := [], collapsing := none, pteKey := l.pte }
      | .error _ => some { home := frame / 2 ^ 17 * 2 ^ 17, bits := 17, copies := [], collapsing := none, pteKey := 0 }

/-- COLLAPSE: the directory invalidates every copy; each die is to acknowledge (R288). -/
def State.collapse (s : State) (frame : Nat) : Option State :=
  (s.collapseOf frame).map fun p =>
    { s with dups := (s.dups.filter fun q => q.home != p.home) ++
        [{ p with collapsing := some (List.range 4) }] }

/-- COLLAPSE_ACK: a die has dropped its entries and performed its reads; after the last one the page is
plain, and the accesses that waited are performed at home (R288). -/
def State.collapseAck (s : State) (frame die : Nat) : Option State :=
  match s.dupOf frame with
  | none => none
  | some p =>
    match p.collapsing with
    | none => none
    | some l =>
      if !l.contains die then none
      else
        let s := (s.performCopies p).dropHome p (some die)
        let p1 := { p with collapsing := some (l.filter (· != die)) }
        let s := { s with dups := s.dups.map fun q => if q.home = p.home then p1 else q }
        some (if p1.collapsing = some [] then s.endCollapse p1 else s)

/-! ## Soft errors (R291, R292) -/

/-- The error log takes an entry in its first empty place, and none where it has no empty one; the place of a tile slot or a
latch is its core's, as 64 × core (R291, R309, DESIGN CHOICE, log 56). -/
def State.logError (s : State) (array : Nat) (place : Nat) : State :=
  match s.sys.errlog.findIdx? fun w => !w.getLsbD 63 with
  | some i =>
    let w : Word := BitVec.ofNat 64 (2 ^ 63 + 2 ^ 56 * array + place)
    { s with sys := { s.sys with errlog := s.sys.errlog.set i w } }
  | none => s

/-- Skerries on a poisoned word complete with the trap (R162). -/
def State.failSkerries (s : State) (k : Nat) : State :=
  { s with accs := s.accs.map fun a => if a.skerryOn (k / 8) then { a with stage := .failed 0x0E } else a }

/-- UNCORRECTABLE_ERROR (R291, R292). -/
def State.uncorrectableError (s : State) (site : ErrSite) : Option State :=
  match site with
  | .memory k => some (((s.poisonWord k).failSkerries k).logError 0 (k % 2 ^ 52))
  | .pageTable k => some (((s.poisonWord k).failSkerries k).logError 4 (k % 2 ^ 52))
  | .register t r =>
    match s.thread? t with
    | none => none
    | some u =>
      if u.win ≤ r.toNat then none
      else some ((s.setThread { u with regs := u.regs.set r.toNat { u.entry r with poison := true } }).logError 1
        t.toNat)
  | .tile c i =>
    if s.tileSlots c.toNat ≤ i then none
    else some ((s.setTile c.toNat i { s.tile c.toNat i with poison := true }).logError 2 (64 * c.toNat))
  | .latch c lat =>
    let k := s.core c.toNat
    some ((s.setCore c.toNat (if lat then { k with latch1 := { k.latch1 with poison := true } }
      else { k with latch0 := { k.latch0 with poison := true } })).logError 3 (64 * c.toNat))
  | .icache c => some (s.setCore c.toNat { s.core c.toNat with icache := [], stale := [] })

/-! ## Page migration and retired Straits (R161, R286, R294) -/

/-- Skerries move with their page, in their order; each WAITV returns spuriously (R161). -/
def State.moveAccs (s : State) (src dst n : Nat) : State :=
  let mine (a : Access) : Bool := a.withdrawable && a.key.any fun k => decide (src ≤ k) && decide (k < src + n)
  let move (a : Access) : Access :=
    if !mine a then a
    else if a.stage = .skerry && a.form.kind = .waitv then { a with stage := .done 0 }
    else { a with key := a.key.map fun k => dst + (k - src) }
  let s1 := { s with accs := s.accs.map move }
  (s.accs.filter fun a => mine a && a.stage = .skerry && a.form.kind = .waitv).foldl (fun s a => s.refill a) s1

/-- The tables of the destination can hold the Skerries that move (R161). A Skerry of the page that stands in such a
table already leaves its place there, and counts once (DESIGN CHOICE, log 53). -/
def State.roomForSkerries (s : State) (src dst n : Nat) : Bool :=
  let moves (a : Access) : Bool := a.key.any fun k => decide (src ≤ k) && decide (k < src + n)
  let keys := (s.accs.filter fun a => a.stage = .skerry && a.form.kind != .waitv && moves a).filterMap fun a =>
    a.key.map fun k => dst + (k - src)
  keys.all fun k =>
    decide (((s.skerriesAt k).filter fun a => !moves a).length +
      (keys.filter fun j => (s.bank j).1 = (s.bank k).1).length ≤ (s.bank k).2)

/-- What leaves under a STAMPED axis have buffered of a frame, and have read of it, moves with it. -/
def State.moveStamped (s : State) (src dst n : Nat) : State :=
  let key (k : Nat) : Nat := if src ≤ k ∧ k < src + n then dst + (k - src) else k
  { s with threads := s.threads.map fun p => (p.1, { p.2 with spec := p.2.spec.map fun sp =>
      { sp with stores := sp.stores.map fun b => { b with key := key b.key }
                reads := sp.reads.map fun w => key (8 * w) / 8 } }) }

/-- PAGE_MIGRATION: a frame's data, bits, poison and Skerries move to another frame, whose own poison only a scrub
clears (R161, R286, R293). One that the destination's tables cannot hold is not performed. -/
def State.pageMigration (s : State) (src dst n : Nat) : Option State :=
  if src % 2 ^ 17 != 0 || dst % 2 ^ 17 != 0 || n = 0 || decide (src < dst + n ∧ dst < src + n) ||
      decide (5 ≤ paSpace src) || decide (5 ≤ paSpace dst) || !s.roomForSkerries src dst n then none
  else
    let m := s.zeroed dst n
    let shift (w : Nat) : Nat := w - src / 8 + dst / 8
    let mine (w : Nat) : Bool := decide (src / 8 ≤ w) && decide (w < (src + n) / 8)
    let m1 := (s.mem.filter fun c => decide (src ≤ c.1) && decide (c.1 < src + n)).foldl
      (fun (m : State) c => { m with mem := memPut (c.1 - src + dst) c.2 m.mem }) m
    let m2 := { m1 with
      empties := (s.empties.filter mine).foldl (fun l w => setAdd (shift w) l) m1.empties,
      poisoned := (s.poisoned.filter mine).foldl (fun l w => setAdd (shift w) l) m1.poisoned }
    some ((m2.moveAccs src dst n).moveStamped src dst n)

/-- Every word of a range is poisoned, and its Skerries complete with the trap (R162, R294). The error log takes no entry
for it (DESIGN CHOICE, log 56). -/
def State.poisonPage (s : State) (k n : Nat) : State :=
  { s with
    poisoned := s.poisoned.filter (fun w => decide (w < k / 8)) ++ (List.range (n / 8)).map (k / 8 + ·) ++
      s.poisoned.filter fun w => decide (k / 8 + n / 8 ≤ w)
    accs := s.accs.map fun a =>
      if a.withdrawable && a.key.any (fun j => decide (k ≤ j) && decide (j < k + n)) then
        { a with stage := .failed 0x0E }
      else a }

/-- STRAIT_WITHDRAWAL: the pages that could not be moved are poisoned, every word of them, and then the banks of the
retired Strait are withdrawn. It comes only after the other pages behind the Strait have been moved: a Skerry there
shows that one has not (R146, R294, log 48). -/
def State.straitWithdrawal (s : State) (die strait : Nat) (stuck : List (Nat × Nat)) : Option State :=
  let i := 64 * die + strait
  let behind (a : Access) : Bool := a.withdrawable && a.key.any fun k =>
    (poolOf k).isNone && decide (paSpace k < 4) && decide (straitOf k = i)
  let s1 := stuck.foldl (fun s p => s.poisonPage p.1 p.2) s
  if 4 ≤ die || 64 ≤ strait || !(stuck.all fun p => p.1 % 2 ^ 17 = 0 && p.2 % 2 ^ 17 = 0) || s1.accs.any behind then none
  else
    some { s1 with
      sys := { s1.sys with units := { s1.sys.units with
        straits := tabPut i (s1.strait i ||| 6) s1.sys.units.straits } } }

/-! ## The rows -/

/-- BANK_ACCESS (R155). -/
def execBankAccess (s : State) : Host.Outcome State Fault Refusal :=
  happens s (match s.ev with | some (.bankAccess n) => s.bankAccess n | _ => none)

/-- ACCESS_ACKNOWLEDGEMENT (R55). -/
def execAccessAcknowledgement (s : State) : Host.Outcome State Fault Refusal :=
  happens s (match s.ev with | some (.accessAcknowledgement n v) => s.accessAcknowledgement n v | _ => none)

/-- RELAXED_COMPLETION (R56). -/
def execRelaxedCompletion (s : State) : Host.Outcome State Fault Refusal :=
  happens s (match s.ev with | some (.relaxedCompletion n v) => s.relaxedCompletion n v | _ => none)

/-- FORWARDED_REPLY (R303). -/
def execForwardedReply (s : State) : Host.Outcome State Fault Refusal :=
  happens s (match s.ev with | some (.forwardedReply n) => s.forwardedReply n | _ => none)

/-- RELAXED_ERROR_RESPONSE (R57). -/
def execRelaxedErrorResponse (s : State) : Host.Outcome State Fault Refusal :=
  happens s (match s.ev with | some (.relaxedErrorResponse n r) => s.relaxedErrorResponse n r | _ => none)

/-- REFUSAL_RETRY (R158). -/
def execRefusalRetry (s : State) : Host.Outcome State Fault Refusal :=
  happens s (match s.ev with | some (.refusalRetry n) => s.refusalRetry n | _ => none)

/-- FABRIC_TIMEOUT (R340). -/
def execFabricTimeout (s : State) : Host.Outcome State Fault Refusal :=
  happens s (match s.ev with | some (.fabricTimeout n) => s.fabricTimeout n | _ => none)

/-- PAGE_FAULT (R282). -/
def execPageFault (s : State) : Host.Outcome State Fault Refusal :=
  happens s (match s.ev with | some (.pageFault n) => s.pageFault n | _ => none)

/-- MMU_REWALK (R283). -/
def execMmuRewalk (s : State) : Host.Outcome State Fault Refusal :=
  happens s (match s.ev with | some (.mmuRewalk c a g) => s.mmuRewalk c a g | _ => none)

/-- TLBINV_COMPLETE (R281). -/
def execTlbinvComplete (s : State) : Host.Outcome State Fault Refusal :=
  happens s (match s.ev with | some (.tlbinvComplete t) => s.tlbinvComplete t | _ => none)

/-- COLLAPSE (R288). -/
def execCollapse (s : State) : Host.Outcome State Fault Refusal :=
  happens s (match s.ev with | some (.collapse f) => s.collapse f | _ => none)

/-- COLLAPSE_ACK (R288). -/
def execCollapseAck (s : State) : Host.Outcome State Fault Refusal :=
  happens s (match s.ev with | some (.collapseAck f d) => s.collapseAck f d | _ => none)

/-- UNCORRECTABLE_ERROR (R291). -/
def execUncorrectableError (s : State) : Host.Outcome State Fault Refusal :=
  happens s (match s.ev with | some (.uncorrectableError e) => s.uncorrectableError e | _ => none)

/-- PAGE_MIGRATION (R161). -/
def execPageMigration (s : State) : Host.Outcome State Fault Refusal :=
  happens s (match s.ev with | some (.pageMigration a b n) => s.pageMigration a b n | _ => none)

/-- STRAIT_WITHDRAWAL (R294). -/
def execStraitWithdrawal (s : State) : Host.Outcome State Fault Refusal :=
  happens s (match s.ev with | some (.straitWithdrawal d i l) => s.straitWithdrawal d i l | _ => none)

end Sys2Proof.Machine
end

