-- ==== Sys2Proof/Machine/Matrix.lean ====
section
/-! DEFINITION. The arithmetic of one MMA, and the meanings of the MATRIX group (R208 to R210, R218 to
R220, R249 to R255). -/

namespace Sys2Proof.Machine

/-! ## Elements and sums (R203, R207 to R210) -/

/-- The value of an element code of a format word. -/
def elemVal (w : BitVec 8) (xs : Bool) (c : Nat) : FVal :=
  if isMx w then mxCode (wordTy w) c
  else match fmtOf xs (wordTy w) with
    | some f => f.read (if wordTy w = .f19 then c / 2 ^ 13 else c)
    | none => intVal (if (wordTy w).isSigned then sgn (wordBits w) c else (c : Int))

/-- Element i of a row whose bytes spell a number (R206, R213). -/
def rowElem (w : BitVec 8) (row i : Nat) : Nat :=
  let b := wordBits w
  if 8 ≤ b then row / 2 ^ (b * i) % 2 ^ b
  else fromPlanes b (row / 2 ^ (128 * b * (i / 128))) (i % 128)

/-- The K values of a row or column: elements beyond kE are %fill's code in the bounded form and zeros
otherwise; MX block scales are applied (R203, R219). For f19 the code is read from the 32-bit container (DEDUCED,
log 28). -/
def rowVals (w : BitVec 8) (xs bnd : Bool) (fill row k kE : Nat) (scale : Nat → Nat) : List FVal :=
  (List.range k).map fun i =>
    let v := if i < kE then elemVal w xs (rowElem w row i)
      else if bnd then elemVal w xs (fill % 2 ^ wordBits w)
      else .fin false 0 0
    if isMx w && (i < kE || bnd) then v.scaled (if kE ≤ i / 32 * 32 then 0x7F else scale (i / 32)) else v

/-- An exact product (R208, R209). -/
def FVal.times (a b : FVal) : FVal :=
  match a, b with
  | .nan _, _ | _, .nan _ => .nan false
  | .inf s, .inf r => .inf (s ^^ r)
  | .inf s, .fin r n _ | .fin r n _, .inf s => if n = 0 then .nan false else .inf (s ^^ r)
  | .fin s m e, .fin r n g => .fin (s ^^ r) (m * n) (e + g)

/-- A finite value that is a zero. -/
def FVal.isZero : FVal → Bool
  | .fin _ m _ => m = 0
  | _ => false

/-- A product truncated toward zero to a grid (R208). -/
def FVal.truncTo (q : Int) : FVal → FVal
  | .fin s m e => if q ≤ e then .fin s m e else .fin s (m / 2 ^ (q - e).toNat) q
  | v => v

/-- The exact sum of products, on the wide class's grid where one is given (R208, R209). -/
def exactSum (wide : Option Nat) (l : List FVal) : FVal :=
  if l.any FVal.isNan then .nan false
  else
    let infs := l.filterMap fun v => match v with
      | .inf s => some s
      | _ => none
    match infs with
    | s :: rest => if rest.all (· = s) then .inf s else .nan false
    | [] =>
      let l := match wide, maxLog2 l with
        | some p, some e => l.map (FVal.truncTo (e - p - 31))
        | _, _ => l
      let e0 := (l.map fun v => match v with
        | .fin _ _ e => e
        | _ => 0).foldl min 0
      let sum : Int := (l.map fun v => match v with
        | .fin s m e => scaleTo e0 s m e
        | _ => (0 : Int)).sum
      .fin (sum < 0) sum.natAbs e0

/-- A sum rounded to an accumulator's format under RNE (R208, R209). -/
def Fmt.ofSum (f : Fmt) : FVal → Nat
  | .nan _ => f.nan
  | .inf s => f.signed s f.infCode
  | .fin s m e => f.round .rne (s && m != 0) m e false

/-- A result and whether a NaN arose from operands that are not NaNs (R209). -/
def nanFrom (f : Fmt) (a b : Nat) (r : FRes) : Nat × Bool :=
  (r.code, (f.read r.code).isNan && !(f.read a).isNan && !(f.read b).isNan)

/-- An element's promoted value: the rounded sum, scaled under S128 (R208). A scale of +0 on an infinite sum gives R208's
NaN, and not R205's zero (DESIGN CHOICE, log 54). -/
def promoted (f : Fmt) (scales : Option (Nat × Nat)) (sum : FVal) (gen : Bool) : Nat × Bool :=
  let r := f.ofSum sum
  match scales with
  | none => (r, gen)
  | some (a, b) =>
    let (ab, g1) := nanFrom f a b (f.mulV .rne (f.read a) (f.read b))
    let (v, g2) := nanFrom f r ab (f.mulV .rne (f.read r) (f.read ab))
    (v, gen || g1 || g2)

/-- A NaN is generated from operands that are not NaN: by an infinity multiplied by zero, whatever the other products
are, or by infinite products of both signs (R209). -/
def sumGen (xs ys : List FVal) (sum : FVal) : Bool :=
  let ps := List.zipWith FVal.times xs ys
  (List.zipWith (fun x y => !x.isNan && !y.isNan && (x.times y).isNan) xs ys).any id ||
    (sum.isNan && !ps.any FVal.isNan)

/-! ## One MMA -/

/-- The operands of an MMA as it performs: values of rows and columns, and the S128 scales. -/
structure MmaData where
  rows : List (List FVal)
  cols : List (List FVal)
  scA : List Nat
  scB : Nat
  deriving DecidableEq, Repr

/-- BND of an operation. -/
def EngineOp.bounded (o : EngineOp) : Bool :=
  match o.instr with
  | some (.mma _ _ _ _ _ _ bnd _ _) => bnd
  | _ => false

/-- Gather an MMA's operands (R213, R218, R219). -/
def State.mmaData (s : State) (o : EngineOp) (lat : Bool) : MmaData :=
  let sh := o.shape
  let c := o.t.core.toNat
  let ra := rowBytes sh o.fmta
  let rb := rowBytes sh o.fmtb
  let per := sh.k / 32
  let scale (base : Word) (i j : Nat) : Nat := s.opNat o (base + BitVec.ofNat 64 (i * per + j)).toNat 1
  { rows := (List.range o.mE).map fun m =>
      rowVals o.fmta o.xs o.bounded o.fill.toNat (s.opNat o (o.addr2.toNat + m * ra) ra) sh.k o.kE
        (scale o.scA m)
    cols := (List.range o.nE).map fun n =>
      rowVals o.fmtb o.xs o.bounded o.fill.toNat (s.read (latchKey c lat (n * rb)) rb) sh.k o.kE
        (scale o.scB n)
    scA := if isS128 o.fmta then (List.range o.mE).map fun m =>
        s.opNat o (o.scA + BitVec.ofNat 64 (4 * m)).toNat 4 else []
    scB := if isS128 o.fmta then s.opNat o o.scB.toNat 4 else 0 }

/-- What an MMA makes of one element: none where every product is a zero (R210); a code, and NV. -/
def mmaElem (o : EngineOp) (d : MmaData) (m n : Nat) : Option (FVal × Bool) :=
  let xs := d.rows.getD m []
  let ys := d.cols.getD n []
  let ps := List.zipWith FVal.times xs ys
  if ps.all FVal.isZero then none
  else
    let sum := exactSum o.shape.wide ps
    some (sum, sumGen xs ys sum)

/-- The scales of one element under S128. -/
def MmaData.scalesOf (d : MmaData) (o : EngineOp) (m : Nat) : Option (Nat × Nat) :=
  if isS128 o.fmta then some (d.scA.getD m 0, d.scB) else none

/-- The exact integer of a sum. -/
def FVal.toInt : FVal → Int
  | .fin s m e => scaleTo 0 s m e
  | _ => 0

/-- The new value of one tile element (R208 to R210). -/
def mmaUpdate (o : EngineOp) (d : MmaData) (m n old : Nat) : Nat × Bool :=
  match mmaElem o d m n with
  | none => (old, false)
  | some (sum, gen) =>
    if o.shape.isInt then (wrap 32 ((old : Int) + sum.toInt), false)
    else
      let f := if o.shape.acc = 0x0C then fmt64 else fmt32
      let (v, g1) := promoted f (d.scalesOf o m) sum gen
      let (r, g2) := nanFrom f old v (f.addV .rne (f.read old) (f.read v))
      (r, g1 || g2)

/-- The pair that a ranked MMA offers for one element: from a zero accumulator (R231). -/
def mmaOffer (o : EngineOp) (d : MmaData) (col : Bool) (m n : Nat) : Pair × Bool :=
  let idx := (o.base.toNat + if col then m else n) % 2 ^ 32
  match mmaElem o d m n with
  | none => ((0, idx), false)
  | some (sum, gen) =>
    if o.shape.isInt then ((wrap 32 sum.toInt, idx), false)
    else
      let (v, g) := promoted fmt32 (d.scalesOf o m) sum gen
      ((v, idx), g)

/-- Set NV of the thread that issued an operation (R209). -/
def State.noteNv (s : State) (t : Ident) (nv : Bool) : State :=
  match s.thread? t with
  | some x => s.setThread (x.orNv nv)
  | none => s

/-- Empty a latch. -/
def State.emptyLatch (s : State) (c : Nat) (lat : Bool) : State :=
  let k := s.core c
  s.setCore c (if lat then { k with latch1 := { k.latch1 with full := false } }
    else { k with latch0 := { k.latch0 with full := false } })

/-- A latch of a core. -/
def State.latch (s : State) (c : Nat) (lat : Bool) : Latch :=
  if lat then (s.core c).latch1 else (s.core c).latch0

/-- The state with a latch. -/
def State.setLatch (s : State) (c : Nat) (lat : Bool) (l : Latch) : State :=
  let k := s.core c
  s.setCore c (if lat then { k with latch1 := l } else { k with latch0 := l })

/-- Fill a latch: its bytes, with zeros beyond them, and full (R215). -/
def State.fillLatch (s : State) (c : Nat) (lat : Bool) (bytes : List Byte) (by' : Option Ident) :
    State :=
  let s := (s.zeroed (latchKey c lat 0) 8192).writeBytes (latchKey c lat 0) bytes
  let (n, s) := s.fresh
  s.setLatch c lat { full := true, poison := false, fillNo := n, filler := by' }

/-- The elements inside the extents, row by row. -/
def inside (o : EngineOp) : List (Nat × Nat) :=
  (List.range o.mE).flatMap fun m => (List.range o.nE).map fun n => (m, n)

/-- A plain MMA: one write of the whole slot (R220). -/
def State.mmaPlain (s : State) (o : EngineOp) (lat : Bool) : State :=
  let c := o.t.core.toNat
  let d := s.mmaData o lat
  let sh := o.shape
  let b := if sh.acc = 0x0C then 8 else 4
  let key := s.slotKey c o.slot
  let new := (List.range sh.m).flatMap fun m => (List.range sh.n).map fun n =>
    let old := s.read (key + b * (64 * m + n)) b
    if m < o.mE && n < o.nE then mmaUpdate o d m n old else (old, false)
  (s.writeBytes key (new.flatMap fun x => natBytes b x.1)).noteNv o.t (new.any (·.2))

/-- A ranked MMA (R231). -/
def State.mmaRanked (s : State) (o : EngineOp) (lat : Bool) (log2k : Nat) (col i32 : Bool) : State :=
  let c := o.t.core.toNat
  let d := s.mmaData o lat
  let all := (inside o).map fun p => (p, mmaOffer o d col p.1 p.2)
  let s := (List.range 64).foldl (fun s j =>
    s.offerTo c o.slot log2k i32 j ((all.filter fun x => (if col then x.1.2 else x.1.1) = j).map
      fun x => x.2.1)) s
  s.noteNv o.t (all.any fun x => x.2.2)

/-- An MMA is skipped: every list inside its extents is full and lies above the bound (R232). -/
def State.mmaSkipped (s : State) (o : EngineOp) (log2k : Nat) (col i32 : Bool) : Bool :=
  (List.range (if col then o.nE else o.mE)).all fun j =>
    s.skips o.t.core.toNat o.slot log2k i32 o.u.toNat j

/-- Perform an MMA (R219, R220, R231, R232, R250). One with an extent of 0 reads nothing and leaves the tile as it is
(R219): with SKIP it adds nothing to the skip count either, though every list inside its extents is full and above the
bound for want of any (DESIGN CHOICE, log 20). -/
def State.runMma (s : State) (o : EngineOp) (lat rel skip : Bool) : State :=
  let c := o.t.core.toNat
  let s1 :=
    if !o.active then s
    else match (s.tile c o.slot).kind with
      | .ranked log2k col i32 =>
        if skip && s.mmaSkipped o log2k col i32 then
          let x := s.tile c o.slot
          s.setTile c o.slot { x with hdr := { x.hdr with skips := satAdd32 x.hdr.skips 1 } }
        else s.mmaRanked o lat log2k col i32
      | _ => s.mmaPlain o lat
  if rel then s1.emptyLatch c lat else s1

/-! ## The other operations -/

/-- The rows that QROW makes: scale, codes, NV (R255). -/
def State.qrowRows (s : State) (o : EngineOp) : List (Nat × List Nat × Bool) :=
  (List.range o.rows).map fun r =>
    s128Quantise o.xs ((List.range 128).map fun i =>
      fmt32.read (s.opNat o (o.addr1.toNat + 512 * r + 4 * i) 4))

/-- What an operation writes to memory, line by line in its order (R164, R248). -/
def State.opOut (s : State) (o : EngineOp) : List (Nat × List Byte) :=
  match o.instr with
  | some (.mdrain ..) => linesOfBytes o.addr1.toNat (memBytes s.mem (s.slotKey o.t.core.toNat o.slot) 16384)
  | some (.rldrain ..) =>
    match (s.tile o.t.core.toNat o.slot).kind with
    | .ranked l col i32 => linesOfBytes o.addr1.toNat (s.rankImage o.t.core.toNat o.slot l col i32)
    | _ => []
  | some (.qrow ..) =>
    (s.qrowRows o).mapIdx (fun r q =>
      linesOfBytes (o.addr2.toNat + 128 * r) (q.2.1.map fun c => BitVec.ofNat 8 c) ++
        linesOfBytes (o.addr3.toNat + 4 * r) (natBytes 4 q.1)) |>.flatten
  | _ => []

/-- Lines written to memory. -/
def State.writeLines (s : State) (o : EngineOp) (l : List (Nat × List Byte)) : State :=
  l.foldl (fun s x => s.storeLine o x) s

/-- What is left to write of an operation's result is written. -/
def State.writeRest (s : State) (o : EngineOp) : State := s.writeLines o ((o.left (s.opOut o)).map (·.2))

/-- MZERO: the slot, or both of a pair, plain and zero; a later declaration stands (R214, R254). -/
def State.runMzero (s : State) (o : EngineOp) : State :=
  let c := o.t.core.toNat
  o.slots.foldl (fun s i => s.plainSlot c i) s

/-- Perform an operation other than BROT (R220, R249, R256). -/
def State.perform (s : State) (o : EngineOp) : State :=
  let c := o.t.core.toNat
  match o.instr with
  | some (.mma _ _ lat _ _ rel _ _ skip) => s.runMma o lat rel skip
  | some (.bload lat _) =>
    s.fillLatch c lat (s.opBytes o o.addr1.toNat (o.shape.n * rowBytes o.shape o.fmtb)) (some o.t)
  | some (.brel lat) => (s.setLatch c lat { s.latch c lat with poison := false }).emptyLatch c lat
  | some (.mzero _) => s.runMzero o
  | some (.mfill _ _) =>
    (s.writeBytes (s.slotKey c o.slot) (s.opBytes o o.addr1.toNat 16384)).setTile c o.slot
      { s.tile c o.slot with poison := false }
  | some (.mdrain _ _) => s.writeRest o
  | some (.qrow ..) => (s.writeRest o).noteNv o.t ((s.qrowRows o).any fun q => q.2.2)
  | some (.rlins _ _ _ list _) =>
    match (s.tile c o.slot).kind with
    | .ranked l _ i32 =>
      s.offerTo c o.slot l i32 list.toNat (((List.range 16).filter fun i => o.mask.getLsbD i).map
        fun i => (lane o.va 32 i, lane o.vb 32 i))
    | _ => s
  | some (.rlmergeTile _ _) =>
    match (s.tile c o.slot).kind, (s.tile c o.slot2).kind with
    | .ranked l _ i32, .ranked l2 _ _ =>
      s.mergeInto c o.slot l i32 ((List.range 64).map fun j => s.rankList c o.slot2 (2 ^ l2) j)
        (s.tile c o.slot2).hdr.nans (s.tile c o.slot2).hdr.skips
    | _, _ => s
  | some (.rlmergeImage _ _) =>
    match (s.tile c o.slot).kind with
    | .ranked l _ i32 =>
      let img := s.opBytes o o.addr1.toNat (imageBytes o.log2k)
      s.mergeInto c o.slot l i32 ((List.range 64).map fun j => imageList img o.log2k j)
        (bytesNat ((img.drop 8).take 4)) (bytesNat ((img.drop 12).take 4))
    | _ => s
  | some (.rldrain _ _) => s.writeRest o
  | _ => s

/-- Tile slots whose contents an operation reads (R292). -/
def EngineOp.readsSlots (o : EngineOp) : List Nat :=
  match o.instr with
  | some (.mma ..) => if o.active then o.slots else []
  | some (.mdrain ..) | some (.rldrain ..) | some (.rlins ..) | some (.rlmergeTile ..)
  | some (.rlmergeImage ..) => o.slots
  | _ => []

/-- An MMA with the skip flag that its bound skips: it computes nothing, and reads nothing but its lists (R232). -/
def State.opSkips (s : State) (o : EngineOp) : Bool :=
  match o.instr, (s.tile o.t.core.toNat o.slot).kind with
  | some (.mma _ _ _ _ _ _ _ _ skip), .ranked log2k col i32 => skip && o.active && s.mmaSkipped o log2k col i32
  | _, _ => false

/-- The slots or the latch that an operation reads are poisoned (R292). -/
def State.unitsBad (s : State) (o : EngineOp) : Bool :=
  let c := o.t.core.toNat
  let latch := match o.instr with
    | some (.mma ..) => o.active && !s.opSkips o && o.readsLatch.any fun l => (s.latch c l).poison
    | some (.brot ..) => o.readsLatch.any fun l => (s.latch c l).poison
    | _ => false
  latch || o.readsSlots.any fun i => (s.tile c i).poison

/-- What an operation has met, or would meet, in the memory that it reads. -/
def State.readTrouble (s : State) (o : EngineOp) : Option Nat :=
  if s.opSkips o then none
  else match o.failing with
    | some k => some k
    | none => (o.unread o.reads).findSome? fun r => s.rangeTrouble o r.1 r.2

/-- What an operation would meet in the memory that it has still to write. -/
def State.writeTrouble (s : State) (o : EngineOp) : Option Nat :=
  (o.left o.outPieces).findSome? fun x => s.rangeTrouble o x.2.1 x.2.2

/-- An image that RLMERGE takes is not valid, or its configuration word is not the one read at issue (R231, R258). -/
def State.imageTrouble (s : State) (o : EngineOp) : Option Nat :=
  match o.instr, (s.tile o.t.core.toNat o.slot).kind with
  | some (.rlmergeImage ..), .ranked _ col i32 =>
    let img := s.opBytes o o.addr1.toNat (imageBytes o.log2k)
    if bytesNat (img.take 8) = o.cfg.toNat && imageValid img o.log2k col i32 then none else some 7
  | _, _ => none

/-- Why a started operation fails: a KIND of R226 (R217, R225, R231, R292). -/
def State.trouble (s : State) (o : EngineOp) : Option Nat :=
  if (match o.instr with
      | some (.brot ..) => !(s.cap (s.ringCore o.t.core.toNat false)).getLsbD 1
      | _ => false) then some 8
  else if s.unitsBad o then some 2
  else match s.readTrouble o, s.writeTrouble o with
    | some k, _ => some k
    | none, some k => some k
    | none, none => s.imageTrouble o

/-- What a failing operation has already written: the lines before the first that it cannot write, where it could
read what it writes (R225, DESIGN CHOICE, log 13). -/
def State.partial' (s : State) (o : EngineOp) : State :=
  if s.unitsBad o || (s.readTrouble o).isSome then s
  else s.writeLines o (((o.left (s.opOut o)).map (·.2)).takeWhile fun x => (s.rangeTrouble o x.1 x.2.length).isNone)

/-! ## The meanings -/

/-- The segment through which the engine reads a scale byte: the first of seg1 to seg7 that covers it
with the R right (R218). One through which its address lies outside the map of R150 does not cover it (DEDUCED,
log 14). -/
def scaleSeg (s : State) (t : Thread) (a : Nat) : Option SegReg :=
  ((List.range 7).map fun i => BitVec.ofNat 3 (i + 1)).find? fun g =>
    let d := t.seg g
    (segRights d).getLsbD 0 && decide ((segBase d).toNat ≤ a) &&
      decide (a < (segBase d).toNat + segLimit d) && s.dvaOk (BitVec.ofNat 64 a) 1

/-- Every scale byte in use is covered (R218). -/
def scalesX (s : State) (t : Thread) : List Nat → X Unit
  | [] => .ok ()
  | a :: l =>
    if (scaleSeg s t a).isNone then accTrap 0x05 (BitVec.ofNat 64 a) 0 false 0b000001 else scalesX s t l

/-- A scale byte is read through a segment without the P right. -/
def scaleNoP (s : State) (t : Thread) (a : Nat) : Bool := (scaleSeg s t a).any fun g => !segP (t.seg g)

/-- The P right stands where a scale byte is a peer's (R148, R218). -/
def scalePeersX (s : State) (t : Thread) : List Nat → X Unit
  | [] => .ok ()
  | a :: l =>
    if decide (a < poolBase) && scaleNoP s t a && (match s.walk t.dom a with
        | .ok lf => decide (paSpace (pteAddr lf.entry) = 5)
        | .error _ => false) then accTrap 0x05 (BitVec.ofNat 64 a) 0 false 0b100000
    else scalePeersX s t l

/-- An S128 scale address is 4-byte aligned (R218). -/
def scaleAlignX (o : EngineOp) : X Unit :=
  if isS128 o.fmta then
    match (o.scaleRanges.filter fun r => r.1 % 4 != 0).head? with
    | some r => accTrap 0x06 (BitVec.ofNat 64 r.1) 0 false 0
    | none => .ok ()
  else .ok ()

/-- The bytes of some ranges. -/
def bytesIn (l : List (Nat × Nat)) : List Nat := l.flatMap fun r => (List.range r.2).map (r.1 + ·)

/-- The checks of R11 on an MMA's A operand and scales, in the order of R23: limits, rights, alignment, and then the P
right (R148); those on A, or on the scales, are left out where a register that they need is poisoned (DEDUCED, log 14).
The answer is the DVA of A. -/
def mmaChecks (s : State) (t : Thread) (onA onScales : Bool) (e : Word) (n : Nat) (o : EngineOp) : X Word := do
  let bytes := if onScales then bytesIn o.scaleRanges else []
  let a ← (match (if onA then checkX s t 1 e n 64 0b000001 false else .ok 0) with
    | .error (.trap i) => if i.code = 0x06 then do scalesX s t bytes; .error (.trap i) else .error (.trap i)
    | .error st => .error st
    | .ok a => .ok a)
  scalesX s t bytes
  if onScales then scaleAlignX o
  if onA then peerRightX s t 1 e a n false
  scalePeersX s t bytes
  return a

/-- The operand ranges that an MMA reaches through segments without the P right. -/
def mmaNoP (s : State) (t : Thread) (a : Word) (n : Nat) (o : EngineOp) : List (Nat × Nat) :=
  lacksP t 1 a n ++ o.scaleRanges.filter fun r => (bytesIn [r]).any (scaleNoP s t)

/-- A word of an aux register, zero where there is none (R250). -/
def auxLane (aux : Option Reg) (i : Nat) : Word :=
  match aux with
  | some r => lane64 r i
  | none => 0

/-- An extent: the edge register's, no more than the dimension (R219). -/
def extent (edge : Option Reg) (i dim : Nat) : Nat :=
  match edge with
  | some r => min (lane r 32 i) dim
  | none => dim

/-- A register that an instruction may leave out, present. -/
def optX (t : Thread) : Option RegNum → X (Option Reg)
  | some r => do
    let v ← presentX t r
    return some v
  | none => .ok none

/-- The ENGINE conditions of an MMA whose pair is accepted, but for that on its A operand: the slot is not allowed, its
state does not match, or its value type does not (R247). The second slot of a pair matches no operation (DEDUCED,
log 20). -/
def mmaSlotX (s : State) (t : Thread) (i : Nat) (sh : Shape) (rank skip : Bool) : X Unit := do
  slotX s t i (s.slotsOf t i)
  match (s.tile t.id.core.toNat i).declared with
  | .plain => if rank || skip then engineTrap s t 7 i else .ok ()
  | .second => engineTrap s t 7 i
  | .ranked _ _ i32 =>
    if !rank then engineTrap s t 7 i
    else if i32 ≠ sh.isInt ∨ sh.acc = 0x0C then engineTrap s t 9 i
    else .ok ()

/-- The same, with the A operand at its DVA first, unless its register is poisoned: it lies in the core's own scratch
(R247). -/
def mmaEngineX (s : State) (t : Thread) (i : Nat) (sh : Shape) (rank skip onA : Bool) (dva : Word) : X Unit :=
  if onA && (poolOf dva.toNat).map (·.1) != some t.id.core.toNat then engineTrap s t 10 i
  else mmaSlotX s t i sh rank skip

/-- MMA (R212, R218, R219, R249, R250). -/
def execMma (tile : BitVec 8) (a : RegNum) (_lat : Bool) (edge aux : Option RegNum)
    (_rel _bnd rank skip : Bool) (s : State) : Host.Outcome State Fault Refusal :=
  runWith beforePair s fun s t => do
    need (fmtOk t.sp.fmta && fmtOk t.sp.fmtb && fmtcOk t.sp.fmtc) (ill s)
    windowX t ([a] ++ edge.toList ++ aux.toList)
    unitX s t 1
    let i := t.absSlot tile
    match pairShape (fmt8 t.sp.fmta) (fmt8 t.sp.fmtb) with
    | none => engineTrap s t 6 i
    | some sh => do
      if sh.acc ≠ fmt8 t.sp.fmtc then engineTrap s t 6 i
      else do
        let x ← presentX t a
        let ed ← optX t edge
        let ax ← optX t aux
        let bytes := sh.m * rowBytes sh (fmt8 t.sp.fmta)
        let onA := !(t.entry a).poison
        let onScales := (edge.toList ++ aux.toList).all fun r => !(t.entry r).poison
        let o : EngineOp := { newOp s t (s.slotsOf t i) with
          slot := i, mE := extent ed 0 sh.m, nE := extent ed 1 sh.n, kE := extent ed 2 sh.k,
          scA := t.sp.scla + auxLane ax 0, scB := t.sp.sclb + auxLane ax 1,
          base := (auxLane ax 2).extractLsb' 0 32, u := (auxLane ax 3).extractLsb' 0 32 }
        let dva ← mmaChecks s t onA onScales (scalar x) bytes o
        let o : EngineOp := { o with addr2 := dva, noP := mmaNoP s t dva bytes o }
        mmaEngineX s t i sh rank skip onA dva
        cleansX t (a :: (edge.toList ++ aux.toList))
        enqueue s t o

/-- BLOAD (R251). -/
def execBload (_lat : Bool) (m : MOp) (s : State) : Host.Outcome State Fault Refusal :=
  runWith beforePair s fun s t => do
    need (fmtOk t.sp.fmta && fmtOk t.sp.fmtb) (ill s)
    windowX t [m.a]
    unitX s t 1
    match pairShape (fmt8 t.sp.fmta) (fmt8 t.sp.fmtb) with
    | none => engineTrap s t 6 0
    | some sh => do
      let b ← readX t m.a
      let a ← memX s t m b (sh.n * rowBytes sh (fmt8 t.sp.fmtb)) false
      enqueue s t { newOp s t [] with
        addr1 := a, noP := lacksP t m.seg a (sh.n * rowBytes sh (fmt8 t.sp.fmtb)) }

/-- BROT (R252). -/
def execBrot (_lat _dl : Bool) (s : State) : Host.Outcome State Fault Refusal :=
  runT s fun s t => do
    unitX s t 1
    enqueue s t (newOp s t [])

/-- BREL (R252). -/
def execBrel (_lat : Bool) (s : State) : Host.Outcome State Fault Refusal :=
  runT s fun s t => do
    unitX s t 1
    enqueue s t (newOp s t [])

/-- MCOMMIT (R222, R253). -/
def execMcommit (a : RegNum) (s : State) : Host.Outcome State Fault Refusal :=
  runT s fun s t => do
    windowX t [a]
    destX t a
    unitX s t 1
    oldestX t
    need (oldestBatch (t.nextBatch + 1) (s.opsOf t) ≤ 8) (.park .commitFull)
    done s t.closeBatch a (ofScalar (t.nextBatch.zeroExtend 64))

/-- MWAIT (R222, R253). -/
def execMwait (n : BitVec 3) (s : State) : Host.Outcome State Fault Refusal :=
  runT s fun s t => do
    unitX s t 1
    need (s.outstanding t ≤ n.toNat) (.park (.mwait n.toNat))
    return (s, t.adv)

/-- MZERO (R214, R254). -/
def execMzero (tile : BitVec 8) (s : State) : Host.Outcome State Fault Refusal :=
  runT s fun s t => do
    unitX s t 1
    let i := t.absSlot tile
    slotX s t i (s.slotsOf t i)
    let (s1, t1) ← enqueue s t { newOp s t (s.slotsOf t i) with slot := i }
    return (s1.declarePlain t.id.core.toNat i, t1)

/-- MFILL (R254). -/
def execMfill (tile : BitVec 8) (m : MOp) (s : State) : Host.Outcome State Fault Refusal :=
  runT s fun s t => do
    windowX t [m.a]
    let b ← presentX t m.a
    let a ← unlessBad t [m.a] (memX s t m b 16384 false)
    unitX s t 1
    let i := t.absSlot tile
    slotX s t i (s.slotsOf t i)
    plainX s t i
    cleanX t m.a
    enqueue s t { newOp s t [i] with addr1 := a, noP := lacksP t m.seg a 16384 }

/-- MDRAIN (R254). -/
def execMdrain (tile : BitVec 8) (m : MOp) (s : State) : Host.Outcome State Fault Refusal :=
  runT s fun s t => do
    windowX t [m.a]
    let b ← presentX t m.a
    let a ← unlessBad t [m.a] (memX s t m b 16384 true)
    unitX s t 1
    let i := t.absSlot tile
    slotX s t i (s.slotsOf t i)
    plainX s t i
    cleanX t m.a
    enqueue s t { newOp s t [i] with addr1 := a, noP := lacksP t m.seg a 16384 }

/-- The P right of several operands, each with the register that forms it, in order: tested after every other check of all
of them (R148), and not where that register is poisoned. -/
def peersX (t : Thread) : List (RegNum × X Unit) → X Unit
  | [] => .ok ()
  | (r, x) :: l => do
    if !(t.entry r).poison then x
    peersX t l

/-- QROW (R255). A row count that is poisoned is taken as one row in the checks of the other operands (DEDUCED,
log 14). -/
def execQrow (b c : RegNum) (m : MOp) (s : State) : Host.Outcome State Fault Refusal :=
  runT s fun s t => do
    valueX s t c fun z => decide (1 ≤ (lane64 z 1).toNat) && decide ((lane64 z 1).toNat ≤ 64)
    windowX t [m.a, b, c]
    let x ← presentX t m.a
    let y ← presentX t b
    let z ← presentX t c
    let r := if (t.entry c).poison then 1 else (lane64 z 1).toNat
    let c1 := unlessBad t [m.a] (checkX s t m.seg (offE x m.off) (512 * r) 64 0b000001 false)
    let c2 := unlessBad t [b] (checkX s t 1 (scalar y) (128 * r) 64 0b000010 true)
    let c3 := unlessBad t [c] (checkX s t 1 (lane64 z 0) (4 * r) 4 0b000010 true)
    firstCauseX [c1, c2, c3]
    let a1 ← c1
    let a2 ← c2
    let a3 ← c3
    unitX s t 1
    peersX t [(m.a, peerRightX s t m.seg (offE x m.off) a1 (512 * r) false),
      (b, peerRightX s t 1 (scalar y) a2 (128 * r) true), (c, peerRightX s t 1 (lane64 z 0) a3 (4 * r) true)]
    cleansX t [m.a, b, c]
    enqueue s t { newOp s t [] with
      addr1 := a1, addr2 := a2, addr3 := a3, rows := r,
      noP := lacksP t m.seg a1 (512 * r) ++ lacksP t 1 a2 (128 * r) ++ lacksP t 1 a3 (4 * r) }

end Sys2Proof.Machine
end

