-- ==== Sys2Proof/Machine/EvEngine.lean ====
section
/-! DEFINITION. Events of the matrix engines and of the copy channels (R174, R211, R215 to R217, R220 to R225,
R236 to R242). -/

namespace Sys2Proof.Machine

/-! ## Starting an operation (R221) -/

/-- The first unstarted operation of a core's engine queue. -/
def State.nextOp (s : State) (c : Nat) : Option EngineOp := (s.core c).engq.find? fun o => !o.started

/-- The previous core's BROT waits for a latch that it could fill. -/
def State.rotWaits (s : State) (c : Nat) (lat : Bool) : Bool :=
  let p := s.ringCore c true
  match s.nextOp p with
  | some o => o.rotatesTo lat && (match o.readsLatch with
    | some l => (if l then (s.core p).latch1 else (s.core p).latch0).full
    | none => false)
  | none => false

/-- The core that a BROT would fill takes part: present, with a matrix engine (R217). -/
def State.rotReach (s : State) (c : Nat) : Bool := (s.cap (s.ringCore c false)).getLsbD 1

/-- A latch is full and no started operation is about to empty it. -/
def State.latchReady (s : State) (c : Nat) (lat : Bool) : Bool :=
  let k := s.core c
  (if lat then k.latch1 else k.latch0).full && (s.startedOps c).all fun o => o.empties != some lat

/-- An MMA is under way. -/
def EngineOp.isMma (o : EngineOp) : Bool :=
  match o.instr with
  | some (.mma ..) => true
  | _ => false

/-- A latch is empty, and no started operation still reads what it held (R174, R215). -/
def State.latchEmpty (s : State) (c : Nat) (lat : Bool) : Bool :=
  let k := s.core c
  !(if lat then k.latch1 else k.latch0).full && (s.startedOps c).all fun o => o.readsLatch != some lat

/-- The condition on latches and on the sub-ring under which an operation starts (R215 to R217, R221). A BLOAD starts at
an empty latch though the previous core's BROT waits for it too, or is on its way: the BROT fills the latch first, and the
BLOAD waits behind it, and holds back no later operation (R216, R223, R329, log 45). -/
def State.opMayStart (s : State) (c : Nat) (o : EngineOp) : Bool :=
  !s.opHeld o &&
    match o.instr with
    | some (.bload lat _) =>
      s.latchEmpty c lat && (s.startedOps c).all fun x => !x.loads lat
    | some (.mma _ _ lat ..) =>
      s.latchReady c lat && (s.startedOps c).all fun x => !x.isMma
    | some (.brot lat dl) =>
      s.latchReady c lat && !s.atollPending (clusterOf c) &&
        (!s.rotReach c || s.latchOpen (s.ringCore c false) dl)
    | _ => true

/-- Engine cycles of an operation: an MMA's are those of its shape row (R211). -/
def EngineOp.cycles (o : EngineOp) : Nat := if o.isMma then o.shape.cycles else 0

/-- The state with an operation of a queue replaced. -/
def State.setOp (s : State) (c : Nat) (o : EngineOp) : State :=
  let k := s.core c
  s.setCore c { k with engq := k.engq.map fun x => if x.n = o.n then o else x }

/-- ENGINE_OP_START: the next operation takes its translations and starts; an MMA reads its scales, behind every access
of an earlier operation of the queue to their words (R174, R218, R221). -/
def State.engineOpStart (s : State) (c : Nat) : Option State :=
  match s.nextOp c with
  | none => none
  | some o =>
    if !s.opMayStart c o then none
    else
      match s.mapOp o with
      | (_, .error _) => none
      | (s, .ok l) =>
        let o1 := { o with started := true, maps := l, doneAt := s.runCount c + o.cycles, since := s.cyc }
        if o.isMma && !s.linesFree c o1 (o.inLines ((linesOfRanges o.scaleRanges).map fun x => x.1 / 64)) then none
        else some (s.setOp c (if o.isMma then s.readLines o.scaleRanges o1 else o1))

/-- ENGINE_PAGE_FAULT: the next operation meets a missing page; it and the thread's later unstarted ones leave
the queue, and the thread is out of rotation until they are back, or once its access in flight has been answered
(R55, R224). -/
def State.enginePageFault (s : State) (c : Nat) : Option State :=
  match s.nextOp c with
  | none => none
  | some o =>
    if !s.opMayStart c o then none
    else
      match s.mapOp o with
      | (_, .ok _) => none
      | (s, .error (a, wr, m)) =>
        let region := ((s.thread? o.t).map (·.regionId)).getD 0
        let s := (s.removeOps c o 1).pageRequest
          (pageG0 (BitVec.ofNat 64 a) (some o.t) 1 wr m region o.domain)
        match s.thread? o.t with
        | none => some s
        | some t =>
          some (if t.state = .ready && !t.onAccess then s.setThread { t with state := .parked, wait := .enginePage } else s)

/-! ## Performing an operation (R220, R225) -/

/-- A started operation of a queue by its number. -/
def State.op? (s : State) (c n : Nat) : Option EngineOp := (s.core c).engq.find? fun o => o.n = n

/-- The operation is a BROT. -/
def EngineOp.isBrot (o : EngineOp) : Bool :=
  match o.instr with
  | some (.brot _ _) => true
  | _ => false

/-- What an operation meets that makes it fail; a BROT without a partner fails with KIND 8 (R217, R226). -/
def State.opTrouble (s : State) (c : Nat) (o : EngineOp) : Option Nat :=
  if o.isBrot && !s.rotReach c then some 8 else if s.opLate o then some 3 else s.trouble o

/-- The latch that an operation fills can take its bytes, and no BROT that comes first waits for it; one that fills none
needs nothing (R215, R216). -/
def State.fillReady (s : State) (c : Nat) (o : EngineOp) : Bool :=
  match o.instr with
  | some (.bload lat _) => s.latchOpen c lat && !s.rotWaits c lat
  | _ => true

/-- One access that an operation has still to make: a line that it reads, or a numbered line of its result. -/
inductive LineMove where
  | read (line : Nat)
  | write (i : Nat) (x : Nat × List Byte)
  deriving DecidableEq, Repr

/-- What a line of the result is made of has been read: the row of QROW to which it belongs (R255). -/
def EngineOp.inputsRead (o : EngineOp) (i : Nat) : Bool :=
  match o.instr with
  | some (.qrow ..) => (o.unread [(o.addr1.toNat + 512 * (i / 3), 512)]).isEmpty
  | _ => (o.unread o.reads).isEmpty

/-- The lines that a started operation can read or write next: those whose words no earlier operation of the queue has
still to access, reads ahead of the operation's units too, but for an MMA, which may turn out to be skipped
(R164, R174, R232). -/
def State.lineMoves (s : State) (c : Nat) (o : EngineOp) : List LineMove :=
  let free := s.unitsFree c o
  (if free || !o.isMma then
    ((o.unread o.reads).filter fun x => s.linesFree c o (o.inLines [x.1 / 64])).map fun x => .read (x.1 / 64) else []) ++
  (if free then
    ((o.left (s.opOut o)).filter fun p => o.inputsRead p.1 && s.linesFree c o [(p.2.1, p.2.2.length)]).map
      fun p => .write p.1 p.2
   else [])

/-- A line of memory of a started operation is read or written: whichever of those that it can make (R164, R248). -/
def State.engineLine (s : State) (c n pick : Nat) : Option State :=
  match s.op? c n with
  | none => none
  | some o =>
    if !o.started || o.failing.isSome || s.opSkips o || s.opLate o then none
    else
      match (s.lineMoves c o)[pick]? with
      | some (.read line) => some (s.setOp c (s.readLine o.reads o line))
      | some (.write i x) =>
        if (s.rangeTrouble o x.1 x.2.length).isSome then none
        else some ((s.storeLine o x).setOp c { o with wrote := i :: o.wrote })
      | none => none

/-- ENGINE_OP_COMPLETE: what is left of the operation is done (R220). -/
def State.engineOpComplete (s : State) (c n : Nat) : Option State :=
  match s.op? c n with
  | none => none
  | some o =>
    if o.isBrot || !s.opNext c o || !s.fillReady c o || (s.opTrouble c o).isSome then none
    else
      let s1 := s.perform o
      some ({ s1 with free := s1.free + 2 ^ 20 }.dropOp c n)

/-- BROT_ARRIVAL: the bytes reach the next core's latch (R216). -/
def State.brotArrival (s : State) (c : Nat) (lat : Bool) : Option State :=
  match (s.startedOps c).find? fun o => o.isBrot && o.readsLatch = some lat with
  | none => none
  | some o =>
    if !s.opNext c o || (s.opTrouble c o).isSome then none
    else
      match o.instr with
      | some (.brot src dl) =>
        let n := s.ringCore c false
        let bytes := memBytes s.mem (latchKey c src 0) 8192
        let bad := (s.latch c src).poison
        let s1 := (s.emptyLatch c src).writeBytes (latchKey n dl 0) bytes
        let x : Latch := { full := true, poison := bad, fillNo := s.serial, filler := none }
        some ((({ s1.setLatch n dl x with serial := s.serial + 1 }).dropOp c o.n).settleAtoll (clusterOf c))
      | _ => none

/-- ENGINE_FAILURE: the operation fails; its thread traps ENGINE (R225). -/
def State.engineFailure (s : State) (c n : Nat) : Option State :=
  match s.op? c n with
  | none => none
  | some o =>
    if !s.opNext c o then none
    else
      match s.opTrouble c o with
      | none => none
      | some kind =>
        let s1 := ((s.partial' o).removeOps c o kind).settleAtoll (clusterOf c)
        match s1.thread? o.t with
        | none => some s1
        | some t => some (s1.deliverTrap t (.plain 0x0C t.sp.estat))

/-! ## Copies -/

/-- A cancelled copy traps its thread: a thread in a CWAIT on the channel returns from it first (R238, R263). -/
def State.copyTrap (s : State) (t : Thread) (ch : Nat) (i : TrapInfo) : State :=
  match t.wait with
  | .cwait w _ =>
    if w = ch && (t.state = .parked || t.state = .held) then
      let u := t.adv.woken
      (s.commit u).deliverTrap u i
    else s.deliverTrap t i
  | _ => s.deliverTrap t i

/-- COPY_CANCEL: the thread's copies on the channel are cancelled, and the thread traps (R238). -/
def State.copyCancel (s : State) (c ch : Nat) : Option State :=
  match s.copyQueue c ch with
  | [] => none
  | o :: _ =>
    let why := match s.copyBad c ch with
      | some i => some i
      | none => s.barrierBad c ch
    match why with
    | none => none
    | some i =>
      let (s, o) := s.copyResume o
      let s1 := (s.setCwp o ch o.landed).cancelCopies c ch o.t
      match s1.thread? o.t with
      | none => some s1
      | some t => some (s1.copyTrap t ch i)

/-! ## The rows -/

/-- ENGINE_OP_START (R221). -/
def execEngineOpStart (s : State) : Host.Outcome State Fault Refusal :=
  happens s (match s.ev with | some (.engineOpStart c) => s.engineOpStart c.toNat | _ => none)

/-- ENGINE_OP_COMPLETE (R220). -/
def execEngineOpComplete (s : State) : Host.Outcome State Fault Refusal :=
  happens s (match s.ev with | some (.engineOpComplete c n) => s.engineOpComplete c.toNat n | _ => none)

/-- BROT_ARRIVAL (R216). -/
def execBrotArrival (s : State) : Host.Outcome State Fault Refusal :=
  happens s (match s.ev with | some (.brotArrival c l) => s.brotArrival c.toNat l | _ => none)

/-- ENGINE_PAGE_FAULT (R224). -/
def execEnginePageFault (s : State) : Host.Outcome State Fault Refusal :=
  happens s (match s.ev with | some (.enginePageFault c) => s.enginePageFault c.toNat | _ => none)

/-- ENGINE_FAILURE (R225). -/
def execEngineFailure (s : State) : Host.Outcome State Fault Refusal :=
  happens s (match s.ev with | some (.engineFailure c n) => s.engineFailure c.toNat n | _ => none)

/-- COPY_LINE (R236). -/
def execCopyLine (s : State) : Host.Outcome State Fault Refusal :=
  happens s (match s.ev with | some (.copyLine c ch) => s.copyLine c.toNat ch.toNat | _ => none)

/-- COPY_COMPLETE (R242). -/
def execCopyComplete (s : State) : Host.Outcome State Fault Refusal :=
  happens s (match s.ev with | some (.copyComplete c ch) => s.copyDone c.toNat ch.toNat | _ => none)

/-- COPY_CANCEL (R238). -/
def execCopyCancel (s : State) : Host.Outcome State Fault Refusal :=
  happens s (match s.ev with | some (.copyCancel c ch) => s.copyCancel c.toNat ch.toNat | _ => none)

end Sys2Proof.Machine
end

