-- ==== Sys2Proof/Machine/EvHost.lean ====
section
/-! DEFINITION. Events at the package's edge: the host, the fabric and its peers, power, the management port
and the boot ROM (R331 to R346); and the word that is not an instruction (R34). -/

namespace Sys2Proof.Machine

/-! ## Physical accesses of agents without a translation -/

/-- A physical address that memory holds: in spaces 0 to 4 and within its space (R338). -/
def State.inSpace (s : State) (k : Nat) : Bool :=
  decide (paSpace k < 5) && decide (paOff k < s.spaceBytes (paSpace k))

/-- A write through no translation reaches a duplicated page only when it is plain again (R168, R288). -/
def State.plainPage (s : State) (k : Nat) : State :=
  match s.dupOf k with
  | some p => (s.performCopies p).endCollapse p
  | none => s

/-- The parts of n bytes from an address, each within one line, in ascending order (R164). -/
def linesFrom : Nat → Nat → Nat → List (Nat × Nat)
  | 0, _, _ => []
  | fuel + 1, a, n =>
    if n = 0 then []
    else
      let m := min n (64 - a % 64)
      (a, m) :: linesFrom fuel (a + m) (n - m)

/-- Lines that n bytes can touch. -/
def lineCount (n : Nat) : Nat := n / 64 + 2

/-- A plain store of bytes within one line: a poisoned word keeps its bytes, every other word written becomes
full, and Skerries settle (R53, R155, R338). -/
def State.lineStore (s : State) (k : Nat) (data : List Byte) : State :=
  let s := s.plainPage k
  let n := data.length
  let s1 := (List.range n).foldl (fun s j =>
    if s.bad (k + j) then s else s.writeBytes (k + j) [data.getD j 0]) s
  let s2 := (wordsOf k n).foldl (fun s w => if s.bad w then s else s.setFull w true) s1
  s2.settle k n

/-- Bytes read within one line, those of a poisoned word all ones, and whether there was one (R338). -/
def State.lineLoad (s : State) (k n : Nat) : List Byte × Bool :=
  ((List.range n).map fun j => if s.bad (k + j) then BitVec.allOnes 8 else memByte (k + j) s.mem,
    (wordsOf k n).any fun w => s.bad w)

/-- The management port's write of bytes, as a copy in SETFULL: a word written wholly becomes full (R237,
R346). -/
def State.portStore (s : State) (k : Nat) (data : List Byte) : State :=
  (linesFrom (lineCount data.length) k data.length).foldl (fun s l =>
    let s := (s.plainPage l.1).writeBytes l.1 ((data.drop (l.1 - k)).take l.2)
    let s := (wordsOf l.1 l.2).foldl (fun s w =>
      if decide (l.1 ≤ w) && decide (w + 8 ≤ l.1 + l.2) then s.setFull w true else s) s
    s.settle l.1 l.2) s

/-- A range that an agent can use: inside the spaces, on no withdrawn bank and no poisoned word. -/
def State.usable (s : State) (k n : Nat) : Bool :=
  (linesFrom (lineCount n) k n).all fun l =>
    s.inSpace l.1 && s.inSpace (l.1 + l.2 - 1) && (s.badAt l.1 l.2).isNone

/-! ## Power (R332, R333) -/

/-- g0 of a throttle event. -/
def throttleG0 (col : Nat) (x : Column) (cyc : Nat) : Reg :=
  ofWords [BitVec.ofNat 64 col, x.word, BitVec.ofNat 64 cyc, BitVec.ofNat 64 x.changes]

/-- The messages with one replaced by number. -/
def reword (n : Nat) (g0 : Reg) (l : List Msg) : List Msg :=
  l.map fun m => if m.n = n then { m with body := .device g0 } else m

/-- A message has not been delivered: it is in the mesh, or waits in the buffer of core 0x400. -/
def State.undelivered (s : State) (n : Nat) : Bool :=
  (s.mesh ++ (s.core 0x400).inbuf).any fun m => m.n = n

/-- THROTTLE_EVENT: a column's word changes, and an event goes to channel 2 of core 0x400, in place of the
column's event that still waits (R333). -/
def State.throttleEvent (s : State) (col : Nat) (w : Word) : Option State :=
  let w := w &&& 0x1_FFFF
  let old := (tabGet col s.sys.columns).getD { word := 0, swallowed := 0, changes := 0, event := none }
  if 16 ≤ col || w = old.word then none
  else
    let x : Column := { old with word := w, changes := old.changes + 1 }
    let g := throttleG0 col x s.cyc
    match old.event.filter s.undelivered with
    | some n =>
      let k := s.core 0x400
      some ({ s with mesh := reword n g s.mesh,
                     sys := { s.sys with columns := tabPut col x s.sys.columns } }.setCore 0x400
        { k with inbuf := reword n g k.inbuf })
    | none =>
      some ({ s with sys := { s.sys with
        columns := tabPut col { x with event := some s.serial } s.sys.columns } }.post 0x400 2 none 0 (.device g))

/-! ## The host port (R334 to R338, R343) -/

/-- A byte of the host block as the host reads it (R335). -/
def State.hostByte (s : State) (o : Nat) : Byte :=
  if o < 0x2000 then memByte (6 * 2 ^ 48 + o) s.mem
  else (s.hostReg (o - o % 8)).extractLsb' (8 * (o % 8)) 8

/-- Bytes of a word replaced from a place on. -/
def patchWord (v : Word) (i : Nat) (data : List Byte) : Word :=
  let l := (natBytes 8 v.toNat).mapIdx fun j b => if i ≤ j then data.getD (j - i) b else b
  BitVec.ofNat 64 (bytesNat l)

/-- A host write to the MSI-X table: an aligned 4- or 8-byte access (R335). -/
def State.writeMsix (s : State) (o : Nat) (data : List Byte) : State :=
  let v := (o - 0x3000) / 16
  match s.base.msix[v]? with
  | none => s
  | some e =>
    let e1 : MsixEntry := if o % 16 < 8 then { e with addr := patchWord e.addr (o % 8) data, written := true }
      else { e with data := patchWord e.data (o % 8) data }
    (s.withBase { s.base with msix := s.base.msix.set v e1 }).sendPending v

/-- A host write to the host block. -/
def State.hostWrite (s : State) (o : Nat) (data : List Byte) : State :=
  let v : Word := BitVec.ofNat 64 (bytesNat data)
  if o < 0x1000 then s.writeBytes (6 * 2 ^ 48 + o) (data.take (0x1000 - o))
  else if o = 0x2000 then s.inboundDoorbell v
  else if o = 0x2018 then s.withBase { s.base with outack := storeAck v }
  else if 0x3000 ≤ o ∧ o < 0x3200 then s.writeMsix o data
  else s

/-- The host may make an access of a size to the host block (R335, DESIGN CHOICE, log 26). -/
def hostMay (o n : Nat) : Bool :=
  let meets (lo hi : Nat) : Bool := decide (o < hi) && decide (lo < o + n)
  if 0x1_0000 < o + n then false
  else if meets 0x2000 0x2180 then o % 8 = 0 && n = 8
  else if meets 0x3000 0x3200 || meets 0x3800 0x3808 then (n = 4 || n = 8) && o % n = 0
  else true

/-- The host unmasks a vector (R336). -/
def State.unmaskVector (s : State) (v : Nat) : State :=
  match s.base.msix[v]? with
  | none => s
  | some e =>
    (s.withBase { s.base with
      msix := s.base.msix.set v { e with data := e.data &&& ~~~(0x1_0000_0000#64) } }).sendPending v

/-- The physical address of a BAR2 offset, while its aperture is valid (R338). -/
def State.apertureKey (s : State) (o : Nat) : Option Nat :=
  match s.base.apbase[o / 2 ^ 32]? with
  | none => none
  | some w =>
    if w.getLsbD 63 then some ((w.extractLsb' 17 35).toNat * 2 ^ 17 + o % 2 ^ 32) else none

/-- A part of a BAR2 request is refused. -/
def State.bar2Refuses (s : State) (o n : Nat) : Bool :=
  match s.apertureKey o, s.apertureKey (o + n - 1) with
  | some k, some j => !(s.inSpace k && s.inSpace j) || s.withdrawn k
  | _, _ => true

/-- A line of a host request is written. -/
def State.hostStore (s : State) (kind : HostKind) (k : Nat) (data : List Byte) : State :=
  match kind with
  | .memory => s.lineStore k data
  | .block => s.hostWrite k data
  | .doorbell v => s.inboundDoorbell v
  | .unmask v => s.unmaskVector v

/-- A line of a host request is read: its bytes, and whether a word was poisoned. -/
def State.hostLoad (s : State) (kind : HostKind) (k n : Nat) : List Byte × Bool :=
  match kind with
  | .memory => s.lineLoad k n
  | .block | .doorbell _ | .unmask _ => ((List.range n).map fun j => s.hostByte (k + j), false)

/-- The next line of a host request is accessed (R164, R335, R338). -/
def State.bar2Line (s : State) (r : Bar2Req) : State × Bar2Req :=
  match r.todo with
  | [] => (s, r)
  | (k, n) :: l =>
    if r.write then (s.hostStore r.kind k (r.data.take n), { r with todo := l, data := r.data.drop n })
    else
      let x := s.hostLoad r.kind k n
      (s, { r with todo := l, data := r.data ++ x.1, ep := r.ep || x.2 })

/-- The next line of a request that stands between others: with its last line it is over, and a read answered. -/
def State.bar2Step (s : State) (before : List Bar2Req) (r : Bar2Req) (after : List Bar2Req) : State :=
  let (s1, r1) := s.bar2Line r
  let s2 := s1.withBase { s1.base with bar2 := before ++ (if r1.todo.isEmpty then [] else [r1]) ++ after }
  if r1.todo.isEmpty && !r1.write then s2.emit (.hostData r1.data r1.ep) else s2

/-- A request of the host comes: its first line is accessed at once, unless an earlier write of the host has lines left,
and its other lines after it, other agents' accesses between them (R163, R179). -/
def State.hostAsks (s : State) (r : Bar2Req) : State :=
  if s.base.bar2.any (·.write) then s.withBase { s.base with bar2 := s.base.bar2 ++ [r] }
  else s.bar2Step s.base.bar2 r []

/-- HOST_BLOCK_ACCESS (R335), in the host's order (R179, R337). -/
def State.hostBlockAccess (s : State) (write : Bool) (o len : Nat) (data : List Byte) : Option State :=
  let n := if write then data.length else len
  if !hostMay o n then some (s.emit .unsupported)
  else
    some (s.hostAsks { write := write, todo := linesFrom (lineCount n) o n, data := if write then data else [],
                       ep := false, kind := .block })

/-- INBOUND_DOORBELL: a host write to INDB, in the host's order (R179, R337). -/
def State.hostDoorbell (s : State) (v : Word) : State :=
  s.hostAsks { write := true, todo := [(0x2000, 8)], data := [], ep := false, kind := .doorbell v }

/-- MSIX_UNMASK: a host write to a vector's control, in the host's order (R179, R336). -/
def State.msixUnmask (s : State) (v : Nat) : Option State :=
  if v < s.base.msix.length then
    some (s.hostAsks { write := true, todo := [(0x300C + 16 * v, 4)], data := [], ep := false, kind := .unmask v })
  else none

/-- HOST_BAR2_ACCESS (R338), in the host's order (R179). -/
def State.hostBar2Access (s : State) (write : Bool) (o len : Nat) (data : List Byte) : Option State :=
  let n := if write then data.length else len
  let parts := linesFrom (lineCount n) o n
  if parts.any fun p => s.bar2Refuses p.1 p.2 then some (s.emit .unsupported)
  else
    let r : Bar2Req := { write := write, todo := parts.filterMap fun p => (s.apertureKey p.1).map fun k => (k, p.2),
                         data := if write then data else [], ep := false }
    some (s.hostAsks r)

/-- The next line of a host request under way, by its place: a write's lines come before those of what the host has
asked for later (R179). -/
def State.hostBar2Line (s : State) (i : Nat) : Option State :=
  match s.base.bar2[i]? with
  | none => none
  | some r =>
    if (s.base.bar2.take i).any (·.write) then none
    else some (s.bar2Step (s.base.bar2.take i) r (s.base.bar2.drop (i + 1)))

/-- What configuration space says of the device (R334); the registers and the links' own settings behind it are the PCI
Express Base Specification's (log 48). -/
def pciConfig : PciConfig :=
  { vendor := Config.vendorId, device := 0x9400, cls := 0x12_0000, bar0 := 2 ^ 16, bar0Is64 := true,
    bar0Prefetch := false, bar2 := 2 ^ 36, bar2Is64 := true, bar2Prefetch := true, vectors := 32,
    msixTable := 0x3000, msixPending := 0x3800, maxPayload := 512, maxRead := 4096, flitMode := true, aer := true,
    flr := true, functions := 1, sriov := false, ats := false, pri := false, pasid := false, msi := false,
    intx := false, hostMemory := false }

/-- HOST_CONFIG_REQUEST (R334, R343). -/
def State.hostConfigRequest (s : State) : State :=
  s.emit (if s.base.devstat.extractLsb' 0 4 = 0 then .configRetry else .configOk pciConfig)

/-- The whole device as at power-on; the agenda, and what has been sent, are not the device's (R334). -/
def State.deviceReset (s : State) : State :=
  { State.reset with agenda := s.agenda, out := s.out, free := s.free }

/-! ## The boot ROM (R343, R344) -/

/-- The ROM writes DEVSTAT: version, failure code, stage. -/
def State.stage (s : State) (ver : Nat) (code : Nat) (st : Nat) : State :=
  s.writeDevstat (BitVec.ofNat 64 (2 ^ 32 * (ver % 2 ^ 32) + 2 ^ 8 * code + st))

/-- A slice of a file. -/
def slice (f : List Byte) (o n : Nat) : List Byte := (f.drop o).take n

/-- A number in a file. -/
def fileNat (f : List Byte) (o n : Nat) : Nat := bytesNat (slice f o n)

/-- LEN of a file's header. -/
def fileLen (f : List Byte) : Nat := fileNat f 0x10 8

/-- The body of a file. -/
def fileBody (f : List Byte) : List Byte := slice f 0x100 (fileLen f)

/-- A header as R344 lays it out. -/
def headerOk (magic : Nat) (f : List Byte) : Bool :=
  fileNat f 0 4 = magic && fileNat f 4 4 = 1 && fileLen f % 64 = 0 && decide (fileLen f ≤ 2 ^ 30) &&
    decide (0x100 + fileLen f ≤ f.length) && (slice f 0xCA 54).all (· = 0)

/-- The digest of a file matches its body. -/
def digestOk (magic : Nat) (f : List Byte) : Bool :=
  headerOk magic f && decide (slice f 0x18 64 = Config.shake256 (fileBody f) 64)

/-- The signature of a file verifies. -/
def signatureOk (f : List Byte) : Bool :=
  Config.ed448Verify Config.rootKey (slice f 0x18 64) (slice f 0x58 114)

/-- The failure code of a pair of files, 0 for none; DESIGN CHOICE, log 26 for the order and for a malformed header. -/
def bootCode (f : BootFiles) : Nat :=
  if Config.ed448Public (Config.pufSeed (fileBody f.record)) ≠ Config.recordKey (fileBody f.record) then 5
  else if !digestOk 0x3958_4851 f.image then 2
  else if !signatureOk f.image then 3
  else if !(digestOk 0x5245_4851 f.record && signatureOk f.record) then 4
  else 0

/-- The unit map of a record; the reserved bits of a capability word are zero (R305, R310). -/
def recordUnits (body : List Byte) : UnitMap :=
  let w := Config.recordMap body
  { cores := ((List.range 0x410).filter isCore).map fun c => (c, (w c).extractLsb' 0 9 &&& 0x103),
    straits := (List.range 256).map fun i => (i, (w (0x1000 + i)).extractLsb' 0 3),
    noChannels := (List.range 96).filter fun i => !(w (0x2000 + i)).getLsbD 0,
    noPorts := (List.range 32).filter fun i => !(w (0x3000 + i)).getLsbD 0 }

/-- The firmware's first thread: system level, in slot 0 of core 0x400, at the start of that core's pool (DESIGN CHOICE,
log 26). -/
def firmwareThread : Thread :=
  Thread.start (mkIdent 0x400 0) .message 0 0 128 0 (Specials.start false 2 0 0)
    (mkSeg (BitVec.ofNat 64 (poolKey 0x400 0)) poolBytes 0b001111)

/-- The ROM starts the firmware: the body of the image stands in the pool of core 0x400, as much of it as that holds,
and the core runs it (R344, DESIGN CHOICE, log 26). -/
def State.startFirmware (s : State) (image : List Byte) : State :=
  (s.writeBytes (poolKey 0x400 0) ((fileBody image).take poolBytes)).setThread firmwareThread

/-- The ROM checks the files, applies the unit map and starts the firmware, or fails (R344). -/
def State.bootWith (s : State) (f : BootFiles) : State :=
  let ver := fileNat f.image 8 8
  if bootCode f = 0 then
    let s1 := s.stage ver 0 2
    ({ s1 with sys := { s1.sys with units := recordUnits (fileBody f.record) } }.startFirmware f.image).stage ver 0 3
  else s.stage 0 (bootCode f) 15

/-- The ROM waits for the fabric: it has asked, and no partner has ended its stores. -/
def State.fabricBoot (s : State) : Bool :=
  s.base.devstat.extractLsb' 0 4 = 1 && !s.base.bootDone

/-- A port is there and its link is up (R339). -/
def State.linkUp (s : State) (p : Nat) : Bool := s.portPresent p && ((s.base.ports[p]?).getD 0).getLsbD 0

/-- Ports whose link is up. -/
def State.upPorts (s : State) : List Nat := (List.range 32).filter s.linkUp

/-- POWER_ON_RESET: after a reset the boot ROM runs, on core 0x400, and nothing else does (R344). The ROM's run is this
event and, for a boot over the fabric, the events of the fabric: it is no thread of the device's instructions (DESIGN
CHOICE, log 26). -/
def State.powerOnReset (s : State) (src : BootSource) : State :=
  let s1 := (s.deviceReset).stage 0 0 1
  match src with
  | .management f => s1.bootWith f
  | .fabric => s1.upPorts.foldl (fun s p => s.emit (.bootAsk p)) s1
  | .nothing => s1.stage 0 1 15

/-- The file that lies in far memory at an offset. -/
def State.farFile (s : State) (o n : Word) : List Byte := memBytes s.mem (4 * 2 ^ 48 + o.toNat) n.toNat

/-- The two files that a type 0xF1 message names: offset and length of the image, then of the record (DESIGN CHOICE, log 26);
none where they do not lie below 2 GiB. -/
def State.bootFiles (s : State) (v : Reg) : Option BootFiles :=
  let fits (o n : Word) : Bool := decide (o.toNat + n.toNat ≤ 2 ^ 31)
  if fits (lane64 v 1) (lane64 v 2) && fits (lane64 v 3) (lane64 v 4) then
    some { image := s.farFile (lane64 v 1) (lane64 v 2), record := s.farFile (lane64 v 3) (lane64 v 4) }
  else none

/-- BOOT_FABRIC_STORE: a store of the first partner that answers, below 2 GiB of far memory (R344). -/
def State.bootFabricStore (s : State) (port : BitVec 5) (pa : Nat) (data : List Byte) : Option State :=
  let mine : Bool := match s.base.bootPort with
    | some p => p = port
    | none => true
  if s.fabricBoot && mine && s.linkUp port.toNat && paSpace pa = 4 &&
      decide (paOff pa + data.length ≤ 2 ^ 31) then
    some ((linesFrom (lineCount data.length) pa data.length).foldl
      (fun s l => s.lineStore l.1 ((data.drop (l.1 - pa)).take l.2))
      (s.withBase { s.base with bootPort := some port }))
  else none

/-! ## The fabric (R339 to R342) -/

/-- LINK_UP_CHANGE: PORTSTAT changes; a port that is absent keeps its link down (R339). -/
def State.linkUpChange (s : State) (port : BitVec 5) (up atom : Bool) (lanes : BitVec 3) : Option State :=
  if s.sys.units.noPorts.contains port.toNat then none
  else
    let v : BitVec 5 := if up then lanes ++ BitVec.ofBool atom ++ 1#1 else 0
    let s1 := s.withBase { s.base with ports := s.base.ports.set port.toNat v }
    some (if up && s.fabricBoot && s.base.bootPort.isNone then s1.emit (.bootAsk port.toNat) else s1)

/-- A delivered fabric message: PEER is the source (R341). -/
def withPeer (v : Reg) (src : BitVec 20) : Reg := v.extractLsb' 20 492 ++ src

/-- FABRIC_MESSAGE_ARRIVAL: the end of a boot by the fabric, or a message for FMTGT's channel (R341, R344). -/
def State.fabricMessageArrival (s : State) (port : BitVec 5) (src : BitVec 20) (v : Reg) : State :=
  if s.fabricBoot && s.base.bootPort = some port && v.extractLsb' 24 8 = 0xF1#8 then
    let s1 := s.withBase { s.base with bootDone := true }
    match s1.bootFiles v with
    | some f => s1.bootWith f
    | none => s1.stage 0 1 15
  else if targetEn s.base.fmtgt && s.targetOk s.base.fmtgt then s.sendTarget s.base.fmtgt (withPeer v src)
  else s.dropFabric

/-- The right that a peer's access needs: bit 62 R, 61 W, 60 A of an export entry (R342). -/
def peerRight : PeerOp → Nat
  | .load _ => 62
  | .store _ => 61
  | .aadd _ _ | .aswp _ _ | .acas _ _ _ => 60

/-- Bytes of a peer's access. -/
def peerBytes : PeerOp → Nat
  | .load n => n
  | .store data => data.length
  | .aadd d _ | .aswp d _ | .acas d _ _ => if d then 8 else 4

/-- An export entry admits a frame to a source. -/
def admits (w0 w1 : Word) (src : BitVec 20) (frame right : Nat) : Bool :=
  w0.getLsbD 63 && w0.extractLsb' 0 20 = src && w0.getLsbD right &&
    decide ((w1.extractLsb' 0 35).toNat ≤ frame) &&
    decide (frame < (w1.extractLsb' 0 35).toNat + (w1.extractLsb' 35 29).toNat)

/-- Some export entry admits an access. -/
def State.exported (s : State) (src : BitVec 20) (frame right : Nat) : Bool :=
  (s.base.exports.filter fun e => e.1 % 2 = 0).any fun e =>
    admits e.2 ((tabGet (e.1 + 1) s.base.exports).getD 0) src frame right

/-- What an accepted access of a peer does at its bank. -/
def peerForm : PeerOp → Form
  | .load n => .load n false
  | .store data => .store data.length (BitVec.ofNat 512 (bytesNat data))
  | .aadd d x => .atom .add (if d then 8 else 4) x 0
  | .aswp d x => .atom .swp (if d then 8 else 4) x 0
  | .acas d x new => .atom .cas (if d then 8 else 4) x new

/-- PEER_ACCESS_ARRIVAL: an access within one line is accepted under an export entry and performed at its
bank, or answered REVOKED (R342). -/
def State.peerAccessArrival (s : State) (src : BitVec 20) (pa : Nat) (op : PeerOp) : Option State :=
  let n := peerBytes op
  if n = 0 || 64 < pa % 64 + n then none
  else if !s.inSpace pa || !s.exported src (pa / 2 ^ 17) (peerRight op) then some (s.emit (.peerReply src 0x0D 0))
  else
    match bankStep (if (peerForm op).writes then s.plainPage pa else s) pa (peerForm op) with
    | (s1, .ok v) => some (s1.emit (.peerReply src 0 v))
    | (s1, .bad c) => some (s1.emit (.peerReply src c 0))
    | (_, .wait) => none

/-! ## The management port (R346) -/

/-- A ring: base and count registers, and head index (DESIGN CHOICE, log 26). -/
def State.ring (s : State) (rx : Bool) : Nat × Nat × Nat :=
  let g (i : Nat) : Nat := ((s.base.mgmt[i]?).getD 0).toNat
  if rx then (g 2, g 3, g 6) else (g 0, g 1, g 4)

/-- The address of the descriptor at a ring's head, while the port owns it. -/
def State.headDesc (s : State) (rx : Bool) : Option (Nat × BitVec 128) :=
  let (base, count, head) := s.ring rx
  let k := base + 16 * head
  let d : BitVec 128 := BitVec.ofNat 128 (s.read k 16)
  if 16 ≤ count && count ≤ 4096 && head < count && s.usable k 16 && d.getLsbD 112 then some (k, d) else none

/-- The port is done with a descriptor: its last word is written, and the head index moves on. -/
def State.ringDone (s : State) (rx : Bool) (k : Nat) (hi : Word) : State :=
  let (_, count, head) := s.ring rx
  let s1 := s.portStore (k + 8) (natBytes 8 hi.toNat)
  s1.withBase { s1.base with
    mgmt := s1.base.mgmt.set (if rx then 6 else 4) (BitVec.ofNat 64 ((head + 1) % count)) }

/-- A descriptor's last word with ERR, OWN = 0 and LEN. -/
def descHi (err : Bool) (len : Nat) : Word := BitVec.ofNat 64 (2 ^ 32 * len + if err then 2 ^ 49 else 0)

/-- The frame under way on a ring. -/
def State.frameOn (s : State) (rx : Bool) : Option Frame := s.base.frames.find? fun f => f.rx == rx

/-- The state with the frame of a ring replaced, or without one. -/
def State.setFrame (s : State) (rx : Bool) (f : Option Frame) : State :=
  s.withBase { s.base with frames := (s.base.frames.filter fun g => g.rx != rx) ++ f.toList }

/-- A frame begins on a ring that is idle. Its lines are accessed one by one, other agents' accesses between them
(R163, R346). -/
def State.startFrame (s : State) (rx : Bool) (desc a n : Nat) (hi : Word) (data : List Byte) : Option State :=
  if (s.frameOn rx).isSome then none
  else some (s.setFrame rx (some { rx := rx, desc := desc, hi := hi, todo := linesFrom (lineCount n) a n, data := data }))

/-- MGMT_TRANSMIT: the port takes the descriptor at the head of its ring, and begins to read the frame (R346). -/
def State.mgmtTransmit (s : State) : Option State :=
  match s.headDesc false with
  | none => none
  | some (k, d) =>
    let len := (d.extractLsb' 96 16).toNat
    let a := (d.extractLsb' 0 64).toNat
    if 60 ≤ len && len ≤ 9600 && s.usable a len then s.startFrame false k a len (descHi false len) [] else none

/-- MGMT_RECEIVE: the port takes the descriptor at the head of its ring, and begins to write a frame that has arrived to its
buffer; one that failed its check is discarded, and is to be marked (R346). -/
def State.mgmtReceive (s : State) (frame : List Byte) (err : Bool) : Option State :=
  match s.headDesc true with
  | none => none
  | some (k, d) =>
    let a := (d.extractLsb' 0 64).toNat
    if frame.length < 60 || 9600 < frame.length then none
    else if err then s.startFrame true k a 0 (descHi true (d.extractLsb' 96 16).toNat) []
    else if s.usable a frame.length then s.startFrame true k a frame.length (descHi false frame.length) frame
    else none

/-- The next access of a frame under way: a line of its buffer, and after the last the descriptor, whose OWN is cleared; a
frame that has been read is then sent (R346). -/
def State.mgmtLine (s : State) (rx : Bool) : Option State :=
  match s.frameOn rx with
  | none => none
  | some f =>
    match f.todo with
    | (k, n) :: l =>
      if !s.usable k n then none
      else if rx then some ((s.portStore k (f.data.take n)).setFrame rx (some { f with todo := l, data := f.data.drop n }))
      else some (s.setFrame rx (some { f with todo := l, data := f.data ++ memBytes s.mem k n }))
    | [] =>
      let s1 := s.setFrame rx none
      some ((if rx then s1 else s1.emit (.frame f.data)).ringDone rx f.desc f.hi)

/-! ## The rows -/

/-- THROTTLE_EVENT (R333). -/
def execThrottleEvent (s : State) : Host.Outcome State Fault Refusal :=
  happens s (match s.ev with | some (.throttleEvent c w) => s.throttleEvent c w | _ => none)

/-- POWER_LIMIT_WRITE (R332). -/
def execPowerLimitWrite (s : State) : Host.Outcome State Fault Refusal :=
  happens s (match s.ev with | some (.powerLimitWrite v) => some (s.writePlimit v) | _ => none)

/-- INBOUND_DOORBELL (R337). -/
def execInboundDoorbell (s : State) : Host.Outcome State Fault Refusal :=
  happens s (match s.ev with | some (.inboundDoorbell v) => some (s.hostDoorbell v) | _ => none)

/-- MBXTGT_WRITE (R337). -/
def execMbxtgtWrite (s : State) : Host.Outcome State Fault Refusal :=
  happens s (match s.ev with | some (.mbxtgtWrite v) => some (s.writeMbxtgt v) | _ => none)

/-- OUTBOUND_DOORBELL (R337). -/
def execOutboundDoorbell (s : State) : Host.Outcome State Fault Refusal :=
  happens s (match s.ev with | some (.outboundDoorbell v) => some (s.writeOutdb v) | _ => none)

/-- DEVSTAT_WRITE (R337). -/
def execDevstatWrite (s : State) : Host.Outcome State Fault Refusal :=
  happens s (match s.ev with | some (.devstatWrite v) => some (s.writeDevstat v) | _ => none)

/-- HOSTIRQ (R335). -/
def execHostirq (s : State) : Host.Outcome State Fault Refusal :=
  happens s (match s.ev with | some (.hostirq v) => some (s.writeHostirq v) | _ => none)

/-- MSIX_UNMASK (R336). -/
def execMsixUnmask (s : State) : Host.Outcome State Fault Refusal :=
  happens s (match s.ev with | some (.msixUnmask v) => s.msixUnmask v.toNat | _ => none)

/-- HOST_BAR2_ACCESS (R338). -/
def execHostBar2Access (s : State) : Host.Outcome State Fault Refusal :=
  happens s (match s.ev with
    | some (.hostBar2Access w o n l) => s.hostBar2Access w o n l
    | some (.hostBar2Line i) => s.hostBar2Line i
    | _ => none)

/-- HOST_CONFIG_REQUEST (R334, R343). -/
def execHostConfigRequest (s : State) : Host.Outcome State Fault Refusal :=
  happens s (match s.ev with | some .hostConfigRequest => some s.hostConfigRequest | _ => none)

/-- FUNCTION_LEVEL_RESET (R334). -/
def execFunctionLevelReset (s : State) : Host.Outcome State Fault Refusal :=
  happens s (match s.ev with | some .functionLevelReset => some s.deviceReset | _ => none)

/-- FMSEND (R341). -/
def execFmsend (s : State) : Host.Outcome State Fault Refusal :=
  happens s (match s.ev with | some (.fmsend v) => some (s.fmsend v) | _ => none)

/-- FABRIC_MESSAGE_ARRIVAL (R341). -/
def execFabricMessageArrival (s : State) : Host.Outcome State Fault Refusal :=
  happens s (match s.ev with
    | some (.fabricMessageArrival p d v) => some (s.fabricMessageArrival p d v)
    | _ => none)

/-- FMDROP_CLEAR (R339). -/
def execFmdropClear (s : State) : Host.Outcome State Fault Refusal :=
  happens s (match s.ev with | some .fmdropClear => some s.clearFmdrop | _ => none)

/-- PEER_ACCESS_ARRIVAL (R342). -/
def execPeerAccessArrival (s : State) : Host.Outcome State Fault Refusal :=
  happens s (match s.ev with | some (.peerAccessArrival d a o) => s.peerAccessArrival d a o | _ => none)

/-- MGMT_TRANSMIT (R346). -/
def execMgmtTransmit (s : State) : Host.Outcome State Fault Refusal :=
  happens s (match s.ev with
    | some .mgmtTransmit => s.mgmtTransmit
    | some (.mgmtLine rx) => s.mgmtLine rx
    | _ => none)

/-- MGMT_RECEIVE (R346). -/
def execMgmtReceive (s : State) : Host.Outcome State Fault Refusal :=
  happens s (match s.ev with
    | some (.mgmtReceive l e) => s.mgmtReceive l e
    | some (.mgmtLine rx) => s.mgmtLine rx
    | _ => none)

/-- POWER_ON_RESET (R344). -/
def execPowerOnReset (s : State) : Host.Outcome State Fault Refusal :=
  happens s (match s.ev with | some (.powerOnReset src) => some (s.powerOnReset src) | _ => none)

/-- HOST_BLOCK_ACCESS (R335). -/
def execHostBlockAccess (s : State) : Host.Outcome State Fault Refusal :=
  happens s (match s.ev with | some (.hostBlockAccess w o n l) => s.hostBlockAccess w o n l | _ => none)

/-- LINK_UP_CHANGE (R339). -/
def execLinkUpChange (s : State) : Host.Outcome State Fault Refusal :=
  happens s (match s.ev with | some (.linkUpChange p u a l) => s.linkUpChange p u a l | _ => none)

/-- BOOT_FABRIC_STORE (R344). -/
def execBootFabricStore (s : State) : Host.Outcome State Fault Refusal :=
  happens s (match s.ev with | some (.bootFabricStore p a l) => s.bootFabricStore p a l | _ => none)

/-- A word that is not an instruction traps ILL with %tinfo equal to it, and does nothing else (R34). -/
def execNotAnInstruction (s : State) : Host.Outcome State Fault Refusal :=
  runT s fun s _ => .error (ill s)

end Sys2Proof.Machine
end

