-- ==== Sys2Proof/Machine/EvTree.lean ====
section
/-! DEFINITION. Events of the unfolders: evaluation, dispatch, completion of a region (R83, R85 to R88, R92,
R102 to R106). -/

namespace Sys2Proof.Machine

/-- A dispatched routine goes to its core's channel. -/
def State.sendRoutine (s : State) (c : Nat) (ch : BitVec 5) (d : Dispatch) : State :=
  s.post (BitVec.ofNat 11 c) ch none d.domain (.routine d)

/-- The state with a box's note. -/
def State.setNote (s : State) (r : Nat) (b : BoxNote) : State :=
  match s.region? r with
  | some reg => s.setRegion (reg.setNote b)
  | none => s

/-- A box is evaluated: it passes to the unfolder that evaluates it, and its rule's routine is sent out, or without one
DEFER is applied, as it is again where a missing page has held it up (R83, R87, R96). -/
def State.evaluateBox (s : State) (r : Region) (b : BoxNote) (k c : Nat) : State × Bool :=
  let e := r.rule (s.rcbRule k)
  if s.midDefer e k then s.applyDefer r b k c
  else if s.passed (s.rcbDeadline k) then s.settleBoxAt r b.addr stExpired
  else
    let b1 := { b with holder := (s.evalHolder e b k c).getD b.holder }
    let s := (s.setRcbState k stEval).setNote r.id b1
    let r1 := (s.region? r.id).getD r
    if ruleRpres e then
      (s.sendRoutine c (ruleRch e) (s.routine r1 b1 k .rule (ruleRentry e) none (0, 0)), true)
    else s.applyDefer r1 b1 k c

/-- A leaf is dispatched to a core, and its box passes to that core's cluster (R85, R87, R100). -/
def State.dispatchLeaf (s : State) (r : Region) (b : BoxNote) (k c : Nat) : State × Bool :=
  let e := r.rule (s.rcbRule k)
  if !(allCores.any fun x => s.couldHold e k x) then
    match s.settleBoxAt r b.addr stFaulted with
    | (s, true) => (s.trapBox r b.addr, true)
    | (s, false) => (s, false)
  else if s.passed (s.rcbDeadline k) then s.settleBoxAt r b.addr stExpired
  else
    let n := up64 (s.poolNeed e k)
    match s.poolPlace c n, s.tilePlace c (ruleTiles e) with
    | some o, some i =>
      let pool := if n = 0 then none else some (o, n)
      let s := ((s.placed.clearPool c pool).clearTiles c i (ruleTiles e)).setRcbState k stRunning
      let s := s.setNote r.id { b with holder := .cluster (clusterOf c) }
      (s.sendRoutine c (ruleLch e) (s.routine r b k .leaf (ruleLentry e) pool (i, ruleTiles e)), true)
    | _, _ => (s, false)

/-- The join routine of a box is dispatched (R92). -/
def State.dispatchJoin (s : State) (r : Region) (b : BoxNote) (k c : Nat) : State × Bool :=
  let e := r.rule (s.rcbRule k)
  (s.sendRoutine c (ruleJch e) (s.routine r b k .join (ruleJentry e) none (0, 0)), true)

/-- What goes to a thread, or to the unfolder's own DEFER, is a dispatch; a box that becomes EXPIRED or FAULTED instead
is none (R102). -/
def State.delivers (s : State) (r : Region) (k : Nat) : Ready → Bool
  | .evaluate => s.midDefer (r.rule (s.rcbRule k)) k || !s.passed (s.rcbDeadline k)
  | .leaf => !s.passed (s.rcbDeadline k) && allCores.any fun x => s.couldHold (r.rule (s.rcbRule k)) k x
  | .join => true

/-- A dispatch of one kind, of a box whose turn it is, to a core (R102, R103). -/
def State.dispatchBox (s : State) (region rcb c : Nat) (kind : Ready) : Option State :=
  match s.region? region with
  | none => none
  | some r =>
    match r.note (BitVec.ofNat 64 rcb) with
    | none => none
    | some b =>
      let level := s.levelOf r b
      if s.readyOn r b c != some kind || !r.open' || !s.turnOf region level then none
      else
        match s.rcbKey b.holder r b.addr true with
        | (s1, none) => gate s (s1, false) id
        | (s1, some k) =>
          let w := s.waitingLevels
          gate s (match kind with
            | .evaluate => s1.evaluateBox r b k c
            | .leaf => s1.dispatchLeaf r b k c
            | .join => s1.dispatchJoin r b k c) fun x => if s.delivers r k kind then x.noteDispatch region level w else x

/-- EVALUATE (R83). -/
def State.evaluate (s : State) (region rcb c : Nat) : Option State := s.dispatchBox region rcb c .evaluate

/-- LEAF_DISPATCH (R85). -/
def State.leafDispatch (s : State) (region rcb c : Nat) : Option State := s.dispatchBox region rcb c .leaf

/-- JOIN_DISPATCH (R92). -/
def State.joinDispatch (s : State) (region rcb c : Nat) : Option State := s.dispatchBox region rcb c .join

/-- The unfolder asks for the missing page of a box's RCB (R96, R282). -/
def State.askPage (s : State) (r : Region) (b : BoxNote) : Option State :=
  if s.lacksPage r b then gate s ((s.rcbKey b.holder r b.addr true).1, false) id else none

/-- DISPATCH: the next box in the launch queue's order that a core can take goes to it (R102). -/
def State.dispatch (s : State) (c : Nat) : Option State :=
  s.regions.findSome? fun p =>
    if !p.2.open' then none
    else p.2.boxes.findSome? fun b =>
      match s.readyOn p.2 b c with
      | some kind => s.dispatchBox p.1 b.addr.toNat c kind
      | none => s.askPage p.2 b

/-- CYCLE_BUDGET_EXHAUSTED (R104). -/
def State.cycleBudgetExhausted (s : State) (region : Nat) : Option State :=
  match s.region? region with
  | none => none
  | some r => if !r.spent && r.noteSpent.spent then some (s.setRegion r.noteSpent) else none

/-! ## Completion (R106) -/

/-- The value stored to the completion word. -/
def Region.complValue (r : Region) : Nat :=
  2 ^ 63 + 2 ^ 16 * min r.expired 0xFFFF + min r.faulted 0xFFFF

/-- A region has nothing left under way: its root is terminal, no write into its RCBs is owed, and no thread, context or
routine of it remains, nor a store or operation of one. -/
def State.regionOver (s : State) (r : Region) : Bool :=
  (r.note r.root).any (·.ended) && !s.owes r.id && decide (s.liveThreads r.id = 0) && !s.awaitsStores r.id &&
    !((s.mesh ++ s.cores.flatMap fun c => c.2.inbuf).any fun m => match m.body with
      | .routine d => d.region = r.id
      | .context t _ _ => t.regionId = r.id
      | _ => false)

/-- The state without a region. -/
def State.dropRegion (s : State) (r : Nat) : State := { s with regions := tabDel r s.regions }

/-- The completion store's access. -/
def State.complAccess (s : State) (r : Region) (k : Nat) : Access :=
  { n := s.serial, group := s.serial, agent := .completion r.id, t := 0, home := 0, rel := false,
    form := .stf false (BitVec.ofNat 512 r.complValue), seg := 0, pRight := false, off := 0, dva := r.complWord,
    domain := r.domain, key := some k, d := none, lane := none, stage := .inFlight, refusals := 0,
    issued := s.cyc, tSeg := false, riders := [] }

/-- REGION_COMPLETION: the filling store goes to its bank, waiting there until the word is empty; once it has
been performed the region is no longer live (R106). -/
def State.regionCompletion (s : State) (region : Nat) : Option State :=
  match s.region? region with
  | none => none
  | some r =>
    if r.completing then
      match s.accs.find? fun a => a.agent = .completion region with
      | none => some (s.dropRegion region)
      | some a =>
        match a.stage with
        | .done _ | .failed _ => some ((s.dropAccess a.n).dropRegion region)
        | _ => none
    else if !s.regionOver r then none
    else
      match s.agentKey .completion r.id r.domain r.complWord true with
      | (s1, none) => gate s (s1, false) id
      | (s1, some k) =>
        let a := s1.complAccess r k
        let s2 := ((s1.setRegion { r with completing := true }).addAccess a).arrive a
        match s2.accs.find? fun b => b.n = a.n with
        | some b => match b.stage with
          | .done _ | .failed _ => some ((s2.dropAccess a.n).dropRegion region)
          | _ => some s2
        | none => some s2

/-! ## The rows -/

/-- DISPATCH (R102). -/
def execDispatch (s : State) : Host.Outcome State Fault Refusal :=
  happens s (match s.ev with | some (.dispatch c) => s.dispatch c.toNat | _ => none)

/-- EVALUATE (R83). -/
def execEvaluate (s : State) : Host.Outcome State Fault Refusal :=
  happens s (match s.ev with | some (.evaluate r k c) => s.evaluate r k c.toNat | _ => none)

/-- LEAF_DISPATCH (R85). -/
def execLeafDispatch (s : State) : Host.Outcome State Fault Refusal :=
  happens s (match s.ev with | some (.leafDispatch r k c) => s.leafDispatch r k c.toNat | _ => none)

/-- JOIN_DISPATCH (R92). -/
def execJoinDispatch (s : State) : Host.Outcome State Fault Refusal :=
  happens s (match s.ev with | some (.joinDispatch r k c) => s.joinDispatch r k c.toNat | _ => none)

/-- REGION_COMPLETION (R106). -/
def execRegionCompletion (s : State) : Host.Outcome State Fault Refusal :=
  happens s (match s.ev with | some (.regionCompletion r) => s.regionCompletion r | _ => none)

/-- CYCLE_BUDGET_EXHAUSTED (R104). -/
def execCycleBudgetExhausted (s : State) : Host.Outcome State Fault Refusal :=
  happens s (match s.ev with | some (.cycleBudgetExhausted r) => s.cycleBudgetExhausted r | _ => none)

end Sys2Proof.Machine
end

