-- ==== Sys2Proof/Machine/Fence.lean ====
section
/-! DEFINITION. The meanings of the FENCE group (R169, R170, R193, R194). -/

namespace Sys2Proof.Machine

/-- FENCE (R170). -/
def execFence (scope : Scope) (eng : Bool) (s : State) : Host.Outcome State Fault Refusal :=
  runT s fun s t => do
    need (s.fenceClear t scope eng) (.park (.fence scope eng))
    return (s, t.adv)

/-- The instruction cache of a core is emptied by an IFENCE. What it held may still be fetched by threads that have
not executed their own IFENCE since (R14, R194). -/
def State.ifenced (s : State) (c : Nat) : State :=
  let x := s.core c
  { s.setCore c { x with icache := [], stale := x.stale ++ x.icache } with serial := s.serial + 1 }

/-- IFENCE: the core's instruction cache is emptied once the thread's relaxed stores are done; the thread fetches no word
that any core had cached before (R194). -/
def execIfence (s : State) : Host.Outcome State Fault Refusal :=
  runT s fun s t => do
    need (s.ifenceClear t) (.park .ifence)
    return (s.ifenced t.id.core.toNat, { t with ifenced := s.serial + 1 }.adv)

end Sys2Proof.Machine
end

