-- ==== Sys2Proof/Machine/Gather.lean ====
section
/-! DEFINITION. The meanings of the GATHER group (R189 to R192). -/

namespace Sys2Proof.Machine

/-- Bits of an element (R189). -/
def gatherBits (g : GForm) : Nat := 8 * 2 ^ g.ew.toNat

/-- What the elements of a gather do. -/
inductive GatherOp where
  | ld | st | add | fadd | ldw
  deriving DecidableEq, Repr

/-- The form of one element, with its data. -/
def GatherOp.form (op : GatherOp) (n : Nat) (x : Nat) : Form :=
  match op with
  | .ld => .load n false
  | .st => .store n (BitVec.ofNat 512 x)
  | .add => .atom .add n (BitVec.ofNat 64 x) 0
  | .fadd => .atom .fadd n (BitVec.ofNat 64 x) 0
  | .ldw => .ldw false

/-- The gather writes its register. -/
def GatherOp.loads : GatherOp → Bool
  | .ld | .ldw => true
  | _ => false

/-- Out of bounds under %bound0 (R190). -/
def outOfBounds (g : GForm) (t : Thread) (idx : Reg) (i : Nat) : Bool :=
  g.bnd && (let v := gatherIndex g idx i
            decide (v < 0) || decide (((t.sp.bounds.getD 0 0).toNat : Int) ≤ v))

/-- The elements that access memory: active and in bounds, in index order. -/
def gatherElems (g : GForm) (t : Thread) (idx : Reg) : List Nat :=
  (List.range (512 / gatherBits g)).filter fun i =>
    (t.mask g.k).getLsbD i && !outOfBounds g t idx i

/-- The register that a load's answers are laid over: out-of-bounds elements hold %fill (R190). -/
def gatherBase (g : GForm) (t : Thread) (idx old : Reg) : Reg :=
  let w := gatherBits g
  ofLanes w ((List.range (512 / w)).map fun i =>
    if (t.mask g.k).getLsbD i && outOfBounds g t idx i then t.sp.fill.toNat % 2 ^ w else lane old w i)

/-- Check every element under R11: of several that fail, the cause highest in R23's table is reported, and the lowest
element that meets it (R191, DEDUCED, log 14). The answers are the elements' offsets and DVAs. -/
def gatherChecks (s : State) (t : Thread) (g : GForm) (base idx : Reg) (f : Form) (l : List Nat) :
    X (List (Nat × Word × Word)) := do
  firstCauseX (l.map fun i => checkX s t g.seg (gatherOffset g base idx i) f.bytes f.bytes f.rights f.writes)
  return l.map fun i => (i, gatherOffset g base idx i, segBase (t.seg g.seg) + gatherOffset g base idx i)

/-- An element with its translation. -/
structure Elem where
  i : Nat
  off : Word
  dva : Word
  route : Route
  deriving DecidableEq, Repr

/-- Translate every element before any is performed (R191). -/
def gatherRoutes (s : State) (t : Thread) (wr sync : Bool) : List (Nat × Word × Word) → State × List Elem
  | [] => (s, [])
  | (i, e, a) :: l =>
    let (s1, r) := s.route (clusterOf t.id.core.toNat) t.dom a wr sync
    let (s2, rest) := gatherRoutes s1 t wr sync l
    (s2, { i := i, off := e, dva := a, route := r } :: rest)

/-- The key that an element has been translated to. -/
def Elem.key (x : Elem) : Option Nat :=
  match x.route with
  | .bank k | .collapse k | .peer k => some k
  | _ => none

/-- A missing page, or a TLBINV under way, of an element stops the whole instruction, ordinary or relaxed: the thread is
dropped, and issues it again (R191, R281). -/
def elemWaits (s : State) (t : Thread) (wr : Bool) : List Elem → X Unit
  | [] => .ok ()
  | x :: l =>
    match x.route with
    | .miss m => faultX s t 0 x.dva wr m
    | .inval by' => parkInX s t (.inval by')
    | _ => elemWaits s t wr l

/-- The tests that follow translation: the P right, what the fabric and the base-die registers carry
(R148, R191). -/
def elemCheck (s : State) (t : Thread) (g : SegReg) (f : Form) (x : Elem) : X Unit := do
  match x.route with
  | .peer k =>
    need (segP (t.seg g)) (.trap { code := 0x05, info := x.off, seg := g, wr := f.writes,
                                   miss := 0b100000 })
    need (!f.sync) (.trap (.plain 0x09 x.dva))
    match s.peerCause k false with
    | some c => if c = 0x0D then .ok () else .error (.trap (.plain c x.dva))
    | none => .ok ()
  | .bank k | .collapse k => do
    need (f.mayReach k) (.trap (.plain 0x09 x.dva))
    need (f.dieSize k) (.trap { code := 0x06, info := x.off, seg := g, wr := f.writes, miss := 0 })
  | _ => .ok ()

/-- The tests on every element: of several that fail, the cause highest in R23's table is reported, and its lowest
element (DEDUCED, log 14). -/
def elemChecks (s : State) (t : Thread) (g : SegReg) (f : Form) (l : List Elem) : X Unit :=
  firstCauseX (l.map (elemCheck s t g f))

/-- R56's rule on the words of every element, by key (log 29). -/
def elemKeysX (s : State) (t : Thread) (n : Nat) (l : List Elem) : X Unit :=
  let words := (l.filterMap Elem.key).flatMap fun k => s.sharedKeys t.id k n
  need words.isEmpty (.park (.sameWord words))

/-- The record of an element. -/
def elemAccess (s : State) (t : Thread) (g : GForm) (op : GatherOp) (group n : Nat) (data : Reg)
    (x : Elem) : Access :=
  let w := gatherBits g
  let stage : Stage := match x.route with
    | .collapse _ => .collapsing
    | .peer k => match s.peerCause k false with
      | some c => .failed c
      | none => .inFlight
    | .bank _ | .miss _ | .inval _ => .inFlight
  { n := n, group := group, agent := .thread, t := t.id, home := t.id, rel := g.rel,
    form := op.form (w / 8) (lane data w x.i), seg := g.seg, pRight := segP (t.seg g.seg),
    off := x.off, dva := x.dva, domain := t.dom, key := x.key,
    d := if op.loads then some g.d else none, lane := some ⟨x.i, w, t.pc, t.entry g.d⟩, stage := stage, refusals := 0,
    issued := s.cyc, tSeg := t.spec.isSome && segT (t.seg g.seg), riders := [] }

/-- The records of all elements, numbered from the next serial on. -/
def elemAccesses (s : State) (t : Thread) (g : GForm) (op : GatherOp) (data : Reg) (l : List Elem) :
    List Access :=
  l.mapIdx fun j x => elemAccess s t g op s.serial (s.serial + j) data x

/-- A speculative leaf parks before a scatter through a T segment for whose lines the buffer has no room (R95, R192). -/
def elemRoomX (s : State) (t : Thread) (l : List Access) : X Unit :=
  match t.spec with
  | none => .ok ()
  | some sp =>
    let stores := l.filter fun a => a.tStore
    let new := (stores.filterMap fun a => a.key.map (· / 64)).foldl (fun acc k => setAdd k acc) ([] : List Nat)
    need (!t.speculative || stores.isEmpty ||
      decide (s.bufferLines sp.cluster + (new.filter fun k => !(linesOf sp.stores).contains k).length ≤ 256))
      (.park .oldest)

/-- Perform the elements that have a bank of this device, or go to the commit buffer, in index order (R93, R164). -/
def State.performElems (s : State) (l : List Access) : State :=
  l.foldl (fun s a =>
    if a.stage = .inFlight && s.inOrder a && (!a.key.any isPeerKey || (a.tStore && (s.thread? a.t).any (·.speculative)))
    then s.arrive a else s) s

/-- The gather's elements are issued: those of an ordinary one are performed at once where they can be, or, as the
model's agenda has it, stay in flight and reach their banks in any order (R164, R191, DESIGN CHOICE, log 5). -/
def issueGather (s : State) (t : Thread) (g : GForm) (base : Reg) (l : List Access) :
    X (State × Thread) :=
  let d := if l.any (·.d.isSome) then some g.d else none
  let s1 := { s with accs := s.accs ++ l, serial := s.serial + l.length }
  let group := s.serial
  if g.rel then
    let t1 := match d with
      | some r => (t.setReg r base).setPres r .awaiting
      | none => t
    .ok (s1, t1.adv)
  else if s.slow then
    .error (.parkIn s1 { t with wait := .access d base })
  else
    let s2 := (s1.setThread { t with wait := .access d base }).performElems l
    let ended := s2.group group
    let t1 := (s2.thread? t.id).getD t
    if groupOver ended then
      match groupFailure ended with
      | some (c, a) =>
        let s3 := takeTrap (s2.dropGroup group) t1 (a.trapOf c)
        .error (.parkIn s3 ((s3.thread? t.id).getD t1))
      | none =>
        .ok (s2.dropGroup group,
          { t1 with wait := .none }.completes d (groupValue base ended))
    else .error (.parkIn s2 t1)

/-- A gather with no element to access completes at once. -/
def emptyGather (s : State) (t : Thread) (g : GForm) (op : GatherOp) (base : Reg) :
    X (State × Thread) :=
  .ok (s, t.completes (if op.loads then some g.d else none) base)

/-- The register that a gather carries, or keeps in part: present, and which one is to be tested for poison after the
tests on addresses (R7, R23, R189). -/
def gatherData (t : Thread) (g : GForm) (op : GatherOp) : X (Reg × List RegNum) :=
  if !op.loads || g.k ≠ 0 then do
    let x ← presentX t g.d
    return (x, [g.d])
  else do
    destX t g.d
    return (0, [])

/-- A gather or scatter (R189 to R192). -/
def gatherOp (s : State) (g : GForm) (op : GatherOp) : Host.Outcome State Fault Refusal :=
  runT s fun s t => do
    windowX t [g.d, g.base, g.idx]
    let (data, used) ← gatherData t g op
    let b ← readX t g.base
    let idx ← readX t g.idx
    let f := op.form (gatherBits g / 8) 0
    let base := if op.loads then gatherBase g t idx data else 0
    let l ← gatherChecks s t g b idx f (gatherElems g t idx)
    if f.sync then oldestX t
    let words := l.flatMap fun x => s.sharedWords t.id x.2.2 f.bytes
    need words.isEmpty (.park (.sameWord words))
    if g.rel then need (s.relaxedCount t.id < 8) (.park .relaxed8)
    if l.isEmpty then do
      cleansX t used
      emptyGather s t g op base
    else
      match gatherRoutes s t f.writes f.sync l with
      | (s1, elems) => do
        if elems.any (·.key.isNone) then cleansX t used
        elemWaits s1 t f.writes elems
        elemChecks s1 t g.seg f elems
        elemKeysX s1 t f.bytes elems
        cleansX t used
        let accs := elemAccesses s1 t g op data elems
        elemRoomX s1 t accs
        issueGather s1 t g base accs

/-- GLD (R189). -/
def execGld (g : GForm) (s : State) : Host.Outcome State Fault Refusal := gatherOp s g .ld

/-- GST (R189). -/
def execGst (g : GForm) (s : State) : Host.Outcome State Fault Refusal := gatherOp s g .st

/-- GADD (R189). -/
def execGadd (g : GForm) (s : State) : Host.Outcome State Fault Refusal := gatherOp s g .add

/-- GFADD (R187, R189). -/
def execGfadd (g : GForm) (s : State) : Host.Outcome State Fault Refusal := gatherOp s g .fadd

/-- GLDW (R189). -/
def execGldw (g : GForm) (s : State) : Host.Outcome State Fault Refusal := gatherOp s g .ldw

end Sys2Proof.Machine
end

