-- ==== Sys2Proof/Machine/Memory.lean ====
section
/-! DEFINITION. The meanings of the MEM and SEG groups (R52 to R62). -/

namespace Sys2Proof.Machine

/-! ## Plain loads and stores -/

/-- A plain load (R52). -/
def plainLoad (s : State) (d base : RegNum) (g : SegReg) (rel : Bool) (off : BitVec 32) (n : Nat)
    (sx : Bool) : Host.Outcome State Fault Refusal :=
  runT s fun s t => do
    windowX t [d, base]
    let b ← readX t base
    destX t d
    accessX s t g (offM b off) (.load n sx) n rel (some d) []

/-- LD (R52). -/
def execLd (d base : RegNum) (seg : SegReg) (rel : Bool) (off : BitVec 32) (size : MemSize)
    (s : State) : Host.Outcome State Fault Refusal :=
  plainLoad s d base seg rel off (sizeBytes size) false

/-- LDS (R52). -/
def execLds (d base : RegNum) (seg : SegReg) (rel : Bool) (off : BitVec 32) (size : MemSize)
    (s : State) : Host.Outcome State Fault Refusal :=
  plainLoad s d base seg rel off (sizeBytes size) true

/-- ST (R52). -/
def execSt (d base : RegNum) (seg : SegReg) (rel : Bool) (off : BitVec 32) (size : MemSize)
    (s : State) : Host.Outcome State Fault Refusal :=
  runT s fun s t => do
    windowX t [d, base]
    let x ← presentX t d
    let b ← readX t base
    accessX s t seg (offM b off) (.store (sizeBytes size) x) (sizeBytes size) rel none [d]

/-- LEA (R54): the address check is that of the byte it names, but for an offset equal to LIMIT, whose byte lies past the
segment and need only have bits [63:53] zero (DEDUCED, log 22). R54's "never parks" is read as of memory: an absent base
and an awaiting destination park LEA as they park every instruction under R7 (DEDUCED, log 22). -/
def execLea (d base : RegNum) (seg : SegReg) (off : BitVec 32) (s : State) :
    Host.Outcome State Fault Refusal :=
  runT s fun s t => do
    windowX t [d, base]
    let b ← readX t base
    let e := offM b off
    let a := segBase (t.seg seg) + e
    if segLimit (t.seg seg) < e.toNat || decide (2 ^ 53 ≤ a.toNat) ||
        (decide (e.toNat < segLimit (t.seg seg)) && !s.dvaOk a 1) then accTrap 0x04 e seg false 0
    else do
      destX t d
      done s t d (ofScalar a)

/-! ## Segments -/

/-- A trap of a segment instruction: SEG is D (R60, R61). -/
def segTrap (code : BitVec 8) (info : Word) (d : SegReg) : Stop :=
  .trap { code := code, info := info, seg := d, wr := false, miss := 0 }

/-- One entry of the region's descriptor table (R60, R311): index i, at word 2 plus 16 × i. An entry in a poisoned or
withdrawn word traps with SEG = 0 and %tinfo its DVA, and a missing table page parks the thread as kind 0 (DEDUCED,
log 42). -/
def descEntry (s : State) (t : Thread) (i : Word) : X (State × BitVec 128) := do
  let (s, v) ← ownReadX s t 0 true 0 (s.domWord t.dom 2 + 16 * i) 16
  return (s, v.extractLsb' 0 128)

/-- SEGLD (R60). -/
def execSegld (d : SegReg) (a : RegNum) (imm : BitVec 27) (s : State) :
    Host.Outcome State Fault Refusal :=
  runT s fun s t => do
    need (d ≠ 0 || t.level == 2) (priv s)
    windowX t [a]
    let x ← readX t a
    let i := scalar x + sext 27 imm
    need (decide (i.toNat < ((s.domWord t.dom 3).extractLsb' 0 32).toNat)) (segTrap 0x04 i d)
    let (s1, e) ← descEntry s t i
    need (segValid e) (segTrap 0x05 i d)
    return (s1, (t.setSeg d e).adv)

/-- SEGNAR (R61). -/
def execSegnar (d a : SegReg) (b : RegNum) (rights : BitVec 6) (s : State) :
    Host.Outcome State Fault Refusal :=
  runT s fun s t => do
    need (d ≠ 0 || t.level == 2) (priv s)
    windowX t [b]
    let x ← readX t b
    let o := lane64 x 0
    let n := lane64 x 1
    let src := t.seg a
    need (decide (o.toNat + n.toNat ≤ segLimit src)) (segTrap 0x04 o d)
    need ((segBase src + o).extractLsb' 53 11 = 0) (segTrap 0x04 o d)
    need (o.extractLsb' 0 6 = 0) (segTrap 0x06 o d)
    return (s, (t.setSeg d (mkSeg (segBase src + o) n.toNat (segRights src &&& rights))).adv)

/-- SEGRD (R62). -/
def execSegrd (d : RegNum) (a : SegReg) (s : State) : Host.Outcome State Fault Refusal :=
  runReg s fun t => do
    windowX t [d]
    destX t d
    return t.setReg d ((t.seg a).zeroExtend 512)

end Sys2Proof.Machine
end

