-- ==== Sys2Proof/Machine/Scalar.lean ====
section
/-! DEFINITION. The meanings of the INT and IMM groups (R37 to R43). -/

namespace Sys2Proof.Machine

/-! ## Shared operations -/

/-- An instruction of one source register. -/
def int1 (s : State) (d a : RegNum) (f : Reg → Reg) : Host.Outcome State Fault Refusal :=
  runReg s fun t => do
    windowX t [d, a]
    let x ← readX t a
    destX t d
    return t.setReg d (f x)

/-- An instruction of two source registers. -/
def int2 (s : State) (d a b : RegNum) (f : Reg → Reg → Reg) : Host.Outcome State Fault Refusal :=
  runReg s fun t => do
    windowX t [d, a, b]
    let x ← readX t a
    let y ← readX t b
    destX t d
    return t.setReg d (f x y)

/-- An instruction of three source registers. -/
def int3 (s : State) (d a b c : RegNum) (f : Reg → Reg → Reg → Reg) :
    Host.Outcome State Fault Refusal :=
  runReg s fun t => do
    windowX t [d, a, b, c]
    let x ← readX t a
    let y ← readX t b
    let z ← readX t c
    destX t d
    return t.setReg d (f x y z)

/-- The quotient of R40. -/
def divQ (a b : Int) : Int := if b = 0 then -1 else a.tdiv b

/-- The remainder of R40. -/
def divR (a b : Int) : Int := if b = 0 then a else a.tmod b

/-- The count of a shift or rotate (R39). -/
def shiftCount (ty : Ty) (y : Reg) : Nat := (scalar y).toNat % ty.width

/-- Rotation to the left within w bits. -/
def rotl (w x c : Nat) : Nat := (x * 2 ^ c + x / 2 ^ (w - c)) % 2 ^ w

/-- Leading zeros within w bits. -/
def leadingZeros (w x : Nat) : Nat := if x = 0 then w else w - 1 - Nat.log2 x

/-- Length of a bit field: 0 stands for 64 (R29). -/
def fieldLen (len : BitVec 6) : Nat := if len = 0 then 64 else len.toNat

/-! ## INT and IMM -/

/-- ADD (R39). -/
def execAdd (d a b : RegNum) (ty : Ty) (s : State) : Host.Outcome State Fault Refusal :=
  int2 s d a b fun x y => putTy ty (opnd ty.width ty.isSigned x + opnd ty.width ty.isSigned y)

/-- SUB (R39). -/
def execSub (d a b : RegNum) (ty : Ty) (s : State) : Host.Outcome State Fault Refusal :=
  int2 s d a b fun x y => putTy ty (opnd ty.width ty.isSigned x - opnd ty.width ty.isSigned y)

/-- MUL (R39). -/
def execMul (d a b : RegNum) (ty : Ty) (s : State) : Host.Outcome State Fault Refusal :=
  int2 s d a b fun x y => putTy ty ((opnd ty.width ty.isSigned x) * (opnd ty.width ty.isSigned y))

/-- MULH (R39). -/
def execMulh (d a b : RegNum) (ty : Ty) (s : State) : Host.Outcome State Fault Refusal :=
  int2 s d a b fun x y => putTy ty ((opnd ty.width true x) * (opnd ty.width true y) / 2 ^ ty.width)

/-- MULHN (R39). -/
def execMulhn (d a b : RegNum) (ty : Ty) (s : State) : Host.Outcome State Fault Refusal :=
  int2 s d a b fun x y => putTy ty ((opnd ty.width false x) * (opnd ty.width false y) / 2 ^ ty.width)

/-- MADD (R39). -/
def execMadd (d a b c : RegNum) (ty : Ty) (s : State) : Host.Outcome State Fault Refusal :=
  int3 s d a b c fun x y z =>
    putTy ty ((opnd ty.width ty.isSigned x) * (opnd ty.width ty.isSigned y) + opnd ty.width ty.isSigned z)

/-- DIV (R40). -/
def execDiv (d a b : RegNum) (ty : Ty) (s : State) : Host.Outcome State Fault Refusal :=
  int2 s d a b fun x y => putTy ty (divQ (opnd ty.width true x) (opnd ty.width true y))

/-- DIVN (R40). -/
def execDivn (d a b : RegNum) (ty : Ty) (s : State) : Host.Outcome State Fault Refusal :=
  int2 s d a b fun x y => putTy ty (divQ (opnd ty.width false x) (opnd ty.width false y))

/-- REM (R40). -/
def execRem (d a b : RegNum) (ty : Ty) (s : State) : Host.Outcome State Fault Refusal :=
  int2 s d a b fun x y => putTy ty (divR (opnd ty.width true x) (opnd ty.width true y))

/-- REMN (R40). -/
def execRemn (d a b : RegNum) (ty : Ty) (s : State) : Host.Outcome State Fault Refusal :=
  int2 s d a b fun x y => putTy ty (divR (opnd ty.width false x) (opnd ty.width false y))

/-- MIN (R39). -/
def execMin (d a b : RegNum) (ty : Ty) (s : State) : Host.Outcome State Fault Refusal :=
  int2 s d a b fun x y => putTy ty (min (opnd ty.width true x) (opnd ty.width true y))

/-- MAX (R39). -/
def execMax (d a b : RegNum) (ty : Ty) (s : State) : Host.Outcome State Fault Refusal :=
  int2 s d a b fun x y => putTy ty (max (opnd ty.width true x) (opnd ty.width true y))

/-- MINN (R39). -/
def execMinn (d a b : RegNum) (ty : Ty) (s : State) : Host.Outcome State Fault Refusal :=
  int2 s d a b fun x y => putTy ty (min (opnd ty.width false x) (opnd ty.width false y))

/-- MAXN (R39). -/
def execMaxn (d a b : RegNum) (ty : Ty) (s : State) : Host.Outcome State Fault Refusal :=
  int2 s d a b fun x y => putTy ty (max (opnd ty.width false x) (opnd ty.width false y))

/-- SEL: the condition reads 64 bits (R39). -/
def execSel (d a b c : RegNum) (ty : Ty) (s : State) : Host.Outcome State Fault Refusal :=
  int3 s d a b c fun x y z =>
    putTy ty (opnd ty.width ty.isSigned (if scalar x ≠ 0 then y else z))

/-- AND (R39). -/
def execAnd (d a b : RegNum) (ty : Ty) (s : State) : Host.Outcome State Fault Refusal :=
  int2 s d a b fun x y => putTy ty ((lane x ty.width 0 &&& lane y ty.width 0 : Nat) : Int)

/-- OR (R39). -/
def execOr (d a b : RegNum) (ty : Ty) (s : State) : Host.Outcome State Fault Refusal :=
  int2 s d a b fun x y => putTy ty ((lane x ty.width 0 ||| lane y ty.width 0 : Nat) : Int)

/-- XOR (R39). -/
def execXor (d a b : RegNum) (ty : Ty) (s : State) : Host.Outcome State Fault Refusal :=
  int2 s d a b fun x y => putTy ty ((lane x ty.width 0 ^^^ lane y ty.width 0 : Nat) : Int)

/-- ANDN (R39). -/
def execAndn (d a b : RegNum) (ty : Ty) (s : State) : Host.Outcome State Fault Refusal :=
  int2 s d a b fun x y => putTy ty ((lane x ty.width 0 &&& lane (~~~y) ty.width 0 : Nat) : Int)

/-- ORN (R39). -/
def execOrn (d a b : RegNum) (ty : Ty) (s : State) : Host.Outcome State Fault Refusal :=
  int2 s d a b fun x y => putTy ty ((lane x ty.width 0 ||| lane (~~~y) ty.width 0 : Nat) : Int)

/-- SHL (R39). -/
def execShl (d a b : RegNum) (ty : Ty) (s : State) : Host.Outcome State Fault Refusal :=
  int2 s d a b fun x y => putTy ty ((opnd ty.width ty.isSigned x) * 2 ^ shiftCount ty y)

/-- SHR (R39). -/
def execShr (d a b : RegNum) (ty : Ty) (s : State) : Host.Outcome State Fault Refusal :=
  int2 s d a b fun x y => putTy ty ((opnd ty.width false x) / 2 ^ shiftCount ty y)

/-- SRA (R39). -/
def execSra (d a b : RegNum) (ty : Ty) (s : State) : Host.Outcome State Fault Refusal :=
  int2 s d a b fun x y => putTy ty ((opnd ty.width true x) / 2 ^ shiftCount ty y)

/-- ROL (R39). -/
def execRol (d a b : RegNum) (ty : Ty) (s : State) : Host.Outcome State Fault Refusal :=
  int2 s d a b fun x y => putTy ty ((rotl ty.width (lane x ty.width 0) (shiftCount ty y) : Nat) : Int)

/-- ROR (R39). -/
def execRor (d a b : RegNum) (ty : Ty) (s : State) : Host.Outcome State Fault Refusal :=
  int2 s d a b fun x y => putTy ty ((rotl ty.width (lane x ty.width 0) (ty.width - shiftCount ty y) : Nat) : Int)

/-- CLZ (R39). -/
def execClz (d a : RegNum) (ty : Ty) (s : State) : Host.Outcome State Fault Refusal :=
  int1 s d a fun x => putTy ty ((leadingZeros ty.width (lane x ty.width 0) : Nat) : Int)

/-- CTZ (R39). -/
def execCtz (d a : RegNum) (ty : Ty) (s : State) : Host.Outcome State Fault Refusal :=
  int1 s d a fun x => putTy ty ((lowBitFrom (lane x ty.width 0) 0 ty.width : Nat) : Int)

/-- POP (R39). -/
def execPop (d a : RegNum) (ty : Ty) (s : State) : Host.Outcome State Fault Refusal :=
  int1 s d a fun x => putTy ty ((popBelow (lane x ty.width 0) ty.width : Nat) : Int)

/-- BSWAP (R39). -/
def execBswap (d a : RegNum) (ty : Ty) (s : State) : Host.Outcome State Fault Refusal :=
  int1 s d a fun x => putTy ty ((bytesNat (natBytes (ty.width / 8) (lane x ty.width 0)).reverse : Nat) : Int)

/-- SEQ (R39). -/
def execSeq (d a b : RegNum) (ty : Ty) (s : State) : Host.Outcome State Fault Refusal :=
  int2 s d a b fun x y => putTy ty (if opnd ty.width ty.isSigned x = opnd ty.width ty.isSigned y then 1 else 0)

/-- SNE (R39). -/
def execSne (d a b : RegNum) (ty : Ty) (s : State) : Host.Outcome State Fault Refusal :=
  int2 s d a b fun x y => putTy ty (if opnd ty.width ty.isSigned x = opnd ty.width ty.isSigned y then 0 else 1)

/-- SLT (R39). -/
def execSlt (d a b : RegNum) (ty : Ty) (s : State) : Host.Outcome State Fault Refusal :=
  int2 s d a b fun x y => putTy ty (if opnd ty.width true x < opnd ty.width true y then 1 else 0)

/-- SLE (R39). -/
def execSle (d a b : RegNum) (ty : Ty) (s : State) : Host.Outcome State Fault Refusal :=
  int2 s d a b fun x y => putTy ty (if opnd ty.width true x ≤ opnd ty.width true y then 1 else 0)

/-- SLTN (R39). -/
def execSltn (d a b : RegNum) (ty : Ty) (s : State) : Host.Outcome State Fault Refusal :=
  int2 s d a b fun x y => putTy ty (if opnd ty.width false x < opnd ty.width false y then 1 else 0)

/-- SLEN (R39). -/
def execSlen (d a b : RegNum) (ty : Ty) (s : State) : Host.Outcome State Fault Refusal :=
  int2 s d a b fun x y => putTy ty (if opnd ty.width false x ≤ opnd ty.width false y then 1 else 0)

/-- EXT (R41). -/
def execExt (d a : RegNum) (ty : Ty) (pos len : BitVec 6) (s : State) :
    Host.Outcome State Fault Refusal :=
  int1 s d a fun x =>
    let n := fieldLen len
    let f := x.toNat / 2 ^ pos.toNat % 2 ^ n
    putTy ty (if ty.isSigned then sgn n f else (f : Int))

/-- INS (R41). -/
def execIns (d a b : RegNum) (ty : Ty) (pos len : BitVec 6) (s : State) :
    Host.Outcome State Fault Refusal :=
  int2 s d a b fun x y =>
    let n := fieldLen len
    let t := lane y ty.width 0
    let low := t % 2 ^ pos.toNat
    let high := t / 2 ^ (pos.toNat + n) * 2 ^ (pos.toNat + n)
    putTy ty ((high + x.toNat % 2 ^ n * 2 ^ pos.toNat + low : Nat) : Int)

/-- SXT8 (R42). -/
def execSxt8 (d a : RegNum) (s : State) : Host.Outcome State Fault Refusal :=
  int1 s d a fun x => ofScalar (BitVec.ofInt 64 (sgn 8 (lane x 8 0)))

/-- SXT16 (R42). -/
def execSxt16 (d a : RegNum) (s : State) : Host.Outcome State Fault Refusal :=
  int1 s d a fun x => ofScalar (BitVec.ofInt 64 (sgn 16 (lane x 16 0)))

/-- SXT32 (R42). -/
def execSxt32 (d a : RegNum) (s : State) : Host.Outcome State Fault Refusal :=
  int1 s d a fun x => ofScalar (BitVec.ofInt 64 (sgn 32 (lane x 32 0)))

/-- ZXT8 (R42). -/
def execZxt8 (d a : RegNum) (s : State) : Host.Outcome State Fault Refusal :=
  int1 s d a fun x => ofScalar (BitVec.ofNat 64 (lane x 8 0))

/-- ZXT16 (R42). -/
def execZxt16 (d a : RegNum) (s : State) : Host.Outcome State Fault Refusal :=
  int1 s d a fun x => ofScalar (BitVec.ofNat 64 (lane x 16 0))

/-- ZXT32 (R42). -/
def execZxt32 (d a : RegNum) (s : State) : Host.Outcome State Fault Refusal :=
  int1 s d a fun x => ofScalar (BitVec.ofNat 64 (lane x 32 0))

/-- ADDI (R43). -/
def execAddi (d a : RegNum) (ty : Ty) (imm : BitVec 32) (s : State) :
    Host.Outcome State Fault Refusal :=
  int1 s d a fun x => putTy ty (opnd ty.width ty.isSigned x + imm.toInt)

/-- MULI (R43). -/
def execMuli (d a : RegNum) (ty : Ty) (imm : BitVec 32) (s : State) :
    Host.Outcome State Fault Refusal :=
  int1 s d a fun x => putTy ty ((opnd ty.width ty.isSigned x) * imm.toInt)

/-- ANDI (R43). -/
def execAndi (d a : RegNum) (ty : Ty) (imm : BitVec 32) (s : State) :
    Host.Outcome State Fault Refusal :=
  int1 s d a fun x => putTy ty ((lane x ty.width 0 &&& imm.toNat : Nat))

/-- ORI (R43). -/
def execOri (d a : RegNum) (ty : Ty) (imm : BitVec 32) (s : State) :
    Host.Outcome State Fault Refusal :=
  int1 s d a fun x => putTy ty ((lane x ty.width 0 ||| imm.toNat : Nat))

/-- XORI (R43). -/
def execXori (d a : RegNum) (ty : Ty) (imm : BitVec 32) (s : State) :
    Host.Outcome State Fault Refusal :=
  int1 s d a fun x => putTy ty ((lane x ty.width 0 ^^^ imm.toNat : Nat))

/-- SHLI (R43). -/
def execShli (d a : RegNum) (ty : Ty) (cnt : BitVec 6) (s : State) :
    Host.Outcome State Fault Refusal :=
  int1 s d a fun x => putTy ty ((opnd ty.width ty.isSigned x) * 2 ^ (cnt.toNat % ty.width))

/-- SHRI (R43). -/
def execShri (d a : RegNum) (ty : Ty) (cnt : BitVec 6) (s : State) :
    Host.Outcome State Fault Refusal :=
  int1 s d a fun x => putTy ty ((opnd ty.width false x) / 2 ^ (cnt.toNat % ty.width))

/-- SRAI (R43). -/
def execSrai (d a : RegNum) (ty : Ty) (cnt : BitVec 6) (s : State) :
    Host.Outcome State Fault Refusal :=
  int1 s d a fun x => putTy ty ((opnd ty.width true x) / 2 ^ (cnt.toNat % ty.width))

/-- SLTI (R43). -/
def execSlti (d a : RegNum) (ty : Ty) (imm : BitVec 32) (s : State) :
    Host.Outcome State Fault Refusal :=
  int1 s d a fun x => putTy ty (if opnd ty.width true x < imm.toInt then 1 else 0)

/-- SLTNI (R43). -/
def execSltni (d a : RegNum) (ty : Ty) (imm : BitVec 32) (s : State) :
    Host.Outcome State Fault Refusal :=
  int1 s d a fun x => putTy ty (if opnd ty.width false x < (imm.toNat : Int) then 1 else 0)

/-- SEQI (R43). -/
def execSeqi (d a : RegNum) (ty : Ty) (imm : BitVec 32) (s : State) :
    Host.Outcome State Fault Refusal :=
  int1 s d a fun x => putTy ty (if lane x ty.width 0 = wrap ty.width imm.toInt then 1 else 0)

/-- MOVI (R43). -/
def execMovi (d : RegNum) (ty : Ty) (imm : BitVec 32) (s : State) :
    Host.Outcome State Fault Refusal :=
  runReg s fun t => do
    windowX t [d]
    destX t d
    return t.setReg d (putTy ty imm.toInt)

/-- MOVHI (R43). -/
def execMovhi (d a : RegNum) (imm : BitVec 32) (s : State) : Host.Outcome State Fault Refusal :=
  int1 s d a fun x => ofScalar (imm ++ x.extractLsb' 0 32)

end Sys2Proof.Machine
end

