-- ==== Sys2Proof/Machine/Sync.lean ====
section
/-! DEFINITION. The meanings of the SYNC group (R180 to R184). -/

namespace Sys2Proof.Machine

/-- Bytes of a .D or .V form (R180). -/
def syncBytes (v : Bool) : Nat := if v then 64 else 8

/-- A SYNC form that writes a register (R180). -/
def syncLoad (s : State) (d base : RegNum) (g : SegReg) (off : BitVec 32) (v : Bool) (f : Form) :
    Host.Outcome State Fault Refusal :=
  runT s fun s t => do
    windowX t [d, base]
    let b ← readX t base
    destX t d
    accessX s t g (offM b off) f (syncBytes v) false (some d) []

/-- A SYNC form that reads a register (R180). -/
def syncStore (s : State) (d base : RegNum) (g : SegReg) (off : BitVec 32) (v : Bool)
    (f : Reg → Form) : Host.Outcome State Fault Refusal :=
  runT s fun s t => do
    windowX t [d, base]
    let x ← presentX t d
    let b ← readX t base
    accessX s t g (offM b off) (f x) (syncBytes v) false none [d]

/-- LDW (R182). -/
def execLdw (d base : RegNum) (seg : SegReg) (off : BitVec 32) (v : Bool) (s : State) :
    Host.Outcome State Fault Refusal := syncLoad s d base seg off v (.ldw v)

/-- LDC (R182). -/
def execLdc (d base : RegNum) (seg : SegReg) (off : BitVec 32) (v : Bool) (s : State) :
    Host.Outcome State Fault Refusal := syncLoad s d base seg off v (.ldc v)

/-- STF (R182). -/
def execStf (d base : RegNum) (seg : SegReg) (off : BitVec 32) (v : Bool) (s : State) :
    Host.Outcome State Fault Refusal := syncStore s d base seg off v (.stf v)

/-- STE (R182). -/
def execSte (d base : RegNum) (seg : SegReg) (off : BitVec 32) (v : Bool) (s : State) :
    Host.Outcome State Fault Refusal := syncStore s d base seg off v (.ste v)

/-- FESET (R183). -/
def execFeset (d base : RegNum) (seg : SegReg) (off : BitVec 32) (v : Bool) (s : State) :
    Host.Outcome State Fault Refusal := syncStore s d base seg off v (.feset v)

/-- FEGET (R183). -/
def execFeget (d base : RegNum) (seg : SegReg) (off : BitVec 32) (v : Bool) (s : State) :
    Host.Outcome State Fault Refusal := syncLoad s d base seg off v (.feget v)

/-- WAITV (R184). -/
def execWaitv (d base : RegNum) (seg : SegReg) (off : BitVec 32) (v : Bool) (s : State) :
    Host.Outcome State Fault Refusal := syncStore s d base seg off v (.waitv v)

end Sys2Proof.Machine
end

