-- ==== Sys2Proof/Machine/VPerm.lean ====
section
/-! DEFINITION. The meanings of the VPERM group (R120 to R122). -/

namespace Sys2Proof.Machine

/-! ## Elements as VPERM moves them -/

/-- Element i as a pattern; an f19 element's low bits read as zero (R107). -/
def pattern (ty : Ty) (r : Reg) (i : Nat) : Nat :=
  lane r ty.width i / 2 ^ padBits ty * 2 ^ padBits ty

/-- An index or amount modulo n: B's word or IMMV (R120). -/
def amount (src : VSrc) (y : Reg) (n : Nat) : Nat :=
  match src with
  | .reg _ => (scalar y).toNat % n
  | .imm v => v.toNat % n

/-- An element as a scalar: sign-extended for i types (R120). -/
def elemScalar (ty : Ty) (x : Nat) : Reg :=
  ofScalar (BitVec.ofInt 64 (if ty.isInt && ty.isSigned then sgn ty.width x else (x : Int)))

/-- A masked move (R120). -/
def vmove (s : State) (t : Thread) (d : RegNum) (ty : Ty) (k : KReg) (z : Bool) (f : Nat → Nat) :
    X (State × Thread) := do
  let old ← oldX t d k z
  done s t d (masked (t.mask k) z false old ty.width (count ty.width) f)

/-- The elements that a mask selects, in index order. -/
def selected (m : Word) (n : Nat) : List Nat := (List.range n).filter fun i => m.getLsbD i

/-- The destination of VCOMPR and VEXPND: read unless Z (R120). -/
def keepX (t : Thread) (d : RegNum) (z : Bool) : X Reg :=
  if z then do
    destX t d
    return 0
  else readX t d

/-- A reduction (R121): the active elements and the state of the thread give one register. -/
def vreduce (s : State) (d a : RegNum) (ty : Ty) (k : KReg)
    (f : Thread → Reg → List Nat → Reg × Bool) : Host.Outcome State Fault Refusal :=
  vecOp s [d, a] fun s t => do
    let x ← readX t a
    destX t d
    let (v, nv) := f t x (selected (t.mask k) (count ty.width))
    done s (t.orNv nv) d v

/-- One level of the pairwise tree (R121). -/
def pairSums (f : Fmt) (rm : Rnd) : List Nat → List FRes
  | x :: y :: l => f.addV rm (f.read x) (f.read y) :: pairSums f rm l
  | _ => []

/-- The pairwise tree of VFREDADD over 2^levels terms (R121). -/
def treeSum (f : Fmt) (rm : Rnd) : Nat → List Nat → FRes
  | 0, l => ⟨l.headD 0, false⟩
  | levels + 1, l =>
    let r := pairSums f rm l
    let rest := treeSum f rm levels (codes r)
    ⟨rest.code, anyNv r || rest.nv⟩

/-- The largest or smallest of codes under R116; a result that is a NaN is the default NaN. -/
def foldMinmax (f : Fmt) (max : Bool) : List Nat → FRes
  | [] => ⟨f.signed max f.infCode, false⟩
  | x :: l =>
    let r := l.foldl (fun acc y => f.minmax max acc y |>.code) x
    ⟨if (f.read r).isNan then f.nan else r, (x :: l).any fun y => (f.read y).isSnan⟩

/-! ## VPERM -/

/-- VSPLAT (R120). -/
def execVsplat (d a : RegNum) (ty : Ty) (k : KReg) (z : Bool) (s : State) :
    Host.Outcome State Fault Refusal :=
  vecOp s [d, a] fun s t => do
    let x ← readX t a
    vmove s t d ty k z fun _ => pattern ty x 0

/-- VEXTR (R120). -/
def execVextr (d a : RegNum) (src : VSrc) (ty : Ty) (s : State) : Host.Outcome State Fault Refusal :=
  vecOp s ([d, a] ++ srcRegs src) fun s t => do
    let x ← readX t a
    let y ← srcX t src
    destX t d
    done s t d (elemScalar ty (pattern ty x (amount src y (count ty.width))))

/-- VINSR: the other elements keep their values, so D is read (R120). -/
def execVinsr (d a : RegNum) (src : VSrc) (ty : Ty) (s : State) : Host.Outcome State Fault Refusal :=
  vecOp s ([d, a] ++ srcRegs src) fun s t => do
    let x ← readX t a
    let y ← srcX t src
    let old ← readX t d
    let w := ty.width
    let j := amount src y (count w)
    done s t d (ofLanes w ((List.range (count w)).map fun i =>
      if i = j then pattern ty x 0 else lane old w i))

/-- VPERM: the indices are read as unsigned values of the width (R120). -/
def execVperm (d a b : RegNum) (ty : Ty) (k : KReg) (z : Bool) (s : State) :
    Host.Outcome State Fault Refusal :=
  vecOp s [d, a, b] fun s t => do
    let x ← readX t a
    let y ← readX t b
    vmove s t d ty k z fun i => pattern ty x (lane y ty.width i % count ty.width)

/-- VPERM2 (R120). -/
def execVperm2 (d a b c : RegNum) (ty : Ty) (k : KReg) (z : Bool) (s : State) :
    Host.Outcome State Fault Refusal :=
  vecOp s [d, a, b, c] fun s t => do
    let x ← readX t a
    let y ← readX t b
    let v ← readX t c
    let n := count ty.width
    vmove s t d ty k z fun i =>
      let j := lane v ty.width i % (2 * n)
      if j < n then pattern ty x j else pattern ty y (j - n)

/-- VROT (R120). -/
def execVrot (d a : RegNum) (src : VSrc) (ty : Ty) (k : KReg) (z : Bool) (s : State) :
    Host.Outcome State Fault Refusal :=
  vecOp s ([d, a] ++ srcRegs src) fun s t => do
    let x ← readX t a
    let y ← srcX t src
    let n := count ty.width
    vmove s t d ty k z fun i => pattern ty x ((i + amount src y n) % n)

/-- VCOMPR (R120). -/
def execVcompr (d a : RegNum) (ty : Ty) (k : KReg) (z : Bool) (s : State) :
    Host.Outcome State Fault Refusal :=
  vecOp s [d, a] fun s t => do
    let x ← readX t a
    let old ← keepX t d z
    let w := ty.width
    let sel := selected (t.mask k) (count w)
    done s t d (ofLanes w ((List.range (count w)).map fun i =>
      match sel[i]? with
      | some j => pattern ty x j
      | none => lane old w i))

/-- VEXPND (R120). -/
def execVexpnd (d a : RegNum) (ty : Ty) (k : KReg) (z : Bool) (s : State) :
    Host.Outcome State Fault Refusal :=
  vecOp s [d, a] fun s t => do
    let x ← readX t a
    let old ← keepX t d z
    let w := ty.width
    let m := t.mask k
    done s t d (ofLanes w ((List.range (count w)).map fun i =>
      if m.getLsbD i then pattern ty x (popBelow m.toNat i) else lane old w i))

/-- VIOTA (R107, R120). It reads no old value of D, so an open D does not park it; an awaiting one does, as R7 has it of
every instruction (DEDUCED, log 22). -/
def execViota (d : RegNum) (ty : Ty) (k : KReg) (s : State) : Host.Outcome State Fault Refusal :=
  vecOp s [d] fun s t => do
    destX t d
    done s t d (ofLanes ty.width ((List.range (count ty.width)).map fun i =>
      popBelow (t.mask k).toNat i / 2 ^ padBits ty * 2 ^ padBits ty))

/-- VREDADD (R121). -/
def execVredadd (d a : RegNum) (ty : Ty) (k : KReg) (s : State) : Host.Outcome State Fault Refusal :=
  vreduce s d a ty k fun _ x sel =>
    (elemScalar ty (wrap ty.width ((sel.map fun i => slane x ty.width ty.isSigned i).sum)), false)

/-- VREDMIN (R121). -/
def execVredmin (d a : RegNum) (ty : Ty) (k : KReg) (s : State) : Host.Outcome State Fault Refusal :=
  vreduce s d a ty k fun _ x sel =>
    (putTy ty ((sel.map fun i => slane x ty.width ty.isSigned i).foldl min (intRange ty).2), false)

/-- VREDMAX (R121). -/
def execVredmax (d a : RegNum) (ty : Ty) (k : KReg) (s : State) : Host.Outcome State Fault Refusal :=
  vreduce s d a ty k fun _ x sel =>
    (putTy ty ((sel.map fun i => slane x ty.width ty.isSigned i).foldl max (intRange ty).1), false)

/-- VFREDADD: the fixed pairwise tree under %status.RND, with −0.0 for inactive elements (R121). -/
def execVfredadd (d a : RegNum) (ty : Ty) (k : KReg) (s : State) : Host.Outcome State Fault Refusal :=
  vreduce s d a ty k fun t x _ =>
    let f := fmtX t.xs ty
    let n := count ty.width
    let r := treeSum f (t.rounding .dflt) (Nat.log2 n) ((List.range n).map fun i =>
      if (t.mask k).getLsbD i then flane ty x i else f.signed true 0)
    (BitVec.ofNat 512 (fput ty r.code), r.nv)

/-- VFREDMAX (R121). -/
def execVfredmax (d a : RegNum) (ty : Ty) (k : KReg) (s : State) : Host.Outcome State Fault Refusal :=
  vreduce s d a ty k fun t x sel =>
    let r := foldMinmax (fmtX t.xs ty) true (sel.map fun i => flane ty x i)
    (BitVec.ofNat 512 (fput ty r.code), r.nv)

/-- VFREDMIN (R121). -/
def execVfredmin (d a : RegNum) (ty : Ty) (k : KReg) (s : State) : Host.Outcome State Fault Refusal :=
  vreduce s d a ty k fun t x sel =>
    let r := foldMinmax (fmtX t.xs ty) false (sel.map fun i => flane ty x i)
    (BitVec.ofNat 512 (fput ty r.code), r.nv)

/-! ## Masks (R122) -/

/-- A mask instruction that writes a mask register. -/
def maskOp (s : State) (d : KReg) (f : Thread → Word) : Host.Outcome State Fault Refusal :=
  vecOp s [] fun s t => .ok (s, (t.setMask d (f t)).adv)

/-- A mask instruction that writes a general register. -/
def maskRead (s : State) (d : RegNum) (f : Thread → Word) : Host.Outcome State Fault Refusal :=
  vecOp s [d] fun s t => do
    destX t d
    done s t d (ofScalar (f t))

/-- KAND (R122). -/
def execKand (d a b : KReg) (s : State) : Host.Outcome State Fault Refusal :=
  maskOp s d fun t => t.mask a &&& t.mask b

/-- KOR (R122). -/
def execKor (d a b : KReg) (s : State) : Host.Outcome State Fault Refusal :=
  maskOp s d fun t => t.mask a ||| t.mask b

/-- KXOR (R122). -/
def execKxor (d a b : KReg) (s : State) : Host.Outcome State Fault Refusal :=
  maskOp s d fun t => t.mask a ^^^ t.mask b

/-- KNOT (R122). -/
def execKnot (d a : KReg) (s : State) : Host.Outcome State Fault Refusal :=
  maskOp s d fun t => ~~~(t.mask a)

/-- KPOP (R122). -/
def execKpop (d : RegNum) (a : KReg) (s : State) : Host.Outcome State Fault Refusal :=
  maskRead s d fun t => BitVec.ofNat 64 (popBelow (t.mask a).toNat 64)

/-- KFIRST: 64 where no bit is set (R122). -/
def execKfirst (d : RegNum) (a : KReg) (s : State) : Host.Outcome State Fault Refusal :=
  maskRead s d fun t => BitVec.ofNat 64 (lowBitFrom (t.mask a).toNat 0 64)

/-- KMOV (R122). -/
def execKmov (d : KReg) (a : RegNum) (s : State) : Host.Outcome State Fault Refusal :=
  vecOp s [a] fun s t => do
    let x ← readX t a
    return (s, (t.setMask d (scalar x)).adv)

/-- KMOVG (R122). -/
def execKmovg (d : RegNum) (a : KReg) (s : State) : Host.Outcome State Fault Refusal :=
  maskRead s d fun t => t.mask a

end Sys2Proof.Machine
end

