-- ==== Sys2Proof/Machine/Dispatch.lean ====
section
/-! DEFINITION. The dispatch: one arm for each step of the part. -/

namespace Sys2Proof.Machine

/-- What a step of the part does. -/
def exec (i : Instr) (s : State) : Host.Outcome State Fault Refusal :=
  match i with
  | .add d a b ty => Sys2Proof.Machine.execAdd d a b ty s
  | .sub d a b ty => Sys2Proof.Machine.execSub d a b ty s
  | .mul d a b ty => Sys2Proof.Machine.execMul d a b ty s
  | .mulh d a b ty => Sys2Proof.Machine.execMulh d a b ty s
  | .mulhn d a b ty => Sys2Proof.Machine.execMulhn d a b ty s
  | .madd d a b c ty => Sys2Proof.Machine.execMadd d a b c ty s
  | .div d a b ty => Sys2Proof.Machine.execDiv d a b ty s
  | .divn d a b ty => Sys2Proof.Machine.execDivn d a b ty s
  | .rem d a b ty => Sys2Proof.Machine.execRem d a b ty s
  | .remn d a b ty => Sys2Proof.Machine.execRemn d a b ty s
  | .min d a b ty => Sys2Proof.Machine.execMin d a b ty s
  | .max d a b ty => Sys2Proof.Machine.execMax d a b ty s
  | .minn d a b ty => Sys2Proof.Machine.execMinn d a b ty s
  | .maxn d a b ty => Sys2Proof.Machine.execMaxn d a b ty s
  | .sel d a b c ty => Sys2Proof.Machine.execSel d a b c ty s
  | .and d a b ty => Sys2Proof.Machine.execAnd d a b ty s
  | .or d a b ty => Sys2Proof.Machine.execOr d a b ty s
  | .xor d a b ty => Sys2Proof.Machine.execXor d a b ty s
  | .andn d a b ty => Sys2Proof.Machine.execAndn d a b ty s
  | .orn d a b ty => Sys2Proof.Machine.execOrn d a b ty s
  | .shl d a b ty => Sys2Proof.Machine.execShl d a b ty s
  | .shr d a b ty => Sys2Proof.Machine.execShr d a b ty s
  | .sra d a b ty => Sys2Proof.Machine.execSra d a b ty s
  | .rol d a b ty => Sys2Proof.Machine.execRol d a b ty s
  | .ror d a b ty => Sys2Proof.Machine.execRor d a b ty s
  | .clz d a ty => Sys2Proof.Machine.execClz d a ty s
  | .ctz d a ty => Sys2Proof.Machine.execCtz d a ty s
  | .pop d a ty => Sys2Proof.Machine.execPop d a ty s
  | .bswap d a ty => Sys2Proof.Machine.execBswap d a ty s
  | .seq d a b ty => Sys2Proof.Machine.execSeq d a b ty s
  | .sne d a b ty => Sys2Proof.Machine.execSne d a b ty s
  | .slt d a b ty => Sys2Proof.Machine.execSlt d a b ty s
  | .sle d a b ty => Sys2Proof.Machine.execSle d a b ty s
  | .sltn d a b ty => Sys2Proof.Machine.execSltn d a b ty s
  | .slen d a b ty => Sys2Proof.Machine.execSlen d a b ty s
  | .ext d a ty pos len => Sys2Proof.Machine.execExt d a ty pos len s
  | .ins d a b ty pos len => Sys2Proof.Machine.execIns d a b ty pos len s
  | .sxt8 d a => Sys2Proof.Machine.execSxt8 d a s
  | .sxt16 d a => Sys2Proof.Machine.execSxt16 d a s
  | .sxt32 d a => Sys2Proof.Machine.execSxt32 d a s
  | .zxt8 d a => Sys2Proof.Machine.execZxt8 d a s
  | .zxt16 d a => Sys2Proof.Machine.execZxt16 d a s
  | .zxt32 d a => Sys2Proof.Machine.execZxt32 d a s
  | .addi d a ty imm => Sys2Proof.Machine.execAddi d a ty imm s
  | .muli d a ty imm => Sys2Proof.Machine.execMuli d a ty imm s
  | .andi d a ty imm => Sys2Proof.Machine.execAndi d a ty imm s
  | .ori d a ty imm => Sys2Proof.Machine.execOri d a ty imm s
  | .xori d a ty imm => Sys2Proof.Machine.execXori d a ty imm s
  | .shli d a ty cnt => Sys2Proof.Machine.execShli d a ty cnt s
  | .shri d a ty cnt => Sys2Proof.Machine.execShri d a ty cnt s
  | .srai d a ty cnt => Sys2Proof.Machine.execSrai d a ty cnt s
  | .slti d a ty imm => Sys2Proof.Machine.execSlti d a ty imm s
  | .sltni d a ty imm => Sys2Proof.Machine.execSltni d a ty imm s
  | .seqi d a ty imm => Sys2Proof.Machine.execSeqi d a ty imm s
  | .movi d ty imm => Sys2Proof.Machine.execMovi d ty imm s
  | .movhi d a imm => Sys2Proof.Machine.execMovhi d a imm s
  | .br hint disp => Sys2Proof.Machine.execBr hint disp s
  | .beq a b hint disp => Sys2Proof.Machine.execBeq a b hint disp s
  | .bne a b hint disp => Sys2Proof.Machine.execBne a b hint disp s
  | .blt a b hint disp => Sys2Proof.Machine.execBlt a b hint disp s
  | .bge a b hint disp => Sys2Proof.Machine.execBge a b hint disp s
  | .bltn a b hint disp => Sys2Proof.Machine.execBltn a b hint disp s
  | .bgen a b hint disp => Sys2Proof.Machine.execBgen a b hint disp s
  | .bz a hint disp => Sys2Proof.Machine.execBz a hint disp s
  | .bnz a hint disp => Sys2Proof.Machine.execBnz a hint disp s
  | .dbnz a hint disp => Sys2Proof.Machine.execDbnz a hint disp s
  | .call lnk hint disp => Sys2Proof.Machine.execCall lnk hint disp s
  | .jmp a hint disp => Sys2Proof.Machine.execJmp a hint disp s
  | .callr lnk a hint disp => Sys2Proof.Machine.execCallr lnk a hint disp s
  | .pause imm => Sys2Proof.Machine.execPause imm s
  | .void d => Sys2Proof.Machine.execVoid d s
  | .ld d base seg rel off size => Sys2Proof.Machine.execLd d base seg rel off size s
  | .lds d base seg rel off size => Sys2Proof.Machine.execLds d base seg rel off size s
  | .st d base seg rel off size => Sys2Proof.Machine.execSt d base seg rel off size s
  | .lea d base seg off => Sys2Proof.Machine.execLea d base seg off s
  | .segld d a imm => Sys2Proof.Machine.execSegld d a imm s
  | .segnar d a b rights => Sys2Proof.Machine.execSegnar d a b rights s
  | .segrd d a => Sys2Proof.Machine.execSegrd d a s
  | .vadd d a b ty k z => Sys2Proof.Machine.execVadd d a b ty k z s
  | .vsub d a b ty k z => Sys2Proof.Machine.execVsub d a b ty k z s
  | .vmul d a b ty k z => Sys2Proof.Machine.execVmul d a b ty k z s
  | .vmulh d a b ty k z => Sys2Proof.Machine.execVmulh d a b ty k z s
  | .vmin d a b ty k z => Sys2Proof.Machine.execVmin d a b ty k z s
  | .vmax d a b ty k z => Sys2Proof.Machine.execVmax d a b ty k z s
  | .vadds d a b ty k z => Sys2Proof.Machine.execVadds d a b ty k z s
  | .vsubs d a b ty k z => Sys2Proof.Machine.execVsubs d a b ty k z s
  | .vand d a b ty k z => Sys2Proof.Machine.execVand d a b ty k z s
  | .vor d a b ty k z => Sys2Proof.Machine.execVor d a b ty k z s
  | .vxor d a b ty k z => Sys2Proof.Machine.execVxor d a b ty k z s
  | .vshl d a src ty k z => Sys2Proof.Machine.execVshl d a src ty k z s
  | .vshr d a src ty k z => Sys2Proof.Machine.execVshr d a src ty k z s
  | .vsra d a src ty k z => Sys2Proof.Machine.execVsra d a src ty k z s
  | .vabs d a ty k z => Sys2Proof.Machine.execVabs d a ty k z s
  | .vneg d a ty k z => Sys2Proof.Machine.execVneg d a ty k z s
  | .vcnt d a ty k z => Sys2Proof.Machine.execVcnt d a ty k z s
  | .vdot4 d a b c ty k z => Sys2Proof.Machine.execVdot4 d a b c ty k z s
  | .vsel d a b ty k => Sys2Proof.Machine.execVsel d a b ty k s
  | .vcmpeq d a b ty k z => Sys2Proof.Machine.execVcmpeq d a b ty k z s
  | .vcmpne d a b ty k z => Sys2Proof.Machine.execVcmpne d a b ty k z s
  | .vcmplt d a b ty k z => Sys2Proof.Machine.execVcmplt d a b ty k z s
  | .vcmple d a b ty k z => Sys2Proof.Machine.execVcmple d a b ty k z s
  | .vfadd d a b ty k z sl rnd => Sys2Proof.Machine.execVfadd d a b ty k z sl rnd s
  | .vfsub d a b ty k z sl rnd => Sys2Proof.Machine.execVfsub d a b ty k z sl rnd s
  | .vfmul d a b ty k z sl rnd => Sys2Proof.Machine.execVfmul d a b ty k z sl rnd s
  | .vfdiv d a b ty k z sl rnd => Sys2Proof.Machine.execVfdiv d a b ty k z sl rnd s
  | .vfma d a b c ty k z sl rnd => Sys2Proof.Machine.execVfma d a b c ty k z sl rnd s
  | .vfms d a b c ty k z sl rnd => Sys2Proof.Machine.execVfms d a b c ty k z sl rnd s
  | .vfnma d a b c ty k z sl rnd => Sys2Proof.Machine.execVfnma d a b c ty k z sl rnd s
  | .vfsqrt d a ty k z sl rnd => Sys2Proof.Machine.execVfsqrt d a ty k z sl rnd s
  | .vfround d a ty k z sl rnd => Sys2Proof.Machine.execVfround d a ty k z sl rnd s
  | .vfmin d a b ty k z sl => Sys2Proof.Machine.execVfmin d a b ty k z sl s
  | .vfmax d a b ty k z sl => Sys2Proof.Machine.execVfmax d a b ty k z sl s
  | .vfabs d a ty k z sl => Sys2Proof.Machine.execVfabs d a ty k z sl s
  | .vfneg d a ty k z sl => Sys2Proof.Machine.execVfneg d a ty k z sl s
  | .vfrcp d a ty k z sl => Sys2Proof.Machine.execVfrcp d a ty k z sl s
  | .vfrsq d a ty k z sl => Sys2Proof.Machine.execVfrsq d a ty k z sl s
  | .vfexp2 d a ty k z sl => Sys2Proof.Machine.execVfexp2 d a ty k z sl s
  | .vflog2 d a ty k z sl => Sys2Proof.Machine.execVflog2 d a ty k z sl s
  | .vfcvt d a ty ty2 k z sl rnd satc => Sys2Proof.Machine.execVfcvt d a ty ty2 k z sl rnd satc s
  | .vfcvti d a ty ty2 k z sl rnd => Sys2Proof.Machine.execVfcvti d a ty ty2 k z sl rnd s
  | .vicvtf d a ty ty2 k z sl rnd => Sys2Proof.Machine.execVicvtf d a ty ty2 k z sl rnd s
  | .vfcmpeq d a b ty k z sl => Sys2Proof.Machine.execVfcmpeq d a b ty k z sl s
  | .vfcmplt d a b ty k z sl => Sys2Proof.Machine.execVfcmplt d a b ty k z sl s
  | .vfcmple d a b ty k z sl => Sys2Proof.Machine.execVfcmple d a b ty k z sl s
  | .vfcmpun d a b ty k z sl => Sys2Proof.Machine.execVfcmpun d a b ty k z sl s
  | .vsplat d a ty k z => Sys2Proof.Machine.execVsplat d a ty k z s
  | .vextr d a src ty => Sys2Proof.Machine.execVextr d a src ty s
  | .vinsr d a src ty => Sys2Proof.Machine.execVinsr d a src ty s
  | .vperm d a b ty k z => Sys2Proof.Machine.execVperm d a b ty k z s
  | .vperm2 d a b c ty k z => Sys2Proof.Machine.execVperm2 d a b c ty k z s
  | .vrot d a src ty k z => Sys2Proof.Machine.execVrot d a src ty k z s
  | .vcompr d a ty k z => Sys2Proof.Machine.execVcompr d a ty k z s
  | .vexpnd d a ty k z => Sys2Proof.Machine.execVexpnd d a ty k z s
  | .viota d ty k => Sys2Proof.Machine.execViota d ty k s
  | .vredadd d a ty k => Sys2Proof.Machine.execVredadd d a ty k s
  | .vredmin d a ty k => Sys2Proof.Machine.execVredmin d a ty k s
  | .vredmax d a ty k => Sys2Proof.Machine.execVredmax d a ty k s
  | .vfredadd d a ty k => Sys2Proof.Machine.execVfredadd d a ty k s
  | .vfredmax d a ty k => Sys2Proof.Machine.execVfredmax d a ty k s
  | .vfredmin d a ty k => Sys2Proof.Machine.execVfredmin d a ty k s
  | .kand d a b => Sys2Proof.Machine.execKand d a b s
  | .kor d a b => Sys2Proof.Machine.execKor d a b s
  | .kxor d a b => Sys2Proof.Machine.execKxor d a b s
  | .knot d a => Sys2Proof.Machine.execKnot d a s
  | .kpop d a => Sys2Proof.Machine.execKpop d a s
  | .kfirst d a => Sys2Proof.Machine.execKfirst d a s
  | .kmov d a => Sys2Proof.Machine.execKmov d a s
  | .kmovg d a => Sys2Proof.Machine.execKmovg d a s
  | .ldw d base seg off v => Sys2Proof.Machine.execLdw d base seg off v s
  | .ldc d base seg off v => Sys2Proof.Machine.execLdc d base seg off v s
  | .stf d base seg off v => Sys2Proof.Machine.execStf d base seg off v s
  | .ste d base seg off v => Sys2Proof.Machine.execSte d base seg off v s
  | .feset d base seg off v => Sys2Proof.Machine.execFeset d base seg off v s
  | .feget d base seg off v => Sys2Proof.Machine.execFeget d base seg off v s
  | .waitv d base seg off v => Sys2Proof.Machine.execWaitv d base seg off v s
  | .aadd d base seg off dbl => Sys2Proof.Machine.execAadd d base seg off dbl s
  | .aand d base seg off dbl => Sys2Proof.Machine.execAand d base seg off dbl s
  | .aor d base seg off dbl => Sys2Proof.Machine.execAor d base seg off dbl s
  | .axor d base seg off dbl => Sys2Proof.Machine.execAxor d base seg off dbl s
  | .amin d base seg off dbl => Sys2Proof.Machine.execAmin d base seg off dbl s
  | .amax d base seg off dbl => Sys2Proof.Machine.execAmax d base seg off dbl s
  | .aminn d base seg off dbl => Sys2Proof.Machine.execAminn d base seg off dbl s
  | .amaxn d base seg off dbl => Sys2Proof.Machine.execAmaxn d base seg off dbl s
  | .aswp d base seg off dbl => Sys2Proof.Machine.execAswp d base seg off dbl s
  | .acas d base new seg off dbl => Sys2Proof.Machine.execAcas d base new seg off dbl s
  | .afadd d base seg off dbl => Sys2Proof.Machine.execAfadd d base seg off dbl s
  | .gld g => Sys2Proof.Machine.execGld g s
  | .gst g => Sys2Proof.Machine.execGst g s
  | .gadd g => Sys2Proof.Machine.execGadd g s
  | .gfadd g => Sys2Proof.Machine.execGfadd g s
  | .gldw g => Sys2Proof.Machine.execGldw g s
  | .fence scope eng => Sys2Proof.Machine.execFence scope eng s
  | .split axis pt rule => Sys2Proof.Machine.execSplit axis pt rule s
  | .jdone src => Sys2Proof.Machine.execJdone src s
  | .stamp a b => Sys2Proof.Machine.execStamp a b s
  | .boxrd d up => Sys2Proof.Machine.execBoxrd d up s
  | .budrd d sel => Sys2Proof.Machine.execBudrd d sel s
  | .launch d a seg => Sys2Proof.Machine.execLaunch d a seg s
  | .rgnq d a sel => Sys2Proof.Machine.execRgnq d a sel s
  | .send d a b narrow count => Sys2Proof.Machine.execSend d a b narrow count s
  | .sendr a reg slot prev => Sys2Proof.Machine.execSendr a reg slot prev s
  | .chset d a bits => Sys2Proof.Machine.execChset d a bits s
  | .chget d a => Sys2Proof.Machine.execChget d a s
  | .migrate d a b => Sys2Proof.Machine.execMigrate d a b s
  | .syscall d a count svc => Sys2Proof.Machine.execSyscall d a count svc s
  | .mma tile a lat edge aux rel bnd rank skip => Sys2Proof.Machine.execMma tile a lat edge aux rel bnd rank skip s
  | .bload lat m => Sys2Proof.Machine.execBload lat m s
  | .brot lat dl => Sys2Proof.Machine.execBrot lat dl s
  | .brel lat => Sys2Proof.Machine.execBrel lat s
  | .mcommit a => Sys2Proof.Machine.execMcommit a s
  | .mwait n => Sys2Proof.Machine.execMwait n s
  | .mzero tile => Sys2Proof.Machine.execMzero tile s
  | .mfill tile m => Sys2Proof.Machine.execMfill tile m s
  | .mdrain tile m => Sys2Proof.Machine.execMdrain tile m s
  | .qrow b c m => Sys2Proof.Machine.execQrow b c m s
  | .rlset tile log2k col i32 => Sys2Proof.Machine.execRlset tile log2k col i32 s
  | .rlins tile a b list k => Sys2Proof.Machine.execRlins tile a b list k s
  | .rlmergeTile tile src => Sys2Proof.Machine.execRlmergeTile tile src s
  | .rlmergeImage tile m => Sys2Proof.Machine.execRlmergeImage tile m s
  | .rlthr a tile list => Sys2Proof.Machine.execRlthr a tile list s
  | .rldrain tile m => Sys2Proof.Machine.execRldrain tile m s
  | .rlclr tile => Sys2Proof.Machine.execRlclr tile s
  | .copy f => Sys2Proof.Machine.execCopy f s
  | .copy2 f => Sys2Proof.Machine.execCopy2 f s
  | .cwait ch => Sys2Proof.Machine.execCwait ch s
  | .cwaitPtr ch a => Sys2Proof.Machine.execCwaitPtr ch a s
  | .barinit b m => Sys2Proof.Machine.execBarinit b m s
  | .bararr c m => Sys2Proof.Machine.execBararr c m s
  | .bararrCount b c out m => Sys2Proof.Machine.execBararrCount b c out m s
  | .barwait b m => Sys2Proof.Machine.execBarwait b m s
  | .cvtn d a ty ty2 k rnd satc => Sys2Proof.Machine.execCvtn d a ty ty2 k rnd satc s
  | .cvtw d a ty ty2 k rnd satc => Sys2Proof.Machine.execCvtw d a ty ty2 k rnd satc s
  | .qmx d a ty ty2 => Sys2Proof.Machine.execQmx d a ty ty2 s
  | .dqmx d a ty ty2 rnd satc => Sys2Proof.Machine.execDqmx d a ty ty2 rnd satc s
  | .plane d a ty => Sys2Proof.Machine.execPlane d a ty s
  | .unplane d a ty => Sys2Proof.Machine.execUnplane d a ty s
  | .srd d idx b => Sys2Proof.Machine.execSrd d idx b s
  | .swr idx a b => Sys2Proof.Machine.execSwr idx a b s
  | .statusWrite a => Sys2Proof.Machine.execStatusWrite a s
  | .partitionWrite a b => Sys2Proof.Machine.execPartitionWrite a b s
  | .atollWrite a => Sys2Proof.Machine.execAtollWrite a s
  | .channelEntryWrite a b => Sys2Proof.Machine.execChannelEntryWrite a b s
  | .scrub a b => Sys2Proof.Machine.execScrub a b s
  | .errlogClear a b => Sys2Proof.Machine.execErrlogClear a b s
  | .thrd d a item => Sys2Proof.Machine.execThrd d a item s
  | .thwr d a b item => Sys2Proof.Machine.execThwr d a b item s
  | .discardQueueImage d a b => Sys2Proof.Machine.execDiscardQueueImage d a b s
  | .debugHold d a b => Sys2Proof.Machine.execDebugHold d a b s
  | .thres d a => Sys2Proof.Machine.execThres d a s
  | .thkill d a => Sys2Proof.Machine.execThkill d a s
  | .spill d a => Sys2Proof.Machine.execSpill d a s
  | .reghold d a finish nowait => Sys2Proof.Machine.execReghold d a finish nowait s
  | .regrel d a => Sys2Proof.Machine.execRegrel d a s
  | .rcbrd d a => Sys2Proof.Machine.execRcbrd d a s
  | .capq d a sel => Sys2Proof.Machine.execCapq d a sel s
  | .brk imm => Sys2Proof.Machine.execBrk imm s
  | .wakep a b => Sys2Proof.Machine.execWakep a b s
  | .tlbinv a b scope => Sys2Proof.Machine.execTlbinv a b scope s
  | .nop => Sys2Proof.Machine.execNop s
  | .endT => Sys2Proof.Machine.execEndT s
  | .yield => Sys2Proof.Machine.execYield s
  | .ifence => Sys2Proof.Machine.execIfence s
  | .prune => Sys2Proof.Machine.execPrune s
  | .leaf => Sys2Proof.Machine.execLeaf s
  | .defer => Sys2Proof.Machine.execDefer s
  | .threadRetire => Sys2Proof.Machine.execThreadRetire s
  | .pauseExpiry => Sys2Proof.Machine.execPauseExpiry s
  | .decisionTakesEffect => Sys2Proof.Machine.execDecisionTakesEffect s
  | .unitMigration => Sys2Proof.Machine.execUnitMigration s
  | .messageArrival => Sys2Proof.Machine.execMessageArrival s
  | .bufferedMessageStart => Sys2Proof.Machine.execBufferedMessageStart s
  | .pageWake => Sys2Proof.Machine.execPageWake s
  | .trapMessage => Sys2Proof.Machine.execTrapMessage s
  | .migrationArrival => Sys2Proof.Machine.execMigrationArrival s
  | .forwardedReply => Sys2Proof.Machine.execForwardedReply s
  | .forwardingEntryExpiry => Sys2Proof.Machine.execForwardingEntryExpiry s
  | .depositLanding => Sys2Proof.Machine.execDepositLanding s
  | .accessAcknowledgement => Sys2Proof.Machine.execAccessAcknowledgement s
  | .relaxedCompletion => Sys2Proof.Machine.execRelaxedCompletion s
  | .relaxedErrorResponse => Sys2Proof.Machine.execRelaxedErrorResponse s
  | .bankAccess => Sys2Proof.Machine.execBankAccess s
  | .refusalRetry => Sys2Proof.Machine.execRefusalRetry s
  | .becomeOldest => Sys2Proof.Machine.execBecomeOldest s
  | .dispatch => Sys2Proof.Machine.execDispatch s
  | .evaluate => Sys2Proof.Machine.execEvaluate s
  | .leafDispatch => Sys2Proof.Machine.execLeafDispatch s
  | .joinDispatch => Sys2Proof.Machine.execJoinDispatch s
  | .regionCompletion => Sys2Proof.Machine.execRegionCompletion s
  | .cycleBudgetExhausted => Sys2Proof.Machine.execCycleBudgetExhausted s
  | .engineOpStart => Sys2Proof.Machine.execEngineOpStart s
  | .engineOpComplete => Sys2Proof.Machine.execEngineOpComplete s
  | .brotArrival => Sys2Proof.Machine.execBrotArrival s
  | .enginePageFault => Sys2Proof.Machine.execEnginePageFault s
  | .engineFailure => Sys2Proof.Machine.execEngineFailure s
  | .copyLine => Sys2Proof.Machine.execCopyLine s
  | .copyComplete => Sys2Proof.Machine.execCopyComplete s
  | .copyCancel => Sys2Proof.Machine.execCopyCancel s
  | .pageFault => Sys2Proof.Machine.execPageFault s
  | .mmuRewalk => Sys2Proof.Machine.execMmuRewalk s
  | .tlbinvComplete => Sys2Proof.Machine.execTlbinvComplete s
  | .collapse => Sys2Proof.Machine.execCollapse s
  | .collapseAck => Sys2Proof.Machine.execCollapseAck s
  | .uncorrectableError => Sys2Proof.Machine.execUncorrectableError s
  | .hold => Sys2Proof.Machine.execHold s
  | .spillWrite => Sys2Proof.Machine.execSpillWrite s
  | .contextRestore => Sys2Proof.Machine.execContextRestore s
  | .throttleEvent => Sys2Proof.Machine.execThrottleEvent s
  | .powerLimitWrite => Sys2Proof.Machine.execPowerLimitWrite s
  | .inboundDoorbell => Sys2Proof.Machine.execInboundDoorbell s
  | .mbxtgtWrite => Sys2Proof.Machine.execMbxtgtWrite s
  | .outboundDoorbell => Sys2Proof.Machine.execOutboundDoorbell s
  | .devstatWrite => Sys2Proof.Machine.execDevstatWrite s
  | .hostirq => Sys2Proof.Machine.execHostirq s
  | .msixUnmask => Sys2Proof.Machine.execMsixUnmask s
  | .hostBar2Access => Sys2Proof.Machine.execHostBar2Access s
  | .hostConfigRequest => Sys2Proof.Machine.execHostConfigRequest s
  | .functionLevelReset => Sys2Proof.Machine.execFunctionLevelReset s
  | .fmsend => Sys2Proof.Machine.execFmsend s
  | .fabricMessageArrival => Sys2Proof.Machine.execFabricMessageArrival s
  | .fmdropClear => Sys2Proof.Machine.execFmdropClear s
  | .peerAccessArrival => Sys2Proof.Machine.execPeerAccessArrival s
  | .fabricTimeout => Sys2Proof.Machine.execFabricTimeout s
  | .mgmtTransmit => Sys2Proof.Machine.execMgmtTransmit s
  | .mgmtReceive => Sys2Proof.Machine.execMgmtReceive s
  | .powerOnReset => Sys2Proof.Machine.execPowerOnReset s
  | .notAnInstruction => Sys2Proof.Machine.execNotAnInstruction s
  | .syscallReply => Sys2Proof.Machine.execSyscallReply s
  | .pageMigration => Sys2Proof.Machine.execPageMigration s
  | .straitWithdrawal => Sys2Proof.Machine.execStraitWithdrawal s
  | .hostBlockAccess => Sys2Proof.Machine.execHostBlockAccess s
  | .linkUpChange => Sys2Proof.Machine.execLinkUpChange s
  | .bootFabricStore => Sys2Proof.Machine.execBootFabricStore s

end Sys2Proof.Machine
end

