-- ==== Sys2Proof/Machine/Sched.lean ====
section
/-! DEFINITION. What the machine does of itself: the events that are enabled, in the model's default order
(DESIGN CHOICE, log 6), and a cycle of the device with the rotation and lending of every core (R63 to R67, R217, R306). -/

namespace Sys2Proof.Machine

/-! ## The events of the device itself -/

/-- What an event of the device itself does; nothing where it is not enabled, or comes from outside. -/
def State.move (s : State) : Event → Option State
  | .threadRetire t => s.threadRetire t
  | .pauseExpiry t => s.pauseExpiry t
  | .decisionTakesEffect t => s.decisionTakesEffect t
  | .unitMigration t => s.unitMigration t
  | .messageArrival n => s.messageArrival n
  | .bufferedMessageStart c => s.bufferedMessageStart c.toNat
  | .pageWake n => s.pageWake n
  | .trapMessage n => s.trapMessage n
  | .migrationArrival n => s.migrationArrival n
  | .forwardedReply n => s.forwardedReply n
  | .forwardingEntryExpiry n => s.forwardingEntryExpiry n
  | .depositLanding c p => s.depositLanding c.toNat p
  | .accessAcknowledgement n v => s.accessAcknowledgement n v
  | .relaxedCompletion n v => s.relaxedCompletion n v
  | .relaxedErrorResponse n r => s.relaxedErrorResponse n r
  | .bankAccess n => s.bankAccess n
  | .refusalRetry n => s.refusalRetry n
  | .fabricTimeout n => s.fabricTimeout n
  | .becomeOldest t => s.becomeOldest t
  | .dispatch c => s.dispatch c.toNat
  | .regionCompletion r => s.regionCompletion r
  | .cycleBudgetExhausted r => s.cycleBudgetExhausted r
  | .engineOpStart c => s.engineOpStart c.toNat
  | .engineOpComplete c n => s.engineOpComplete c.toNat n
  | .brotArrival c l => s.brotArrival c.toNat l
  | .enginePageFault c => s.enginePageFault c.toNat
  | .engineFailure c n => s.engineFailure c.toNat n
  | .copyLine c ch => s.copyLine c.toNat ch.toNat
  | .copyComplete c ch => s.copyDone c.toNat ch.toNat
  | .copyCancel c ch => s.copyCancel c.toNat ch.toNat
  | .mmuRewalk c a g => s.mmuRewalk c a g
  | .tlbinvComplete t => s.tlbinvComplete t
  | .collapse k => s.collapse k
  | .collapseAck k d => s.collapseAck k d
  | .hold t d => s.holdEvent t d
  | .spillWrite t => s.spillWrite t
  | .contextRestore t c => s.contextRestore t c.toNat
  | .hostBar2Line i => s.hostBar2Line i
  | .mgmtLine rx => s.mgmtLine rx
  | _ => none

/-- A core number as events name it. -/
def coreId (c : Nat) : CoreId := BitVec.ofNat 11 c

/-- The event that may end a thread's wait. -/
def Thread.waitEvent (t : Thread) : List Event :=
  match t.wait with
  | .endDrain => [.threadRetire t.id]
  | .decision _ => [.decisionTakesEffect t.id]
  | .pause _ => [.pauseExpiry t.id]
  | .oldest => [.becomeOldest t.id]
  | .unit _ => [.unitMigration t.id]
  | .tlbinv _ _ _ => [.tlbinvComplete t.id]
  | _ => []

/-- Events of accesses. One that stands at a peer waits for the outside, but not for ever (R340). -/
def State.accessEvents (s : State) (a : Access) : List Event :=
  if s.outside a then [.fabricTimeout a.n]
  else
    match a.stage with
    | .inFlight => [.bankAccess a.n]
    | .refused _ => [.refusalRetry a.n]
    | .collapsing => match a.key with
      | some k => [.collapse k]
      | none => []
    | .done _ | .failed _ =>
      if a.rel then [.relaxedCompletion a.n none, .relaxedErrorResponse a.n none, .forwardedReply a.n]
      else [.accessAcknowledgement a.n none]
    | _ => []

/-- The event of a message. -/
def Msg.events (m : Msg) : List Event :=
  match m.body with
  | .trap _ => [.trapMessage m.n]
  | .wake _ => [.pageWake m.n]
  | .context _ _ _ => [.migrationArrival m.n]
  | _ => [.messageArrival m.n]

/-- Events of a core's queues; an engine operation that has started runs for its cycles (R211). -/
def State.coreEvents (s : State) (c : Nat) (k : Core) : List Event :=
  let i := coreId c
  (if k.next.isEmpty then [] else [.depositLanding i false]) ++
    (if k.prev.isEmpty then [] else [.depositLanding i true]) ++
    ((k.engq.filter fun o => o.started && decide (o.doneAt ≤ s.runCount c)).flatMap fun o =>
      [.engineFailure i o.n, .engineOpComplete i o.n, .brotArrival i false, .brotArrival i true]) ++
    (if k.engq.isEmpty then [] else [.engineOpStart i, .enginePageFault i]) ++
    ((List.range 4).flatMap fun ch =>
      let h : BitVec 2 := BitVec.ofNat 2 ch
      if (k.copyq.getD ch []).isEmpty then [] else [.copyCancel i h, .copyLine i h, .copyComplete i h])

/-- The cores on which a context may be restored: its own, or any for a leaf that REGREL has released (R301, R317). -/
def Thread.restoreEvents (t : Thread) : List Event :=
  if t.released && t.cls == .leaf then allCores.map fun c => .contextRestore t.id (coreId c)
  else [.contextRestore t.id t.id.core]

/-- Events of the threads' holds, spills and restores. -/
def State.contextEvents (s : State) : List Event :=
  (s.threads.flatMap fun p => match p.2.state with
    | .ready | .parked => if p.2.cls == .leaf then [.hold p.2.id false] else []
    | .held => if (s.jobOf p.2.id).any (fun j => j.restore) then [.contextRestore p.2.id p.2.id.core] else [.spillWrite p.2.id]
    | .spilled => p.2.restoreEvents
    | _ => []) ++
  s.spilled.flatMap fun x => x.keep.restoreEvents

/-- Events of the unfolders: cores in order, for each kind of box (R102). -/
def State.treeEvents (s : State) : List Event :=
  (s.regions.flatMap fun p => [.cycleBudgetExhausted p.1, .regionCompletion p.1]) ++
  (if s.regions.any fun p => p.2.open' && p.2.boxes.any fun b => s.awaits p.2 b || s.lacksPage p.2 b then
     (allCores.filter s.reachable).map fun c => .dispatch (coreId c)
   else [])

/-- Messages that wait in the cores' buffers (R75). -/
def State.bufferEvents (s : State) : List Event :=
  (s.cores.filter fun p => !p.2.inbuf.isEmpty).map fun p => .bufferedMessageStart (coreId p.1)

/-- The events that may be enabled, in the default order (DESIGN CHOICE, log 6). -/
def State.candidates (s : State) : List Event :=
  (s.rewalks.map fun r => .mmuRewalk r.1 r.2.1 r.2.2) ++
  (s.accs.flatMap s.accessEvents) ++
  ((List.range s.base.bar2.length).map fun i => .hostBar2Line i) ++
  (s.base.frames.map fun f => .mgmtLine f.rx) ++
  (s.dups.flatMap fun p => (p.collapsing.getD []).map fun d => .collapseAck p.home d) ++
  s.bufferEvents ++ (s.mesh.flatMap Msg.events) ++
  (s.threads.flatMap fun p => p.2.waitEvent) ++
  (s.cores.flatMap fun p => s.coreEvents p.1 p.2) ++
  (s.forwards.map fun f => .forwardingEntryExpiry f.n) ++
  s.contextEvents ++ s.treeEvents

/-- The next event that the machine performs of itself. -/
def State.nextEvent (s : State) : Option Event := s.candidates.find? fun e => (s.move e).isSome

/-! ## A cycle -/

/-- The columns after a cycle: a throttled one may swallow it (R63, R306). -/
def State.swallow (s : State) : State :=
  { s with sys := { s.sys with columns := s.sys.columns.map fun p =>
      if (p.2.word.extractLsb' 0 8).toNat != 0 && Config.swallowed p.1 s.cyc (p.2.word.extractLsb' 0 8).toNat then
        (p.1, { p.2 with swallowed := p.2.swallowed + 1 })
      else p } }

/-- REGHOLD's wait is over: its region is quiet, released, or no longer live (R318). -/
def State.holdDone (s : State) (r : Nat) : Bool :=
  match s.region? r with
  | none => true
  | some x => x.hold == .free || s.regionQuiet r

/-- A thread whose wait has ended goes on, and a PARKED one takes a trap that it has recorded (R57, R67). -/
def State.wake (s : State) (t : Thread) : State :=
  if t.state != .parked && t.state != .held then s
  else
    match (if t.state = .parked && t.killed.isNone then t.pending else []) with
    | i :: rest => (s.trapParked { t with pending := rest } i).getD s
    | [] =>
    match t.wait with
    | .region r d => if s.holdDone r then s.commit ((t.completes (some d) 0).woken) else s
    | _ => if s.waitOver t then s.setThread t.woken else s

/-- Every thread whose wait has ended goes on. -/
def State.wakeAll (s : State) : State :=
  s.threads.foldl (fun s p => match s.thread? p.2.id with
    | some t => s.wake t
    | none => s) s

/-- A thread may issue: it is READY, its ordinary access has been acknowledged, and its first own turn has come
(R55, R64, R73). -/
def State.mayIssue (s : State) (t : Thread) : Bool :=
  t.state = .ready && !t.onAccess && decide (t.firstTurn ≤ s.runCount t.id.core.toNat)

/-- A slot is ready in a cycle c of its core's run (R64). No window is made drowsy, so no issue waits for one (R69,
DESIGN CHOICE, log 43). -/
def State.readyAt (s : State) (c : Nat) (t : Thread) : Bool :=
  s.mayIssue t && (match s.lastIssue t.id with
    | none => true
    | some l => decide (l + 8 ≤ c))

/-- Older last issue; a slot that has never issued counts as oldest (R65). -/
def State.issuedBefore (s : State) (t u : Thread) : Bool :=
  match s.lastIssue t.id, s.lastIssue u.id with
  | none, some _ => true
  | some a, some b => decide (a < b)
  | _, none => false

/-- The borrower of a turn of a lane: the siblings of the owner first, then the oldest last issue, then the lower slot
(R65). -/
def State.borrower (s : State) (owner : Option Thread) (c : Nat) (l : List Thread) : Option Thread :=
  let fit := l.filter fun t =>
    s.readyAt c t && decide (c + 8 ≤ nextTurn c t.id.slot) && t.yielded != some c
  let kin := match owner with
    | some o => if o.rcb = 0 || o.parent = 0 then [] else
        fit.filter fun (t : Thread) => t.parent = o.parent && t.rcb != 0
    | none => []
  (if kin.isEmpty then fit else kin).foldl (fun best t => match best with
    | none => some t
    | some b => if s.issuedBefore t b then some t else some b) none

/-- Who issues on a lane in a cycle c of a core's run: the slot at the position, or a borrower (R63 to R66). -/
def State.laneIssue (s : State) (l : List Thread) (c : Nat) (ln : Nat) : Option Ident :=
  let here := l.filter fun t => t.id.slot % 4 = ln
  let owner := here.find? fun t => t.id.slot / 4 = c % 16
  let own := owner.filter fun t => s.readyAt c t && t.yielded != some c
  match own with
  | some t => some t.id
  | none => (s.borrower owner c here).map (·.id)

/-- The issues of a core in a cycle of its run. -/
def State.coreIssues (s : State) (c : Nat) : List Ident :=
  (List.range 4).filterMap fun ln => s.laneIssue (s.threadsOf c) (s.runCount c) ln

/-- The cores that hold threads, rising. -/
def State.busyCores (s : State) : List Nat :=
  s.threads.foldr (fun p l => setAdd p.2.id.core.toNat l) []

/-- A sub-ring change that has nothing left in flight takes effect (R217). -/
def State.settleRings (s : State) : State :=
  s.sys.atollNext.foldl (fun s p => s.settleAtoll p.1) s

/-- A queue image that has waited for room in the engine queue re-enters it, and its thread goes on (R221, R227). -/
def State.refill' (s : State) (t : Thread) : State :=
  if t.roomWait && t.killed.isNone && (t.state = .parked || t.state = .ready) && s.queueRoom t.id.core.toNat t.image.length then
    let (s, u) := s.requeue t
    s.setThread (if u.wait = .none then { u with state := .ready } else u)
  else s

/-- Every queue image for which there is room now, thread by thread. -/
def State.refillAll (s : State) : State :=
  s.threads.foldl (fun s p => match s.thread? p.2.id with
    | some t => s.refill' t
    | none => s) s

/-- A thread or a context that was held with a region, whose hold has been taken back, is let go, and its RCB with it
(R57, R301). -/
def State.lapse (s : State) (t : Thread) : State :=
  let was := if t.cls == .leaf && (s.peek t.dom t.rcb).map s.rcbState = some stHeld then s.owe t (.turn stHeld stRunning) else s
  if t.state = .spilled then was.setThread { t with regionHeld := false, released := true }
  else was.releaseThread { t with regionHeld := false }

/-- A region is live, and not held. -/
def State.unheld (s : State) (r : Nat) : Bool := (s.region? r).any fun x => x.hold == .free

/-- Holds that have been taken back end (R57). -/
def State.lapseAll (s : State) : State :=
  let s1 := s.threads.foldl (fun s p => if p.2.regionHeld && s.unheld p.2.regionId then s.lapse p.2 else s) s
  { s1 with spilled := s1.spilled.map fun c =>
      if c.keep.regionHeld && s1.unheld c.keep.regionId then
        { c with keep := { c.keep with regionHeld := false, released := true } }
      else c }

/-- A thread whose own turn comes while its ordinary access has not been acknowledged parks (R55, R67). -/
def State.parkLate (s : State) (t : Thread) : State :=
  if t.state = .ready && t.onAccess && decide (t.id.slot / 4 = s.runCount t.id.core.toNat % 16) then
    s.setThread { t with state := .parked }
  else s

/-- Every such thread of the cores that run. -/
def State.parkAllLate (s : State) (cores : List Nat) : State :=
  s.threads.foldl (fun s p => if cores.contains p.2.id.core.toNat then s.parkLate p.2 else s) s

/-- The Skerries of every killed thread whose operations and copies are over are withdrawn (R316). -/
def State.withdrawKilled (s : State) : State :=
  s.threads.foldl (fun s p => if p.2.condemned then s.killWithdraw p.2 else s) s

/-- One cycle of the device passes: throttled columns may swallow it, Skerries of killed threads are withdrawn, waits that
have ended end, queue images and holds
follow, accesses that a TLBINV held go on, owed writes whose page has come are made, and every core that runs offers its
lanes' turns. -/
def State.tick (s : State) : State :=
  let s1 := ({ s with cyc := s.cyc + 1 }).swallow
  let s2 := s1.lapseAll.withdrawKilled.wakeAll.refillAll.settleRings.resumeInval.payOwed
  let run := s2.busyCores.filter fun c => s.runCount c != s2.runCount c
  let s3 := s2.parkAllLate run
  { s3 with due := run.flatMap s3.coreIssues }

end Sys2Proof.Machine
end

