-- ==== Sys2Proof/Machine/Step.lean ====
section
/-! DEFINITION. The step of the device: the next item of the agenda, or else the machine's own move. -/

namespace Sys2Proof.Machine

/-- A thread whose turn it is fetches its next instruction and runs it. -/
def issue (s : State) (t : Thread) : Host.Outcome State Fault Refusal :=
  match t.pending with
  | i :: rest => .next (takeTrap s { t with pending := rest } i)
  | [] =>
    match fetchX s t with
    | .ok (s1, w) =>
      exec (fetched w) { s1.noteIssue t with cur := t.id, word := w }
    | .error st => .next (stopped s t (fetchStop s t st))

/-- The machine moves of itself: an issue that is due, else an event that is enabled, else a cycle
passes. -/
def ownMove (s : State) : Host.Outcome State Fault Refusal :=
  match s.due with
  | t :: rest =>
    match s.thread? t with
    | some x => if s.mayIssue x then issue { s with due := rest } x else .next { s with due := rest }
    | none => .next { s with due := rest }
  | [] =>
    match s.nextEvent with
    | some e => exec e.row { s with ev := some e }
    | none => .next s.tick

/-- One step. -/
def step (s : State) : Host.Outcome State Fault Refusal :=
  match s.agenda with
  | [] => ownMove { s with slow := false }
  | .turn :: rest => ownMove { s with agenda := rest, slow := false }
  | .slowTurn :: rest => ownMove { s with agenda := rest, slow := true }
  | .event e :: rest => exec e.row { s with agenda := rest, ev := some e }
  | .prefetch core k :: rest => .next ({ s with agenda := rest }.prefetched core.toNat k)
  | .combine a b :: rest => .next ({ s with agenda := rest }.combined a b)
  | .duplicate home bits die frame pte :: rest =>
    .next ({ s with agenda := rest }.duplicated home bits die frame pte)
  | .tick :: rest => if s.due = [] then .next { s with agenda := rest }.tick else ownMove { s with agenda := rest, slow := false }
  | .engineLine c n pick :: rest =>
    .next (({ s with agenda := rest }.engineLine c.toNat n pick).getD { s with agenda := rest })
  | .cacheImport slot :: rest => .next ({ s with agenda := rest }.cacheImport slot)
  | .kernel d desc :: rest => .next { s with agenda := rest, codeSeg := tabPut d.toNat desc s.codeSeg }

/-- The thread that runs a word placed by `withFetchWord`: slot 0 of core 0, with a window of 128
registers and seg0 over the core's pool window (DESIGN CHOICE, log 4). -/
def fetchThread : Thread :=
  Thread.start 0 .message 0 0 128 0 (Specials.start false 0 0 0)
    (mkSeg (BitVec.ofNat 64 (poolKey 0 0)) 0x10_0000 0b001111)

/-- The state in which the next step fetches and runs a word: the word stands at the start of core 0's
pool, and a thread there is due to issue (DESIGN CHOICE, log 4). -/
def State.withFetchWord (s : State) (_nbits w : Nat) : State :=
  let s1 := s.writeBytes (poolKey 0 0) (natBytes 8 w)
  { s1.setThread fetchThread with due := [0], agenda := [] }

end Sys2Proof.Machine
end

