-- ==== Sys2Proof/Safety.lean ====
section
/-! DEFINITION. The terms in which statements speak: a thread that issues, a register that can be read or
written, an access that reaches its bank, a canonical memory, and what a frame leaves alone. -/

namespace Sys2Proof.Machine

/-! ## Issuing -/

/-- The thread issues: State's `cur` names it, and its region has cycles left (R104). -/
structure Issues (s : State) (t : Thread) : Prop where
  live : s.thread? s.cur = some t
  cycles : s.spent t = false

/-- A register of the window is present, is not poisoned, and holds x (R5, R7, R292). -/
structure Thread.holds (t : Thread) (r : RegNum) (x : Reg) : Prop where
  inside : r.toNat < t.win
  entry : t.entry r = { val := x, pres := .present, poison := false }

/-- A register of the window that an instruction may write: it is not awaiting (R5, R7). -/
structure Thread.takes (t : Thread) (r : RegNum) : Prop where
  inside : r.toNat < t.win
  free : (t.entry r).pres ≠ .awaiting

/-- The destination of a masked instruction: its old value is read where a mask other than k0 keeps elements; else it
must only be free to write, and nothing of it is kept (R108). -/
def Thread.keeps (t : Thread) (d : RegNum) (k : KReg) (z : Bool) (old : Reg) : Prop :=
  if k ≠ 0 ∧ z = false then t.holds d old else t.takes d ∧ old = 0

/-- Registers from a first one on hold the values of a list. -/
structure Thread.holdsRun (t : Thread) (a : RegNum) (l : List Reg) : Prop where
  inside : a.toNat + l.length ≤ t.win
  each : ∀ j x, l[j]? = some x → t.holds (a + BitVec.ofNat 7 j) x

/-- n registers from a first one on may be written. -/
structure Thread.takesRun (t : Thread) (d : RegNum) (n : Nat) : Prop where
  inside : d.toNat + n ≤ t.win
  each : ∀ j < n, t.takes (d + BitVec.ofNat 7 j)

/-- The destinations of a masked instruction whose results fill a run of registers. -/
structure Thread.keepsRun (t : Thread) (d : RegNum) (k : KReg) (old : List Reg) : Prop where
  inside : d.toNat + old.length ≤ t.win
  each : ∀ j x, old[j]? = some x → t.keeps (d + BitVec.ofNat 7 j) k false x

/-- The core of the thread has a unit, by its bit in %cap (R304, R310). -/
def State.has (s : State) (t : Thread) (bit : Nat) : Prop := (s.cap t.id.core.toNat).getLsbD bit = true

/-- A thread that closes its open batch and parks until something has drained: a ninth outstanding batch parks it
first, with nothing closed (R48, R222). -/
def State.closing (s : State) (t : Thread) (w : Wait) : Thread :=
  if t.batchOps = 0 then { t with state := .parked, wait := w }
  else if ∀ o ∈ s.opsOf t, (t.nextBatch + 1 - o.batch).toNat ≤ 8 then
    { t with nextBatch := t.nextBatch + 1, batchOps := 0, reopen := t.batchOps, state := .parked, wait := w }
  else { t with state := .parked, wait := .commitFull }

/-! ## Memory -/

/-- A state whose memory is canonical. -/
def State.memOk (s : State) : Prop := Memory.wf s.mem = true

/-- An ordinary access at an offset of a segment passes the checks of R11, has nothing to wait for, and
its page leads to a key of this device; `s1` is the state after the translation. -/
structure Reaches (s : State) (t : Thread) (g : SegReg) (e : Word) (f : Form) (align : Nat)
    (s1 : State) (k : Nat) : Prop where
  limit : e.toNat + f.bytes ≤ segLimit (t.seg g)
  mapped : s.dvaOk (segBase (t.seg g) + e) f.bytes = true
  rights : f.rights &&& ~~~(segRights (t.seg g)) = 0
  aligned : e.toNat % align = 0
  plain : t.spec = none
  alone : s.relaxedOf t.id = []
  route : s.route (clusterOf t.id.core.toNat) t.dom (segBase (t.seg g) + e) f.writes f.sync = (s1, .bank k)
  still : s1.relaxedOf t.id = []
  calm : s1.slow = false
  may : f.mayReach k = true
  size : f.dieSize k = true

/-- n bytes from a key lie in memory proper, not in the base-die registers, and no word of them is poisoned
or withdrawn. -/
structure State.sound (s : State) (k n : Nat) : Prop where
  memory : paSpace k ≠ 6 ∨ (poolOf k).isSome = true
  good : s.badAt k n = none

/-! ## Frames -/

/-- The instructions whose only effect is on registers of their own thread: the register numbers they name, in the
order in which R5 is tested, their destination registers, and their destination mask. -/
def regOps : Instr → Option (List RegNum × List RegNum × Option KReg)
  | .add d a b _ | .sub d a b _ | .mul d a b _ | .mulh d a b _ | .mulhn d a b _ | .div d a b _ 
  | .divn d a b _ | .rem d a b _ | .remn d a b _ | .min d a b _ | .max d a b _ | .minn d a b _ 
  | .maxn d a b _ | .and d a b _ | .or d a b _ | .xor d a b _ | .andn d a b _ | .orn d a b _ 
  | .shl d a b _ | .shr d a b _ | .sra d a b _ | .rol d a b _ | .ror d a b _ | .seq d a b _ 
  | .sne d a b _ | .slt d a b _ | .sle d a b _ | .sltn d a b _ | .slen d a b _ | .ins d a b _ _ _ 
  | .vadd d a b _ _ _ | .vsub d a b _ _ _ | .vmul d a b _ _ _ | .vmulh d a b _ _ _ | .vmin d a b _ _ _ 
  | .vmax d a b _ _ _ | .vadds d a b _ _ _ | .vsubs d a b _ _ _ | .vand d a b _ _ _ | .vor d a b _ _ _ 
  | .vxor d a b _ _ _ | .vsel d a b _ _ | .vfadd d a b _ _ _ _ _ | .vfsub d a b _ _ _ _ _ 
  | .vfmul d a b _ _ _ _ _ | .vfdiv d a b _ _ _ _ _ | .vfmin d a b _ _ _ _ | .vfmax d a b _ _ _ _ 
  | .vperm d a b _ _ _ => some ([d, a, b], [d], none)
  | .madd d a b c _ | .sel d a b c _ | .vdot4 d a b c _ _ _ | .vfma d a b c _ _ _ _ _ 
  | .vfms d a b c _ _ _ _ _ | .vfnma d a b c _ _ _ _ _ | .vperm2 d a b c _ _ _ => some ([d, a, b, c], [d], none)
  | .clz d a _ | .ctz d a _ | .pop d a _ | .bswap d a _ | .ext d a _ _ _ | .sxt8 d a | .sxt16 d a 
  | .sxt32 d a | .zxt8 d a | .zxt16 d a | .zxt32 d a | .addi d a _ _ | .muli d a _ _ | .andi d a _ _ 
  | .ori d a _ _ | .xori d a _ _ | .shli d a _ _ | .shri d a _ _ | .srai d a _ _ | .slti d a _ _ 
  | .sltni d a _ _ | .seqi d a _ _ | .movhi d a _ | .vabs d a _ _ _ | .vneg d a _ _ _ | .vcnt d a _ _ _ 
  | .vfsqrt d a _ _ _ _ _ | .vfround d a _ _ _ _ _ | .vfabs d a _ _ _ _ | .vfneg d a _ _ _ _ 
  | .vfrcp d a _ _ _ _ | .vfrsq d a _ _ _ _ | .vfexp2 d a _ _ _ _ | .vflog2 d a _ _ _ _ 
  | .vfcvt d a _ _ _ _ _ _ _ | .vfcvti d a _ _ _ _ _ _ | .vicvtf d a _ _ _ _ _ _ | .vsplat d a _ _ _ 
  | .vcompr d a _ _ _ | .vexpnd d a _ _ _ | .vredadd d a _ _ | .vredmin d a _ _ | .vredmax d a _ _ 
  | .vfredadd d a _ _ | .vfredmax d a _ _ | .vfredmin d a _ _ => some ([d, a], [d], none)
  | .movi d _ _ | .void d | .segrd d _ | .viota d _ _ | .kpop d _ | .kfirst d _ | .kmovg d _ => some ([d], [d], none)
  | .br _ _ | .nop | .yield => some ([], [], none)
  | .beq a b _ _ | .bne a b _ _ | .blt a b _ _ | .bge a b _ _ | .bltn a b _ _ | .bgen a b _ _ => some ([a, b], [], none)
  | .bz a _ _ | .bnz a _ _ | .jmp a _ _ => some ([a], [], none)
  | .dbnz a _ _ => some ([a], [a], none)
  | .call lnk _ _ => some ([lnk], [lnk], none)
  | .callr lnk a _ _ => some ([a, lnk], [lnk], none)
  | .vshl d a src _ _ _ | .vshr d a src _ _ _ | .vsra d a src _ _ _ | .vextr d a src _ 
  | .vinsr d a src _ | .vrot d a src _ _ _ => some ([d, a] ++ srcRegs src, [d], none)
  | .vcmpeq d a b _ _ _ | .vcmpne d a b _ _ _ | .vcmplt d a b _ _ _ | .vcmple d a b _ _ _ 
  | .vfcmpeq d a b _ _ _ _ | .vfcmplt d a b _ _ _ _ | .vfcmple d a b _ _ _ _ | .vfcmpun d a b _ _ _ _ => some ([a, b], [], some d)
  | .kand d _ _ | .kor d _ _ | .kxor d _ _ | .knot d _ => some ([], [], some d)
  | .kmov d a => some ([a], [], some d)
  | _ => none

/-- Everything outside threads, regions, messages and engine queues is the same. -/
structure State.sameRest (s s' : State) : Prop where
  mem : s'.mem = s.mem
  empties : s'.empties = s.empties
  poisoned : s'.poisoned = s.poisoned
  accs : s'.accs = s.accs
  sys : s'.sys = s.sys
  base : s'.base = s.base
  tlb : s'.tlb = s.tlb
  dups : s'.dups = s.dups
  forwards : s'.forwards = s.forwards
  spilled : s'.spilled = s.spilled
  arena : s'.arena = s.arena
  codeSeg : s'.codeSeg = s.codeSeg
  waits : s'.mmuWaits = s.mmuWaits ∧ s'.pageReqs = s.pageReqs ∧ s'.rewalks = s.rewalks
  next : s'.lastServed = s.lastServed ∧ s'.shareWindow = s.shareWindow
  owed : s'.owed = s.owed
  out : s'.out = s.out
  cyc : s'.cyc = s.cyc
  agenda : s'.agenda = s.agenda

/-- The special registers of a thread are the same, but for %status.NV and what a trap writes (R16, R22). -/
def Specials.sameButNvAndTrap (p q : Specials) : Prop :=
  q.status &&& ~~~0x80 = p.status &&& ~~~0x80 ∧
    { q with status := 0, tcause := 0, tinfo := 0, tepc := 0 } =
      ({ p with status := 0, tcause := 0, tinfo := 0, tepc := 0 } : Specials)

/-- What an instruction leaves of its own thread: every register but its destinations, every mask but its
destination, every segment, the special registers but for NV and a trap's own, the thread's place, and its open batch,
unless that has been closed by a MIGRATE whose trap opens it again (R57). -/
structure Thread.sameBut (t t' : Thread) (ds : List RegNum) (k : Option KReg) : Prop where
  win : t'.win = t.win
  regs : ∀ r, r ∉ ds → t'.entry r = t.entry r
  masks : ∀ q, some q ≠ k → t'.mask q = t.mask q
  segs : t'.segs = t.segs
  specials : t.sp.sameButNvAndTrap t'.sp
  id : t'.id = t.id
  cls : t'.cls = t.cls
  rcb : t'.rcb = t.rcb
  wbase : t'.wbase = t.wbase
  pool : t'.pool = t.pool
  tiles : t'.tiles = t.tiles
  batch : t.reopen = 0 → t'.nextBatch = t.nextBatch

end Sys2Proof.Machine
end

