-- ==== Sys2Proof/Certificates/Slice0/Obligations.lean ====
section
/-! DEFINITION. The statements for the provers. -/

open Sys2Proof Sys2Proof.Machine

/-! ## Words, fetching and stepping -/

/-- Words written out from the encoding tables decode to the instructions they stand for (R25 to R29). -/
def Obligations.WrittenWordsDecode : Prop :=
  decode 0x1000060C10018000 = some (.add 3 3 2 .i64) ∧
  decode 0x202C100389ABCDEF = some (.movi 2 .i64 0x89ABCDEF) ∧
  decode 0x309040001FFFFFFF = some (.dbnz 2 .none 0x1FFFFFFF) ∧
  decode 0x30A0000F80000003 = some (.call 0x1F .none 3) ∧
  decode 0x380C405400000008 = some (.ld 8 5 2 false 8 .d) ∧
  decode 0x5000142858059000 = some (.vfadd 10 10 11 .f32 1 false false .dflt) ∧
  decode 0x680C205400000000 = some (.ldw 4 5 2 0 false) ∧
  decode 0x699418540E000010 = some (.acas 3 5 7 2 0x10 true) ∧
  decode 0x700050540D523010 = some (.gld ⟨10, 5, 2, false, 6, 2, true, 2, 2, 1, true, 0x10⟩) ∧
  decode 0x7800000000000103 = some (.fence .device true) ∧
  decode 0x8000000028000079 = some (.split 1 (some 5) (some 3)) ∧
  decode 0x8100040C40000002 = some (.send 2 3 8 false 2) ∧
  decode 0x9000000800000001 = some (.mma 0 4 false none none true false false false) ∧
  decode 0xA00002000000000C = some (.rlset 2 4 true false) ∧
  decode 0xA800000814300135 = some (.copy ⟨4, 3, 5, 2, 6, none, false, .setfull, 1⟩) ∧
  decode 0xB002140800058000 = some (.qmx 10 2 .f32 .i8) ∧
  decode 0xC003060858000103 = some (.thwr 3 2 11 0x103) ∧
  decode 0xC001001810000104 = some (.channelEntryWrite 6 2)

/-- Decoding the word of a well-formed instruction gives the instruction back, with every operand at every value that
its encoding admits. Rests on the model's encoder, written from the same tables (R25 to R29). -/
def Obligations.EncodedInstructionDecodes : Prop :=
  ∀ (i : Instr) (w : Word), i.wf = true → encode i = some w → decode w = some i

/-- A step of a thread that is due, whose fetch passes R13 and finds a word of memory that decodes to an instruction,
is that instruction's meaning, with the turn noted and the word at hand; no cached copy of the word that the
thread may still fetch differs from memory (R13, R14, R63). The order of turns that `due` holds, and the agenda,
are the model’s (log 6). -/
def Obligations.StepRunsFetchedInstruction : Prop :=
  ∀ (s s1 : State) (x : Ident) (rest : List Ident) (t : Thread) (k : Nat) (i : Instr),
    s.agenda = [] → s.slow = false → s.due = x :: rest → s.thread? x = some t → s.mayIssue t = true →
    t.pending = [] →
    t.pc.toNat + 8 ≤ segLimit (t.seg 0) → s.dvaOk (segBase (t.seg 0) + t.pc) 8 = true →
    (segRights (t.seg 0)).getLsbD 2 = true →
    ({ s with due := rest }).route (clusterOf t.id.core.toNat) t.dom (segBase (t.seg 0) + t.pc) false false =
      (s1, .bank k) →
    s1.sound k 8 → (∀ w ∈ s1.cachedWords t k, w = BitVec.ofNat 64 (s1.read k 8)) →
    decode (BitVec.ofNat 64 (s1.read k 8)) = some i →
    step s = exec i { s1.noteIssue t with cur := t.id, word := BitVec.ofNat 64 (s1.read k 8) }

/-- A fetch that fails is a trap at the program counter: outside the limit or the address map SEGLIMIT, without the X
right SEGRIGHTS with X in MISS; %tinfo is the offset (R11, R13, R331). A word that is not an instruction traps ILL
with %tinfo equal to the word, and it has no other effect than the trap (R34). -/
def Obligations.FailedFetchesTrap : Prop :=
  (∀ (s : State) (x : Ident) (rest : List Ident) (t : Thread),
     s.agenda = [] → s.slow = false → s.due = x :: rest → s.thread? x = some t → s.mayIssue t = true →
     t.pending = [] → s.spent t = false →
     (segLimit (t.seg 0) < t.pc.toNat + 8 →
       step s = .next (takeTrap { s with due := rest } t
         { code := 0x04, info := t.pc, seg := 0, wr := false, miss := 0 })) ∧
     (t.pc.toNat + 8 ≤ segLimit (t.seg 0) → s.dvaOk (segBase (t.seg 0) + t.pc) 8 = false →
       step s = .next (takeTrap { s with due := rest } t
         { code := 0x04, info := t.pc, seg := 0, wr := false, miss := 0 })) ∧
     (t.pc.toNat + 8 ≤ segLimit (t.seg 0) → s.dvaOk (segBase (t.seg 0) + t.pc) 8 = true →
       (segRights (t.seg 0)).getLsbD 2 = false →
       step s = .next (takeTrap { s with due := rest } t
         { code := 0x05, info := t.pc, seg := 0, wr := false, miss := 0b000100 }))) ∧
  ((∀ w : Word, decode w = none → fetched w = .notAnInstruction) ∧
   ∀ (s : State) (t : Thread), Issues s t →
     exec .notAnInstruction s = .next (takeTrap s t { code := 0x01, info := s.word, seg := 0, wr := false, miss := 0 }))

/-! ## INT and IMM -/

/-- ADD, SUB, MUL, MULH, MULHN, MADD, the minima and maxima, and SEL complete: each writes Put of its value (R39).
What Put leaves in a register: zero above bit 63, the value modulo 2^w in the low w bits, and an extension by the
type's class between them (R37). -/
def Obligations.IntegerArithmeticCompletes : Prop :=
  (∀ (s : State) (t : Thread) (d a b c : RegNum) (ty : Ty) (x y z : Reg),
     Issues s t → t.holds a x → t.holds b y → t.holds c z → t.takes d →
     let w := ty.width
     let T (r : Reg) : Int := opnd w ty.isSigned r
     let S (r : Reg) : Int := opnd w true r
     let N (r : Reg) : Int := opnd w false r
     let puts (v : Int) : Host.Outcome State Fault Refusal := .next (s.commit (t.setReg d (putTy ty v)).adv)
     exec (.add d a b ty) s = puts (T x + T y) ∧
     exec (.sub d a b ty) s = puts (T x - T y) ∧
     exec (.mul d a b ty) s = puts (T x * T y) ∧
     exec (.mulh d a b ty) s = puts (S x * S y / 2 ^ w) ∧
     exec (.mulhn d a b ty) s = puts (N x * N y / 2 ^ w) ∧
     exec (.madd d a b c ty) s = puts (T x * T y + T z) ∧
     exec (.min d a b ty) s = puts (min (S x) (S y)) ∧
     exec (.max d a b ty) s = puts (max (S x) (S y)) ∧
     exec (.minn d a b ty) s = puts (min (N x) (N y)) ∧
     exec (.maxn d a b ty) s = puts (max (N x) (N y)) ∧
     exec (.sel d a b c ty) s = puts (if scalar x ≠ 0 then T y else T z)) ∧
  (∀ (ty : Ty) (v : Int), ty.isInt = true →
     (putTy ty v).extractLsb' 64 448 = 0 ∧
     ((lane (putTy ty v) ty.width 0 : Nat) : Int) = v % 2 ^ ty.width ∧
     (ty.isSigned = false → ((scalar (putTy ty v)).toNat : Int) = v % 2 ^ ty.width) ∧
     (ty.isSigned = true →
       -(2 : Int) ^ (ty.width - 1) ≤ (scalar (putTy ty v)).toInt ∧
       (scalar (putTy ty v)).toInt < 2 ^ (ty.width - 1) ∧
       (scalar (putTy ty v)).toInt % 2 ^ ty.width = v % 2 ^ ty.width))

/-- DIV and DIVN write the quotient truncated toward zero, REM and REMN write a − q × b; by zero the quotient is −1
and the remainder is a (R40). -/
def Obligations.DivisionCompletes : Prop :=
  ∀ (s : State) (t : Thread) (d a b : RegNum) (ty : Ty) (x y : Reg),
    Issues s t → t.holds a x → t.holds b y → t.takes d →
    let q (n m : Int) : Int := if m = 0 then -1 else n.tdiv m
    let r (n m : Int) : Int := if m = 0 then n else n - q n m * m
    let S (v : Reg) : Int := opnd ty.width true v
    let N (v : Reg) : Int := opnd ty.width false v
    let puts (v : Int) : Host.Outcome State Fault Refusal := .next (s.commit (t.setReg d (putTy ty v)).adv)
    exec (.div d a b ty) s = puts (q (S x) (S y)) ∧
    exec (.divn d a b ty) s = puts (q (N x) (N y)) ∧
    exec (.rem d a b ty) s = puts (r (S x) (S y)) ∧
    exec (.remn d a b ty) s = puts (r (N x) (N y))

/-- The bitwise instructions, shifts and rotates complete; a count is taken modulo the width (R39). CLZ, CTZ, POP and
BSWAP complete, and so do the comparisons (R39). -/
def Obligations.BitwiseAndComparisonsComplete : Prop :=
  (∀ (s : State) (t : Thread) (d a b : RegNum) (ty : Ty) (x y : Reg),
     ty.isInt = true → Issues s t → t.holds a x → t.holds b y → t.takes d →
     let w := ty.width
     let n := (scalar y).toNat % w
     let p := x.toNat % 2 ^ w
     let q := y.toNat % 2 ^ w
     let puts (v : Int) : Host.Outcome State Fault Refusal := .next (s.commit (t.setReg d (putTy ty v)).adv)
     exec (.and d a b ty) s = puts (p &&& q : Nat) ∧
     exec (.or d a b ty) s = puts (p ||| q : Nat) ∧
     exec (.xor d a b ty) s = puts (p ^^^ q : Nat) ∧
     exec (.andn d a b ty) s = puts (p &&& (2 ^ w - 1 - q) : Nat) ∧
     exec (.orn d a b ty) s = puts (p ||| (2 ^ w - 1 - q) : Nat) ∧
     exec (.shl d a b ty) s = puts (opnd w ty.isSigned x * 2 ^ n) ∧
     exec (.shr d a b ty) s = puts (p / 2 ^ n : Nat) ∧
     exec (.sra d a b ty) s = puts (opnd w true x / 2 ^ n) ∧
     exec (.rol d a b ty) s = puts (p * 2 ^ n + p / 2 ^ (w - n) : Nat) ∧
     exec (.ror d a b ty) s = puts (p / 2 ^ n + p * 2 ^ (w - n) : Nat)) ∧
  (∀ (s : State) (t : Thread) (d a b : RegNum) (ty : Ty) (x y : Reg),
     ty.isInt = true → Issues s t → t.holds a x → t.holds b y → t.takes d →
     let w := ty.width
     let p := x.toNat % 2 ^ w
     let T (r : Reg) : Int := opnd w ty.isSigned r
     let S (r : Reg) : Int := opnd w true r
     let N (r : Reg) : Int := opnd w false r
     let puts (v : Int) : Host.Outcome State Fault Refusal := .next (s.commit (t.setReg d (putTy ty v)).adv)
     (∃ n : Nat, exec (.clz d a ty) s = puts n ∧ n ≤ w ∧ p < 2 ^ (w - n) ∧ (n < w → 2 ^ (w - n - 1) ≤ p)) ∧
     (∃ n : Nat, exec (.ctz d a ty) s = puts n ∧ n ≤ w ∧ 2 ^ n ∣ p ∧ (n < w → p.testBit n = true)) ∧
     exec (.pop d a ty) s = puts ((List.range w).filter fun i => x.getLsbD i).length ∧
     (∃ v : Nat, exec (.bswap d a ty) s = puts v ∧ v < 2 ^ w ∧
       ∀ i < w / 8, v / 256 ^ i % 256 = p / 256 ^ (w / 8 - 1 - i) % 256) ∧
     exec (.seq d a b ty) s = puts (if T x = T y then 1 else 0) ∧
     exec (.sne d a b ty) s = puts (if T x = T y then 0 else 1) ∧
     exec (.slt d a b ty) s = puts (if S x < S y then 1 else 0) ∧
     exec (.sle d a b ty) s = puts (if S x ≤ S y then 1 else 0) ∧
     exec (.sltn d a b ty) s = puts (if N x < N y then 1 else 0) ∧
     exec (.slen d a b ty) s = puts (if N x ≤ N y then 1 else 0))

/-- EXT and INS move a bit field; SXT and ZXT write 64 bits extended from 8, 16 or 32 (R41, R42). The IMM instructions
complete, with the immediate extended as R43's table says. -/
def Obligations.FieldsAndImmediatesComplete : Prop :=
  (∀ (s : State) (t : Thread) (d a b : RegNum) (ty : Ty) (pos len : BitVec 6) (x y : Reg),
     ty.isInt = true → fieldFits ty pos len = true → Issues s t → t.holds a x → t.holds b y → t.takes d →
     let n := if len = 0 then 64 else len.toNat
     let puts (v : Int) : Host.Outcome State Fault Refusal := .next (s.commit (t.setReg d (putTy ty v)).adv)
     let word (v : Word) : Host.Outcome State Fault Refusal := .next (s.commit (t.setReg d (v.zeroExtend 512)).adv)
     exec (.ext d a ty pos len) s =
       puts (if ty.isSigned then sgn n (x.toNat / 2 ^ pos.toNat % 2 ^ n) else (x.toNat / 2 ^ pos.toNat % 2 ^ n : Nat)) ∧
     (∃ v : Nat, exec (.ins d a b ty pos len) s = puts v ∧ v < 2 ^ ty.width ∧
       ∀ i < ty.width, v.testBit i =
         if pos.toNat ≤ i ∧ i < pos.toNat + n then x.getLsbD (i - pos.toNat) else y.getLsbD i) ∧
     exec (.sxt8 d a) s = word ((x.extractLsb' 0 8).signExtend 64) ∧
     exec (.sxt16 d a) s = word ((x.extractLsb' 0 16).signExtend 64) ∧
     exec (.sxt32 d a) s = word ((x.extractLsb' 0 32).signExtend 64) ∧
     exec (.zxt8 d a) s = word ((x.extractLsb' 0 8).zeroExtend 64) ∧
     exec (.zxt16 d a) s = word ((x.extractLsb' 0 16).zeroExtend 64) ∧
     exec (.zxt32 d a) s = word ((x.extractLsb' 0 32).zeroExtend 64)) ∧
  (∀ (s : State) (t : Thread) (d a : RegNum) (ty : Ty) (imm : BitVec 32) (cnt : BitVec 6) (x : Reg),
     ty.isInt = true → Issues s t → t.holds a x → t.takes d →
     let w := ty.width
     let T : Int := opnd w ty.isSigned x
     let p := x.toNat % 2 ^ w
     let n := cnt.toNat % w
     let puts (v : Int) : Host.Outcome State Fault Refusal := .next (s.commit (t.setReg d (putTy ty v)).adv)
     exec (.addi d a ty imm) s = puts (T + imm.toInt) ∧
     exec (.muli d a ty imm) s = puts (T * imm.toInt) ∧
     exec (.andi d a ty imm) s = puts (p &&& imm.toNat : Nat) ∧
     exec (.ori d a ty imm) s = puts (p ||| imm.toNat : Nat) ∧
     exec (.xori d a ty imm) s = puts (p ^^^ imm.toNat : Nat) ∧
     exec (.shli d a ty cnt) s = puts (T * 2 ^ n) ∧
     exec (.shri d a ty cnt) s = puts (p / 2 ^ n : Nat) ∧
     exec (.srai d a ty cnt) s = puts (opnd w true x / 2 ^ n) ∧
     exec (.slti d a ty imm) s = puts (if opnd w true x < imm.toInt then 1 else 0) ∧
     exec (.sltni d a ty imm) s = puts (if p < imm.toNat then 1 else 0) ∧
     exec (.seqi d a ty imm) s = puts (if (imm.signExtend 64).toNat % 2 ^ w = p then 1 else 0) ∧
     exec (.movi d ty imm) s = puts imm.toInt ∧
     exec (.movhi d a imm) s = .next (s.commit (t.setReg d ((imm ++ x.extractLsb' 0 32).zeroExtend 512)).adv))

/-! ## BRANCH, JUMP and THREAD -/

/-- Every branch completes: taken under its condition on the 64-bit values, it adds eight times the displacement to
the program counter, else 8; DBNZ writes the decremented value and CALL the return offset (R44). -/
def Obligations.BranchesComplete : Prop :=
  ∀ (s : State) (t : Thread) (a b l : RegNum) (hint : Hint) (disp : BitVec 29) (x y : Reg),
    Issues s t → t.holds a x → t.holds b y → t.takes l →
    let p := x.extractLsb' 0 64
    let q := y.extractLsb' 0 64
    let goes (u : Thread) (c : Prop) [Decidable c] : Host.Outcome State Fault Refusal :=
      .next (s.commit { u with pc := if c then t.pc + 8 * disp.signExtend 64 else t.pc + 8 })
    exec (.br hint disp) s = goes t True ∧
    exec (.beq a b hint disp) s = goes t (p = q) ∧
    exec (.bne a b hint disp) s = goes t (p ≠ q) ∧
    exec (.blt a b hint disp) s = goes t (p.toInt < q.toInt) ∧
    exec (.bge a b hint disp) s = goes t (q.toInt ≤ p.toInt) ∧
    exec (.bltn a b hint disp) s = goes t (p.toNat < q.toNat) ∧
    exec (.bgen a b hint disp) s = goes t (q.toNat ≤ p.toNat) ∧
    exec (.bz a hint disp) s = goes t (p = 0) ∧
    exec (.bnz a hint disp) s = goes t (p ≠ 0) ∧
    exec (.dbnz a hint disp) s = goes (t.setReg a ((p - 1).zeroExtend 512)) (p - 1 ≠ 0) ∧
    exec (.call l hint disp) s = goes (t.setReg l ((t.pc + 8).zeroExtend 512)) True

/-- JMP and CALLR go to the register's value plus eight times the displacement, CALLR forming the target before it
writes the link; a target that is no multiple of 8 traps ALIGN with no effect (R45, R46). -/
def Obligations.JumpsCompleteOrTrapAlign : Prop :=
  ∀ (s : State) (t : Thread) (a l : RegNum) (hint : Hint) (disp : BitVec 29) (x : Reg),
    Issues s t → t.holds a x → t.takes l →
    let target := x.extractLsb' 0 64 + 8 * disp.signExtend 64
    (target.extractLsb' 0 3 = 0 →
      exec (.jmp a hint disp) s = .next (s.commit { t with pc := target }) ∧
      exec (.callr l a hint disp) s =
        .next (s.commit { t.setReg l ((t.pc + 8).zeroExtend 512) with pc := target })) ∧
    (target.extractLsb' 0 3 ≠ 0 →
      exec (.jmp a hint disp) s = .next (takeTrap s t (.plain 0x06 target)) ∧
      exec (.callr l a hint disp) s = .next (takeTrap s t (.plain 0x06 target)))

/-- NOP steps past itself; YIELD gives up the slot's next own turn; PAUSE parks until its count of cycles, PAUSE 0
acting as NOP; VOID makes a register absent and open, and is without effect on one that is open already; END
closes a non-empty open batch, once it is not a ninth outstanding, and parks the thread on its drain (R47 to R51,
R222). -/
def Obligations.ThreadControlCompletes : Prop :=
  ∀ (s : State) (t : Thread) (d : RegNum) (imm : BitVec 27),
    Issues s t → t.takes d →
    exec .nop s = .next (s.commit t.adv) ∧
    (∃ n : Nat, exec .yield s = .next (s.commit { t with yielded := some n }.adv) ∧
      s.runCount t.id.core.toNat < n ∧ n ≤ s.runCount t.id.core.toNat + 16 ∧ n % 16 = t.id.slot / 4) ∧
    exec (.pause 0) s = .next (s.commit t.adv) ∧
    (imm ≠ 0 → exec (.pause imm) s =
      .next (s.setThread { t with state := .parked, wait := .pause (s.cyc + imm.toNat) })) ∧
    ((t.entry d).pres = .opened → exec (.void d) s = .next (s.commit t.adv)) ∧
    ((t.entry d).pres ≠ .opened → ∃ l, exec (.void d) s =
      .next (s.commit { t.setPres d .opened with voids := (s.cyc, d) :: l }.adv)) ∧
    (t.batchOps = 0 → exec .endT s = .next (s.setThread { t with state := .parked, wait := .endDrain })) ∧
    (t.batchOps ≠ 0 → (∀ o ∈ s.opsOf t, (t.nextBatch + 1 - o.batch).toNat ≤ 8) → exec .endT s =
      .next (s.setThread { t with
        nextBatch := t.nextBatch + 1, batchOps := 0, reopen := t.batchOps, state := .parked, wait := .endDrain })) ∧
    (t.batchOps ≠ 0 → (∃ o ∈ s.opsOf t, 8 < (t.nextBatch + 1 - o.batch).toNat) → exec .endT s =
      .next (s.setThread { t with state := .parked, wait := .commitFull }))

/-- ADD with a register outside the window traps WINDOW, whose %tinfo names the first such register and the window
size; with an absent source, or an awaiting destination, it parks until that register is present, and with a
poisoned source it traps POISON (R5, R7, R292). That the registers are looked at in the order of their fields, and
an awaiting destination after the sources, is the model's reading (DEDUCED, log 33). An instruction that names a
register outside the window traps WINDOW and has no effect; %tinfo holds the first such register's number and the
window size (R5). -/
def Obligations.RegisterStops : Prop :=
  (∀ (s : State) (t : Thread) (d a b : RegNum) (ty : Ty), Issues s t →
     (∀ l r m, [d, a, b] = l ++ r :: m → (∀ q ∈ l, q.toNat < t.win) → t.win ≤ r.toNat →
       exec (.add d a b ty) s = .next (takeTrap s t (.plain 0x03 (BitVec.ofNat 64 (r.toNat + 256 * t.win))))) ∧
     (d.toNat < t.win → a.toNat < t.win → b.toNat < t.win →
       ((t.entry a).pres ≠ .present →
         exec (.add d a b ty) s = .next (s.setThread { t with state := .parked, wait := .reg a })) ∧
       ((t.entry a).pres = .present → (t.entry a).poison = true →
         exec (.add d a b ty) s = .next (takeTrap s t (.plain 0x0E (0x8000000000000000#64 ||| a.zeroExtend 64)))) ∧
       (∀ x, t.holds a x → (t.entry b).pres ≠ .present →
         exec (.add d a b ty) s = .next (s.setThread { t with state := .parked, wait := .reg b })) ∧
       (∀ x, t.holds a x → (t.entry b).pres = .present → (t.entry b).poison = true →
         exec (.add d a b ty) s = .next (takeTrap s t (.plain 0x0E (0x8000000000000000#64 ||| b.zeroExtend 64)))) ∧
       (∀ x y, t.holds a x → t.holds b y → (t.entry d).pres = .awaiting →
         exec (.add d a b ty) s = .next (s.setThread { t with state := .parked, wait := .reg d })))) ∧
  (∀ (i : Instr) (p q ds : List RegNum) (r : RegNum) (k : Option KReg) (s : State) (t : Thread),
     regOps i = some (p ++ r :: q, ds, k) → Issues s t → (∀ x ∈ p, x.toNat < t.win) → t.win ≤ r.toNat →
     exec i s = .next (takeTrap s t (.plain 0x03 (BitVec.ofNat 64 (r.toNat + 256 * t.win)))))

/-! ## VINT, VFP, VPERM and CONV -/

/-- Elements of a masked result: beyond lane 0 of a scalar form zero; where the mask has its bit, the result; else
zero under Z and the old element otherwise (R108, R109). -/
def Obligations.MaskedElementsFollowMask : Prop :=
  ∀ (k : Word) (z sl : Bool) (old : Reg) (w : Nat) (res : Nat → Nat),
    w = 8 ∨ w = 16 ∨ w = 32 ∨ w = 64 →
    (∀ i < 512 / w, lane (masked k z sl old w (512 / w) res) w i =
      if sl = true ∧ i ≠ 0 then 0 else if k.getLsbD i = true then res i % 2 ^ w
      else if z = true then 0 else lane old w i) ∧
    ∀ (oldK : Word) (bit : Nat → Bool) (n i : Nat), n ≤ 64 → i < 64 →
      (maskBits k z sl oldK n bit).getLsbD i =
        (decide (i < n) && (if sl = true ∧ i ≠ 0 then false else if k.getLsbD i = true then bit i
          else if z = true then false else oldK.getLsbD i))

/-- The VINT instructions of two sources complete, element by element (R111). Vector shifts by a register's elements
or an immediate, the one-source instructions, VDOT4, VSEL and the comparisons complete (R111, R112). -/
def Obligations.VectorIntegersComplete : Prop :=
  (∀ (s : State) (t : Thread) (d a b : RegNum) (ty : Ty) (k : KReg) (z : Bool) (x y old : Reg),
     Issues s t → s.has t 0 → t.holds a x → t.holds b y → t.keeps d k z old →
     let w := ty.width
     let X (i : Nat) : Int := if ty.isSigned then sgn w (lane x w i) else (lane x w i : Int)
     let Y (i : Nat) : Int := if ty.isSigned then sgn w (lane y w i) else (lane y w i : Int)
     let lo : Int := if ty.isSigned then -(2 : Int) ^ (w - 1) else 0
     let hi : Int := if ty.isSigned then (2 : Int) ^ (w - 1) - 1 else (2 : Int) ^ w - 1
     let clamp (v : Int) : Int := if v < lo then lo else if hi < v then hi else v
     let each (f : Nat → Int) : Host.Outcome State Fault Refusal :=
       .next (s.commit (t.setReg d (masked (t.mask k) z false old w (512 / w) fun i => (f i % 2 ^ w).toNat)).adv)
     exec (.vadd d a b ty k z) s = each (fun i => X i + Y i) ∧
     exec (.vsub d a b ty k z) s = each (fun i => X i - Y i) ∧
     exec (.vmul d a b ty k z) s = each (fun i => X i * Y i) ∧
     exec (.vmulh d a b ty k z) s = each (fun i => X i * Y i / 2 ^ w) ∧
     exec (.vmin d a b ty k z) s = each (fun i => min (X i) (Y i)) ∧
     exec (.vmax d a b ty k z) s = each (fun i => max (X i) (Y i)) ∧
     exec (.vadds d a b ty k z) s = each (fun i => clamp (X i + Y i)) ∧
     exec (.vsubs d a b ty k z) s = each (fun i => clamp (X i - Y i)) ∧
     exec (.vand d a b ty k z) s = each (fun i => ((lane x w i &&& lane y w i : Nat) : Int)) ∧
     exec (.vor d a b ty k z) s = each (fun i => ((lane x w i ||| lane y w i : Nat) : Int)) ∧
     exec (.vxor d a b ty k z) s = each (fun i => ((lane x w i ^^^ lane y w i : Nat) : Int))) ∧
  (∀ (s : State) (t : Thread) (d a b c : RegNum) (dk : KReg) (ty : Ty) (imm : BitVec 6) (k : KReg) (z : Bool)
     (x y v old : Reg),
     Issues s t → s.has t 0 → t.holds a x → t.holds b y → t.holds c v → t.keeps d k z old → t.takes d →
     let w := ty.width
     let X (sg : Bool) (i : Nat) : Int := if sg then sgn w (lane x w i) else (lane x w i : Int)
     let Y (i : Nat) : Int := if ty.isSigned then sgn w (lane y w i) else (lane y w i : Int)
     let nb (i : Nat) := lane y w i % w
     let ni := imm.toNat % w
     let each (f : Nat → Int) : Host.Outcome State Fault Refusal :=
       .next (s.commit (t.setReg d (masked (t.mask k) z false old w (512 / w) fun i => (f i % 2 ^ w).toNat)).adv)
     let sets (f : Int → Int → Bool) : Host.Outcome State Fault Refusal :=
       .next (s.commit (t.setMask dk (maskBits (t.mask k) z false (t.mask dk) (512 / w)
         fun i => f (X ty.isSigned i) (Y i))).adv)
     exec (.vshl d a (.reg b) ty k z) s = each (fun i => X ty.isSigned i * 2 ^ nb i) ∧
     exec (.vshl d a (.imm imm) ty k z) s = each (fun i => X ty.isSigned i * 2 ^ ni) ∧
     exec (.vshr d a (.reg b) ty k z) s = each (fun i => X false i / 2 ^ nb i) ∧
     exec (.vshr d a (.imm imm) ty k z) s = each (fun i => X false i / 2 ^ ni) ∧
     exec (.vsra d a (.reg b) ty k z) s = each (fun i => X true i / 2 ^ nb i) ∧
     exec (.vsra d a (.imm imm) ty k z) s = each (fun i => X true i / 2 ^ ni) ∧
     exec (.vabs d a ty k z) s = each (fun i => if X ty.isSigned i < 0 then -(X ty.isSigned i) else X ty.isSigned i) ∧
     exec (.vneg d a ty k z) s = each (fun i => -(X ty.isSigned i)) ∧
     exec (.vcnt d a ty k z) s =
       each (fun i => (popBelow (wrap w (X ty.isSigned i)) w : Nat)) ∧
     exec (.vdot4 d a b c ty k z) s =
       .next (s.commit (t.setReg d (masked (t.mask k) z false old 32 16 fun i =>
         wrap 32 (slane v 32 ty.isSigned i +
           ((List.range 4).map fun j => slane x 8 ty.isSigned (4 * i + j) * slane y 8 ty.isSigned (4 * i + j)).sum))).adv) ∧
     exec (.vsel d a b ty k) s =
       .next (s.commit (t.setReg d (ofLanes w ((List.range (512 / w)).map fun i =>
         if (t.mask k).getLsbD i then lane x w i else lane y w i))).adv) ∧
     exec (.vcmpeq dk a b ty k z) s = sets (fun p q => decide (p = q)) ∧
     exec (.vcmpne dk a b ty k z) s = sets (fun p q => decide (p ≠ q)) ∧
     exec (.vcmplt dk a b ty k z) s = sets (fun p q => decide (p < q)) ∧
     exec (.vcmple dk a b ty k z) s = sets (fun p q => decide (p ≤ q)))

/-- The VFP arithmetic completes: every active element is the operation of its format under the rounding in effect, NV
is set where an active element sets it, and %status is otherwise kept (R16, R114, R116). -/
def Obligations.VectorFloatArithmeticCompletes : Prop :=
  ∀ (s : State) (t : Thread) (d a b c : RegNum) (ty : Ty) (k : KReg) (z sl : Bool) (rnd : Rnd) (x y v old : Reg),
    Issues s t → s.has t 0 → t.holds a x → t.holds b y → t.holds c v → t.keeps d k z old →
    let f := fmtX t.xs ty
    let rm := t.rounding rnd
    let X (i : Nat) := flane ty x i
    let Y (i : Nat) := flane ty y i
    let V (i : Nat) := flane ty v i
    let n := 512 / ty.width
    let each (r : Nat → FRes) : Host.Outcome State Fault Refusal :=
      .next (s.commit (((t.orNv ((List.range n).any fun i => active (t.mask k) sl i && (r i).nv)).setReg d
        (masked (t.mask k) z sl old ty.width n fun i => fput ty (r i).code)).adv))
    exec (.vfadd d a b ty k z sl rnd) s = each (fun i => f.addV rm (f.read (X i)) (f.read (Y i))) ∧
    exec (.vfsub d a b ty k z sl rnd) s = each (fun i => f.addV rm (f.read (X i)) (f.read (Y i)).neg) ∧
    exec (.vfmul d a b ty k z sl rnd) s = each (fun i => f.mulV rm (f.read (X i)) (f.read (Y i))) ∧
    exec (.vfdiv d a b ty k z sl rnd) s = each (fun i => f.divV rm (f.read (X i)) (f.read (Y i))) ∧
    exec (.vfma d a b c ty k z sl rnd) s = each (fun i => f.fmaV rm (f.read (X i)) (f.read (Y i)) (f.read (V i))) ∧
    exec (.vfms d a b c ty k z sl rnd) s = each (fun i => f.fmaV rm (f.read (X i)) (f.read (Y i)) (f.read (V i)).neg) ∧
    exec (.vfnma d a b c ty k z sl rnd) s = each (fun i => f.fmaV rm (f.read (X i)).neg (f.read (Y i)) (f.read (V i))) ∧
    exec (.vfsqrt d a ty k z sl rnd) s = each (fun i => f.sqrtV rm (f.read (X i))) ∧
    exec (.vfround d a ty k z sl rnd) s = each (fun i => f.roundV rm (f.read (X i))) ∧
    exec (.vfmin d a b ty k z sl) s = each (fun i => f.minmax false (X i) (Y i)) ∧
    exec (.vfmax d a b ty k z sl) s = each (fun i => f.minmax true (X i) (Y i)) ∧
    exec (.vfabs d a ty k z sl) s = each (fun i => signOp f false (X i)) ∧
    exec (.vfneg d a ty k z sl) s = each (fun i => signOp f true (X i))

/-- VFRCP, VFRSQ, VFEXP2 and VFLOG2 complete with one of the two values of the bracket that R117 allows for each
element; which one is a free value of the model (log 11). The VFP conversions and comparisons complete; VFCMPLT
and VFCMPLE set NV on every NaN, VFCMPEQ and VFCMPUN on signaling ones alone (R118, R119). -/
def Obligations.FloatConversionsAndComparisonsComplete : Prop :=
  (∀ (s : State) (t : Thread) (d a : RegNum) (ty : Ty) (k : KReg) (z sl : Bool) (x old : Reg),
     Issues s t → s.has t 0 → t.holds a x → t.keeps d k z old →
     let f := fmtX t.xs ty
     let n := 512 / ty.width
     let allowed (g : FVal → Bracket) (i : Instr) : Prop :=
       ∃ (s' : State) (r : Nat → Nat), s' = { s with free := s'.free } ∧
         (∀ j, r j = (g (f.read (flane ty x j))).lo ∨ r j = (g (f.read (flane ty x j))).hi) ∧
         exec i s = .next (s'.commit (((t.orNv ((List.range n).any fun j =>
             active (t.mask k) sl j && (g (f.read (flane ty x j))).nv)).setReg d
           (masked (t.mask k) z sl old ty.width n fun j => fput ty (r j))).adv))
     allowed f.rcpV (.vfrcp d a ty k z sl) ∧ allowed f.rsqV (.vfrsq d a ty k z sl) ∧
     allowed f.exp2V (.vfexp2 d a ty k z sl) ∧ allowed f.log2V (.vflog2 d a ty k z sl)) ∧
  (∀ (s : State) (t : Thread) (d a b : RegNum) (dk : KReg) (ty ty2 : Ty) (k : KReg) (z sl : Bool) (rnd : Rnd)
     (satc : SatC) (x y old : Reg),
     Issues s t → s.has t 0 → t.holds a x → t.holds b y → t.keeps d k z old →
     let f := fmtX t.xs ty
     let rm := t.rounding rnd
     let X (i : Nat) := flane ty x i
     let Y (i : Nat) := flane ty y i
     let n := 512 / max ty.width ty2.width
     let each (w : Nat) (put : Nat → Nat) (r : Nat → FRes) : Host.Outcome State Fault Refusal :=
       .next (s.commit (((t.orNv ((List.range n).any fun i => active (t.mask k) sl i && (r i).nv)).setReg d
         (masked (t.mask k) z sl old w n fun i => put (r i).code)).adv))
     let m := 512 / ty.width
     let nan (i : Nat) : Bool := (f.read (X i)).isNan || (f.read (Y i)).isNan
     let snan (i : Nat) : Bool := (f.read (X i)).isSnan || (f.read (Y i)).isSnan
     let sets (nv : Nat → Bool) (r : Nat → Bool) : Host.Outcome State Fault Refusal :=
       .next (s.commit (((t.orNv ((List.range m).any fun i => active (t.mask k) sl i && nv i)).setMask dk
         (maskBits (t.mask k) z sl (t.mask dk) m r)).adv))
     exec (.vfcvt d a ty ty2 k z sl rnd satc) s =
       each ty2.width (fput ty2) (fun i => (fmtX t.xs ty2).convert rm (t.saturates satc) (f.read (X i))) ∧
     exec (.vfcvti d a ty ty2 k z sl rnd) s = each ty2.width id (fun i => cvtInt ty2 rm (f.read (X i))) ∧
     exec (.vicvtf d a ty ty2 k z sl rnd) s =
       each ty.width (fput ty) (fun i => f.convert rm false (intVal (slane x ty2.width ty2.isSigned i))) ∧
     exec (.vfcmpeq dk a b ty k z sl) s = sets snan (fun i => !nan i && f.key (X i) == f.key (Y i)) ∧
     exec (.vfcmplt dk a b ty k z sl) s = sets nan (fun i => !nan i && f.lt (X i) (Y i)) ∧
     exec (.vfcmple dk a b ty k z sl) s = sets nan (fun i => !nan i && decide (f.key (X i) ≤ f.key (Y i))) ∧
     exec (.vfcmpun dk a b ty k z sl) s = sets snan nan)

/-- The VPERM moves complete: each element of the result is the named element of a source (R120); elements of f19 are
produced with their low 13 bits zero (R107), and the index lanes of VPERM.f19 and VPERM2.f19 are read whole
(DEDUCED, log 28). -/
def Obligations.PermutationsComplete : Prop :=
  ∀ (s : State) (t : Thread) (d a b c : RegNum) (ty : Ty) (imm : BitVec 6) (k : KReg) (z : Bool) (x y v old : Reg),
    Issues s t → s.has t 0 →
    let w := ty.width
    let n := 512 / w
    let low := if ty = .f19 then 2 ^ 13 else 1
    let X (i : Nat) := lane x w i / low * low
    let Y (i : Nat) := lane y w i / low * low
    let puts (r : Reg) : Host.Outcome State Fault Refusal := .next (s.commit (t.setReg d r).adv)
    let each (f : Nat → Nat) := puts (masked (t.mask k) z false old w n f)
    let all (f : Nat → Nat) := puts (ofLanes w ((List.range n).map f))
    let one (e : Nat) := puts (ofScalar (BitVec.ofInt 64 (if ty.isInt && ty.isSigned then sgn w e else (e : Int))))
    (t.holds a x → t.keeps d k z old →
      exec (.vsplat d a ty k z) s = each (fun _ => X 0) ∧
      exec (.vrot d a (.imm imm) ty k z) s = each (fun i => X ((i + imm.toNat % n) % n)) ∧
      (t.holds b y →
        exec (.vrot d a (.reg b) ty k z) s = each (fun i => X ((i + (scalar y).toNat % n) % n)) ∧
        exec (.vperm d a b ty k z) s = each (fun i => X (lane y w i % n)) ∧
        (t.holds c v → exec (.vperm2 d a b c ty k z) s = each (fun i =>
          if lane v w i % (2 * n) < n then X (lane v w i % (2 * n)) else Y (lane v w i % (2 * n) - n))))) ∧
    (t.holds a x → t.takes d →
      exec (.vextr d a (.imm imm) ty) s = one (X (imm.toNat % n)) ∧
      (t.holds b y → exec (.vextr d a (.reg b) ty) s = one (X ((scalar y).toNat % n)))) ∧
    (t.holds a x → t.holds d old →
      exec (.vinsr d a (.imm imm) ty) s = all (fun i => if i = imm.toNat % n then X 0 else lane old w i) ∧
      (t.holds b y → exec (.vinsr d a (.reg b) ty) s =
        all (fun i => if i = (scalar y).toNat % n then X 0 else lane old w i))) ∧
    (t.holds a x → (if z then t.takes d ∧ old = 0 else t.holds d old) →
      exec (.vcompr d a ty k z) s =
        all (fun i => match (selected (t.mask k) n)[i]? with | some j => X j | none => lane old w i) ∧
      exec (.vexpnd d a ty k z) s =
        all (fun i => if (t.mask k).getLsbD i then X (popBelow (t.mask k).toNat i) else lane old w i)) ∧
    (t.takes d → exec (.viota d ty k) s = all (fun i => popBelow (t.mask k).toNat i / low * low))

/-- The reductions complete over the elements that the mask selects; VFREDADD adds in the fixed pairwise tree with −0
for the others (R121). The mask instructions complete; k0 reads as all ones and a write to it is discarded (R9,
R122). -/
def Obligations.ReductionsAndMasksComplete : Prop :=
  (∀ (s : State) (t : Thread) (d a : RegNum) (ty : Ty) (k : KReg) (x : Reg),
     Issues s t → s.has t 0 → t.holds a x → t.takes d →
     let w := ty.width
     let n := 512 / w
     let f := fmtX t.xs ty
     let E := (selected (t.mask k) n).map fun i => slane x w ty.isSigned i
     let F := (selected (t.mask k) n).map fun i => flane ty x i
     let puts (r : Reg) : Host.Outcome State Fault Refusal := .next (s.commit (t.setReg d r).adv)
     let fputs (r : FRes) : Host.Outcome State Fault Refusal :=
       .next (s.commit ((t.orNv r.nv).setReg d (BitVec.ofNat 512 (fput ty r.code))).adv)
     exec (.vredadd d a ty k) s = puts (elemScalar ty (wrap w E.sum)) ∧
     exec (.vredmin d a ty k) s = puts (putTy ty (E.foldl min (intRange ty).2)) ∧
     exec (.vredmax d a ty k) s = puts (putTy ty (E.foldl max (intRange ty).1)) ∧
     exec (.vfredadd d a ty k) s = fputs (treeSum f (t.rounding .dflt) (Nat.log2 n) ((List.range n).map fun i =>
       if (t.mask k).getLsbD i then flane ty x i else f.signed true 0)) ∧
     exec (.vfredmin d a ty k) s = fputs (foldMinmax f false F) ∧
     exec (.vfredmax d a ty k) s = fputs (foldMinmax f true F)) ∧
  (∀ (s : State) (t : Thread) (d g : RegNum) (dk a b : KReg) (x : Reg),
     Issues s t → s.has t 0 → t.holds g x → t.takes d →
     let K (q : KReg) : Word := if q = 0 then BitVec.allOnes 64 else t.masks.getD (q.toNat - 1) 0
     let sets (v : Word) (o : Host.Outcome State Fault Refusal) : Prop :=
       o = .next (s.commit { t with masks := if dk = 0 then t.masks else t.masks.set (dk.toNat - 1) v }.adv)
     let puts (v : Word) : Host.Outcome State Fault Refusal := .next (s.commit (t.setReg d (v.zeroExtend 512)).adv)
     sets (K a &&& K b) (exec (.kand dk a b) s) ∧ sets (K a ||| K b) (exec (.kor dk a b) s) ∧
     sets (K a ^^^ K b) (exec (.kxor dk a b) s) ∧ sets (~~~(K a)) (exec (.knot dk a) s) ∧
     sets (x.extractLsb' 0 64) (exec (.kmov dk g) s) ∧
     exec (.kpop d a) s = puts (BitVec.ofNat 64 ((List.range 64).filter fun i => (K a).getLsbD i).length) ∧
     (∃ n : Nat, exec (.kfirst d a) s = puts (BitVec.ofNat 64 n) ∧ n ≤ 64 ∧ (∀ i < n, (K a).getLsbD i = false) ∧
       (n < 64 → (K a).getLsbD n = true)) ∧
     exec (.kmovg d a) s = puts (K a))

/-- CVTN and CVTW complete: the elements of the source registers, converted by their class pair, fill the destination
registers in order; elements that the mask leaves out are kept (R267, R268). -/
def Obligations.ConversionRunsComplete : Prop :=
  ∀ (s : State) (t : Thread) (d a : RegNum) (ty ty2 : Ty) (k : KReg) (rnd : Rnd) (satc : SatC)
    (l old : List Reg),
    Issues s t → s.has t 0 → t.holdsRun a l → t.keepsRun d k old →
    let w := ty2.width
    let per := 512 / w
    let res (i : Nat) : FRes :=
      convElem t ty ty2 rnd satc (lane (l.getD (i / (512 / ty.width)) 0) ty.width (i % (512 / ty.width)))
    let nv (n : Nat) : Bool := (List.range (n * per)).any fun i => (t.mask k).getLsbD i && (res i).nv
    let reg (j : Nat) (o : Reg) : Reg := ofLanes w ((List.range per).map fun i =>
      if (t.mask k).getLsbD (j * per + i) then fput ty2 (res (j * per + i)).code else lane o w i)
    (old.length = 1 → l.length = ty.width / ty2.width → 1 ≤ l.length →
      exec (.cvtn d a ty ty2 k rnd satc) s =
        .next (s.commit ((t.orNv (nv 1)).setRegs (regRun d 1) (old.mapIdx reg)).adv)) ∧
    (l.length = 1 → old.length = ty2.width / ty.width → 1 ≤ old.length →
      exec (.cvtw d a ty ty2 k rnd satc) s =
        .next (s.commit ((t.orNv (nv old.length)).setRegs (regRun d old.length) (old.mapIdx reg)).adv))

/-- QMX quantises 32 elements to one register with their scale, and DQMX takes such a register apart (R269). PLANE
lays 128 elements out in bit planes, and UNPLANE takes them back (R206, R270). -/
def Obligations.MxAndPlanesComplete : Prop :=
  (∀ (s : State) (t : Thread) (d a : RegNum) (ty ty2 : Ty) (rnd : Rnd) (satc : SatC) (l : List Reg) (x : Reg),
     Issues s t → s.has t 0 →
     (l.length = ty.width / 16 → 1 ≤ l.length → t.holdsRun a l → t.takes d →
       let f := fmtX t.xs ty
       let q := mxQuantise ty2 ((List.range 32).map fun i => f.read (runLane l ty.width i))
       exec (.qmx d a ty ty2) s =
         .next (s.commit ((t.orNv q.2.2).setReg d (ofLanes 8 (q.2.1 ++ [q.1]))).adv)) ∧
     (1 ≤ ty2.width / 16 → t.holds a x → t.takesRun d (ty2.width / 16) →
       let f := fmtX t.xs ty2
       let w := ty2.width
       let res (i : Nat) : FRes :=
         f.convert (t.rounding rnd) (t.saturates satc) ((mxCode ty (lane x 8 i)).scaled (lane x 8 32))
       exec (.dqmx d a ty ty2 rnd satc) s =
         .next (s.commit ((t.orNv ((List.range 32).any fun i => (res i).nv)).setRegs (regRun d (w / 16))
           ((List.range (w / 16)).map fun j => ofLanes w ((List.range (512 / w)).map fun i =>
             if j * (512 / w) + i < 32 then (res (j * (512 / w) + i)).code else 0))).adv))) ∧
  (∀ (s : State) (t : Thread) (d a : RegNum) (ty : Ty) (l : List Reg),
     Issues s t → s.has t 0 → t.holdsRun a l →
     let n := planeRun ty
     (l.length = 2 → t.takesRun d n →
       exec (.plane d a ty) s = .next (s.commit (t.setRegs (regRun d n) ((List.range n).map fun j =>
         BitVec.ofNat 512 (toPlanes (planeBits ty) ((List.range 128).map fun i => lane (l.getD (i / 64) 0) 8 (i % 64)) /
           2 ^ (512 * j)))).adv)) ∧
     (l.length = n → t.takesRun d 2 →
       exec (.unplane d a ty) s = .next (s.commit (t.setRegs (regRun d 2) ((List.range 2).map fun j =>
         ofLanes 8 ((List.range 64).map fun i =>
           fromPlanes (planeBits ty) (bytesNat (l.flatMap fun r => natBytes 64 r.toNat)) (64 * j + i)))).adv)))

/-! ## Frames, traps and privilege -/

/-- An instruction that works on registers alone, whether it completes, parks or traps, leaves memory, the system
registers and every other thread as they were, and of its own thread changes its destination registers, its
destination mask, NV, what a trap records and the program counter only; the thread has no THKILL of another under
way, which a trap would take back (R57). -/
def Obligations.RegisterInstructionsFrame : Prop :=
  ∀ (i : Instr) (l ds : List RegNum) (k : Option KReg) (s s' : State) (t : Thread),
    regOps i = some (l, ds, k) → s.thread? s.cur = some t → s.killsOf t.id = [] → exec i s = .next s' →
    s.sameRest s' ∧ (∀ q, q ≠ t.id → s'.thread? q = s.thread? q) ∧
    ∃ t', s'.thread? t.id = some t' ∧ t.sameBut t' ds k

/-- An instruction that completes counts one in its region, and a count that reaches the region's cycle budget spends
it; once spent, NOP, and ADD whose registers lie in the window, whatever they hold, trap BUDGET with the RCB's
address and have no effect (R104). That BUDGET comes before a park and before the causes below it in R23's table
is the model's reading (DEDUCED, log 14). -/
def Obligations.SpentBudgetTraps : Prop :=
  ∀ (s : State) (t : Thread),
    (s.thread? s.cur = some t → s.spent t = true →
      exec .nop s = .next (takeTrap s t (.plain 0x0B t.rcb)) ∧
      ∀ (d a b : RegNum) (ty : Ty), d.toNat < t.win → a.toNat < t.win → b.toNat < t.win →
        exec (.add d a b ty) s = .next (takeTrap s t (.plain 0x0B t.rcb))) ∧
    ((∀ q r, tabGet q s.regions = some r → r.id = q) → ∀ r, s.region? t.regionId = some r →
      (s.commit t).region? t.regionId = some { r with
        count := r.count + 1,
        recent := (s.cyc, t.id) :: r.recent.filter fun p => s.cyc < p.1 + 64,
        spent := r.spent || (r.budget != BitVec.allOnes 64 && decide (r.budget.toNat ≤ r.count + 1)) })

/-- A trap sets %tcause, %tinfo and %tepc (the program counter of the instruction), leaves the registers, turns the
slot TRAPPED, and sends one message: to channel 1 of its domain's handler core, or to the firmware channel of the
domain for a trap of a thread that started on channel 1 or where no reachable handler core is set; a domain above
4,095 has entry 0's firmware channel (R21, R22, R275, R276, R311). A trap of an instruction further back, a
relaxed gather, is at that one (R191). The thread had nothing under way that the trap takes back: no message to be
accepted, no region's hold, no spill, no kill. -/
def Obligations.TrapEntry : Prop :=
  ∀ (s : State) (t : Thread) (i : TrapInfo), (∀ n c, t.wait ≠ .send n c ∧ t.wait ≠ .chset n c ∧ t.wait ≠ .region n c) →
    (∀ u c, t.wait ≠ .spilling u c) → s.killsOf t.id = [] → ∃ (t' : Thread) (m : Msg),
    let at' := i.pc.getD t.pc
    (takeTrap s t i).thread? t.id = some t' ∧ t'.state = .trapped ∧ t'.pc = at' ∧ t'.regs = t.regs ∧
    t'.masks = t.masks ∧ t'.segs = t.segs ∧
    t'.sp = { t.sp with
      tcause := 0#46 ++ i.miss ++ BitVec.ofBool i.wr ++ i.seg ++ i.code, tinfo := i.info, tepc := at' } ∧
    (∀ q, q ≠ t.id → (takeTrap s t i).thread? q = s.thread? q) ∧
    (takeTrap s t i).mem = s.mem ∧ (takeTrap s t i).mesh = s.mesh ++ [m] ∧
    m.src = some t.id ∧ m.domain = t.dom ∧
    m.body = .trap (ofWords [t.id.zeroExtend 64, 0#46 ++ i.miss ++ BitVec.ofBool i.wr ++ i.seg ++ i.code, i.info, at',
      BitVec.ofNat 64 (t.regionId + 2 ^ 32 * t.dom.toNat), t.rcb, BitVec.ofNat 64 s.cyc, 0]) ∧
    (t.chan1 = false → (s.domWord t.dom 0).getLsbD 11 = true →
      s.reachable ((s.domWord t.dom 0).extractLsb' 0 11).toNat = true →
      m.core = (s.domWord t.dom 0).extractLsb' 0 11 ∧ m.chan = 1) ∧
    ((t.chan1 = true ∨ (s.domWord t.dom 0).getLsbD 11 = false ∨
      s.reachable ((s.domWord t.dom 0).extractLsb' 0 11).toNat = false) →
      let w := if t.dom.toNat < 4096 then s.domWord t.dom 0 else s.domWord 0 0
      m.core = 0x400#11 + (w.extractLsb' 12 4).zeroExtend 11 ∧ m.chan = w.extractLsb' 16 5)

/-! ## Memory -/

/-- An ordinary LD zero-extends and LDS sign-extends the element at its address, or loads 64 bytes; memory is that of
the translation. An aligned one of 8 bytes in base-die register space reads the register there (R331). A relaxed
one issues with its destination awaiting and its access outstanding (R52, R56). That an ordinary access takes
effect in its own step is the model’s choice (log 5). -/
def Obligations.LoadsComplete : Prop :=
  ∀ (s s1 : State) (t : Thread) (d base : RegNum) (g : SegReg) (off : BitVec 32) (size : MemSize) (b : Reg) (k : Nat),
    let n := sizeBytes size
    let e := b.extractLsb' 0 64 + off.signExtend 64
    Issues s t → t.holds base b → t.takes d → Reaches s t g e (.load n false) n s1 k →
    (s1.sound k n →
      exec (.ld d base g false off size) s =
        .next (s1.commit (t.setReg d (BitVec.ofNat 512 (s1.read k n))).adv) ∧
      exec (.lds d base g false off size) s =
        .next (s1.commit (t.setReg d (if n = 64 then BitVec.ofNat 512 (s1.read k n) else
          ((BitVec.ofNat (8 * n) (s1.read k n)).signExtend 64).zeroExtend 512)).adv)) ∧
    (n = 8 → paSpace k = 6 → poolOf k = none →
      exec (.ld d base g false off size) s =
        .next (s1.commit (t.setReg d ((s1.baseWord (paOff k)).zeroExtend 512)).adv) ∧
      exec (.lds d base g false off size) s =
        .next (s1.commit (t.setReg d ((s1.baseWord (paOff k)).zeroExtend 512)).adv)) ∧
    (∀ sx, exec (if sx then .lds d base g true off size else .ld d base g true off size) s =
        .next ((s1.addAccess (mkAccess s1 t g e (segBase (t.seg g) + e) (.load n sx) true (some d) (some k)
          .inFlight)).commit (t.setPres d .awaiting).adv))

/-- An ordinary ST writes the low bytes of its register, and reads back so; every word it touches becomes full, the
waiting accesses of those words settle, and with none waiting every other byte keeps its value. An aligned one of
8 bytes in base-die register space writes the register there: an APBASE register then reads as the bits stored,
its reserved ones zero, and memory is as it was (R331, R338). A relaxed one issues (R52, R55, R155). That an
ordinary access takes effect in its own step is the model’s choice (DESIGN CHOICE, log 5). -/
def Obligations.StoreCompletes : Prop :=
  ∀ (s s1 : State) (t : Thread) (d base : RegNum) (g : SegReg) (off : BitVec 32) (size : MemSize) (b x : Reg) (k : Nat),
    let n := sizeBytes size
    let e := b.extractLsb' 0 64 + off.signExtend 64
    Issues s t → t.holds base b → t.holds d x → Reaches s t g e (.store n x) n s1 k →
    (s1.sound k n → ∃ s2 : State,
      exec (.st d base g false off size) s = .next (s2.commit t.adv) ∧
      s2 = ((s1.write k n x.toNat).fillBits k n).settle k n ∧
      (s1.accs = [] → s1.memOk →
        s2.read k n = x.toNat % 2 ^ (8 * n) ∧
        (∀ j, j < k ∨ k + n ≤ j → memByte j s2.mem = memByte j s1.mem) ∧
        (∀ j, s2.full (8 * j) = (s1.full (8 * j) || (decide (k / 8 ≤ j) && decide (8 * j < k + n)))))) ∧
    (n = 8 → paSpace k = 6 → poolOf k = none →
      let s2 := s1.writeBaseWord (paOff k) (x.extractLsb' 0 64)
      exec (.st d base g false off size) s = .next (s2.commit t.adv) ∧
      ∀ i, i < 16 → paOff k = 0x2100 + 8 * i → s1.base.apbase.length = 16 →
        s2.baseWord (paOff k) = (x.extractLsb' 0 64 &&& 0x800F_FFFF_FFFE_0000) ∧ s2.mem = s1.mem) ∧
    exec (.st d base g true off size) s =
      .next ((s1.addAccess (mkAccess s1 t g e (segBase (t.seg g) + e) (.store n x) true none (some k)
        .inFlight)).commit t.adv)

/-- The checks of a load or a store come in one order: the limit and the address map trap SEGLIMIT, then a missing
right SEGRIGHTS with the missing rights, then a misaligned offset ALIGN; %tinfo is the effective offset (R11). -/
def Obligations.AccessChecksTrapInOrder : Prop :=
  ∀ (s : State) (t : Thread) (d base : RegNum) (g : SegReg) (rel : Bool) (off : BitVec 32) (size : MemSize) (b x : Reg),
    let n := sizeBytes size
    let e := b.extractLsb' 0 64 + off.signExtend 64
    let inside := e.toNat + n ≤ segLimit (t.seg g) ∧ s.dvaOk (segBase (t.seg g) + e) n = true
    let trap (code : BitVec 8) (wr : Bool) (miss : BitVec 6) : Host.Outcome State Fault Refusal :=
      .next (takeTrap s t { code := code, info := e, seg := g, wr := wr, miss := miss })
    Issues s t → t.holds base b →
    (t.takes d →
      (¬ inside → exec (.ld d base g rel off size) s = trap 0x04 false 0) ∧
      (inside → (t.seg g).getLsbD 113 = false → exec (.ld d base g rel off size) s = trap 0x05 false 0b000001) ∧
      (inside → (t.seg g).getLsbD 113 = true → e.toNat % n ≠ 0 →
        exec (.ld d base g rel off size) s = trap 0x06 false 0)) ∧
    (t.holds d x →
      (¬ inside → exec (.st d base g rel off size) s = trap 0x04 true 0) ∧
      (inside → (t.seg g).getLsbD 114 = false → exec (.st d base g rel off size) s = trap 0x05 true 0b000010) ∧
      (inside → (t.seg g).getLsbD 114 = true → e.toNat % n ≠ 0 →
        exec (.st d base g rel off size) s = trap 0x06 true 0))

/-- LEA gives the base plus the effective offset; SEGRD gives a descriptor's 128 bits; SEGNAR narrows a descriptor to
an offset and a length inside it and masks its rights (R54, R61, R62). SEGLD loads a valid descriptor from the
table of the thread's domain, at the index its register and immediate give, below the table's count, with no
relaxed access of the thread outstanding (R56, R60). -/
def Obligations.SegmentInstructionsComplete : Prop :=
  (∀ (s : State) (t : Thread) (d base : RegNum) (g h : SegReg) (off : BitVec 32) (rights : BitVec 6) (b : Reg),
     Issues s t → t.holds base b →
     (let e := b.extractLsb' 0 64 + off.signExtend 64
      t.takes d → e.toNat ≤ segLimit (t.seg g) → (segBase (t.seg g) + e).toNat < 2 ^ 53 →
       (e.toNat < segLimit (t.seg g) → s.dvaOk (segBase (t.seg g) + e) 1 = true) →
       exec (.lea d base g off) s = .next (s.commit
         (t.setReg d ((segBase (t.seg g) + e).zeroExtend 512)).adv)) ∧
     (t.takes d → exec (.segrd d g) s = .next (s.commit (t.setReg d ((t.seg g).zeroExtend 512)).adv)) ∧
     ((h ≠ 0 ∨ t.level = 2) →
       (b.extractLsb' 0 64).toNat + (b.extractLsb' 64 64).toNat ≤ segLimit (t.seg g) →
       (segBase (t.seg g) + b.extractLsb' 0 64).toNat < 2 ^ 53 → b.extractLsb' 0 6 = 0 →
       exec (.segnar h g base rights) s = .next (s.commit (t.setSeg h
         (0#9 ++ (segRights (t.seg g) &&& rights) ++ b.extractLsb' 64 49 ++ (segBase (t.seg g) + b.extractLsb' 0 64))).adv)) ∧
     (t.level ≠ 2 → exec (.segnar 0 g base rights) s = .next (takeTrap s t (.plain 0x02 s.word)) ∧
       exec (.segld 0 base 0) s = .next (takeTrap s t (.plain 0x02 s.word)))) ∧
  (∀ (s s1 : State) (t : Thread) (d : SegReg) (a : RegNum) (imm : BitVec 27) (x : Reg) (k : Nat),
     let i := x.extractLsb' 0 64 + imm.signExtend 64
     Issues s t → t.holds a x → (d ≠ 0 ∨ t.level = 2) →
     i.toNat < ((s.domWord t.dom 3).extractLsb' 0 32).toNat →
     s.relaxedOf t.id = [] → s1.relaxedOf t.id = [] →
     s.route (clusterOf t.id.core.toNat) t.dom (s.domWord t.dom 2 + 16 * i) false false = (s1, .bank k) →
     s1.sound k 16 → segValid (BitVec.ofNat 128 (s1.read k 16)) = true →
     exec (.segld d a imm) s = .next (s1.commit (t.setSeg d (BitVec.ofNat 128 (s1.read k 16))).adv))

/-- Translating an address of a pool window changes nothing and gives the window's own byte; elsewhere, with nothing
outstanding, it changes memory at the page-table entry found alone (R149, R279). -/
def Obligations.TranslationFrame : Prop :=
  ∀ (s : State) (cl : Nat) (d : BitVec 32) (a : Word) (wr sync : Bool),
    (poolBase ≤ a.toNat → s.route cl d a wr sync = (s, .bank a.toNat)) ∧
    (s.accs = [] → s.memOk →
      let s1 := (s.route cl d a wr sync).1
      s1 = { s with mem := s1.mem, empties := s1.empties, tlb := s1.tlb, free := s1.free } ∧
      (∀ m, (s.lookup cl d a.toNat).2 = .error m → s1.mem = s.mem ∧ s1.empties = s.empties) ∧
      (∀ l, (s.lookup cl d a.toNat).2 = .ok l →
        ∀ j, j < l.pte ∨ l.pte + 8 ≤ j → memByte j s1.mem = memByte j s.mem))

/-! ## Full/empty words and atomics -/

/-- A full/empty form whose condition holds does its bank step: LDW needs full words, LDC takes them and leaves them
empty, STF needs empty words and leaves them full, STE writes and leaves them empty, FESET sets the bits and FEGET
reads them, WAITV needs another value. A form that can wait refills %febudget to 64 (R152, R158, R182 to R184). A
full/empty form whose condition does not hold leaves memory and its bits alone and parks the thread; the access is
kept at the bank, and the thread's %febudget is refilled where the bank keeps it (R152, R154, R158). That an
ordinary access takes effect in its own step is the model’s choice (DESIGN CHOICE, log 5). -/
def Obligations.FullEmptyForms : Prop :=
  (∀ (s s1 : State) (t : Thread) (d base : RegNum) (g : SegReg) (off : BitVec 32) (v : Bool) (b x : Reg) (k : Nat),
     let n := if v then 64 else 8
     let e := b.extractLsb' 0 64 + off.signExtend 64
     let u : Thread := { t with sp := { t.sp with febudget := 64 } }
     Issues s t → t.holds base b → s1.sound k n → s1.accs = [] →
     (t.takes d →
       (Reaches s t g e (.ldw v) n s1 k → s1.allFull k n = true →
         exec (.ldw d base g off v) s = .next (s1.commit (u.setReg d (BitVec.ofNat 512 (s1.read k n))).adv)) ∧
       (Reaches s t g e (.ldc v) n s1 k → s1.allFull k n = true →
         exec (.ldc d base g off v) s =
           .next ((s1.setBits k n false).commit (u.setReg d (BitVec.ofNat 512 (s1.read k n))).adv)) ∧
       (Reaches s t g e (.feget v) n s1 k →
         exec (.feget d base g off v) s = .next (s1.commit (t.setReg d (BitVec.ofNat 512 (s1.bits k n))).adv))) ∧
     (t.holds d x →
       (Reaches s t g e (.stf v x) n s1 k → s1.allEmpty k n = true →
         exec (.stf d base g off v) s = .next (((s1.write k n x.toNat).setBits k n true).commit u.adv)) ∧
       (Reaches s t g e (.ste v x) n s1 k →
         exec (.ste d base g off v) s = .next (((s1.write k n x.toNat).setBits k n false).commit t.adv)) ∧
       (Reaches s t g e (.feset v x) n s1 k →
         exec (.feset d base g off v) s = .next ((s1.setBitsFrom k n x.toNat).commit t.adv)) ∧
       (Reaches s t g e (.waitv v x) n s1 k → s1.read k n ≠ x.toNat % 2 ^ (8 * n) →
         exec (.waitv d base g off v) s = .next (s1.commit u.adv)))) ∧
  (∀ (s s1 : State) (t : Thread) (d base : RegNum) (g : SegReg) (off : BitVec 32) (v : Bool) (b x : Reg) (k : Nat),
     let n := if v then 64 else 8
     let e := b.extractLsb' 0 64 + off.signExtend 64
     let waits (i : Instr) (f : Form) (r : Option RegNum) : Prop := ∃ s2 u a,
       exec i s = .next s2 ∧ s2.mem = s1.mem ∧ s2.empties = s1.empties ∧ s2.accs = [a] ∧ a.stage = .skerry ∧
       a.key = some k ∧ a.form = f ∧ a.t = t.id ∧ s2.thread? t.id = some u ∧
       u = { t with sp := { t.sp with febudget := 64 }, state := .parked, wait := .access r 0 }
     Issues s t → t.holds base b → s1.sound k n → s1.accs = [] →
     (t.takes d →
       (Reaches s t g e (.ldw v) n s1 k → s1.allFull k n = false → waits (.ldw d base g off v) (.ldw v) (some d)) ∧
       (Reaches s t g e (.ldc v) n s1 k → s1.allFull k n = false → waits (.ldc d base g off v) (.ldc v) (some d))) ∧
     (t.holds d x →
       (Reaches s t g e (.stf v x) n s1 k → s1.allEmpty k n = false → waits (.stf d base g off v) (.stf v x) none) ∧
       (Reaches s t g e (.waitv v x) n s1 k → s1.read k n = x.toNat % 2 ^ (8 * n) →
         waits (.waitv d base g off v) (.waitv v x) none)))

/-- An atomic of 4 or 8 bytes returns the old value and writes the operation's: sum, logic, signed or unsigned
extreme, the operand, or the new value where the old equals the operand; its words become full (R185, R186). That
an ordinary access takes effect in its own step is the model’s choice (DESIGN CHOICE, log 5). So is that it is
performed alone, combined with no other (log 12). -/
def Obligations.AtomicsComplete : Prop :=
  ∀ (s s1 : State) (t : Thread) (d base new : RegNum) (g : SegReg) (off : BitVec 32) (offc : BitVec 25) (dbl : Bool)
    (b x y : Reg) (k : Nat),
    let n := if dbl then 8 else 4
    let e := b.extractLsb' 0 64 + off.signExtend 64
    let old := BitVec.ofNat (8 * n) (s1.read k n)
    let p : BitVec (8 * n) := x.extractLsb' 0 (8 * n)
    let gives (i : Instr) (v : BitVec (8 * n)) : Prop :=
      exec i s = .next (((s1.write k n v.toNat).fillBits k n).commit (t.setReg d (BitVec.ofNat 512 (s1.read k n))).adv)
    Issues s t → t.holds base b → t.holds d x → s1.sound k n → s1.accs = [] →
    (Reaches s t g e (.atom .add n (x.extractLsb' 0 64) 0) n s1 k →
      gives (.aadd d base g off dbl) (old + p) ∧
      gives (.aand d base g off dbl) (old &&& p) ∧
      gives (.aor d base g off dbl) (old ||| p) ∧
      gives (.axor d base g off dbl) (old ^^^ p) ∧
      gives (.amin d base g off dbl) (if old.toInt ≤ p.toInt then old else p) ∧
      gives (.amax d base g off dbl) (if old.toInt ≤ p.toInt then p else old) ∧
      gives (.aminn d base g off dbl) (if old.toNat ≤ p.toNat then old else p) ∧
      gives (.amaxn d base g off dbl) (if old.toNat ≤ p.toNat then p else old) ∧
      gives (.aswp d base g off dbl) p ∧
      gives (.afadd d base g off dbl) (BitVec.ofNat (8 * n) (bankFadd n old.toNat p.toNat))) ∧
    (t.holds new y →
      Reaches s t g (b.extractLsb' 0 64 + offc.signExtend 64) (.atom .cas n (x.extractLsb' 0 64) (y.extractLsb' 0 64)) n s1 k →
      gives (.acas d base new g offc dbl) (if old = p then y.extractLsb' 0 (8 * n) else old))

/-! ## Gathers and fences -/

/-- A gather whose elements all lie in the thread's own pool, with nothing outstanding, performs them in index order
at its issue: GLD and GLDW lay the loaded elements over the old register, GST stores, GADD and GFADD add; an
out-of-bounds element takes %fill and accesses nothing (R189 to R191). That its elements take effect in its own
step is the model’s choice (log 5). -/
def Obligations.GathersComplete : Prop :=
  ∀ (s : State) (t : Thread) (f : GForm) (b idx : Reg),
    let w := gatherBits f
    let n := w / 8
    let dva (i : Nat) : Word := segBase (t.seg f.seg) + gatherOffset f b idx i
    let l := gatherElems f t idx
    let ends (i : Instr) (m : List Host.Cell) (u : Thread) : Prop := ∃ s2,
      exec i s = .next s2 ∧ s2.mem = m ∧ s2.accs = [] ∧ s2.poisoned = s.poisoned ∧ s2.thread? t.id = some u
    let laid (old : Reg) : Reg := ofLanes w ((List.range (512 / w)).map fun i =>
      if i ∈ l then s.read (dva i).toNat n else lane (gatherBase f t idx old) w i)
    let stored (x : Reg) (new : Nat → Nat → Nat) : List Host.Cell := l.foldl (fun m i =>
      memWrite m (dva i).toNat (natBytes n (new (memNat m (dva i).toNat n) (lane x w i)))) s.mem
    Issues s t → t.wait = .none → t.holds f.base b → t.holds f.idx idx → f.rel = false → t.spec = none →
    s.accs = [] → s.slow = false →
    (∀ i ∈ l, s.dvaOk (dva i) n = true ∧ (gatherOffset f b idx i).toNat + n ≤ segLimit (t.seg f.seg) ∧
      (gatherOffset f b idx i).toNat % n = 0 ∧ (poolOf (dva i).toNat).map (·.1) = some t.id.core.toNat ∧
      ∀ q ∈ wordsOf (dva i).toNat n, s.bad q = false) →
    (∀ old, t.keeps f.d f.k false old → (t.seg f.seg).getLsbD 113 = true →
      ends (.gld f) s.mem (t.setReg f.d (laid old)).adv ∧
      (f.ew = 3 → (t.seg f.seg).getLsbD 116 = true → (∀ i ∈ l, s.full (dva i).toNat = true) →
        ends (.gldw f) s.mem ((if l = [] then t else
          { t with sp := { t.sp with febudget := 64 } }).setReg f.d (laid old)).adv)) ∧
    (∀ x, t.holds f.d x → (t.seg f.seg).getLsbD 114 = true →
      ends (.gst f) (stored x fun _ v => v) t.adv ∧
      ((t.seg f.seg).getLsbD 113 = true → (t.seg f.seg).getLsbD 116 = true →
        ends (.gadd f) (stored x fun o v => (o + v) % 2 ^ w) t.adv ∧
        ends (.gfadd f) (stored x (bankFadd n)) t.adv))

/-- FENCE completes when no relaxed access of its scope is outstanding (and, with .E, no copy and no committed engine
operation); IFENCE when no relaxed store is: it empties the core's instruction cache, after it the thread fetches
no word that any cache had held before, and the core's other threads may go on fetching those (R14, R169, R170,
R194). How long a thread without an IFENCE of its own fetches a stale word is the model's choice (DESIGN CHOICE,
log 10). -/
def Obligations.FencesComplete : Prop :=
  ∀ (s : State) (t : Thread) (scope : Scope) (eng : Bool), Issues s t →
    ((∀ a ∈ s.relaxedOf t.id, covers scope t.id.core.toNat a = false) →
      (eng = true → s.copiesOf t.id = [] ∧ s.committedBusy t = false) →
      exec (.fence scope eng) s = .next (s.commit t.adv)) ∧
    ((∃ a ∈ s.relaxedOf t.id, covers scope t.id.core.toNat a = true) →
      exec (.fence scope eng) s = .next (s.setThread { t with state := .parked, wait := .fence scope eng })) ∧
    ((∀ a ∈ s.relaxedOf t.id, a.form.writes = false) →
      ∃ s2 u, exec .ifence s = .next s2 ∧ s2.thread? t.id = some u ∧ u = { t with ifenced := s.serial + 1 }.adv ∧
        (s2.core t.id.core.toNat).icache = [] ∧ s2.mem = s.mem ∧ s2.accs = s.accs ∧
        ((∀ c x, x ∈ (s.core c).icache ++ (s.core c).stale → x.2.2 ≤ s.serial) →
          ∀ v k, s2.cachedWords { u with id := v } k = []) ∧
        (∀ q k w, w ∈ s2.cachedWords q k ↔ w ∈ s.cachedWords q k))

/-! ## The box tree -/

/-- A rule routine's decision closes a non-empty open batch and parks the thread on its drain, or for the ninth batch
first: PRUNE, LEAF, DEFER, and SPLIT with its rule, at its point where depth and arena suffice. A box that cannot
be split becomes a leaf whatever the point's register holds; at depth 48, or where the children cost more than the
arena has, SPLIT traps BUDGET; a thread of another class traps ILL (R124 to R128). No relaxed access of the thread
is outstanding (R56). -/
def Obligations.DecisionsPark : Prop :=
  ∀ (s s1 : State) (t : Thread) (r : Region) (k : Nat) (axis : BitVec 3) (p : RegNum) (x : Reg) (rule : Option (BitVec 4)),
    Issues s t →
    let parks (i : Instr) (q : State) (d : Decision) : Prop :=
      exec i s = .next (q.setThread (q.closing t (.decision d)))
    (t.cls = .rule →
      parks .prune s .prune ∧ parks .leaf s .leaf ∧ parks .defer s .defer ∧
      (s.region? t.regionId = some r →
        s.relaxedOf t.id = [] → s1.relaxedOf t.id = [] →
        s.route (clusterOf t.id.core.toNat) t.dom t.rcb false false = (s1, .bank k) → s1.badAt k 128 = none →
        axis.toNat < s1.rcbAxes k → (∀ q, rule = some q → q.toNat < r.rules.length) →
        let e := r.rule (s1.rcbRule k)
        let short : Prop := stampFixed (s1.rcbStamp k) = true ∨ s1.grains e k axis.toNat < 2
        let fits (m : Nat) : Prop := s1.rcbDepth k ≠ 48 ∧ s1.splitCost e k axis.toNat
            (kidsOf (s1.rcbLo k axis.toNat) (s1.rcbHi k axis.toNat) m (s1.rcbStamp k) none).length ≤ s1.rcbArena k
        let budget (i : Instr) : Prop := exec i s = .next (takeTrap s t (.plain 0x0B t.rcb))
        (short ∨ fits (s1.midpoint e k axis.toNat) → parks (.split axis none rule) s1 (.split axis none rule)) ∧
        (¬ short → ¬ fits (s1.midpoint e k axis.toNat) → budget (.split axis none rule)) ∧
        (short → p.toNat < t.win → parks (.split axis (some p) rule) s1 (.split axis none rule)) ∧
        (¬ short → s1.rcbDepth k = 48 → p.toNat < t.win → budget (.split axis (some p) rule)) ∧
        (¬ short → t.holds p x → ¬ fits (x.extractLsb' 0 64).toNat → budget (.split axis (some p) rule)) ∧
        (¬ short → t.holds p x → fits (x.extractLsb' 0 64).toNat →
          parks (.split axis (some p) rule) s1 (.split axis (some (x.extractLsb' 0 64)) rule)))) ∧
    (t.cls ≠ .rule → ∀ i ∈ [Instr.prune, .leaf, .defer, .split axis none rule],
      exec i s = .next (takeTrap s t (.plain 0x01 s.word)))

/-- STAMP keeps its two values for the routine's split. JDONE without a value drains as END does, and with a value it
first stores it, words full, in the box's join slot, with no relaxed access of the thread outstanding (R56, R129,
R130). That the store lands in the step of the instruction, before the drain, is the model's choice (DESIGN
CHOICE, logs 5 and 22). BOXRD gives the box that lies UP levels above the thread's own, found by the parents'
addresses, or 0 above the root; BUDRD gives the instructions, arena bytes, deadline, cycles or levels left. No
relaxed access of the thread is outstanding (R56, R131, R132). How far BUDRD’s count lags other threads is a free
value (log 40). -/
def Obligations.JoinsAndReadsComplete : Prop :=
  (∀ (s s1 s2 s3 : State) (t : Thread) (r : Region) (k p j : Nat) (a b : RegNum) (x y : Reg),
     let drains (q : State) : Host.Outcome State Fault Refusal := .next (q.setThread (q.closing t .endDrain))
     Issues s t → t.holds a x → t.holds b y → s.relaxedOf t.id = [] → s1.relaxedOf t.id = [] →
     (t.cls = .rule → exec (.stamp a b) s =
       .next (s.commit { t with stampArg := some (x.extractLsb' 0 64, y.extractLsb' 0 64) }.adv)) ∧
     (t.cls = .join → s.region? t.regionId = some r →
       exec (.jdone none) s = drains s ∧
       (s.route (clusterOf t.id.core.toNat) t.dom t.rcb false false = (s1, .bank k) → s1.badAt k 128 = none →
         (s1.rcbParent k = 0 → exec (.jdone (some a)) s = drains s1) ∧
         (s1.rcbParent k ≠ 0 →
           s1.route (clusterOf t.id.core.toNat) t.dom (s1.rcbParent k) false false = (s2, .bank p) →
           s2.badAt p 128 = none → (t.batchOps = 0 ∨ ∀ o ∈ s2.opsOf t, (t.nextBatch + 1 - o.batch).toNat ≤ 8) →
           let slot := s2.rcbJoin p + BitVec.ofNat 64 (s2.rcbChild k * ruleJoinBytes (r.rule (s2.rcbRule p)))
           s2.rcbJoin p ≠ 0 → s2.relaxedOf t.id = [] →
           s2.route (clusterOf t.id.core.toNat) t.dom slot true false = (s3, .bank j) →
           s3.sound j 64 → s3.accs = [] →
           exec (.jdone (some a)) s = drains ((s3.write j 64 x.toNat).fillBits j 64))))) ∧
  (∀ (s s1 : State) (t : Thread) (r : Region) (k : Nat) (d : RegNum) (up : BitVec 6), Issues s t → t.takes d →
     t.cls = .rule ∨ t.cls = .leaf ∨ t.cls = .join →
     s.route (clusterOf t.id.core.toNat) t.dom t.rcb false false = (s1, .bank k) →
     (∀ o n, o < 128 → o + n ≤ 128 → s1.badAt (k + o) n = none) → s.relaxedOf t.id = [] → s1.relaxedOf t.id = [] →
     (s1.rcbDepth k < up.toNat → exec (.boxrd d up) s = .next (s1.commit (t.setReg d 0).adv)) ∧
     (∀ (a : Nat → Word) (q : Nat → Nat), up.toNat ≤ s1.rcbDepth k → a 0 = t.rcb →
       (∀ i < up.toNat, a (i + 1) = s1.rcbParent (q i)) →
       (∀ i ≤ up.toNat, s1.route (clusterOf t.id.core.toNat) t.dom (a i) false false = (s1, .bank (q i)) ∧
         ∀ o n, o < 128 → o + n ≤ 128 → s1.badAt (q i + o) n = none) →
       exec (.boxrd d up) s = .next (s1.commit (t.setReg d (s1.boxLanes (q up.toNat))).adv)) ∧
     (s.region? t.regionId = some r →
       let gives (sel : BitVec 3) (v : Word) : Prop :=
         exec (.budrd d sel) s = .next (s1.commit (t.setReg d (v.zeroExtend 512)).adv)
       exec (.budrd d 0) s = .next ((s.lag t r).2.commit (t.setReg d (BitVec.zeroExtend 512
        (if r.budget = BitVec.allOnes 64 then r.budget
         else BitVec.ofNat 64 (r.budget.toNat - (r.count - (s.lag t r).1))))).adv) ∧
      (s.lag t r).1 ≤ (r.recent.filter fun p => p.2 != t.id && decide (s.cyc < p.1 + 64)).length ∧
       gives 1 (BitVec.ofNat 64 (s1.rcbArena k)) ∧
       gives 2 (s1.rcbDeadline k) ∧
       gives 3 (if s1.rcbDeadline k = BitVec.allOnes 64 then s1.rcbDeadline k
         else BitVec.ofNat 64 ((s1.rcbDeadline k).toNat - s1.cyc)) ∧
       gives 4 (BitVec.ofNat 64 (48 - s1.rcbDepth k))))

/-- LAUNCH of a readable record that passes every check writes the root's RCB, puts the region into the launch queue
under its new identity, non-zero and not in use, and returns it; a record that fails a check returns bit 63 with
the reason. RGNQ of no live region gives all ones, and of the reader's own domain the region's root, state,
losses, count or threads, the state and the prune count read in the root's RCB (R133, R134). What a record's
fields may hold and how its deadline adds up is the model's reading in part (log 35), and so is that the region's
count is read exactly (DEDUCED, log 40). The identity of the new region is a free value (log 1). -/
def Obligations.LaunchAndRegionQueryComplete : Prop :=
  ∀ (s s1 s2 s3 s4 : State) (t : Thread) (d a : RegNum) (g : SegReg) (x : Reg) (dva : Word) (l rules : List Reg)
    (key : Option Nat) (k : Nat),
    let rec' : LaunchRec := { dva := dva, bits := l.foldr (fun v acc => v.toNat + 2 ^ 512 * acc) 0 }
    let gives (q : State) (v : Word) : Host.Outcome State Fault Refusal :=
      .next (q.commit (t.setReg d (v.zeroExtend 512)).adv)
    Issues s t → t.holds a x → t.takes d → t.spec = none → s.relaxedOf t.id = [] →
    (checkX s t g (x.extractLsb' 0 64) 256 64 0b000001 false = .ok dva → linesX s t g dva 4 = .ok (s1, l) →
      s1.regions.length < 16384 →
      (∀ c, rec'.early t = some c → exec (.launch d a g) s = gives s1 (0x8000_0000_0000_0000 ||| BitVec.ofNat 64 c)) ∧
      (rec'.early t = none →
        linesX s1 t ((coverSeg t (rec'.word 0).toNat (64 * rec'.count) 0b000001).getD g) (rec'.word 0) rec'.count =
          .ok (s2, rules) →
        (∀ c, rec'.middle s2 t rules = some c →
          exec (.launch d a g) s = gives s2 (0x8000_0000_0000_0000 ||| BitVec.ofNat 64 c)) ∧
        (rec'.middle s2 t rules = none → arenaX s2 t rec' = .ok (s3, key) →
          (∀ c, rec'.late t key = some c →
            exec (.launch d a g) s = gives s3 (0x8000_0000_0000_0000 ||| BitVec.ofNat 64 c)) ∧
          (rec'.late t key = none →
            s3.route (clusterOf t.id.core.toNat) rec'.domain (rec'.word 0x68) true false = (s4, .bank k) →
            let id := s4.newRegion.1
            let s5 := s4.newRegion.2
            exec (.launch d a g) s = gives ((s5.putRcb k (rec'.root s5 rules id)).setRegion
              (rec'.region t (s5.codeOf rec'.domain) rules id)) (BitVec.ofNat 64 id))))) ∧
    (s.regions.length < 16384 → s.newRegion.1 ≠ 0 ∧ s.newRegion.1 < 2 ^ 32 ∧ s.region? s.newRegion.1 = none) ∧
    (let id := (x.extractLsb' 0 32).toNat
     let found := s.region? (if id = 0 then t.regionId else id)
     ∀ sel : BitVec 3, sel ≠ 7 →
      (found = none → exec (.rgnq d a sel) s = gives s (BitVec.allOnes 64)) ∧
      (∀ r, found = some r → r.domain = t.dom → sel ≠ 1 → sel ≠ 2 →
        exec (.rgnq d a sel) s = gives s (BitVec.ofNat 64 (s.regionWord r 0 sel.toNat))) ∧
      (∀ r, found = some r → r.domain = t.dom → (sel = 1 ∨ sel = 2) → s1.relaxedOf t.id = [] →
        s.route (clusterOf t.id.core.toNat) r.domain r.root false false = (s1, .bank k) →
        (∀ o n, o < 128 → o + n ≤ 128 → s1.badAt (k + o) n = none) →
        exec (.rgnq d a sel) s = gives s1 (BitVec.ofNat 64 (s1.regionWord r k sel.toNat))))

/-! ## Messages -/

/-- SEND to a core that is not there gives 1, to a channel not of class message 2, to a compute core's channel 2 3, in
this order (the model's choice, log 44); else it posts the payload and parks until the channel takes it. SENDR
deposits on a link with room. CHSET sets HOLD and READY and writes status 0, at once or, where the model's agenda
lets its message travel, once it has arrived (log 5); CHGET reads an entry (R136 to R138). MIGRATE with a pool or
tile slots gives 2, to the thread's own core 4, to a core that is absent or does not accept 3, in this order (the
model's choice, log 44); else, once nothing is open, it sends the context, the batch closed, and its slot stays
MIGRATING until the context has left (log 43). SYSCALL posts its payload to the kernel's channel with its result
awaited, or gives all ones where no channel serves, a target core that is absent among those (DEDUCED, log 24)
(R139, R140). How a system call’s words lie in the registers of its message is not stated, and the message holds
them by name (log 24). -/
def Obligations.MessagesComplete : Prop :=
  (∀ (s : State) (t : Thread) (d a b reg : RegNum) (x : Reg) (l : List Reg) (bits : BitVec 4) (slot : BitVec 6)
     (narrow prev : Bool),
     let w := x.extractLsb' 0 64
     let c := (w.extractLsb' 0 11).toNat
     let ch := w.extractLsb' 16 5
     let gives (q : State) (v : Word) : Host.Outcome State Fault Refusal :=
       .next (q.commit (t.setReg d (v.zeroExtend 512)).adv)
     Issues s t → t.holds a x →
     (t.takes d → t.spec = none → b.toNat < t.win → t.holdsRun b l → l.length ≤ 8 → (t.level ≠ 0 ∨ (ch ≠ 0 ∧ ch ≠ 1 ∧ ch ≠ 3)) →
       let i := Instr.send d a b narrow (BitVec.ofNat 4 l.length)
       (s.reachable c = false → exec i s = gives s 1) ∧
       (s.reachable c = true → (s.chan c ch).cls ≠ .message → exec i s = gives s 2) ∧
       (s.reachable c = true → (s.chan c ch).cls = .message → ch = 2 → c < 0x400 → exec i s = gives s 3) ∧
       (s.reachable c = true → (s.chan c ch).cls = .message → (ch ≠ 2 ∨ 0x400 ≤ c) →
         exec i s = .next ((s.post (w.extractLsb' 0 11) ch (some t.id) t.dom
           (.user l (if narrow then some t.xs else none))).setThread
             { t with state := .parked, wait := .send s.serial d }))) ∧
     (t.spec = none → (s.link t.id.core.toNat prev).length < 4 → s.atollPending (clusterOf t.id.core.toNat) = false →
       let k := s.core t.id.core.toNat
       let dep : Deposit := { slot := slot, reg := reg, val := x }
       exec (.sendr a reg slot prev) s = .next ((s.setCore t.id.core.toNat (if prev then
         { k with prev := k.prev ++ [dep] } else { k with next := k.next ++ [dep] })).commit t.adv)) ∧
     (t.takes d → (t.level ≠ 0 ∨ 4 ≤ ch.toNat) →
       (s.reachable c = false → exec (.chset d a bits) s = gives s 1) ∧
       (s.reachable c = true → s.slow = false → exec (.chset d a bits) s = gives (s.setChan c ch { s.chan c ch with
         hold := if bits.getLsbD 2 then bits.getLsbD 0 else (s.chan c ch).hold,
         ready := if bits.getLsbD 3 then bits.getLsbD 1 else (s.chan c ch).ready }) 0) ∧
       (s.reachable c = true → s.slow = true → exec (.chset d a bits) s =
         .next ((s.post (w.extractLsb' 0 11) ch (some t.id) t.dom (.chset (bits.zeroExtend 64))).setThread
           { t with state := .parked, wait := .chset s.serial d }))) ∧
     (t.takes d → exec (.chget d a) s = .next (s.commit (t.setReg d (BitVec.zeroExtend 512
       (if s.reachable c then s.chanWord c ch else BitVec.allOnes 128))).adv))) ∧
  (∀ (s : State) (t : Thread) (d a b : RegNum) (x y : Reg) (l : List Reg) (svc : BitVec 16),
     let w := x.extractLsb' 0 64
     let c := (w.extractLsb' 0 11).toNat
     let gives (v : Word) : Host.Outcome State Fault Refusal := .next (s.commit (t.setReg d (v.zeroExtend 512)).adv)
     Issues s t → t.takes d →
     (t.holds a x → t.holds b y → t.spec = none →
       let stays (v : Word) : Host.Outcome State Fault Refusal :=
         .next (s.commit ({ t with reopen := 0 }.setReg d (v.zeroExtend 512)).adv)
       (segLimit (t.seg 1) ≠ 0 ∨ t.tiles.2 ≠ 0 → exec (.migrate d a b) s = stays 2) ∧
       (segLimit (t.seg 1) = 0 → t.tiles.2 = 0 →
         (c = t.id.core.toNat → exec (.migrate d a b) s = stays 4) ∧
         (c ≠ t.id.core.toNat → (s.reachable c = false ∨ (s.chan c 3).ready = false) →
           exec (.migrate d a b) s = stays 3) ∧
         (c ≠ t.id.core.toNat → s.reachable c = true → (s.chan c 3).ready = true → s.migrateClear t.closeOpen = true →
           let u := { t.closeOpen with state := .migrating, wait := .none }
           exec (.migrate d a b) s = .next ((s.post (w.extractLsb' 0 11) 3 (some t.id) t.dom
             (.context u (some d) (y.extractLsb' 0 64))).setThread u)))) ∧
     (a.toNat < t.win → t.holdsRun a l → l.length ≤ 8 →
       let i := Instr.syscall d a (BitVec.ofNat 4 l.length) svc
       let v := s.sys.syscall
       (v.getLsbD 63 = false ∨ s.targetOk v = false → exec i s = gives (BitVec.allOnes 64)) ∧
       (v.getLsbD 63 = true → s.targetOk v = true →
         exec i s = .next ((s.post (v.extractLsb' 0 11) (v.extractLsb' 16 5) (some t.id) t.dom
           (.request l svc t.id t.regionId)).commit (t.setPres d .awaiting).adv))))

/-! ## The matrix engine -/

/-- With the unit, a free entry and fewer than 16 operations in its batch, an engine instruction whose operands pass
their checks joins the queue with what it samples: MMA (its extents, scale addresses and A operand), BLOAD, MFILL,
MDRAIN, QROW (their DVAs), BROT, BREL and MZERO (R212, R219, R221, R222, R247 to R255). -/
def Obligations.EngineOperationsQueue : Prop :=
  ∀ (s : State) (t : Thread) (tile : BitVec 8) (a b c : RegNum) (lat dl rel bnd : Bool) (edge aux : Option RegNum)
    (ev av : Option Reg) (m : MOp) (x y z : Reg) (a1 a2 a3 : Word) (sh : Shape),
    let core := t.id.core.toNat
    let i := t.sp.tileb.toNat + tile.toNat
    let queues (s' : State) (o : EngineOp) : Host.Outcome State Fault Refusal :=
      .next ((s'.setCore core { s.core core with
        engq := (s.core core).engq ++ [o] }).commit { t with batchOps := t.batchOps + 1 }.adv)
    let s' : State := { s with serial := s.serial + 1 }
    let slots := s.slotsOf t i
    Issues s t → s.has t 1 → t.spec = none → (s.core core).engq.length < 32 → s.openOps t < 16 →
    exec (.brot lat dl) s = queues s' (newOp s t []) ∧
    exec (.brel lat) s = queues s' (newOp s t []) ∧
    ((∀ j ∈ slots, s.slotAllowed t j = true) →
      (∃ s2, exec (.mzero tile) s = .next s2 ∧
        (s2.core core).engq = (s.core core).engq ++ [{ newOp s t slots with slot := i }] ∧
        ∀ j ∈ slots, (s2.tile core j).declared = .plain) ∧
      (t.holds m.a x → (s.tile core i).declared = .plain →
        (memX s t m x 16384 false = .ok a1 →
          exec (.mfill tile m) s =
            queues s' { newOp s t [i] with addr1 := a1, noP := lacksP t m.seg a1 16384 }) ∧
        (memX s t m x 16384 true = .ok a1 →
          exec (.mdrain tile m) s =
            queues s' { newOp s t [i] with addr1 := a1, noP := lacksP t m.seg a1 16384 })) ∧
      (t.holds a x → (∀ r ∈ edge.toList ++ aux.toList, r.toNat < t.win ∧ (t.entry r).poison = false) → optX t edge = .ok ev → optX t aux = .ok av →
        fmtOk t.sp.fmta = true → fmtOk t.sp.fmtb = true → fmtcOk t.sp.fmtc = true →
        pairShape (fmt8 t.sp.fmta) (fmt8 t.sp.fmtb) = some sh → sh.acc = fmt8 t.sp.fmtc →
        let o : EngineOp := { newOp s t slots with
          slot := i, mE := extent ev 0 sh.m, nE := extent ev 1 sh.n, kE := extent ev 2 sh.k,
          scA := t.sp.scla + auxLane av 0, scB := t.sp.sclb + auxLane av 1,
          base := (auxLane av 2).extractLsb' 0 32, u := (auxLane av 3).extractLsb' 0 32 }
        let n := sh.m * rowBytes sh (fmt8 t.sp.fmta)
        let o1 : EngineOp := { o with addr2 := a1, noP := mmaNoP s t a1 n o }
        mmaChecks s t true true (x.extractLsb' 0 64) n o = .ok a1 →
        (poolOf a1.toNat).map (·.1) = some core →
        ((s.tile core i).declared = .plain →
          exec (.mma tile a lat edge aux rel bnd false false) s = queues s' o1) ∧
        (∀ l col i32 skip, (s.tile core i).declared = .ranked l col i32 → i32 = sh.isInt → sh.acc ≠ 0x0C →
          exec (.mma tile a lat edge aux rel bnd true skip) s = queues s' o1))) ∧
    (t.holds m.a x → fmtOk t.sp.fmta = true → fmtOk t.sp.fmtb = true →
      pairShape (fmt8 t.sp.fmta) (fmt8 t.sp.fmtb) = some sh →
      memX s t m x (sh.n * rowBytes sh (fmt8 t.sp.fmtb)) false = .ok a1 →
      exec (.bload lat m) s = queues s' { newOp s t [] with
        addr1 := a1, noP := lacksP t m.seg a1 (sh.n * rowBytes sh (fmt8 t.sp.fmtb)) }) ∧
    (t.holds m.a x → t.holds b y → t.holds c z →
      let r := (z.extractLsb' 64 64).toNat
      1 ≤ r → r ≤ 64 → checkX s t m.seg (offE x m.off) (512 * r) 64 0b000001 false = .ok a1 →
      checkX s t 1 (y.extractLsb' 0 64) (128 * r) 64 0b000010 true = .ok a2 →
      checkX s t 1 (z.extractLsb' 0 64) (4 * r) 4 0b000010 true = .ok a3 →
      peerRightX s t m.seg (offE x m.off) a1 (512 * r) false = .ok () →
      peerRightX s t 1 (y.extractLsb' 0 64) a2 (128 * r) true = .ok () →
      peerRightX s t 1 (z.extractLsb' 0 64) a3 (4 * r) true = .ok () →
      exec (.qrow b c m) s = queues s' { newOp s t [] with
        addr1 := a1, addr2 := a2, addr3 := a3, rows := r,
        noP := lacksP t m.seg a1 (512 * r) ++ lacksP t 1 a2 (128 * r) ++ lacksP t 1 a3 (4 * r) })

/-- A thread that queues while 32 operations wait, or 16 in its batch, parks. MCOMMIT closes the batch and returns its
ID, parking while eight are outstanding; MWAIT N completes once at most N are, and parks before (R221, R222,
R253). -/
def Obligations.BatchesComplete : Prop :=
  ∀ (s : State) (t : Thread) (a : RegNum) (n : BitVec 3) (lat dl : Bool),
    let parks (w : Wait) : Host.Outcome State Fault Refusal := .next (s.setThread { t with state := .parked, wait := w })
    Issues s t → s.has t 1 → t.takes a → t.spec = none →
    (32 ≤ (s.core t.id.core.toNat).engq.length → exec (.brot lat dl) s = parks .queueFull) ∧
    ((s.core t.id.core.toNat).engq.length < 32 → 16 ≤ s.openOps t → exec (.brot lat dl) s = parks .batchFull) ∧
    (oldestBatch (t.nextBatch + 1) (s.opsOf t) ≤ 8 → exec (.mcommit a) s = .next (s.commit
      ({ t with nextBatch := t.nextBatch + 1, batchOps := 0 }.setReg a (t.nextBatch.zeroExtend 512)).adv)) ∧
    (8 < oldestBatch (t.nextBatch + 1) (s.opsOf t) → exec (.mcommit a) s = parks .commitFull) ∧
    (s.outstanding t ≤ n.toNat → exec (.mwait n) s = .next (s.commit t.adv)) ∧
    (n.toNat < s.outstanding t → exec (.mwait n) s = parks (.mwait n.toNat))

/-- RLSET declares an idle slot ranked and empty, and for k = 64 the slot after it as its second; RLINS, RLMERGE (from
a slot, or from an image of the same kind) and RLDRAIN join the queue on a ranked slot; RLTHR reads a list's
threshold and length and RLCLR empties the lists once nothing queued names the slot; a slot not ranked traps
ENGINE, with its KIND, batch and FN in %estat (R214, R221, R225, R226, R229 to R231, R256 to R260). That OPIDX
there is the number in the batch modulo 16 is the model's reading (DEDUCED, log 23). -/
def Obligations.RankedListsComplete : Prop :=
  ∀ (s s1 : State) (t : Thread) (tile src : BitVec 8) (a b : RegNum) (list : BitVec 6) (kq : KReg) (m : MOp) (x y : Reg)
    (l2 log2k l2' : BitVec 3) (col i32 : Bool) (a1 : Word) (key : Nat),
    let core := t.id.core.toNat
    let i := t.sp.tileb.toNat + tile.toNat
    let j := t.sp.tileb.toNat + src.toNat
    let queues (s' : State) (o : EngineOp) : Host.Outcome State Fault Refusal :=
      .next ((State.setCore { s' with serial := s'.serial + 1 } core { s'.core core with
        engq := (s'.core core).engq ++ [o] }).commit { t with batchOps := t.batchOps + 1 }.adv)
    let fresh : TileSlot := ⟨.ranked log2k.toNat col i32, .ranked log2k.toNat col i32, ⟨[], 0, 0⟩, false⟩
    Issues s t → s.has t 1 → t.spec = none →
    (log2k.toNat < 6 → s.slotAllowed t i = true → s.slotBusy t (s.slotsOf t i) false = false →
      ∃ s2, exec (.rlset tile log2k col i32) s = .next s2 ∧ s2.mem = s.mem ∧ s2.thread? t.id = some t.adv ∧
        s2.tile core i = fresh) ∧
    (s.slotAllowed t i = true → s.slotAllowed t (i + 1) = true →
      s.slotBusy t (s.slotsOf t i ++ s.slotsOf t (i + 1)) false = false →
      ∃ s2, exec (.rlset tile 6 col i32) s = .next s2 ∧ s2.mem = s.mem ∧ s2.thread? t.id = some t.adv ∧
        s2.tile core i = ⟨.ranked 6 col i32, .ranked 6 col i32, ⟨[], 0, 0⟩, false⟩ ∧
        s2.tile core (i + 1) = ⟨.second, .second, ⟨[], 0, 0⟩, false⟩) ∧
    ((s.tile core i).declared = .ranked l2.toNat col i32 → (∀ q ∈ s.slotsOf t i, s.slotAllowed t q = true) →
      let room := (s.core core).engq.length < 32 ∧ s.openOps t < 16
      (room → t.holds a x → t.holds b y → exec (.rlins tile a b list kq) s = queues s { newOp s t (s.slotsOf t i) with
        slot := i, mask := (t.mask kq).extractLsb' 0 16, va := x, vb := y }) ∧
      (room → (s.tile core j).declared = .ranked l2'.toNat col i32 → (∀ q ∈ s.slotsOf t j, s.slotAllowed t q = true) →
        exec (.rlmergeTile tile src) s = queues s { newOp s t (s.slotsOf t i ++ s.slotsOf t j) with
          slot := i, slot2 := j }) ∧
      (room → t.holds m.a x → memX s t m x (imageBytes l2.toNat) true = .ok a1 →
        exec (.rldrain tile m) s =
          queues s { newOp s t (s.slotsOf t i) with
            slot := i, addr1 := a1, cfg := BitVec.ofNat 64 l2.toNat, noP := lacksP t m.seg a1 (imageBytes l2.toNat) }) ∧
      (t.holds m.a x → memX s t m x 8 false = .ok a1 → s.relaxedOf t.id = [] → s1.relaxedOf t.id = [] →
        s.route (clusterOf core) t.dom a1 false false = (s1, .bank key) → s1.sound key 8 →
        let cfg : Word := BitVec.ofNat 64 (s1.read key 8)
        (s1.tile core i).declared = .ranked l2'.toNat col i32 → (∀ q ∈ s1.slotsOf t i, s1.slotAllowed t q = true) →
        (s1.core core).engq.length < 32 → s1.openOps t < 16 →
        cfg.toNat % 8 ≤ 6 → cfg.toNat / 8 % 4 = (if col then 1 else 0) + (if i32 then 2 else 0) →
        memX s1 t m x (imageBytes (cfg.toNat % 8)) false = .ok a1 →
        exec (.rlmergeImage tile m) s =
          queues s1 { newOp s1 t (s1.slotsOf t i) with
            slot := i, addr1 := a1, cfg := cfg, noP := lacksP t m.seg a1 (imageBytes (cfg.toNat % 8)) }) ∧
      (t.takes a → s.slotBusy t (s.slotsOf t i) true = false →
        (∀ q ∈ listSlots i l2.toNat list.toNat, (s.tile core q).poison = false) →
        exec (.rlthr a tile list) s = .next (s.commit (t.setReg a (BitVec.zeroExtend 512 (BitVec.ofNat 64
          ((s.threshold core i l2.toNat i32 list.toNat).1 +
            (if (s.threshold core i l2.toNat i32 list.toNat).2 then 2 ^ 32 else 0) +
            2 ^ 40 * (s.tile core i).hdr.len list.toNat)))).adv)) ∧
      (s.slotBusy t (s.slotsOf t i) false = false →
        exec (.rlclr tile) s = .next ((s.setTile core i { s.tile core i with hdr := ⟨[], 0, 0⟩ }).commit t.adv))) ∧
    ((s.tile core i).declared = .plain → s.slotAllowed t i = true →
      let e : Word := BitVec.ofNat 64 (2 ^ 63 + 2 ^ 56 * 7 + 2 ^ 52 * (t.batchOps % 16) + 2 ^ 36 * t.nextBatch.toNat +
        2 ^ 28 * (fFn8 s.word % 256) + (if fOp s.word = 0xA0 then 2 ^ 27 else 0) + 2 ^ 16 * (i % 256))
      ∃ s2, exec (.rlclr tile) s = .next s2 ∧
        (takeTrap s { t with sp := { t.sp with estat := e } } (.plain 0x0C e)).thread? t.id = s2.thread? t.id)

/-! ## Copies and barriers -/

/-- A copy whose rows, barrier and registers pass their checks joins its channel's queue with its addresses, rows,
strides, mode, bounds and barrier, and one that meets causes traps the first in R23's order; a full channel parks
the thread (R23, R235, R244, R261, R262). That %cwp of the channel is 0 from the issue on is the model's reading
of R241 (DEDUCED, log 22). CWAIT completes once the channel holds no copy of the thread, or its latest copy's
write pointer has reached the value given (R263). -/
def Obligations.CopiesComplete : Prop :=
  ∀ (s : State) (t : Thread) (f : CopyForm) (d e c : Reg) (ch : BitVec 2) (a : RegNum) (x kv : Reg) (two : Bool)
    (bar : Option (Word × Bool)),
    let rows := if two then (c.extractLsb' 0 64).toNat else 1
    let len := if two then c.extractLsb' 64 64 else c.extractLsb' 0 64
    let ss := if two then c.extractLsb' 128 64 else 0
    let ds := if two then c.extractLsb' 192 64 else 0
    let de := d.extractLsb' 0 64
    let se := e.extractLsb' 0 64
    let o : CopyOp :=
      { n := s.serial, t := t.id, domain := t.dom, src := segBase (t.seg f.segS) + se,
        dst := segBase (t.seg f.segD) + de, baseS := segBase (t.seg f.segS), baseD := segBase (t.seg f.segD),
        pS := segP (t.seg f.segS), pD := segP (t.seg f.segD), rows := rows, rowLen := len.toNat, sStride := ss, dStride := ds,
        mode := f.mode, segS := f.segS, segD := f.segD, segK := (f.bar.map (·.seg)).getD 0, bar := none,
        baseK := segBase (t.seg ((f.bar.map (·.seg)).getD 0)), pK := segP (t.seg ((f.bar.map (·.seg)).getD 0)),
        bnd := if f.bnd then some t.sp.bounds else none, two := two, fill := t.sp.fill,
        started := false, landed := 0, buf := [], waitingOn := none }
    let i : Instr := if two then .copy2 f else .copy f
    let k := s.core t.id.core.toNat
    let q := k.copyq.getD f.ch.toNat []
    let used := if len.toNat = 0 then 0 else rows
    Issues s t → t.spec = none →
    (t.holds f.a d → t.holds f.b e → t.holds f.c c →
      (match f.bar with | none => kv = 0 | some g => t.holds g.t kv) →
      (∀ tr, firstTrap (copyTraps s t f o d e (ofScalar len) kv used) = some tr → exec i s = .next (takeTrap s t tr)) ∧
      (copyTraps s t f o d e (ofScalar len) kv used = [] →
        (∀ tr, firstTrap (copyRouteTraps s t f o d e kv used) = some tr → exec i s = .next (takeTrap s t tr))) ∧
      (copyTraps s t f o d e (ofScalar len) kv used = [] → copyRouteTraps s t f o d e kv used = [] →
       barX s t f kv = .ok bar →
      (q.length < 8 → exec i s = .next ((State.setCore { s with serial := s.serial + 1 } t.id.core.toNat
        { k with copyq := k.copyq.set f.ch.toNat (q ++ [{ o with bar := bar }]) }).commit
          { t with sp := { t.sp with cwp := t.sp.cwp.set f.ch.toNat 0 } }.adv)) ∧
      (8 ≤ q.length → exec i s = .next (s.setThread { t with state := .parked, wait := .copyFull f.ch.toNat })))) ∧
    (s.copiesOn t.id ch.toNat = [] → exec (.cwait ch) s = .next (s.commit t.adv)) ∧
    (s.copiesOn t.id ch.toNat ≠ [] →
      exec (.cwait ch) s = .next (s.setThread { t with state := .parked, wait := .cwait ch.toNat none })) ∧
    (t.holds a x →
      ((∀ p, (s.copiesOn t.id ch.toNat).getLast? = some p → (x.extractLsb' 0 49).toNat ≤ p.landed) →
        exec (.cwaitPtr ch a) s = .next (s.commit t.adv)) ∧
      ((∃ p, (s.copiesOn t.id ch.toNat).getLast? = some p ∧ p.landed < (x.extractLsb' 0 49).toNat) →
        exec (.cwaitPtr ch a) s = .next (s.setThread
          { t with state := .parked, wait := .cwait ch.toNat (some (x.extractLsb' 0 49).toNat) })))

/-- BARINIT makes an object with its count expected and due, both words full; BARARR lowers ARR, adds its transfers,
and starts the next phase when nothing is due, answering the generation, or, with no arrival due, leaves the
object and answers with bit 4; BARWAIT completes once the generation differs (R244, R245, R264 to R266). That an
ordinary access takes effect in its own step is the model’s choice (DESIGN CHOICE, log 5). -/
def Obligations.BarriersComplete : Prop :=
  ∀ (s s1 : State) (t : Thread) (b c : RegNum) (out : Bool) (m : MOp) (x v : Reg) (k : Nat),
    let e := x.extractLsb' 0 64 + 64 * m.off.signExtend 64
    let lo (exp arr : BitVec 20) (gen : BitVec 4) : Nat := ((0#20 ++ exp ++ arr ++ gen : BitVec 64)).toNat
    let obj := s1.readBar k
    let cnt := v.extractLsb' 0 32
    let after (n : BitVec 32) (o : Bool) : BarObj :=
      let arr := obj.arr - 1
      let inn := if o then obj.inn else obj.inn + n
      let ou := if o then obj.out + n else obj.out
      if arr = 0 ∧ inn = 0 ∧ ou = 0 then ⟨obj.exp, obj.exp, obj.gen + 1, inn, ou⟩ else ⟨obj.exp, arr, obj.gen, inn, ou⟩
    let answer (late : Bool) : Reg := BitVec.ofNat 512 (obj.gen.toNat + if late then 16 else 0)
    Issues s t → t.holds m.a x → s1.sound k 16 → s1.accs = [] →
    (t.holds b v → Reaches s t m.seg e (.barinit (v.extractLsb' 0 20)) 16 s1 k →
      1 ≤ (v.extractLsb' 0 64).toNat → (v.extractLsb' 0 64).toNat ≤ 1048575 →
      exec (.barinit b m) s = .next ((((s1.write k 8 (lo (v.extractLsb' 0 20) (v.extractLsb' 0 20) 0)).write
        (k + 8) 8 0).fillBits k 16).commit t.adv)) ∧
    (t.takes c → Reaches s t m.seg e (.bararr false 0) 16 s1 k →
      (obj.arr ≠ 0 → exec (.bararr c m) s =
        .next ((s1.writeBar k (after 0 false)).commit (t.setReg c (answer false)).adv)) ∧
      (obj.arr = 0 → exec (.bararr c m) s = .next ((s1.writeBar k obj).commit (t.setReg c (answer true)).adv))) ∧
    (t.takes c → t.holds b v → Reaches s t m.seg e (.bararr out cnt) 16 s1 k → obj.arr ≠ 0 →
      exec (.bararrCount b c out m) s =
        .next ((s1.writeBar k (after cnt out)).commit (t.setReg c (answer false)).adv)) ∧
    (t.holds b v → Reaches s t m.seg e (.barwait (v.extractLsb' 0 4)) 16 s1 k → obj.gen ≠ v.extractLsb' 0 4 →
      exec (.barwait b m) s = .next (s1.commit ({ t with sp := { t.sp with febudget := 64 } }).adv))

/-! ## System instructions -/

/-- SRD of a thread register gives its value at any level, and of a system register, from level 1 on, the element its
selector names; at level 0 that traps PRIV, and an index without a register, between the two groups or above both,
traps ILL (R18, R19, R308, R309). -/
def Obligations.SpecialRegisterReads : Prop :=
  ∀ (s : State) (t : Thread) (d b : RegNum) (idx : BitVec 12) (y : Reg),
    let p := t.sp
    let gives (v : Word) : Host.Outcome State Fault Refusal := .next (s.commit (t.setReg d (v.zeroExtend 512)).adv)
    Issues s t → t.takes d →
    (∀ q ∈ ([(0x000, p.status), (0x001, p.tcause), (0x002, p.tinfo), (0x003, p.tepc), (0x004, p.febudget),
        (0x005, p.fill), (0x006, p.bounds.getD 0 0), (0x007, p.bounds.getD 1 0), (0x008, p.bounds.getD 2 0),
        (0x009, p.bounds.getD 3 0), (0x00A, p.bounds.getD 4 0), (0x00B, p.bounds.getD 5 0),
        (0x00C, BitVec.ofNat 64 s.cyc), (0x00D, t.id.zeroExtend 64), (0x00E, s.cap t.id.core.toNat),
        (0x00F, (s.atollRead (clusterOf t.id.core.toNat)).zeroExtend 64), (0x015, s.batchWord t),
        (0x010, p.cwp.getD 0 0), (0x011, p.cwp.getD 1 0), (0x012, p.cwp.getD 2 0), (0x013, p.cwp.getD 3 0),
        (0x014, p.estat), (0x016, p.fmta), (0x017, p.fmtb), (0x018, p.fmtc), (0x019, p.scla), (0x01A, p.sclb),
        (0x01B, p.tileb), (0x01C, p.deadline), (0x01D, p.stamp), (0x01E, p.region), (0x01F, p.domain)] :
          List (BitVec 12 × Word)), exec (.srd d q.1 b) s = gives q.2) ∧
    (0x100 ≤ idx.toNat → idx.toNat ≤ 0x110 →
      (t.level = 0 → exec (.srd d idx b) s = .next (takeTrap s t (.plain 0x02 s.word))) ∧
      (1 ≤ t.level → t.holds b y → exec (.srd d idx b) s = gives (s.sysReg idx.toNat (y.extractLsb' 0 64)))) ∧
    ((0x020 ≤ idx.toNat ∧ idx.toNat < 0x100) ∨ 0x110 < idx.toNat →
      exec (.srd d idx b) s = .next (takeTrap s t (.plain 0x01 s.word)))

/-- SWR writes %fill, %bound0 to %bound5, the format words that R32 lists, the scale and tile registers at any level,
%febudget from level 1, and traps PRIV where the level does not allow it. At level 2 it sets %pagesvc, which sends
the requests that were kept once EN is set, an element of the domain table, unless reserved bits of its word 0 are
set, %shares or %spillarena, and %syscall. SWR of %status keeps the low eight bits, never raises the level, and
traps ILL on a reserved rounding code (R17 to R20, R309, R311). That reserved bits are stored as zero, and that a
%spillarena base that is no multiple of 64 or an element that does not exist leaves all as it is, is the model's
reading (DEDUCED, log 36). -/
def Obligations.SpecialRegisterWrites : Prop :=
  ∀ (s : State) (t : Thread) (a b : RegNum) (idx : BitVec 12) (x y : Reg),
    let p := t.sp
    let v := x.extractLsb' 0 64
    let sets (q : Specials) : Host.Outcome State Fault Refusal := .next (s.commit { t with sp := q }.adv)
    let traps (code : BitVec 8) : Host.Outcome State Fault Refusal := .next (takeTrap s t (.plain code s.word))
    Issues s t → t.holds a x →
    exec (.swr 0x005 a b) s = sets { p with fill := v } ∧
    (∀ j : BitVec 12, j.toNat < 6 → exec (.swr (6 + j) a b) s = sets { p with bounds := p.bounds.set j.toNat v }) ∧
    (fmtOk v = true → exec (.swr 0x016 a b) s = sets { p with fmta := v } ∧
      exec (.swr 0x017 a b) s = sets { p with fmtb := v }) ∧
    (fmtOk v = false → exec (.swr 0x016 a b) s = traps 0x01 ∧ exec (.swr 0x017 a b) s = traps 0x01) ∧
    (fmtcOk v = true → exec (.swr 0x018 a b) s = sets { p with fmtc := v }) ∧
    (fmtcOk v = false → exec (.swr 0x018 a b) s = traps 0x01) ∧
    exec (.swr 0x019 a b) s = sets { p with scla := v } ∧ exec (.swr 0x01A a b) s = sets { p with sclb := v } ∧
    exec (.swr 0x01B a b) s = sets { p with tileb := v } ∧
    exec (.swr 0x004 a b) s = (if t.level = 0 then traps 0x02 else sets { p with febudget := v }) ∧
    (∀ j ∈ [0x001, 0x002, 0x003, 0x00C, 0x00D, 0x00E, 0x010, 0x014, 0x015, 0x01C, 0x01D, 0x01E, 0x01F],
      exec (.swr j a b) s = traps 0x02) ∧
    (idx.toNat = 0x102 ∨ (0x106 ≤ idx.toNat ∧ idx.toNat ≤ 0x109) → t.holds b y →
      t.level ≠ 2 → exec (.swr idx a b) s = traps 0x02) ∧
    (t.holds b y → t.level = 2 →
      let n := (y.extractLsb' 0 64).toNat
      let low : Word := v &&& 0x8000_0000_001F_07FF
      let sys (q : Sys) : Host.Outcome State Fault Refusal := .next (State.commit { s with sys := q } t.adv)
      let same : Host.Outcome State Fault Refusal := .next (s.commit t.adv)
      (∃ s2, exec (.swr 0x102 a b) s = .next s2 ∧ s2.sys = { s.sys with pagesvc := low } ∧
        (if v.getLsbD 63 then s2.pageReqs = [] ∧ s2.mesh.map (·.body) = s.mesh.map (·.body) ++ s.pageReqs.map .device
         else s2.pageReqs = s.pageReqs ∧ s2.mesh = s.mesh)) ∧
      (n < 16384 → n % 4 = 0 → v.extractLsb' 21 43 ≠ 0 → exec (.swr 0x106 a b) s = same) ∧
      (n < 16384 → (n % 4 = 0 → v.extractLsb' 21 43 = 0) → ∃ s2, exec (.swr 0x106 a b) s = .next s2 ∧ s2.mem = s.mem ∧
        ∀ (e : BitVec 32) (i : Nat), e.toNat < 4096 → i < 4 → s2.domWord e i = if 4 * e.toNat + i = n then
          (if i = 1 then v &&& 0x000F_FFFF_FFFF_F000 else if i = 3 then v &&& 0xFFFF_FFFF else v) else s.domWord e i) ∧
      exec (.swr 0x107 a b) s = (if n < 24 then sys { s.sys with shares := s.sys.shares.set n (v &&& 0xFF) } else same) ∧
      exec (.swr 0x108 a b) s = (if n = 0 ∧ v.extractLsb' 0 6 = 0 then sys { s.sys with spillBase := v }
        else if n = 1 then sys { s.sys with spillLimit := v } else same) ∧
      exec (.swr 0x109 a b) s = sys { s.sys with syscall := low }) ∧
    (let rnd := v.extractLsb' 2 3
     exec (.statusWrite a) s =
      if rnd = 0 ∨ rnd = 6 ∨ rnd = 7 then traps 0x01
      else if t.level < (v.extractLsb' 0 2).toNat then traps 0x02 else sets { p with status := v &&& 0xFF })

/-- At level 2: a valid new accumulator partition of an idle compute core takes effect and zeroes the bytes that
change sides; %atoll takes effect at once with no deposit in flight; a channel entry is stored if valid; %scrub
zeroes a frame and cleans it; writing 0 clears an error-log entry (R70, R71, R142, R217, R293, R309). That the
class of channels 0 to 3 cannot be changed, and that a write of another value to an error-log entry is refused, is
the model's reading (DEDUCED, log 36). The instructions of system level trap PRIV below level 2, whatever their
operands hold; at level 2 a write of the partition word traps ILL where the value is none of those that R142
allows a core (R18, R142). -/
def Obligations.SystemWritesComplete : Prop :=
  (∀ (s : State) (t : Thread) (a b : RegNum) (x y : Reg),
     let v := x.extractLsb' 0 64
     let w := y.extractLsb' 0 64
     Issues s t → t.level = 2 → t.holds a x → t.holds b y →
     (let c := w.toNat
      let n := (v.extractLsb' 0 5).toNat
      c < 0x400 → 1 ≤ n → n ≤ 16 →
       exec (.partitionWrite a b) s = .next ((s.writePartition c n).commit t.adv) ∧
       (let old := (s.core c).acc
        let lo := 0x20_0000 - 0x1_0000 * max old n
        let len := 0x1_0000 * (max old n - min old n)
        s.reachable c = true → old ≠ n → (s.core c).engq = [] → (∀ r ∈ s.poolUse c, apart lo len r.1 r.2 = true) →
         (∀ r ∈ s.tileUse c, r.2 = 0) → ∃ s2, exec (.partitionWrite a b) s = .next s2 ∧ (s2.core c).acc = n ∧
           (s.memOk → s.accs = [] → ∀ j, memByte j s2.mem =
             if poolKey c lo ≤ j ∧ j < poolKey c lo + len then 0 else memByte j s.mem))) ∧
     (let cl := clusterOf t.id.core.toNat
      let next := tabPut cl (v.extractLsb' 0 2) s.sys.atollNext
      exec (.atollWrite a) s =
        .next ((State.settleAtoll { s with sys := { s.sys with atollNext := next } } cl).commit t.adv) ∧
      (s.ringBusy cl = false → ∃ s2, exec (.atollWrite a) s = .next s2 ∧ s2.atollGs cl = v.extractLsb' 0 2)) ∧
     (let c := (w.extractLsb' 0 11).toNat
      let ch := w.extractLsb' 16 5
      let e : Chan := {
        npay := (v.extractLsb' 47 4).toNat, prio := (v.extractLsb' 42 5).toNat,
        cls := Cls.ofCode (v.extractLsb' 39 3).toNat, xsd := v.getLsbD 38, ready := v.getLsbD 37,
        hold := v.getLsbD 36, win := (v.extractLsb' 32 4).toNat, entry := v.extractLsb' 0 32 }
      exec (.channelEntryWrite a b) s = .next (State.commit
        (if s.reachable c && chanWordOk v ch (s.chan c ch).cls then s.setChan c ch e else s) t.adv)) ∧
     (let k := v.toNat / 2 ^ 17 * 2 ^ 17
      exec (.scrub a b) s = .next (State.commit (if paSpace k < 5 then s.scrubbed k (2 ^ 17) else s) t.adv) ∧
      (s.memOk → ∀ j, memByte j (s.scrubbed k (2 ^ 17)).mem = (if k ≤ j ∧ j < k + 2 ^ 17 then 0 else memByte j s.mem) ∧
         (k ≤ j → j < k + 2 ^ 17 → (s.scrubbed k (2 ^ 17)).full j = true ∧ (s.scrubbed k (2 ^ 17)).bad j = false))) ∧
     exec (.errlogClear a b) s = .next (State.commit (if v = 0 ∧ w.toNat < 256 then
       { s with sys := { s.sys with errlog := s.sys.errlog.set w.toNat 0 } } else s) t.adv)) ∧
  (∀ (s : State) (t : Thread) (a b : RegNum), Issues s t →
     let traps (code : BitVec 8) (i : Instr) : Prop := exec i s = .next (takeTrap s t (.plain code s.word))
     (t.level ≠ 2 →
       traps 0x02 (.atollWrite a) ∧ traps 0x02 (.channelEntryWrite a b) ∧ traps 0x02 (.scrub a b) ∧
       traps 0x02 (.errlogClear a b)) ∧
     ∀ x y, t.holds a x → t.holds b y →
       let valid := 0x400 ≤ (y.extractLsb' 0 64).toNat ∨
         (1 ≤ (x.extractLsb' 0 5).toNat ∧ (x.extractLsb' 0 5).toNat ≤ 16)
       (¬ valid → traps 0x01 (.partitionWrite a b)) ∧ (valid → t.level ≠ 2 → traps 0x02 (.partitionWrite a b)))

/-- A thread with the right over a target that is HELD or TRAPPED reads its registers with THRD, writes them with
THWR, and discards its queue image; no thread answers 3, a running one 4; a user traps PRIV (R18, R307, R312,
R314). That THRD of an awaiting register gives its held contents with status 0 is the model's reading (DEDUCED,
log 37). -/
def Obligations.ThreadAccessCompletes : Prop :=
  ∀ (s : State) (t : Thread) (d a b : RegNum) (item : BitVec 12) (x y : Reg),
    let id : Ident := x.extractLsb' 0 17
    let gives (q : State) (v : Word) : Host.Outcome State Fault Refusal :=
      .next (q.commit (t.setReg d (v.zeroExtend 512)).adv)
    let reads (v : Reg) (st : Word) : Host.Outcome State Fault Refusal :=
      .next (s.commit ((t.setReg d v).setReg (d + 1) (st.zeroExtend 512)).adv)
    Issues s t → t.holds a x → t.holds b y → t.takes d → isCore id.core.toNat = true →
    (t.level = 0 → item.toNat < 0x80 →
      exec (.thrd d a item) s = .next (takeTrap s t (.plain 0x02 s.word)) ∧
      exec (.thwr d a b item) s = .next (takeTrap s t (.plain 0x02 s.word))) ∧
    (1 ≤ t.level → s.thread? id = none → s.targetClear id = true → item.toNat < 0x80 →
      (t.takes (d + 1) → exec (.thrd d a item) s = reads 0 3) ∧
      exec (.thwr d a b item) s = gives s 3 ∧ exec (.discardQueueImage d a b) s = gives s 3) ∧
    (∀ u, s.thread? id = some u → u.id = id → (t.level = 2 ∨ (t.level = 1 ∧ t.dom = u.dom)) → s.targetClear id = true →
      item.toNat < 0x80 →
      (t.takes (d + 1) → (u.state = .ready ∨ u.state = .parked) → exec (.thrd d a item) s = reads 0 4) ∧
      (t.takes (d + 1) → exec (.thrd d a 0x180) s = reads ((s.stateWord u).zeroExtend 512) 0) ∧
      ((u.state = .ready ∨ u.state = .parked) → exec (.thwr d a b item) s = gives s 4) ∧
      ((u.state = .held ∨ u.state = .trapped) → item.toNat < u.win →
        (t.takes (d + 1) → exec (.thrd d a item) s =
          if (u.entry (item.extractLsb' 0 7)).pres = .opened then reads 0 2
          else reads (u.entry (item.extractLsb' 0 7)).val 0) ∧
        exec (.thwr d a b item) s = gives (s.setThread (u.setReg (item.extractLsb' 0 7) y)) 0 ∧
        exec (.discardQueueImage d a b) s =
          gives (s.setThread { u with
            image := [], roomWait := false,
            wait := if u.wait = .enginePage ∨ u.wait = .queueRoom then .none else u.wait }) 0))

/-- A debug hold makes a thread HELD, itself after the instruction; THRES resumes a TRAPPED thread that has no queue
image at its %tepc, HELD where its region is held and else READY; THKILL ends a TRAPPED thread without a box that
has nothing under way, itself no kill of another; no thread answers 3, an unfit one 1 (R278, R295, R307, R314 to
R316). That the target of a kill under way answers THRES with 1 is the model's reading (DEDUCED, log 37). -/
def Obligations.HoldResumeKillComplete : Prop :=
  ∀ (s : State) (t : Thread) (d a b : RegNum) (x y : Reg),
    let id : Ident := x.extractLsb' 0 17
    let answers (i : Instr) (v : Word) (holds : Thread → Prop) : Prop := ∃ s2 u', exec i s = .next s2 ∧
      s2.thread? t.id = some (t.setReg d (v.zeroExtend 512)).adv ∧ s2.thread? id = some u' ∧ holds u' ∧ s2.mem = s.mem
    let gives (v : Word) : Host.Outcome State Fault Refusal := .next (s.commit (t.setReg d (v.zeroExtend 512)).adv)
    Issues s t → s.cur = t.id → t.holds a x → t.holds b y → t.takes d → s.targetClear id = true →
    isCore id.core.toNat = true →
    (1 ≤ t.level → s.thread? id = none → exec (.thres d a) s = gives 3 ∧ exec (.thkill d a) s = gives 3 ∧
      exec (.debugHold d a b) s = gives 3) ∧
    (id = t.id → 1 ≤ t.level → y.getLsbD 0 = true → t.state = .ready → ∃ s2 u', exec (.debugHold d a b) s = .next s2 ∧
      s2.thread? id = some u' ∧ u'.state = .held ∧ u'.dbg = true ∧ u'.pc = t.pc + 8 ∧
      u'.entry d = { val := 0, pres := .present, poison := false }) ∧
    (∀ u, id ≠ t.id → s.thread? id = some u → u.id = id → (t.level = 2 ∨ (t.level = 1 ∧ t.dom = u.dom)) →
      (y.getLsbD 0 = true → (u.state = .ready ∨ u.state = .parked) →
        answers (.debugHold d a b) 0 fun u' => u'.state = .held ∧ u'.dbg = true ∧ u'.regs = u.regs ∧ u'.pc = u.pc) ∧
      (u.killed ≠ none → exec (.thres d a) s = gives 1) ∧
      (u.killed = none → u.state = .trapped → u.image = [] → (∀ r, s.region? u.regionId = some r → r.hold = .free) →
        answers (.thres d a) 0 fun u' => u'.state = .ready ∧ u'.pc = u.sp.tepc ∧ u'.regs = u.regs ∧ u'.wait = .none) ∧
      (u.killed = none → u.state = .trapped → u.cls ≠ .leaf → (∃ r, s.region? u.regionId = some r ∧ r.hold ≠ .free) →
        answers (.thres d a) 0 fun u' => u'.state = .held ∧ u'.pc = u.sp.tepc ∧ u'.regs = u.regs) ∧
      (u.state ≠ .trapped → u.dbg = false → exec (.thres d a) s = gives 1) ∧
      (u.state ≠ .trapped → u.rcb ≠ 0 → exec (.thkill d a) s = gives 1) ∧
      (u.killed = none → u.state = .trapped → u.rcb = 0 → u.wait = .none → s.killsOf id = [] → s.accs = [] →
        s.copiesOf id = [] →
        (∀ o ∈ (s.core id.core.toNat).engq, o.t ≠ id) → ∃ s2, exec (.thkill d a) s = .next s2 ∧
          s2.thread? id = none ∧ s2.thread? t.id = some (t.setReg d 0).adv ∧ s2.mem = s.mem))

/-- At level 2: SPILL of no thread answers 3, of one that is not HELD 1, of one for which the arena has no room 2, and
of another begins to write its context, whose lines the spill engine writes; with the last of them the target is
SPILLED, and the SPILL completes with the image's address. REGHOLD and REGREL answer 1 for no region and 2 for one
already so held, and else hold the region's leaves, or free them, the contexts of leaves without a slot among
them; REGHOLD parks only until the hold completes (R300, R301, R307, R317, R318). Details of the context image are
the model’s choice (log 25). -/
def Obligations.SpillAndRegionHoldComplete : Prop :=
  (∀ (s s1 : State) (t : Thread) (d a : RegNum) (x : Reg) (finish nowait : Bool),
    let id : Ident := x.extractLsb' 0 17
    let rid := (x.extractLsb' 0 32).toNat
    let gives (q : State) (v : Word) : Host.Outcome State Fault Refusal :=
      .next (q.commit (t.setReg d (v.zeroExtend 512)).adv)
    let code (n : Nat) : Word := 0x8000_0000_0000_0000 ||| BitVec.ofNat 64 n
    Issues s t → t.level = 2 → t.holds a x → t.takes d →
    (isCore id.core.toNat = true → s.thread? id = none → exec (.spill d a) s = gives s (code 3)) ∧
    (∀ u, isCore id.core.toNat = true → s.thread? id = some u →
      (u.state ≠ .held → exec (.spill d a) s = gives s (code 1)) ∧
      (u.state = .held → s.spillReady u = true →
        (s.spillStart u true = (s1, none) → exec (.spill d a) s = gives s1 (code 2)) ∧
        (∀ w, s.spillStart u true = (s1, some w) →
          exec (.spill d a) s = .next (s1.setThread { t with state := .parked, wait := .spilling id d })))) ∧
    (s.region? rid = none → exec (.reghold d a finish nowait) s = gives s 1 ∧ exec (.regrel d a) s = gives s 1) ∧
    (∀ r, s.region? rid = some r →
      (r.hold ≠ .free → exec (.reghold d a finish nowait) s = gives s 2) ∧
      (r.hold = .free → exec (.regrel d a) s = gives s 2) ∧
      (r.hold = .free →
        let q := s.holdRegion r finish
        (nowait = true ∨ q.regionQuiet rid = true → exec (.reghold d a finish nowait) s = gives q 0) ∧
        (nowait = false → q.regionQuiet rid = false → exec (.reghold d a finish nowait) s =
          .next (q.setThread { t with state := .parked, wait := .region rid d }))) ∧
      (r.hold ≠ .free → exec (.regrel d a) s = gives (s.freeRegion r) 0))) ∧
  (∀ (s : State) (u : Thread) (finish : Bool) (rid : Nat),
    (u.state = .ready ∨ u.state = .parked → ∃ u', (s.holdLeaf finish u).thread? u.id = some u' ∧ u'.state = .held ∧
      u'.regionHeld = true ∧ u'.regs = u.regs ∧ u'.pc = u.pc) ∧
    (∀ h c, c ∈ s.spilled → c.keep.regionId = rid → c.keep.cls = .leaf →
      { c with keep := { c.keep with regionHeld := h, released := !h } } ∈ (s.markSpilled rid h).spilled)) ∧
  (∀ (s : State) (j : CtxJob) (u v : Thread) (id : Ident) (d : RegNum),
    s.ev = some (.spillWrite id) → s.jobOf id = some j → j.restore = false → j.keepSlot = true → j.lines ≤ j.done →
    s.thread? id = some u → u.id = id → u.killed = none → u.cls ≠ .leaf → v.id ≠ id → s.thread? v.id = some v →
    v.wait = .spilling id d → v.state = .parked → v.image = [] →
    (∀ p ∈ s.threads, (p.2.awaitsSpill id).isSome = true → p.2 = v) →
    ∃ s2 u', exec .spillWrite s = .next s2 ∧ s2.thread? id = some u' ∧ u'.state = .spilled ∧ u'.ctx = j.addr ∧
      s2.thread? v.id = some { (v.setReg d ((j.addr &&& 0x001F_FFFF_FFFF_FFFF).zeroExtend 512)).adv with
        wait := .none, state := .ready })

/-- RCBRD reads the 128 bytes of an RCB in a live arena, and all ones elsewhere; CAPQ reads a core's units, the counts
of what is present, the cap capacity and the device ID; BRK traps BREAK with its immediate; WAKEP wakes a
request's thread or MMU; TLBINV drops the entries in its range and scope, and, of scope 2, the base die's
cached import entries, and parks for the accesses they translated (R319 to R324, R342). -/
def Obligations.ReadbackAndPageServiceComplete : Prop :=
  ∀ (s s1 : State) (t : Thread) (d a b : RegNum) (x y : Reg) (imm : BitVec 27) (k : Nat) (scope : BitVec 2),
    let v := x.extractLsb' 0 64
    let w := y.extractLsb' 0 64
    let gives (q : Word) : Host.Outcome State Fault Refusal := .next (s.commit (t.setReg d (q.zeroExtend 512)).adv)
    let pair (q : State) (m n : Reg) : Host.Outcome State Fault Refusal :=
      .next (q.commit ((t.setReg d m).setReg (d + 1) n).adv)
    Issues s t →
    exec (.brk imm) s = .next (takeTrap s t (.plain 0x10 (imm.zeroExtend 64))) ∧
    (t.holds a x → t.takes d →
      (t.takes (d + 1) →
        (v.toNat % 128 ≠ 0 ∨ s.arenaOf t v = none →
          exec (.rcbrd d a) s = pair s (BitVec.allOnes 512) (BitVec.allOnes 512)) ∧
        (∀ r, v.toNat % 128 = 0 → s.arenaOf t v = some r → s.relaxedOf t.id = [] → s1.relaxedOf t.id = [] →
          s.route (clusterOf t.id.core.toNat) r.domain v false false = (s1, .bank k) → s1.badAt k 128 = none →
          exec (.rcbrd d a) s = pair s1 (BitVec.ofNat 512 (s1.read k 64)) (BitVec.ofNat 512 (s1.read (k + 64) 64)))) ∧
      exec (.capq d a 0) s = gives (s.cap (v.extractLsb' 0 11).toNat) ∧
      exec (.capq d a 1) s = gives (BitVec.ofNat 64 (((List.range 0x400).filter s.reachable).length +
        2 ^ 16 * s.liveStraits + 2 ^ 32 * s.channels + 2 ^ 40 * (32 - s.sys.units.noPorts.length) +
        2 ^ 48 * (((List.range 16).map (0x400 + ·)).filter s.reachable).length)) ∧
      exec (.capq d a 2) s = gives (BitVec.ofNat 64 (s.liveStraits * 0x300_0000)) ∧
      exec (.capq d a 3) s = gives (s.base.myid.zeroExtend 64) ∧
      exec (.capq d a 4) s = gives (s.unitmap v.toNat)) ∧
    (t.level = 2 → t.holds a x → t.holds b y →
      exec (.wakep a b) s = .next ((s.wakeFor v w).commit t.adv) ∧
      (v.getLsbD 22 = false → v.extractLsb' 17 2 ≠ 2 →
        s.wakeFor v w = s.post (v.extractLsb' 6 11) 0 none 0 (.wake (v.extractLsb' 0 6).toNat)) ∧
      ((s.dropTlb v w scope (clusterOf t.id.core.toNat)).base.imports = if scope = 2 then [] else s.base.imports) ∧
      (scope ≠ 3 → exec (.tlbinv a b scope) s = .next ((s.dropTlb ((v.extractLsb' 0 53).zeroExtend 64) w scope
        (clusterOf t.id.core.toNat)).setThread
          { t with state := .parked, wait := .tlbinv ((v.extractLsb' 0 53).zeroExtend 64) w scope }))) ∧
    (t.level ≠ 2 → scope ≠ 3 → exec (.wakep a b) s = .next (takeTrap s t (.plain 0x02 s.word)) ∧
      exec (.tlbinv a b scope) s = .next (takeTrap s t (.plain 0x02 s.word)) ∧
      exec (.spill d a) s = .next (takeTrap s t (.plain 0x02 s.word)) ∧
      exec (.reghold d a false false) s = .next (takeTrap s t (.plain 0x02 s.word)) ∧
      exec (.regrel d a) s = .next (takeTrap s t (.plain 0x02 s.word)))

/-! ## Events

A row of the table without a word is an event. State's `ev` names the event being performed and its particulars, a
device of the model (log 15), so each statement below rests on that choice and on the rule it cites. -/

/-- Ends, decisions and pauses: a drained thread retires, its slot is FREE and its box, if any, DONE; a decision takes
effect on the box; a pause ends at the slot's own turn; a TLBINV ends when nothing uses an old entry (R48, R50,
R125, R281). Moves of a thread: for want of a unit it goes to the first core that accepts it, or traps UNAVAIL, in
one step (log 37), and issues there from its slot's next own turn; a stamped leaf that is the oldest, its accesses
over, writes its buffer out store by store and then goes on DIRECT; a hold makes it HELD; the spill engine begins
to write a HELD one whose writing relieves it, whatever trap it has recorded, when slots or entries run short; of
the contexts that left under one identity the first that may return to a core begins to be restored there, in its
region's turn, as one dispatch; and the lines of a context are written, or read, one by one, its pool's with their
bits (R95, R102, R177, R295 to R297, R299, R304; log 25). The event device that performs it is the model’s choice
(log 15). Which HELD thread is written is the model’s reading too (DEDUCED, log 25). -/
def Obligations.ThreadEvents : Prop :=
  (∀ (s s1 s2 : State) (t : Thread) (id : Ident) (r : Region) (d : Decision) (k stop : Nat) (lo len : Word)
     (scope : BitVec 2),
     let ended (q : State) : Host.Outcome State Fault Refusal := .next ((q.countInstr t).freeThread t.id)
     let woken : Thread := { t with pc := t.pc + 8, wait := .none, state := .ready }
     s.thread? id = some t → t.state = .parked → t.image = [] →
     (s.ev = some (.threadRetire id) → t.wait = .endDrain → t.pending = [] → s.drained t = true →
       t.spec = none →
       (t.rcb = 0 → exec .threadRetire s = ended s) ∧
       (t.rcb ≠ 0 → t.cls ≠ .rule → s.region? t.regionId = some r → s.settleBoxAt r t.rcb stDone = (s1, true) →
         exec .threadRetire s = ended s1)) ∧
     (s.ev = some (.decisionTakesEffect id) → t.wait = .decision d → t.pending = [] → s.drained t = true →
       s.region? t.regionId = some r → s.rcbKey (r.holderOf t.rcb) r t.rcb true = (s1, some k) →
       s1.applyDecision r (r.noteOf t.rcb) k t.id.core.toNat t.stampArg d = (s2, true) →
       exec .decisionTakesEffect s = ended s2) ∧
     (s.ev = some (.pauseExpiry id) → t.wait = .pause stop → stop ≤ s.cyc + 1 →
       (s.runCount id.core.toNat + 1) % 16 = id.slot / 4 → exec .pauseExpiry s = .next (s.commit woken)) ∧
     (s.ev = some (.tlbinvComplete id) → t.wait = .tlbinv lo len scope →
       s.opsMapped lo len scope (clusterOf id.core.toNat) = false →
       s.accsMapped lo len scope (clusterOf id.core.toNat) = false →
       exec .tlbinvComplete s = .next ((s.dropTlb lo len scope (clusterOf id.core.toNat)).commit woken))) ∧
  (∀ (s s1 : State) (t u : Thread) (id : Ident) (r : Region) (bit c i b k : Nat) (w : Word) (x : SpilledCtx)
     (kept : Bool) (core : CoreId) (l l2 : List (SpilledCtx × Bool)) (j : CtxJob),
     (s.thread? id = some t →
       (let cores := ((moveOrder id.core.toNat).filter fun c => (s.cap c).getLsbD bit).take 16
        let v := t.closeOpen
        s.ev = some (.unitMigration id) → t.wait = .unit bit → t.state = .parked → s.migrateClear t = true →
         (cores.find? (fun c => s.accepts c t.win) = none →
           exec .unitMigration s = .next (takeTrap s v (.plain 0x0A (BitVec.ofNat 64 bit)))) ∧
         (cores.find? (fun c => s.accepts c t.win) = some c → s.place c t.win = some (i, b) →
           s.moveThread v c i b = (s1, u) →
             exec .unitMigration s = .next (s1.arrived (s1.fromNextTurn u)))) ∧
       (s.ev = some (.becomeOldest id) → t.wait = .oldest → t.speculative = true → s.isOldest t = true →
         s.issuedOver id = true →
         (t.buffered = [] → (s.goDirect t).thread? id = some u → u.state = .parked → u.image = [] →
           exec .becomeOldest s = .next ((s.goDirect t).setThread { u with wait := .none, state := .ready })) ∧
         (∀ (st : Buffered) (more : List Buffered), t.id = id → t.buffered = st :: more →
           (s.setThread t.commits).writeOne t st = (s1, true) → s1.thread? id = some u →
           exec .becomeOldest s = .next (s1.setThread (u.withStores more)))) ∧
       (t.state = .ready ∨ t.state = .parked → s.holdThread t = (s1, u) →
         (s.ev = some (.hold id true) → u.state = .held ∧ exec .hold s = .next (s1.setThread { u with dbg := true })) ∧
         (s.ev = some (.hold id false) → s.region? t.regionId = some r → r.hold = .hold → t.cls = .leaf →
           exec .hold s = .next ((s1.setThread { u with regionHeld := true }).holdRcb u))) ∧
       (s.ev = some (.spillWrite id) → t.id = id → s.jobOf id = none → (∀ y ∈ s.jobs, y.restore = true) → t.state = .held →
         s.spillReady t = true → s.helps t (s.wants id.core.toNat) = true →
         ((s.freeSlot id.core.toNat).isSome = true →
           (∃ n ∈ s.wants id.core.toNat, s.freeRun id.core.toNat n.2 = none) →
           s.spillStart t true = (s1, some w) → exec .spillWrite s = .next s1) ∧
         (s.freeSlot id.core.toNat = none → (∃ n ∈ s.wants id.core.toNat, n.1 = true) →
           s.spillStart t false = (s1, some w) → exec .spillWrite s = .next s1)) ∧
       (s.jobOf id = some j → t.killed = none → j.done < j.lines →
         let key := stageKey j.addr j.done
         let pool := poolKey t.id.core.toNat ((t.pool.getD (0, 0)).1 + 64 * (j.done - j.head))
         let at' := j.addr + BitVec.ofNat 64 (64 * j.done)
         let next : CtxJob := { j with done := j.done + 1, read := false }
         (s.ev = some (.spillWrite id) → j.restore = false →
           (j.done < j.head → j.read = false → s.agentKey .spill 0 0 at' true = (s1, some k) →
             exec .spillWrite s = .next ((s1.putLine key k).setJob next)) ∧
           (j.head ≤ j.done → j.read = false →
             exec .spillWrite s = .next ((s.moveLines [(pool, key)]).setJob { j with read := true })) ∧
           (j.read = true → s.agentKey .spill 0 0 at' true = (s1, some k) →
             exec .spillWrite s = .next ((s1.moveLines [(key, k)]).setJob next))) ∧
         (s.ev = some (.contextRestore id id.core) → j.restore = true →
           (j.read = false → s.agentKey .spill 0 0 at' false = (s1, some k) →
             exec .contextRestore s = .next ((s1.moveLines [(k, key)]).setJob (if j.head ≤ j.done ∧
               64 * (j.done - j.head) < (t.pool.getD (0, 0)).2 then { j with read := true } else next))) ∧
           (j.read = true →
             exec .contextRestore s = .next ((s.moveLines [(key, pool)]).setJob next))))) ∧
     (s.ev = some (.contextRestore id core) → s.jobOf id = none →
       s.contexts.filter (fun y => y.1.keep.id = id) = l ++ (x, kept) :: l2 →
       (∀ y ∈ l, s.ctxMay y.1 y.2 core.toNat = false) →
       s.ctxMay x kept core.toNat = true → (s.peek 0 x.addr).isSome = true →
       (x.keep.rcb ≠ 0 → s.turnOf x.keep.regionId x.keep.prio = true) →
       s.restoreOn x.keep x.addr x.bytes core.toNat (x.slotOn kept core.toNat) = some s1 → s1.jobs.length ≠ s.jobs.length →
       exec .contextRestore s = .next (if x.keep.rcb = 0 then s1
         else s1.noteDispatch x.keep.regionId x.keep.prio s.waitingLevels)))

/-- Messages: one that arrives at an absent core, or at channel 2 of a compute core, is discarded; at a channel of
class wake it wakes a slot, which for a message that names none is the model's free value (log 44); another
message at a channel that is READY, not held and has room starts its thread, unless a buffered one starts first,
else it waits in the buffer, in one of four kept entries of channels 0, 1 and 3 or one of 60 others, or in the
mesh; a buffered context has left its slot (log 43); of the buffered the first of the highest priority starts; a
wake reaches its thread; and CHSET's change reaches its core, and its acknowledgement the thread (R71, R73, R75,
R136, R138, R139, R276, R283). Replies and deposits: a SYSCALL's reply lands in the register that awaits it; a
forwarding entry ends after its 4,096 cycles, no reply being left; a deposit lands in a register of its slot's
window that opened in an earlier cycle, behind the slot's own issue, and is counted as dropped outside every
window (R77, R78, R79, R139, R140). The event device that performs it is the model’s choice (log 15). -/
def Obligations.MessageEvents : Prop :=
  (∀ (s : State) (m : Msg) (core : CoreId) (t : Thread) (n slot : Nat) (u : BitVec 512) (id id' : Ident) (d : RegNum)
     (v : Word),
     let s0 := s.unmesh n
     let c := m.core.toNat
     s.arriving n = some m → m.n = n →
     (let arrives (i : Instr) : Prop :=
        (s.reachable c = false ∨ (m.chan = 2 ∧ c < 0x400) → exec i s = .next s0) ∧
        (s.reachable c = true → m.chan ≠ 2 ∨ 0x400 ≤ c →
          ((s0.chan c m.chan).cls = .wake →
            exec i s = .next ((s0.unknown.2.wakeSlot m.core (s0.unknown.1.toNat % 64)).sendDone m)) ∧
          ((s0.chan c m.chan).cls ≠ .wake → s0.startable m = true → (∀ x ∈ (s0.core c).inbuf, x.chan ≠ m.chan) →
            (s0.nextBuffered c = none → exec i s = .next ((s0.startMsg m).sendDone m)) ∧
            (s0.nextBuffered c ≠ none → exec i s = .next s)) ∧
          ((s0.chan c m.chan).cls ≠ .wake →
            s0.startable m = false ∨ (∃ x ∈ (s0.core c).inbuf, x.chan = m.chan) →
            let kept := ((s0.core c).inbuf.filter (·.kept)).length
            let mine : Prop := m.chan = 0 ∨ m.chan = 1 ∨ m.chan = 3
            (mine → kept < 4 → exec i s = .next ((s0.keepMsg { m with kept := true }).sendDone m)) ∧
            (¬mine ∨ 4 ≤ kept → (s0.core c).inbuf.length - kept < 60 →
              exec i s = .next ((s0.keepMsg m).sendDone m)) ∧
            (¬mine ∨ 4 ≤ kept → 60 ≤ (s0.core c).inbuf.length - kept → exec i s = .next s)))
      ((∃ l x, m.body = .user l x) ∨ (∃ l x y z, m.body = .request l x y z) ∨ (∃ g, m.body = .device g) ∨
          (∃ d, m.body = .routine d) → s.ev = some (.messageArrival n) → arrives .messageArrival) ∧
      (m.body = .trap u → s.ev = some (.trapMessage n) → arrives .trapMessage) ∧
      (∀ x d deadline, m.body = .context x d deadline → s.passed deadline = false → s.ev = some (.migrationArrival n) →
        arrives .migrationArrival)) ∧
     ((∀ x d e, m.body ≠ .context x d e) →
       s0.keepMsg m = s0.setCore c { s0.core c with inbuf := (s0.core c).inbuf ++ [m] }) ∧
     (∀ x d e, m.body = .context x d e → m.src = some id → s0.thread? id = some t → t.id = id →
       s0.freeIdent 0xFB00 0x1_0400 = some id' →
       (s0.keepMsg m).thread? id = none ∧ (∃ w, (s0.keepMsg m).thread? id' = some w ∧ w.state = .migrating ∧
         w.regs = t.regs ∧ w.pc = t.pc) ∧
       ((s0.keepMsg m).core c).inbuf = (s0.core c).inbuf ++ [{ m with src := some id' }]) ∧
     (m.body = .chset v → s.ev = some (.messageArrival n) → m.src = some id → s.thread? id = some t →
       t.wait = .chset n d → t.state = .parked → t.image = [] →
       exec .messageArrival s = .next ((s0.setChan c m.chan ((s.chan c m.chan).withBits (v.extractLsb' 0 4))).commit
         { t.setReg d 0 with pc := t.pc + 8, wait := .none, state := .ready })) ∧
     (m.body = .wake slot → s.ev = some (.pageWake n) → s0.thread? (mkIdent m.core slot) = some t → t.state = .parked →
       t.image = [] → t.wait = .page → t.killed = none → exec .pageWake s = .next (s0.setThread { t with wait := .none, state := .ready })) ∧
     (∀ q, s.nextBuffered core.toNat = some q → s.ev = some (.bufferedMessageStart core) →
       exec .bufferedMessageStart s = .next ((s.setCore core.toNat { s.core core.toNat with
         inbuf := (s.core core.toNat).inbuf.filter fun x => x.n != q.n }).startMsg q))) ∧
  (∀ (s : State) (t : Thread) (id : Ident) (r : RegNum) (v : Reg) (f : Forward) (n : Nat) (core : CoreId) (prev : Bool)
     (d : Deposit) (l : List Deposit),
     let c := core.toNat
     let dst := s.ringCore c prev
     let at' := s.thread? (mkIdent (BitVec.ofNat 11 dst) d.slot.toNat)
     (s.ev = some (.syscallReply id r v) → s.forwards = [] → s.thread? id = some t → r.toNat < t.win →
       (t.entry r).pres = .awaiting → (∀ a ∈ s.accs, a.t = t.id → a.d ≠ some r) →
       exec .syscallReply s = .next (s.setThread (t.setReg r v))) ∧
     (s.ev = some (.forwardingEntryExpiry n) → s.forwards.find? (fun f => f.n = n) = some f → f.stop ≤ s.cyc →
       (∀ a ∈ s.accs, a.home = f.old → a.t ≠ f.new) →
       exec .forwardingEntryExpiry s = .next { s with forwards := s.forwards.filter fun g => g.n != n }) ∧
     (s.ev = some (.depositLanding core prev) → s.link c prev = d :: l →
       (s.reachable dst = true → at' = some t → t.state = .ready ∨ t.state = .parked → d.reg.toNat < t.win →
         s.openFor t d.reg = true → s.jobOf t.id = none → exec .depositLanding s =
           .next (((s.popLink c prev false).setThread (t.setReg d.reg d.val)).settleAtoll (clusterOf c))) ∧
       (s.reachable dst = false ∨ at' = none ∨
           (at' = some t ∧ (t.state = .ready ∨ t.state = .parked) ∧ t.win ≤ d.reg.toNat) →
         exec .depositLanding s = .next ((s.popLink c prev true).settleAtoll (clusterOf c)))))

/-- Accesses: one in flight does its bank step; an answered ordinary one completes its instruction, or traps; an
answered relaxed one makes its register present, with the value, or with zero and a trap; a refused one is issued
again for one of %febudget, or traps FEBUDGET; one without an answer from the fabric in 2^24 cycles is REVOKED
(R55 to R57, R155, R158, R303, R340). The event device that performs it is the model’s choice (log 15). -/
def Obligations.AccessEvents : Prop :=
  ∀ (s : State) (a : Access) (t : Thread) (n : Nat) (v : Reg) (code : BitVec 8) (r : RegNum) (at' : Nat),
    let rest := s.dropGroup a.group
    s.accs.find? (fun a => a.n = n) = some a → s.thread? a.t = some t → a.agent = .thread →
    (s.ev = some (.bankAccess n) → a.stage = .inFlight → a.key.isSome = true → a.atPeer = false →
      s.inOrder a = true → exec .bankAccess s = .next (s.arrive a)) ∧
    (s.ev = some (.fabricTimeout n) → s.outside a = true → a.issued + 2 ^ 24 ≤ s.cyc →
      exec .fabricTimeout s = .next (s.setAccess { a with stage := .failed 0x0D })) ∧
    (s.ev = some (.accessAcknowledgement n none) → a.rel = false → (t.state = .parked ∨ t.state = .ready) →
      t.killed = none → t.image = [] → t.wait = .access (some r) 0 → s.group a.group = [a] → a.lane = none →
      t.id = a.t → t.spec = none →
      (a.stage = .done v → exec .accessAcknowledgement s = .next (rest.commit { t.setReg r v with
        pc := t.pc + 8, wait := .none, state := .ready })) ∧
      (a.stage = .failed code → exec .accessAcknowledgement s =
        .next (takeTrap rest t (a.trapOf code)))) ∧
    (a.rel = true → a.d = some r → s.group a.group = [a] → a.lane = none →
      (a.stage = .done v → a.t = a.home → s.ev = some (.relaxedCompletion n none) →
        exec .relaxedCompletion s = .next (rest.setThread (t.setReg r v))) ∧
      (a.stage = .done v → a.t ≠ a.home → s.ev = some (.forwardedReply n) →
        exec .forwardedReply s = .next (rest.setThread (t.setReg r v))) ∧
      (a.stage = .failed code → s.ev = some (.relaxedErrorResponse n none) → t.state = .ready → t.pending = [] →
        exec .relaxedErrorResponse s = .next ((rest.setThread (t.setReg r 0)).setThread { t.setReg r 0 with
          pending := [a.trapOf code] }))) ∧
    (s.ev = some (.refusalRetry n) → a.stage = .refused at' → at' ≤ s.cyc → t.killed = none →
      (t.sp.febudget ≠ 0 → exec .refusalRetry s = 
        let u : Thread := { t with sp := { t.sp with febudget := t.sp.febudget - 1 } }
        .next ((s.setThread u).threadRetry a)) ∧
      (t.sp.febudget = 0 → t.state = .parked → exec .refusalRetry s = .next (takeTrap (s.dropOrdinary t.id) t
        { code := 0x07, info := a.off, seg := a.seg, wr := a.form.writes, miss := 0 })))

/-- Pages: an ordinary access that meets a missing page is set aside with a request, and its thread waits for the
wake; a wake makes the MMU translate what waits again; a collapse asks every die and ends with the last
acknowledgement; a frame's bytes move as one; the pages of a retired Strait that could not be moved are poisoned,
and its banks are withdrawn (R161, R282, R283, R286, R288, R294). That all four dies are asked, not those with a
copy alone, is DEDUCED (log 32), and which pages could not be moved is the event's own (log 48). An uncorrectable
error poisons the word, register, tile slot or latch it strikes, or empties an instruction cache, and is logged,
but for the last (R291, R292, R309). That its record takes the first empty entry of the log, or none where none is
empty, and that the place of a tile or latch error is 64 times the core, no rule says: they are the model's choice
(DESIGN CHOICE, log 56). The event device that performs it is the model’s choice (log 15). -/
def Obligations.PageAndErrorEvents : Prop :=
  (∀ (s : State) (a : Access) (t : Thread) (m : Miss) (p : Dup) (n frame die strait src dst : Nat) (cl : Nat) (dva : Word)
     (l : List Nat) (stuck : List (Nat × Nat)),
     (s.ev = some (.pageFault n) → s.accs.find? (fun a => a.n = n) = some a → s.thread? a.t = some t →
       a.agent = .thread → a.stage = .inFlight → a.riders = [] → a.dva.toNat < poolBase → a.rel = false → a.lane = none →
       t.onAccess = true → t.killed = none → s.walk a.domain a.dva.toNat = .error m →
       exec .pageFault s = .next (((s.dropOrdinary t.id).pageRequest
         (pageG0 a.dva (some t.id) 0 a.form.writes m t.regionId a.domain)).setThread { t with
           wait := .page, state := if t.state = .ready then .parked else t.state })) ∧
     (s.ev = some (.mmuRewalk cl dva true) → (cl, dva, true) ∈ s.rewalks → exec .mmuRewalk s =
       .next (State.payOwed { s with rewalks := s.rewalks.erase (cl, dva, true),
                                     mmuWaits := s.mmuWaits.filter fun w =>
                                       !(!w.isCopy && s.samePage w.domain w.dva dva) })) ∧
     (s.ev = some (.collapse frame) → s.collapseOf frame = some p → exec .collapse s =
       .next { s with dups := (s.dups.filter fun q => q.home != p.home) ++
         [{ p with collapsing := some [0, 1, 2, 3] }] }) ∧
     (s.ev = some (.collapseAck frame die) → s.dupOf frame = some p → p.collapsing = some l → die ∈ l →
       let q : Dup := { p with collapsing := some (l.filter (· != die)) }
       let s1 := (s.performCopies p).dropHome p (some die)
       let s2 : State := { s1 with dups := s1.dups.map fun x => if x.home = p.home then q else x }
       exec .collapseAck s = .next (if l.filter (· != die) = [] then s2.endCollapse q else s2)) ∧
     (s.ev = some (.pageMigration src dst (2 ^ 17)) → src % 2 ^ 17 = 0 → dst % 2 ^ 17 = 0 → src ≠ dst →
       paSpace src < 5 → paSpace dst < 5 →
       s.roomForSkerries src dst (2 ^ 17) = true → s.memOk → ∃ s2, exec .pageMigration s = .next s2 ∧
         ∀ j, memByte j s2.mem = (if dst ≤ j ∧ j < dst + 2 ^ 17 then memByte (j - dst + src) s.mem else memByte j s.mem)) ∧
     (s.ev = some (.straitWithdrawal die strait stuck) → die < 4 → strait < 64 →
       (∀ p ∈ stuck, p.1 % 2 ^ 17 = 0 ∧ p.2 % 2 ^ 17 = 0) →
       (∀ a ∈ s.accs, ∀ k, a.key = some k → a.withdrawable = true → poolOf k = none → paSpace k < 4 →
         straitOf k = 64 * die + strait → ∃ p ∈ stuck, p.1 ≤ k ∧ k < p.1 + p.2) →
       ∃ s2, exec .straitWithdrawal s = .next s2 ∧
         (s2.strait (64 * die + strait)).getLsbD 2 = true ∧ s2.mem = s.mem ∧
         (∀ p ∈ stuck, ∀ k, p.1 ≤ k → k < p.1 + p.2 → s2.bad k = true) ∧
         (∀ k, paSpace k < 4 → straitOf k = 64 * die + strait → s2.withdrawn k = true))) ∧
  (∀ (s : State) (t : Thread) (k i : Nat) (id : Ident) (r : RegNum) (core : CoreId) (lat : Bool),
     let c := core.toNat
     let happens (e : ErrSite) (p : State → Prop) : Prop :=
       s.ev = some (.uncorrectableError e) → ∃ s2, exec .uncorrectableError s = .next s2 ∧ s2.mem = s.mem ∧ p s2
     let logged (s2 : State) (array place : Nat) : Prop :=
       (∀ l w r, s.sys.errlog = l ++ w :: r → (∀ x ∈ l, x.getLsbD 63 = true) → w.getLsbD 63 = false →
         s2.sys.errlog = l ++ BitVec.ofNat 64 (2 ^ 63 + 2 ^ 56 * array + place) :: r) ∧
       ((∀ x ∈ s.sys.errlog, x.getLsbD 63 = true) → s2.sys.errlog = s.sys.errlog)
     happens (.memory k) (fun s2 => s2.bad k = true ∧ (∀ j, s.bad j = true → s2.bad j = true) ∧
       logged s2 0 (k % 2 ^ 52)) ∧
     happens (.pageTable k) (fun s2 => s2.bad k = true ∧ logged s2 4 (k % 2 ^ 52)) ∧
     (s.thread? id = some t → t.id = id → r.toNat < t.win →
       happens (.register id r) fun s2 => (∃ u, s2.thread? id = some u ∧
         u.entry r = { t.entry r with poison := true } ∧ ∀ q, q ≠ r → u.entry q = t.entry q) ∧
         logged s2 1 id.toNat) ∧
     (i < s.tileSlots c → happens (.tile core i) fun s2 => (s2.tile c i).poison = true ∧ logged s2 2 (64 * c)) ∧
     happens (.latch core lat) (fun s2 => (if lat then (s2.core c).latch1 else (s2.core c).latch0).poison = true ∧
       logged s2 3 (64 * c)) ∧
     happens (.icache core) (fun s2 => (s2.core c).icache = [] ∧ (s2.core c).stale = [] ∧
       s2.sys.errlog = s.sys.errlog))

/-- The launch queue: a box whose turn it is and that a core can take is evaluated (EXPIRED past its deadline, by its
rule routine, or without one split at once by DEFER), dispatched as a leaf to pool and tile slots (EXPIRED past
its deadline, and FAULTED with a trap where no core could ever hold it, neither of them a dispatch), or joined
(R83, R85, R87, R92, R102). A region whose count has reached its budget is spent; one with nothing left under way
stores its losses to an empty completion word, fills it, and is no longer live; a word that is not an instruction
traps ILL with the word (R34, R104, R106). The event device that performs it is the model’s choice (log 15). Where
the pool and the tile slots lie, among the places that fit, is a free value (log 19). -/
def Obligations.TreeEvents : Prop :=
  (∀ (s s1 s2 : State) (r : Region) (b : BoxNote) (rid rcb k : Nat) (core : CoreId),
     let c := core.toNat
     let level := s.levelOf r b
     let noted (q : State) : Host.Outcome State Fault Refusal := .next (q.noteDispatch rid level s.waitingLevels)
     let at' (e : BitVec 512) : BoxNote := { b with holder := (s1.evalHolder e b k c).getD b.holder }
     let e := r.rule (s1.rcbRule k)
     s.region? rid = some r → r.note (BitVec.ofNat 64 rcb) = some b → r.open' = true → s.turnOf rid level = true →
     s.rcbKey b.holder r b.addr true = (s1, some k) →
     (s.ev = some (.evaluate rid rcb core) → s.readyOn r b c = some .evaluate →
       s1.midDefer e k = false →
       (s1.passed (s1.rcbDeadline k) = true → s.delivers r k .evaluate = false →
         s1.settleBoxAt r b.addr stExpired = (s2, true) → exec .evaluate s = .next s2) ∧
       (s1.passed (s1.rcbDeadline k) = false → s.delivers r k .evaluate = true → ruleRpres e = true →
         let q := (s1.setRcbState k stEval).setNote r.id (at' e)
         exec .evaluate s = noted (q.sendRoutine c (ruleRch e) (q.routine ((q.region? r.id).getD r) (at' e) k .rule
           (ruleRentry e) none (0, 0)))) ∧
       (s1.passed (s1.rcbDeadline k) = false → s.delivers r k .evaluate = true → ruleRpres e = false →
         let q := (s1.setRcbState k stEval).setNote r.id (at' e)
         q.applyDefer ((q.region? r.id).getD r) (at' e) k c = (s2, true) → exec .evaluate s = noted s2)) ∧
     (s.ev = some (.leafDispatch rid rcb core) → s.readyOn r b c = some .leaf → s.delivers r k .leaf = false →
       (s1.passed (s1.rcbDeadline k) = true → (∃ x ∈ allCores, s1.couldHold e k x = true) →
         s1.settleBoxAt r b.addr stExpired = (s2, true) → exec .leafDispatch s = .next s2) ∧
       ((∀ x ∈ allCores, s1.couldHold e k x = false) → s1.settleBoxAt r b.addr stFaulted = (s2, true) →
         exec .leafDispatch s = .next (s2.trapBox r b.addr))) ∧
     (s.ev = some (.leafDispatch rid rcb core) → s.readyOn r b c = some .leaf →
       s1.passed (s1.rcbDeadline k) = false → s.delivers r k .leaf = true → (∃ x ∈ allCores, s1.couldHold e k x = true) →
       ∀ o i, s1.poolPlace c (up64 (s1.poolNeed e k)) = some o → s1.tilePlace c (ruleTiles e) = some i →
         let pool := if up64 (s1.poolNeed e k) = 0 then none else some (o, up64 (s1.poolNeed e k))
         let q := (((s1.placed.clearPool c pool).clearTiles c i (ruleTiles e)).setRcbState k stRunning).setNote r.id
           { b with holder := .cluster (clusterOf c) }
         exec .leafDispatch s = noted (q.sendRoutine c (ruleLch e) (q.routine r b k .leaf (ruleLentry e) pool
           (i, ruleTiles e)))) ∧
     (s.ev = some (.joinDispatch rid rcb core) → s.readyOn r b c = some .join →
       exec .joinDispatch s = noted (s1.sendRoutine c (ruleJch e) (s1.routine r b k .join (ruleJentry e) none (0, 0)))) ∧
     (s.ev = some (.dispatch core) → s.regions = [(rid, r)] → r.boxes = [b] →
       b.addr = BitVec.ofNat 64 rcb → s.readyOn r b c = some .join →
       exec .dispatch s = noted (s1.sendRoutine c (ruleJch e) (s1.routine r b k .join (ruleJentry e) none (0, 0))))) ∧
  (∀ (s s1 : State) (t : Thread) (r : Region) (rid k : Nat),
     (s.region? rid = some r → s.ev = some (.cycleBudgetExhausted rid) → r.spent = false →
       r.budget ≠ BitVec.allOnes 64 → r.budget.toNat ≤ r.count →
       exec .cycleBudgetExhausted s = .next (s.setRegion { r with spent := true })) ∧
     (s.region? rid = some r → r.id = rid → s.ev = some (.regionCompletion rid) → r.completing = false →
       s.regionOver r = true →
       s.agentKey .completion r.id r.domain r.complWord true = (s1, some k) → s1.sound k 8 → s1.accs = [] → s1.full k = false → k % 8 = 0 →
       ∃ s2, exec .regionCompletion s = .next s2 ∧ s2.region? rid = none ∧ s2.full k = true ∧ s2.accs = [] ∧
         (s1.memOk → s2.read k 8 = 2 ^ 63 + 2 ^ 16 * min r.expired 0xFFFF + min r.faulted 0xFFFF)) ∧
     (Issues s t → exec .notAnInstruction s = .next (takeTrap s t (.plain 0x01 s.word))))

/-- The matrix engine: an operation whose latch condition holds starts with its translations, an MMA with its scales
read, or meets a missing page and leaves the queue with a page request; what is left of a started one that nothing
holds back is done, and it leaves; a BROT carries its latch to the next core's; a failing one makes its thread
trap ENGINE, with a copy of %estat (R216, R220, R221, R224, R225, R282). Copies: the copy at the head of a channel
makes its next access: in KEEP and SETFULL a piece of the line's source is read, with its bits, while one is left,
and then the line's destination is written, the write pointer moved past what has landed; a copy that is done
counts down its barrier and leaves; one that cannot go on is cancelled, the write pointer past what has landed,
and its thread traps (R236 to R238, R241, R242). The event device that performs it is the model’s choice (log 15).
When a line of an operation is read or written before its completion is the agenda’s choice (log 13). -/
def Obligations.EngineAndCopyEvents : Prop :=
  (∀ (s s1 : State) (o : EngineOp) (t : Thread) (core : CoreId) (l : List (Nat × Nat)) (kind : Nat) (src dl : Bool)
     (m : Miss) (a : Nat) (wr : Bool),
     let c := core.toNat
     ((s.core c).engq.find? (fun o => !o.started) = some o → s.opMayStart c o = true →
       (s.ev = some (.engineOpStart core) → s.mapOp o = (s1, .ok l) →
         let o1 : EngineOp := { o with started := true, maps := l, doneAt := s1.runCount c + o.cycles, since := s1.cyc }
         (o.isMma = true → s1.linesFree c o1 (o.inLines ((linesOfRanges o.scaleRanges).map fun x => x.1 / 64)) = true) →
         exec .engineOpStart s = .next (s1.setOp c (if o.isMma then s1.readLines o.scaleRanges o1 else o1))) ∧
       (s.ev = some (.enginePageFault core) → s.mapOp o = (s1, .error (a, wr, m)) → s1.thread? o.t = some t →
         t.id = o.t → t.state = .ready → t.onAccess = false → o ∈ (s1.core c).engq → ∃ s2 u, exec .enginePageFault s = .next s2 ∧
           s2.thread? o.t = some u ∧ u.state = .parked ∧ u.wait = .enginePage ∧ o.n ∈ u.image.map (·.n) ∧
           (∀ x ∈ (s2.core c).engq, x.n ≠ o.n) ∧
           (let g := pageG0 (BitVec.ofNat 64 a) (some o.t) 1 wr m t.regionId o.domain
            (s1.sys.pagesvc.getLsbD 63 = true → ∃ q, s2.mesh = s1.mesh ++ [q] ∧ q.body = .device g ∧
              q.core = s1.sys.pagesvc.extractLsb' 0 11 ∧ q.chan = s1.sys.pagesvc.extractLsb' 16 5) ∧
            (s1.sys.pagesvc.getLsbD 63 = false → s2.pageReqs = s1.pageReqs ++ [g])))) ∧
     ((s.core c).engq.find? (fun x => x.n = o.n) = some o → s.opNext c o = true →
       (s.ev = some (.engineOpComplete core o.n) → o.isBrot = false → s.fillReady c o = true →
         s.opTrouble c o = none → exec .engineOpComplete s =
         .next (State.dropOp { s.perform o with free := (s.perform o).free + 2 ^ 20 } c o.n)) ∧
       (s.ev = some (.engineFailure core o.n) → s.opTrouble c o = some kind → (s.partial' o).thread? o.t = some t →
         t.id = o.t → ∃ s2 u i, exec .engineFailure s = .next s2 ∧ s2.thread? o.t = some u ∧
           u.sp.estat = o.estat kind i ∧
           (t.state = .ready ∨ t.state = .held ∨ t.condemned = true →
             (∀ j ∈ t.pending, j.code = 0x0C) → u.pending = [.plain 0x0C (o.estat kind i)]) ∧
           (t.state = .parked → t.condemned = false → t.onAccess = false →
             u.state = .trapped ∧ u.sp.tcause = 0x0C ∧ u.sp.tinfo = u.sp.estat))) ∧
     ((s.startedOps c).find? (fun o => o.isBrot && o.readsLatch = some src) = some o → o.instr = some (.brot src dl) →
       s.opNext c o = true → s.opTrouble c o = none → s.ev = some (.brotArrival core src) →
       ∃ s2, exec .brotArrival s = .next s2 ∧
         (let n := s.ringCore c false
          (s.memOk → memBytes s2.mem (latchKey n dl 0) 8192 = memBytes s.mem (latchKey c src 0) 8192) ∧
          (if dl then (s2.core n).latch1 else (s2.core n).latch0).full = true ∧
          ∀ x ∈ (s2.core c).engq, x.n ≠ o.n))) ∧
  (∀ (s s1 s2 : State) (o o' : CopyOp) (l : List CopyOp) (t : Thread) (core : CoreId) (ch : BitVec 2) (i : TrapInfo)
     (ks kd : List (Nat × Nat)) (a : Word) (out : Bool) (k : Nat),
     let c := core.toNat
     let h := ch.toNat
     s.copyQueue c h = o :: l → s.copyAtMmu c h = false →
     (s.ev = some (.copyLine core ch) → o.waitingOn = none → o.started = true → o.landed < o.total →
       (s.setCwp o h o.landed).copyView c o = .ready s1 ks kd → (o.mode = .keep ∨ o.mode = .setfull) →
       let p := o.part o.landed
       let data := o.buf ++ fillBytes o.fill p.dst p.ms p.md
       let bits := (wholeWords p).map fun j => (j, !(o.mode = .keep && decide (j < p.ms)) || o.full.getD j true)
       (∀ k n more, ks = (k, n) :: more → isPeerKey k = false → exec .copyLine s = .next (s1.setCopy c h { o with
         buf := o.buf ++ memBytes s1.mem k n, full := o.full ++ (List.range n).map fun j => s1.full (k + j) })) ∧
       (∀ k n more, ks = [] → kd = (k, n) :: more → isPeerKey k = false → exec .copyLine s =
         .next (((s1.copyStore o.t kd data bits).setCopy c h { o with landed := o.landed + p.n, buf := o.buf.drop p.n,
                                                                      full := [] }).setCwp o h (o.landed + p.n))) ∧
       (ks = [] → kd = [] → exec .copyLine s = .next ((s1.setCopy c h { o with
         landed := o.landed + p.n, buf := o.buf.drop p.n, full := [] }).setCwp o h (o.landed + p.n)))) ∧
     (s.ev = some (.copyComplete core ch) → o.landed = o.total →
       (o.bar = none → exec .copyComplete s = .next ((s.setCwp o h o.total).dropCopy c h o.n)) ∧
       (o.bar = some (a, out) → s.barrierBad c h = none → s.route (clusterOf c) o.domain a true true = (s1, .bank k) →
         bankStep s1 k (.barcount out) = (s2, .ok 0) →
         exec .copyComplete s = .next (((s2.storedBy o.t k 16).setCwp o h o.total).dropCopy c h o.n))) ∧
     (s.ev = some (.copyCancel core ch) →
       s.copyBad c h = some i ∨ (s.copyBad c h = none ∧ s.barrierBad c h = some i) → s.copyResume o = (s1, o') →
       let q := (s1.setCwp o' h o'.landed).cancelCopies c h o'.t
       q.thread? o'.t = some t → exec .copyCancel s = .next (q.copyTrap t h i)))

/-- Power and the host port: PLIMIT stores at most 2,800; a throttle change is told to core 0x400; doorbells, their
target, DEVSTAT and HOSTIRQ do as their registers say; the host's accesses to its block and through an aperture
are answered, each behind every earlier write, and the lines of a request one by one; a function-level reset is
the reset state (R179, R332 to R338, R343). That reserved bits of doorbells and DEVSTAT are masked, and what of a
write MBXTGT stores, are DEDUCED (log 27). The event device that performs it is the model’s choice (log 15). Which
accesses of the block are served whole, and that a request’s first line is accessed when it arrives, is the
model’s choice too (log 26). -/
def Obligations.HostEvents : Prop :=
  ∀ (s : State) (v : Word) (vec : BitVec 5) (col n o : Nat) (data : List Byte) (k : Nat) (e : MsixEntry),
    let b := s.base
    let bell := v &&& 0x0000_FFFF_0000_1FFF
    let wrote : Prop := ∃ q ∈ b.bar2, q.write = true
    (s.ev = some (.powerLimitWrite v) → exec .powerLimitWrite s = .next (s.withBase { b with
      plimit := if 2800 < (v.extractLsb' 0 12).toNat then 2800 else v.extractLsb' 0 12 })) ∧
    (s.ev = some (.throttleEvent col v) → col < 16 → tabGet col s.sys.columns = none → v &&& 0x1_FFFF ≠ 0 →
      ∃ s2, exec .throttleEvent s = .next s2 ∧ s2.sysReg 0x101 (BitVec.ofNat 64 col) = v &&& 0x1_FFFF ∧
        ∃ m, s2.mesh = s.mesh ++ [m] ∧ m.core = 0x400 ∧ m.chan = 2 ∧
          m.body = .device (ofWords [BitVec.ofNat 64 col, v &&& 0x1_FFFF, BitVec.ofNat 64 s.cyc, 1])) ∧
    (s.ev = some (.inboundDoorbell v) →
      (wrote → exec .inboundDoorbell s = .next (s.withBase { b with
        bar2 := b.bar2 ++ [{ write := true, todo := [(0x2000, 8)], data := [], ep := false, kind := .doorbell v }] })) ∧
      (¬wrote → b.mbxtgt.getLsbD 63 = false →
        exec .inboundDoorbell s = .next (s.withBase { b with indb := bell, kept := some bell })) ∧
      (¬wrote → b.mbxtgt.getLsbD 63 = true → s.targetOk b.mbxtgt = true →
        exec .inboundDoorbell s = .next ((s.withBase { b with indb := bell }).post (b.mbxtgt.extractLsb' 0 11)
          (b.mbxtgt.extractLsb' 16 5) none 0 (.device (ofWords [bell, BitVec.ofNat 64 s.cyc]))))) ∧
    (s.ev = some (.mbxtgtWrite v) → b.kept = none →
      exec .mbxtgtWrite s = .next (s.withBase { b with mbxtgt := storeTarget v })) ∧
    (s.ev = some (.outboundDoorbell v) →
      exec .outboundDoorbell s = .next ((s.withBase { b with outdb := bell }).raise 0)) ∧
    (s.ev = some (.devstatWrite v) →
      let s1 := s.withBase { b with devstat := v &&& 0xFFFF_FFFF_0000_FF0F }
      exec .devstatWrite s = .next (if v.extractLsb' 0 4 = b.devstat.extractLsb' 0 4 then s1 else s1.raise 1)) ∧
    (s.ev = some (.hostirq v) →
      exec .hostirq s = .next (if 2 ≤ (v.extractLsb' 0 5).toNat then s.raise (v.extractLsb' 0 5).toNat else s)) ∧
    (b.msix[vec.toNat]? = some e → s.ev = some (.msixUnmask vec) →
      let e' : MsixEntry := { e with data := e.data &&& ~~~(0x1_0000_0000#64) }
      (wrote → exec .msixUnmask s = .next (s.withBase { b with bar2 := b.bar2 ++
        [{ write := true, todo := [(0x300C + 16 * vec.toNat, 4)], data := [], ep := false, kind := .unmask vec.toNat }] })) ∧
      (¬wrote → exec .msixUnmask s =
        .next ((s.withBase { b with msix := b.msix.set vec.toNat e' }).sendPending vec.toNat)) ∧
      (s.raise vec.toNat = if e.data.getLsbD 32 = false ∧ e.written = true then s.emit (.msix vec.toNat)
        else s.withBase { b with msixPending := b.msixPending ||| BitVec.ofNat 32 (2 ^ vec.toNat) })) ∧
    (s.ev = some (.hostBlockAccess false o n []) → hostMay o n = true → 0 < n → o % 64 + n ≤ 64 →
      (¬wrote → exec .hostBlockAccess s =
        .next (s.emit (.hostData ((List.range n).map fun j => s.hostByte (o + j)) false))) ∧
      (wrote → exec .hostBlockAccess s = .next (s.withBase { b with
        bar2 := b.bar2 ++ [{ write := false, todo := [(o, n)], data := [], ep := false, kind := .block }] }))) ∧
    (s.ev = some (.hostBlockAccess true o n data) → hostMay o data.length = true → data ≠ [] → o % 64 + data.length ≤ 64 →
      (¬wrote → o < 0x1000 → exec .hostBlockAccess s = .next (s.writeBytes (6 * 2 ^ 48 + o) data)) ∧
      (wrote → exec .hostBlockAccess s = .next (s.withBase { b with
        bar2 := b.bar2 ++ [{ write := true, todo := [(o, data.length)], data := data, ep := false, kind := .block }] }))) ∧
    (s.ev = some (.hostBlockAccess true o n data) → hostMay o data.length = false →
      exec .hostBlockAccess s = .next (s.emit .unsupported)) ∧
    (s.ev = some (.hostBar2Access false o n []) → 0 < n → o % 64 + n ≤ 64 → s.apertureKey o = some k →
      s.apertureKey (o + n - 1) = some (k + n - 1) → s.inSpace k = true → s.inSpace (k + n - 1) = true →
      s.withdrawn k = false → (∀ w ∈ wordsOf k n, s.bad w = false) →
      (∀ j < n, s.bad (k + j) = false) →
      (¬wrote → exec .hostBar2Access s =
        .next (s.emit (.hostData (memBytes s.mem k n) false))) ∧
      (wrote → exec .hostBar2Access s = .next (s.withBase { b with
        bar2 := b.bar2 ++ [{ write := false, todo := [(k, n)], data := [], ep := false }] }))) ∧
    (∀ i q, s.ev = some (.hostBar2Line i) → b.bar2[i]? = some q → (∀ p ∈ b.bar2.take i, p.write = false) →
      exec .hostBar2Access s = .next (s.bar2Step (b.bar2.take i) q (b.bar2.drop (i + 1)))) ∧
    (s.ev = some .hostConfigRequest → exec .hostConfigRequest s =
      .next (s.emit (if b.devstat.extractLsb' 0 4 = 0 then .configRetry else .configOk pciConfig))) ∧
    (s.ev = some .functionLevelReset → exec .functionLevelReset s =
      .next { State.reset with agenda := s.agenda, out := s.out, free := s.free })

/-- The fabric: FMSEND leaves by a valid route with a port up, and is counted as dropped without one, which the rule
says of an invalid entry only (DEDUCED, log 27); an arriving message goes to FMTGT's channel with its source, or
is counted; a link change shows in PORTSTAT; a peer's load needs an export entry, else it is answered REVOKED
(R339, R341, R342). The management port and the boot ROM: the port reads the frame of a descriptor it owns line by
line, and stores an arriving one so, and with the last line the frame is sent and the descriptor done; after a
power-on reset the ROM goes to stage 1 and, on files it accepts, to stage 3, with the firmware's first thread in
core 0x400 and its image in that core's pool, a place that the rule leaves open (DESIGN CHOICE, log 26), on others
to stage 15 with the failure's code; without a source it fails with code 1 (R344, R346). The event device that
performs it is the model’s choice (log 15). Details of the ports and the ROM are the model’s choice too (log 26). -/
def Obligations.FabricEvents : Prop :=
  (∀ (s : State) (v : Reg) (port : BitVec 5) (src : BitVec 20) (pa n : Nat) (up atom : Bool) (lanes : BitVec 3),
     let b := s.base
     let dropped := s.withBase { b with
       fmdrop := if b.fmdrop = BitVec.allOnes 32 then b.fmdrop else b.fmdrop + 1 }
     (s.ev = some (.fmsend v) → exec .fmsend s =
       .next (if s.routed (v.extractLsb' 0 20) then s.emit (.fabricMsg (v.extractLsb' 0 20) v) else dropped)) ∧
     (s.ev = some (.fabricMessageArrival port src v) → s.fabricBoot = false →
       (b.fmtgt.getLsbD 63 = true → s.targetOk b.fmtgt = true → exec .fabricMessageArrival s =
         .next (s.post (b.fmtgt.extractLsb' 0 11) (b.fmtgt.extractLsb' 16 5) none 0
           (.device (v.extractLsb' 20 492 ++ src)))) ∧
       (b.fmtgt.getLsbD 63 = false ∨ s.targetOk b.fmtgt = false → exec .fabricMessageArrival s = .next dropped)) ∧
     (s.ev = some .fmdropClear → exec .fmdropClear s = .next (s.withBase { b with fmdrop := 0 })) ∧
     (s.ev = some (.linkUpChange port up atom lanes) → port.toNat ∉ s.sys.units.noPorts → s.fabricBoot = false →
       exec .linkUpChange s = .next (s.withBase { b with
         ports := b.ports.set port.toNat (if up then lanes ++ BitVec.ofBool atom ++ 1#1 else 0) })) ∧
     (s.ev = some (.peerAccessArrival src pa (.load n)) → 0 < n → pa % 64 + n ≤ 64 →
       (s.exported src (pa / 2 ^ 17) 62 = false →
         exec .peerAccessArrival s = .next (s.emit (.peerReply src 0x0D 0))) ∧
       (s.inSpace pa = true → s.exported src (pa / 2 ^ 17) 62 = true → s.sound pa n → ∃ x,
         exec .peerAccessArrival s = .next (s.emit (.peerReply src 0 x)) ∧ x.toNat % 2 ^ (8 * n) = s.read pa n))) ∧
  (∀ (s : State) (k : Nat) (d : BitVec 128) (frame data : List Byte) (f : BootFiles) (port : BitVec 5) (pa : Nat),
     let len := (d.extractLsb' 96 16).toNat
     let a := (d.extractLsb' 0 64).toNat
     let r (src : BootSource) : State → Prop := fun s2 => s.ev = some (.powerOnReset src) → exec .powerOnReset s = .next s2
     (s.ev = some .mgmtTransmit → s.frameOn false = none → s.headDesc false = some (k, d) → 60 ≤ len → len ≤ 9600 →
       s.usable a len = true → exec .mgmtTransmit s = .next (s.setFrame false (some
         { rx := false, desc := k, hi := BitVec.ofNat 64 (2 ^ 32 * len), todo := linesFrom (lineCount len) a len, data := [] }))) ∧
     (s.headDesc true = some (k, d) → s.frameOn true = none → 60 ≤ frame.length → frame.length ≤ 9600 →
       (s.ev = some (.mgmtReceive frame false) → s.usable a frame.length = true → exec .mgmtReceive s =
         .next (s.setFrame true (some { rx := true, desc := k, hi := BitVec.ofNat 64 (2 ^ 32 * frame.length),
                                        todo := linesFrom (lineCount frame.length) a frame.length, data := frame }))) ∧
       (s.ev = some (.mgmtReceive frame true) → exec .mgmtReceive s = .next (s.setFrame true (some
         { rx := true, desc := k, hi := BitVec.ofNat 64 (2 ^ 32 * len + 2 ^ 49), todo := [], data := [] })))) ∧
     (∀ (f : Frame) (rx : Bool) (x n : Nat) (more : List (Nat × Nat)), s.frameOn rx = some f → s.ev = some (.mgmtLine rx) →
       let row : Instr := if rx then .mgmtReceive else .mgmtTransmit
       (f.todo = (x, n) :: more → s.usable x n = true →
         exec row s = .next (if rx then (s.portStore x (f.data.take n)).setFrame true
             (some { f with todo := more, data := f.data.drop n })
           else s.setFrame false (some { f with todo := more, data := f.data ++ memBytes s.mem x n }))) ∧
       (f.todo = [] → exec row s = .next (if rx then (s.setFrame true none).ringDone true f.desc f.hi
           else ((s.setFrame false none).emit (.frame f.data)).ringDone false f.desc f.hi))) ∧
     (s.ev = some (.bootFabricStore port pa data) → s.fabricBoot = true → s.base.bootPort = some port →
       s.linkUp port.toNat = true → paSpace pa = 4 → paOff pa + data.length ≤ 2 ^ 31 →
       data.length ≤ 64 → pa % 64 = 0 → data ≠ [] → exec .bootFabricStore s =
         .next ((s.withBase { s.base with bootPort := some port }).lineStore pa data)) ∧
     (∃ s2, r .nothing s2 ∧ (s2.base.devstat.extractLsb' 0 4 = 15 ∧ s2.base.devstat.extractLsb' 8 8 = 1)) ∧
     (∃ s2, r .fabric s2 ∧ s2.base.devstat.extractLsb' 0 4 = 1) ∧
     (∃ s2, r (.management f) s2 ∧
       (bootCode f = 0 → s2.base.devstat.extractLsb' 0 4 = 3 ∧ s2.sys.units = recordUnits (fileBody f.record) ∧
         s2.thread? (mkIdent 0x400 0) = some firmwareThread ∧
         let body := (fileBody f.image).take poolBytes
         memBytes s2.mem (poolKey 0x400 0) body.length = body) ∧
       (bootCode f ≠ 0 → s2.mem = [] ∧ (∀ x, s2.thread? x = none) ∧ bootCode f ≤ 5 ∧ s2.base.devstat.extractLsb' 0 4 = 15 ∧
         s2.base.devstat.extractLsb' 8 8 = BitVec.ofNat 8 (bootCode f))))

/-! ## State -/

/-- Right after reset no thread lives and no region, every channel has its class with nothing set, compute cores have
the partition 4 and system cores 0, the latches are empty, every %atoll is 3, PLIMIT is 2,800, MYID is all ones,
and every byte of memory reads zero with its word full (R71, R72, R142, R151, R215, R217, R332, R339); that memory
is canonical. That every byte reads zero, and the zeros that no rule gives, are the model’s choice (logs 2 and 3). -/
def Obligations.ResetState : Prop :=
  let s := State.reset
  (∀ t, s.thread? t = none) ∧ s.threads = [] ∧ s.regions = [] ∧
  (∀ c i, i < 32 → ∃ e, (s.core c).chans[i]? = some e ∧ e.ready = false ∧ e.hold = false ∧ e.npay = 0 ∧ e.prio = 0 ∧
    e.xsd = false ∧ e.win = 0 ∧ e.entry = 0 ∧
    e.cls = (if i = 0 then .wake else if i = 1 then .trap else if i = 3 then .migration else .message)) ∧
  (∀ c, (s.core c).acc = (if c < 0x400 then 4 else 0) ∧ (s.core c).engq = [] ∧ (s.core c).inbuf = [] ∧
    (s.core c).latch0.full = false ∧ (s.core c).latch1.full = false) ∧
  (∀ c, c < 0x400 → s.scratchBytes c = 1835008 ∧ s.tileSlots c = 16) ∧
  (∀ cl, s.atollGs cl = 3) ∧
  s.base.plimit = 2800 ∧ s.base.myid = 0xFFFFF ∧
  (∀ k n, s.read k n = 0 ∧ s.full k = true ∧ s.bad k = false) ∧
  s.memOk

/-- Every step keeps memory canonical: addresses rising, and no byte listed that an unlisted address reads as. -/
def Obligations.StepKeepsMemoryCanonical : Prop :=
  ∀ s s' : State, s.memOk → step s = .next s' → s'.memOk

/-- Every step keeps what other statements take for granted of the tables: from a state in which every thread has its
seven masks k1 to k7, to such a state; from one in which every thread stands under its own identity, to such a
state; and from one in which every region stands under its own number, to such a state (R4, R9, R67, R133). -/
def Obligations.StepKeepsTables : Prop :=
  ∀ s s' : State, step s = .next s' →
    ((∀ p ∈ s.threads, p.2.masks.length = 7) → ∀ p ∈ s'.threads, p.2.masks.length = 7) ∧
    ((∀ p ∈ s.threads, p.2.id.toNat = p.1) → ∀ p ∈ s'.threads, p.2.id.toNat = p.1) ∧
    ((∀ p ∈ s.regions, p.2.id = p.1) → ∀ p ∈ s'.regions, p.2.id = p.1)

/-- What is written reads back, and nothing else changes: a value of memory under its key, a word's full/empty bit, a
register of a window, a mask other than k0 (which always reads all ones) of a thread with its seven masks, which
every step keeps (StepKeepsTables), a thread of an identity (R5, R9, R53, R151). -/
def Obligations.ReadAfterWrite : Prop :=
  (∀ (s : State) (k n v : Nat), s.memOk → (s.write k n v).memOk ∧ (s.write k n v).read k n = v % 2 ^ (8 * n) ∧
    ∀ j, j < k ∨ k + n ≤ j → memByte j (s.write k n v).mem = memByte j s.mem) ∧
  (∀ (s : State) (k j : Nat) (b : Bool), (s.setFull k b).full j = if k / 8 = j / 8 then b else s.full j) ∧
  (∀ (t : Thread) (r q : RegNum) (v : Reg), r.toNat < t.win → (t.setReg r v).entry q =
    if q = r then { val := v, pres := .present, poison := false } else t.entry q) ∧
  (∀ (t : Thread) (k q : KReg) (v : Word), t.masks.length = 7 → (t.setMask k v).mask q =
    if q = 0 then BitVec.allOnes 64 else if q = k then v else t.mask q) ∧
  (∀ (s : State) (t : Thread) (q : Ident), (s.setThread t).thread? q = if q = t.id then some t else s.thread? q) ∧
  (∀ (s : State) (t q : Ident), (s.freeThread t).thread? q = if q = t then none else s.thread? q)
end

