-- ==== Sys2Proof/Laws/Memory.lean ====
section
/-! SUPPORT. What memory's operations do to its bytes, and that they keep its canonical form. -/

namespace Sys2Proof.Machine

/-! ## The canonical form -/

theorem memSorted_mono {lo lo' : Nat} {m : List Host.Cell} (h : lo' ≤ lo) (hm : memSorted lo m = true) :
    memSorted lo' m = true := by
  cases m with
  | nil => rfl
  | cons c t =>
    simp only [memSorted, Bool.and_eq_true, decide_eq_true_eq] at hm ⊢
    exact ⟨⟨by omega, hm.1.2⟩, hm.2⟩

/-- Below the first listed key every byte reads zero. -/
theorem memByte_below {k lo : Nat} {m : List Host.Cell} (hm : memSorted lo m = true) (h : k < lo) :
    memByte k m = 0 := by
  cases m with
  | nil => rfl
  | cons c t =>
    simp only [memSorted, Bool.and_eq_true, decide_eq_true_eq] at hm
    have h1 : c.1 ≠ k := by omega
    have h2 : k < c.1 := by omega
    simp [memByte, h1, h2]

/-- Writing a byte keeps keys rising and zero bytes out. -/
theorem memSorted_memPut (k : Nat) (b : Byte) (m : List Host.Cell) :
    ∀ lo, lo ≤ k → memSorted lo m = true → memSorted lo (memPut k b m) = true := by
  induction m with
  | nil =>
    intro lo h _
    by_cases hb : b = 0#8 <;> simp [memPut, memSorted, hb, h]
  | cons c t ih =>
    intro lo h hm
    obtain ⟨j, v⟩ := c
    simp only [memSorted, Bool.and_eq_true, decide_eq_true_eq] at hm
    obtain ⟨⟨hj, hv⟩, ht⟩ := hm
    by_cases h1 : j = k
    · subst h1
      by_cases hb : b = 0#8
      · simpa [memPut, hb] using memSorted_mono (by omega) ht
      · simp [memPut, hb, memSorted, hj, ht]
    · by_cases h2 : k < j
      · by_cases hb : b = 0#8
        · simpa [memPut, h1, h2, hb, memSorted, hj, ht] using hv
        · simpa [memPut, h1, h2, hb, memSorted, h, hj, ht, Nat.succ_le_of_lt h2] using hv
      · simpa [memPut, h1, h2, memSorted, hj, ih (j + 1) (by omega) ht] using hv

theorem memWf_memPut (k : Nat) (b : Byte) {m : List Host.Cell} (h : Memory.wf m = true) :
    Memory.wf (memPut k b m) = true := memSorted_memPut k b m 0 (Nat.zero_le _) h

/-- Writing bytes keeps the canonical form. -/
theorem memWf_memWrite (l : List Byte) :
    ∀ (m : List Host.Cell) (k : Nat), Memory.wf m = true → Memory.wf (memWrite m k l) = true := by
  induction l with
  | nil => exact fun _ _ h => h
  | cons b t ih => exact fun m k h => ih _ _ (memWf_memPut k b h)

/-- Removing entries keeps the canonical form. -/
theorem memSorted_filter (p : Host.Cell → Bool) (m : List Host.Cell) :
    ∀ lo, memSorted lo m = true → memSorted lo (m.filter p) = true := by
  induction m with
  | nil => exact fun _ h => h
  | cons c t ih =>
    intro lo hm
    simp only [memSorted, Bool.and_eq_true, decide_eq_true_eq] at hm
    by_cases hp : p c = true
    · simp only [List.filter_cons, hp, ite_true, memSorted, Bool.and_eq_true, decide_eq_true_eq]
      exact ⟨hm.1, ih _ hm.2⟩
    · simp only [List.filter_cons, hp]
      exact ih _ (memSorted_mono (by omega) hm.2)

theorem memWf_filter (p : Host.Cell → Bool) {m : List Host.Cell} (h : Memory.wf m = true) :
    Memory.wf (m.filter p) = true := memSorted_filter p m 0 h

/-! ## Reading what was written -/

/-- A byte written reads back; every other byte is as it was. -/
theorem memByte_memPut (a k : Nat) (b : Byte) (m : List Host.Cell) :
    ∀ lo, memSorted lo m = true → memByte a (memPut k b m) = if a = k then b else memByte a m := by
  induction m with
  | nil =>
    intro lo _
    by_cases hb : b = 0#8
    · simp [memPut, memByte, hb]
    · by_cases ha : a = k
      · simp [memPut, memByte, hb, ha]
      · simp [memPut, memByte, hb, ha, Ne.symm ha]
  | cons c t ih =>
    intro lo hm
    obtain ⟨j, v⟩ := c
    simp only [memSorted, Bool.and_eq_true, decide_eq_true_eq] at hm
    obtain ⟨⟨hj, hv⟩, ht⟩ := hm
    by_cases h1 : j = k
    · subst h1
      by_cases ha : a = j
      · subst ha
        by_cases hb : b = 0#8
        · simp [memPut, hb, memByte_below ht (Nat.lt_succ_self a)]
        · simp [memPut, hb, memByte]
      · by_cases hb : b = 0#8
        · by_cases hl : a < j
          · simp [memPut, hb, memByte, ha, Ne.symm ha, hl, memByte_below ht (Nat.lt_succ_of_lt hl)]
          · simp [memPut, hb, memByte, ha, Ne.symm ha, hl]
        · simp [memPut, hb, memByte, ha, Ne.symm ha]
    · by_cases h2 : k < j
      · by_cases ha : a = k
        · subst ha
          by_cases hb : b = 0#8
          · simp [memPut, h1, h2, hb, memByte]
          · simp [memPut, h1, h2, hb, memByte]
        · by_cases hb : b = 0#8
          · simp [memPut, h1, h2, hb, ha]
          · by_cases hl : a < k
            · have : a < j := by omega
              have h3 : j ≠ a := by omega
              simp [memPut, h1, h2, hb, memByte, ha, Ne.symm ha, hl, this, h3]
            · simp [memPut, h1, h2, hb, memByte, ha, Ne.symm ha, hl]
      · have := ih _ ht
        by_cases ha : a = k
        · subst ha
          simp only [ite_true] at this
          simp [memPut, h1, h2, memByte, this]
        · simp only [ha, ite_false] at this
          simp [memPut, h1, h2, memByte, this, ha]

theorem memByte_memPut_wf (a k : Nat) (b : Byte) {m : List Host.Cell} (h : Memory.wf m = true) :
    memByte a (memPut k b m) = if a = k then b else memByte a m := memByte_memPut a k b m 0 h

/-- Bytes written read back, and no other byte changes. -/
theorem memByte_memWrite (a : Nat) (l : List Byte) :
    ∀ (m : List Host.Cell) (k : Nat), Memory.wf m = true →
      memByte a (memWrite m k l) = if k ≤ a ∧ a < k + l.length then l.getD (a - k) 0 else memByte a m := by
  induction l with
  | nil => intro m k _; simp [memWrite]
  | cons b t ih =>
    intro m k h
    rw [memWrite, ih _ _ (memWf_memPut k b h), memByte_memPut_wf a k b h]
    by_cases ha : a = k
    · subst ha; simp
    · by_cases hi : k + 1 ≤ a ∧ a < k + 1 + t.length
      · have e : a - k = (a - (k + 1)) + 1 := by omega
        have hc : k ≤ a ∧ a < k + (b :: t).length := by simp; omega
        simp only [hi, hc, and_self, ite_true, e, List.getD_cons_succ]
      · have hc : ¬ (k ≤ a ∧ a < k + (b :: t).length) := by simp; omega
        rw [if_neg hi, if_neg hc, if_neg ha]

theorem memBytes_length (m : List Host.Cell) (n : Nat) : ∀ k, (memBytes m k n).length = n := by
  induction n with
  | zero => intro k; rfl
  | succ n ih => intro k; simp [memBytes, ih]

/-- Memory reads back exactly the bytes just written. -/
theorem memBytes_memWrite (l : List Byte) :
    ∀ (m : List Host.Cell) (k : Nat), Memory.wf m = true → memBytes (memWrite m k l) k l.length = l := by
  have key : ∀ (n : Nat) (m : List Host.Cell) (k : Nat) (f : Nat → Byte),
      (∀ i, i < n → memByte (k + i) m = f i) → memBytes m k n = (List.range n).map f := by
    intro n
    induction n with
    | zero => intro m k f _; rfl
    | succ n ih =>
      intro m k f h
      rw [memBytes, ih m (k + 1) (fun i => f (i + 1)) (fun i hi => by
        rw [← h (i + 1) (by omega)]; congr 1; omega), List.range_succ_eq_map]
      have h0 := h 0 (by omega)
      simp only [Nat.add_zero] at h0
      simp [h0, Function.comp_def]
  intro m k h
  rw [key l.length _ k (fun i => l.getD i 0) (fun i hi => by
    rw [memByte_memWrite _ _ _ _ h]
    have hc : k ≤ k + i ∧ k + i < k + l.length := by omega
    simp only [hc, and_self, ite_true]
    congr 1; omega)]
  apply List.ext_getElem
  · simp
  · intro i h1 h2
    simp only [List.length_map, List.length_range] at h1
    simp [List.getD_eq_getElem?_getD, h1]

/-! ## In a state -/

theorem State.memWf_write (s : State) (k n v : Nat) (h : Memory.wf s.mem = true) :
    Memory.wf (s.write k n v).mem = true := memWf_memWrite _ _ _ h

theorem State.memWf_writeBytes (s : State) (k : Nat) (l : List Byte) (h : Memory.wf s.mem = true) :
    Memory.wf (s.writeBytes k l).mem = true := memWf_memWrite _ _ _ h

theorem State.memWf_scrubbed (s : State) (k n : Nat) (h : Memory.wf s.mem = true) :
    Memory.wf (s.scrubbed k n).mem = true := memWf_filter _ h

theorem State.memWf_zeroed (s : State) (k n : Nat) (h : Memory.wf s.mem = true) :
    Memory.wf (s.zeroed k n).mem = true := memWf_filter _ h

theorem natBytes_length (n v : Nat) : (natBytes n v).length = n := by simp [natBytes]

end Sys2Proof.Machine
end

