-- ==== Sys2Proof/Laws/Ops.lean ====
section
/-! SUPPORT. One law for each shared operation of Machine/Ops.lean: what it answers. -/

namespace Sys2Proof.Machine

/-! ## The frame of an instruction -/

/-- An instruction of an issuing thread that has its effect. -/
theorem runWith_ok {s s' : State} {t t' : Thread} {b : BitVec 8 → Bool}
    {f : State → Thread → X (State × Thread)} (h : Issues s t) (hf : f s t = .ok (s', t')) :
    runWith b s f = .next (s'.commit t') := by
  simp [runWith, h.live, h.cycles, hf]

/-- An instruction of an issuing thread that stops. -/
theorem runWith_error {s : State} {t : Thread} {b : BitVec 8 → Bool} {st : Stop}
    {f : State → Thread → X (State × Thread)} (h : Issues s t) (hf : f s t = .error st) :
    runWith b s f = .next (stopped s t st) := by
  simp [runWith, h.live, h.cycles, hf]

theorem runT_ok {s s' : State} {t t' : Thread} {f : State → Thread → X (State × Thread)}
    (h : Issues s t) (hf : f s t = .ok (s', t')) : runT s f = .next (s'.commit t') :=
  runWith_ok h hf

theorem runT_error {s : State} {t : Thread} {st : Stop} {f : State → Thread → X (State × Thread)}
    (h : Issues s t) (hf : f s t = .error st) : runT s f = .next (stopped s t st) :=
  runWith_error h hf

/-- All that an instruction can answer: no live thread, BUDGET or an earlier cause, its effect, or its stop. -/
theorem runWith_cases (b : BitVec 8 → Bool) (s : State) (f : State → Thread → X (State × Thread)) :
    (s.thread? s.cur = none ∧ runWith b s f = .fault .noThread) ∨
    ∃ t, s.thread? s.cur = some t ∧
      ((s.spent t = true ∧ runWith b s f = .next (stopped s t (spentStop b t (f s t)))) ∨
       (s.spent t = false ∧
        ((∃ s' t', f s t = .ok (s', t') ∧ runWith b s f = .next (s'.commit t')) ∨
         (∃ st, f s t = .error st ∧ runWith b s f = .next (stopped s t st))))) := by
  unfold runWith
  cases ht : s.thread? s.cur with
  | none => exact .inl ⟨rfl, rfl⟩
  | some t =>
    refine .inr ⟨t, rfl, ?_⟩
    cases hsp : s.spent t with
    | true => exact .inl ⟨rfl, by simp [hsp]⟩
    | false =>
      refine .inr ⟨rfl, ?_⟩
      cases hf : f s t with
      | error st => exact .inr ⟨st, rfl, by simp [hsp, hf]⟩
      | ok p => exact .inl ⟨p.1, p.2, rfl, by simp [hsp, hf]⟩

/-! ## Registers -/

theorem Thread.holds.takes {t : Thread} {r : RegNum} {x : Reg} (h : t.holds r x) : t.takes r :=
  ⟨h.inside, by simp [h.entry]⟩

theorem presentX_holds {t : Thread} {r : RegNum} {x : Reg} (h : t.holds r x) : presentX t r = .ok x := by
  simp [presentX, h.entry]

theorem cleanX_holds {t : Thread} {r : RegNum} {x : Reg} (h : t.holds r x) : cleanX t r = .ok () := by
  simp [cleanX, h.entry]

theorem readX_holds {t : Thread} {r : RegNum} {x : Reg} (h : t.holds r x) : readX t r = .ok x := by
  unfold readX
  rw [presentX_holds h, cleanX_holds h]
  rfl

/-- No register of a list is poisoned. -/
theorem cleansX_ok {t : Thread} : ∀ {l : List RegNum}, (∀ r ∈ l, (t.entry r).poison = false) → cleansX t l = .ok ()
  | [], _ => rfl
  | r :: rs, h => by
    have hc : cleanX t r = .ok () := by simp [cleanX, h r (by simp)]
    unfold cleansX
    rw [hc]
    exact cleansX_ok fun q hq => h q (by simp [hq])

theorem destX_takes {t : Thread} {r : RegNum} (h : t.takes r) : destX t r = .ok () := by
  simp [destX, h.free]

/-- Every register named lies in the window. -/
theorem windowX_ok {t : Thread} : ∀ {l : List RegNum}, (∀ r ∈ l, r.toNat < t.win) → windowX t l = .ok ()
  | [], _ => rfl
  | r :: rs, h => by
    simp only [windowX, h r (by simp), if_true]
    exact windowX_ok fun q hq => h q (by simp [hq])

/-- The first register outside the window is reported (R5). -/
theorem windowX_error {t : Thread} {r : RegNum} {l m : List RegNum} (hl : ∀ q ∈ l, q.toNat < t.win)
    (hr : t.win ≤ r.toNat) :
    windowX t (l ++ r :: m) = .error (.trap (.plain 0x03 (BitVec.ofNat 64 (r.toNat + 256 * t.win)))) := by
  induction l with
  | nil => simp [windowX, trapX, Nat.not_lt.mpr hr]
  | cons q qs ih =>
    simp only [List.cons_append, windowX, hl q (by simp), if_true]
    exact ih fun p hp => hl p (by simp [hp])

/-- What reading a register answers: its value, a park, or POISON. -/
theorem readX_cases (t : Thread) (r : RegNum) :
    (∃ x, (t.entry r).pres = .present ∧ (t.entry r).poison = false ∧ x = (t.entry r).val ∧ readX t r = .ok x) ∨
    ((t.entry r).pres ≠ .present ∧ readX t r = .error (.park (.reg r))) ∨
    ((t.entry r).pres = .present ∧ (t.entry r).poison = true ∧
      readX t r = .error (.trap (.plain 0x0E (0x8000_0000_0000_0000#64 ||| r.zeroExtend 64)))) := by
  by_cases hp : (t.entry r).pres = .present
  · cases hq : (t.entry r).poison with
    | false => exact .inl ⟨_, hp, rfl, rfl, by simp [readX, presentX, cleanX, hp, hq, bind, Except.bind, pure, Except.pure]⟩
    | true => exact .inr (.inr ⟨hp, rfl, by simp [readX, presentX, cleanX, hp, hq, trapX, bind, Except.bind]⟩)
  · exact .inr (.inl ⟨hp, by simp [readX, presentX, hp, parkX, bind, Except.bind]⟩)

theorem need_true {c : Bool} {st : Stop} (h : c = true) : need c st = .ok () := by simp [need, h]

theorem need_false {c : Bool} {st : Stop} (h : c = false) : need c st = .error st := by simp [need, h]

theorem unitX_has {s : State} {t : Thread} {bit : Nat} (h : s.has t bit) : unitX s t bit = .ok () := by
  unfold unitX
  exact if_pos h

/-! ## Accesses -/

theorem checkX_reaches {s s1 : State} {t : Thread} {g : SegReg} {e : Word} {f : Form} {align k : Nat}
    (h : Reaches s t g e f align s1 k) :
    checkX s t g e f.bytes align f.rights f.writes = .ok (segBase (t.seg g) + e) := by
  simp [checkX, Nat.not_lt.mpr h.limit, h.mapped, h.rights, h.aligned]

theorem oldestX_plain {t : Thread} (h : t.spec = none) : oldestX t = .ok () := by
  simp [oldestX, Thread.speculative, h]

theorem sameWordX_alone {s : State} {t : Thread} {a : Word} {n : Nat} (h : s.relaxedOf t.id = []) :
    sameWordX s t a n = .ok () := by
  simp [sameWordX, State.sharedWords, h]

/-- A store of a thread that is no stamped leaf rolls nobody back. -/
theorem State.storedBy_plain {s : State} {t : Thread} {k n : Nat} (h : s.thread? t.id = some t) (hs : t.spec = none) :
    s.storedBy t.id k n = s := by
  simp [State.storedBy, h, State.stampedStored, State.youngerLeaves, hs]

/-- A thread that no THKILL has stopped has the wait that it is given. -/
theorem Thread.withWait_free {t : Thread} (w : Wait) (h : t.killed = none) : t.withWait w = { t with wait := w } := by
  simp [Thread.withWait, h]

/-- Giving a thread a wait changes neither its number nor its registers. -/
@[simp] theorem Thread.withWait_id (t : Thread) (w : Wait) : (t.withWait w).id = t.id := by
  unfold Thread.withWait; split <;> rfl

@[simp] theorem Thread.withWait_regs (t : Thread) (w : Wait) : (t.withWait w).regs = t.regs := by
  unfold Thread.withWait; split <;> rfl

end Sys2Proof.Machine
end

