-- ==== Sys2Proof/Laws/State.lean ====
section
/-! SUPPORT. What each update of a record leaves: one lemma per field per update. -/

namespace Sys2Proof.Machine

/-! ## State.setThread -/

@[simp] theorem State.setThread_cyc (s : State) (t : Thread) :
    (s.setThread t).cyc = s.cyc := rfl

@[simp] theorem State.setThread_cores (s : State) (t : Thread) :
    (s.setThread t).cores = s.cores := rfl

@[simp] theorem State.setThread_mem (s : State) (t : Thread) :
    (s.setThread t).mem = s.mem := rfl

@[simp] theorem State.setThread_empties (s : State) (t : Thread) :
    (s.setThread t).empties = s.empties := rfl

@[simp] theorem State.setThread_poisoned (s : State) (t : Thread) :
    (s.setThread t).poisoned = s.poisoned := rfl

@[simp] theorem State.setThread_accs (s : State) (t : Thread) :
    (s.setThread t).accs = s.accs := rfl

@[simp] theorem State.setThread_regions (s : State) (t : Thread) :
    (s.setThread t).regions = s.regions := rfl

@[simp] theorem State.setThread_mesh (s : State) (t : Thread) :
    (s.setThread t).mesh = s.mesh := rfl

@[simp] theorem State.setThread_tlb (s : State) (t : Thread) :
    (s.setThread t).tlb = s.tlb := rfl

@[simp] theorem State.setThread_mmuWaits (s : State) (t : Thread) :
    (s.setThread t).mmuWaits = s.mmuWaits := rfl

@[simp] theorem State.setThread_pageReqs (s : State) (t : Thread) :
    (s.setThread t).pageReqs = s.pageReqs := rfl

@[simp] theorem State.setThread_rewalks (s : State) (t : Thread) :
    (s.setThread t).rewalks = s.rewalks := rfl

@[simp] theorem State.setThread_dups (s : State) (t : Thread) :
    (s.setThread t).dups = s.dups := rfl

@[simp] theorem State.setThread_forwards (s : State) (t : Thread) :
    (s.setThread t).forwards = s.forwards := rfl

@[simp] theorem State.setThread_spilled (s : State) (t : Thread) :
    (s.setThread t).spilled = s.spilled := rfl

@[simp] theorem State.setThread_arena (s : State) (t : Thread) :
    (s.setThread t).arena = s.arena := rfl

@[simp] theorem State.setThread_jobs (s : State) (t : Thread) :
    (s.setThread t).jobs = s.jobs := rfl

@[simp] theorem State.setThread_codeSeg (s : State) (t : Thread) :
    (s.setThread t).codeSeg = s.codeSeg := rfl

@[simp] theorem State.setThread_sys (s : State) (t : Thread) :
    (s.setThread t).sys = s.sys := rfl

@[simp] theorem State.setThread_base (s : State) (t : Thread) :
    (s.setThread t).base = s.base := rfl

@[simp] theorem State.setThread_serial (s : State) (t : Thread) :
    (s.setThread t).serial = s.serial := rfl

@[simp] theorem State.setThread_owed (s : State) (t : Thread) :
    (s.setThread t).owed = s.owed := rfl

@[simp] theorem State.setThread_lastServed (s : State) (t : Thread) :
    (s.setThread t).lastServed = s.lastServed := rfl

@[simp] theorem State.setThread_shareWindow (s : State) (t : Thread) :
    (s.setThread t).shareWindow = s.shareWindow := rfl

@[simp] theorem State.setThread_out (s : State) (t : Thread) :
    (s.setThread t).out = s.out := rfl

@[simp] theorem State.setThread_cur (s : State) (t : Thread) :
    (s.setThread t).cur = s.cur := rfl

@[simp] theorem State.setThread_word (s : State) (t : Thread) :
    (s.setThread t).word = s.word := rfl

@[simp] theorem State.setThread_slow (s : State) (t : Thread) :
    (s.setThread t).slow = s.slow := rfl

@[simp] theorem State.setThread_ev (s : State) (t : Thread) :
    (s.setThread t).ev = s.ev := rfl

@[simp] theorem State.setThread_due (s : State) (t : Thread) :
    (s.setThread t).due = s.due := rfl

@[simp] theorem State.setThread_agenda (s : State) (t : Thread) :
    (s.setThread t).agenda = s.agenda := rfl

@[simp] theorem State.setThread_free (s : State) (t : Thread) :
    (s.setThread t).free = s.free := rfl

/-! ## State.freeThread -/

@[simp] theorem State.freeThread_cyc (s : State) (t : Ident) :
    (s.freeThread t).cyc = s.cyc := by
  unfold State.freeThread; dsimp only; split <;> rfl

@[simp] theorem State.freeThread_mem (s : State) (t : Ident) :
    (s.freeThread t).mem = s.mem := by
  unfold State.freeThread; dsimp only; split <;> rfl

@[simp] theorem State.freeThread_empties (s : State) (t : Ident) :
    (s.freeThread t).empties = s.empties := by
  unfold State.freeThread; dsimp only; split <;> rfl

@[simp] theorem State.freeThread_poisoned (s : State) (t : Ident) :
    (s.freeThread t).poisoned = s.poisoned := by
  unfold State.freeThread; dsimp only; split <;> rfl

@[simp] theorem State.freeThread_accs (s : State) (t : Ident) :
    (s.freeThread t).accs = s.accs := by
  unfold State.freeThread; dsimp only; split <;> rfl

@[simp] theorem State.freeThread_regions (s : State) (t : Ident) :
    (s.freeThread t).regions = s.regions := by
  unfold State.freeThread; dsimp only; split <;> rfl

@[simp] theorem State.freeThread_mesh (s : State) (t : Ident) :
    (s.freeThread t).mesh = s.mesh := by
  unfold State.freeThread; dsimp only; split <;> rfl

@[simp] theorem State.freeThread_tlb (s : State) (t : Ident) :
    (s.freeThread t).tlb = s.tlb := by
  unfold State.freeThread; dsimp only; split <;> rfl

@[simp] theorem State.freeThread_mmuWaits (s : State) (t : Ident) :
    (s.freeThread t).mmuWaits = s.mmuWaits := by
  unfold State.freeThread; dsimp only; split <;> rfl

@[simp] theorem State.freeThread_pageReqs (s : State) (t : Ident) :
    (s.freeThread t).pageReqs = s.pageReqs := by
  unfold State.freeThread; dsimp only; split <;> rfl

@[simp] theorem State.freeThread_rewalks (s : State) (t : Ident) :
    (s.freeThread t).rewalks = s.rewalks := by
  unfold State.freeThread; dsimp only; split <;> rfl

@[simp] theorem State.freeThread_dups (s : State) (t : Ident) :
    (s.freeThread t).dups = s.dups := by
  unfold State.freeThread; dsimp only; split <;> rfl

@[simp] theorem State.freeThread_forwards (s : State) (t : Ident) :
    (s.freeThread t).forwards = s.forwards := by
  unfold State.freeThread; dsimp only; split <;> rfl

@[simp] theorem State.freeThread_spilled (s : State) (t : Ident) :
    (s.freeThread t).spilled = s.spilled := by
  unfold State.freeThread; dsimp only; split <;> rfl

@[simp] theorem State.freeThread_arena (s : State) (t : Ident) :
    (s.freeThread t).arena = s.arena := by
  unfold State.freeThread; dsimp only; split <;> rfl

@[simp] theorem State.freeThread_jobs (s : State) (t : Ident) :
    (s.freeThread t).jobs = s.jobs := by
  unfold State.freeThread; dsimp only; split <;> rfl

@[simp] theorem State.freeThread_codeSeg (s : State) (t : Ident) :
    (s.freeThread t).codeSeg = s.codeSeg := by
  unfold State.freeThread; dsimp only; split <;> rfl

@[simp] theorem State.freeThread_sys (s : State) (t : Ident) :
    (s.freeThread t).sys = s.sys := by
  unfold State.freeThread; dsimp only; split <;> rfl

@[simp] theorem State.freeThread_base (s : State) (t : Ident) :
    (s.freeThread t).base = s.base := by
  unfold State.freeThread; dsimp only; split <;> rfl

@[simp] theorem State.freeThread_serial (s : State) (t : Ident) :
    (s.freeThread t).serial = s.serial := by
  unfold State.freeThread; dsimp only; split <;> rfl

@[simp] theorem State.freeThread_owed (s : State) (t : Ident) :
    (s.freeThread t).owed = s.owed := by
  unfold State.freeThread; dsimp only; split <;> rfl

@[simp] theorem State.freeThread_lastServed (s : State) (t : Ident) :
    (s.freeThread t).lastServed = s.lastServed := by
  unfold State.freeThread; dsimp only; split <;> rfl

@[simp] theorem State.freeThread_shareWindow (s : State) (t : Ident) :
    (s.freeThread t).shareWindow = s.shareWindow := by
  unfold State.freeThread; dsimp only; split <;> rfl

@[simp] theorem State.freeThread_out (s : State) (t : Ident) :
    (s.freeThread t).out = s.out := by
  unfold State.freeThread; dsimp only; split <;> rfl

@[simp] theorem State.freeThread_cur (s : State) (t : Ident) :
    (s.freeThread t).cur = s.cur := by
  unfold State.freeThread; dsimp only; split <;> rfl

@[simp] theorem State.freeThread_word (s : State) (t : Ident) :
    (s.freeThread t).word = s.word := by
  unfold State.freeThread; dsimp only; split <;> rfl

@[simp] theorem State.freeThread_slow (s : State) (t : Ident) :
    (s.freeThread t).slow = s.slow := by
  unfold State.freeThread; dsimp only; split <;> rfl

@[simp] theorem State.freeThread_ev (s : State) (t : Ident) :
    (s.freeThread t).ev = s.ev := by
  unfold State.freeThread; dsimp only; split <;> rfl

@[simp] theorem State.freeThread_due (s : State) (t : Ident) :
    (s.freeThread t).due = s.due := by
  unfold State.freeThread; dsimp only; split <;> rfl

@[simp] theorem State.freeThread_agenda (s : State) (t : Ident) :
    (s.freeThread t).agenda = s.agenda := by
  unfold State.freeThread; dsimp only; split <;> rfl

@[simp] theorem State.freeThread_free (s : State) (t : Ident) :
    (s.freeThread t).free = s.free := by
  unfold State.freeThread; dsimp only; split <;> rfl

/-! ## State.setCore -/

@[simp] theorem State.setCore_cyc (s : State) (c : Nat) (k : Core) :
    (s.setCore c k).cyc = s.cyc := rfl

@[simp] theorem State.setCore_threads (s : State) (c : Nat) (k : Core) :
    (s.setCore c k).threads = s.threads := rfl

@[simp] theorem State.setCore_mem (s : State) (c : Nat) (k : Core) :
    (s.setCore c k).mem = s.mem := rfl

@[simp] theorem State.setCore_empties (s : State) (c : Nat) (k : Core) :
    (s.setCore c k).empties = s.empties := rfl

@[simp] theorem State.setCore_poisoned (s : State) (c : Nat) (k : Core) :
    (s.setCore c k).poisoned = s.poisoned := rfl

@[simp] theorem State.setCore_accs (s : State) (c : Nat) (k : Core) :
    (s.setCore c k).accs = s.accs := rfl

@[simp] theorem State.setCore_regions (s : State) (c : Nat) (k : Core) :
    (s.setCore c k).regions = s.regions := rfl

@[simp] theorem State.setCore_mesh (s : State) (c : Nat) (k : Core) :
    (s.setCore c k).mesh = s.mesh := rfl

@[simp] theorem State.setCore_tlb (s : State) (c : Nat) (k : Core) :
    (s.setCore c k).tlb = s.tlb := rfl

@[simp] theorem State.setCore_mmuWaits (s : State) (c : Nat) (k : Core) :
    (s.setCore c k).mmuWaits = s.mmuWaits := rfl

@[simp] theorem State.setCore_pageReqs (s : State) (c : Nat) (k : Core) :
    (s.setCore c k).pageReqs = s.pageReqs := rfl

@[simp] theorem State.setCore_rewalks (s : State) (c : Nat) (k : Core) :
    (s.setCore c k).rewalks = s.rewalks := rfl

@[simp] theorem State.setCore_dups (s : State) (c : Nat) (k : Core) :
    (s.setCore c k).dups = s.dups := rfl

@[simp] theorem State.setCore_forwards (s : State) (c : Nat) (k : Core) :
    (s.setCore c k).forwards = s.forwards := rfl

@[simp] theorem State.setCore_spilled (s : State) (c : Nat) (k : Core) :
    (s.setCore c k).spilled = s.spilled := rfl

@[simp] theorem State.setCore_arena (s : State) (c : Nat) (k : Core) :
    (s.setCore c k).arena = s.arena := rfl

@[simp] theorem State.setCore_jobs (s : State) (c : Nat) (k : Core) :
    (s.setCore c k).jobs = s.jobs := rfl

@[simp] theorem State.setCore_codeSeg (s : State) (c : Nat) (k : Core) :
    (s.setCore c k).codeSeg = s.codeSeg := rfl

@[simp] theorem State.setCore_sys (s : State) (c : Nat) (k : Core) :
    (s.setCore c k).sys = s.sys := rfl

@[simp] theorem State.setCore_base (s : State) (c : Nat) (k : Core) :
    (s.setCore c k).base = s.base := rfl

@[simp] theorem State.setCore_serial (s : State) (c : Nat) (k : Core) :
    (s.setCore c k).serial = s.serial := rfl

@[simp] theorem State.setCore_owed (s : State) (c : Nat) (k : Core) :
    (s.setCore c k).owed = s.owed := rfl

@[simp] theorem State.setCore_lastServed (s : State) (c : Nat) (k : Core) :
    (s.setCore c k).lastServed = s.lastServed := rfl

@[simp] theorem State.setCore_shareWindow (s : State) (c : Nat) (k : Core) :
    (s.setCore c k).shareWindow = s.shareWindow := rfl

@[simp] theorem State.setCore_out (s : State) (c : Nat) (k : Core) :
    (s.setCore c k).out = s.out := rfl

@[simp] theorem State.setCore_cur (s : State) (c : Nat) (k : Core) :
    (s.setCore c k).cur = s.cur := rfl

@[simp] theorem State.setCore_word (s : State) (c : Nat) (k : Core) :
    (s.setCore c k).word = s.word := rfl

@[simp] theorem State.setCore_slow (s : State) (c : Nat) (k : Core) :
    (s.setCore c k).slow = s.slow := rfl

@[simp] theorem State.setCore_ev (s : State) (c : Nat) (k : Core) :
    (s.setCore c k).ev = s.ev := rfl

@[simp] theorem State.setCore_due (s : State) (c : Nat) (k : Core) :
    (s.setCore c k).due = s.due := rfl

@[simp] theorem State.setCore_agenda (s : State) (c : Nat) (k : Core) :
    (s.setCore c k).agenda = s.agenda := rfl

@[simp] theorem State.setCore_free (s : State) (c : Nat) (k : Core) :
    (s.setCore c k).free = s.free := rfl

/-! ## State.setRegion -/

@[simp] theorem State.setRegion_cyc (s : State) (r : Region) :
    (s.setRegion r).cyc = s.cyc := rfl

@[simp] theorem State.setRegion_threads (s : State) (r : Region) :
    (s.setRegion r).threads = s.threads := rfl

@[simp] theorem State.setRegion_cores (s : State) (r : Region) :
    (s.setRegion r).cores = s.cores := rfl

@[simp] theorem State.setRegion_mem (s : State) (r : Region) :
    (s.setRegion r).mem = s.mem := rfl

@[simp] theorem State.setRegion_empties (s : State) (r : Region) :
    (s.setRegion r).empties = s.empties := rfl

@[simp] theorem State.setRegion_poisoned (s : State) (r : Region) :
    (s.setRegion r).poisoned = s.poisoned := rfl

@[simp] theorem State.setRegion_accs (s : State) (r : Region) :
    (s.setRegion r).accs = s.accs := rfl

@[simp] theorem State.setRegion_mesh (s : State) (r : Region) :
    (s.setRegion r).mesh = s.mesh := rfl

@[simp] theorem State.setRegion_tlb (s : State) (r : Region) :
    (s.setRegion r).tlb = s.tlb := rfl

@[simp] theorem State.setRegion_mmuWaits (s : State) (r : Region) :
    (s.setRegion r).mmuWaits = s.mmuWaits := rfl

@[simp] theorem State.setRegion_pageReqs (s : State) (r : Region) :
    (s.setRegion r).pageReqs = s.pageReqs := rfl

@[simp] theorem State.setRegion_rewalks (s : State) (r : Region) :
    (s.setRegion r).rewalks = s.rewalks := rfl

@[simp] theorem State.setRegion_dups (s : State) (r : Region) :
    (s.setRegion r).dups = s.dups := rfl

@[simp] theorem State.setRegion_forwards (s : State) (r : Region) :
    (s.setRegion r).forwards = s.forwards := rfl

@[simp] theorem State.setRegion_spilled (s : State) (r : Region) :
    (s.setRegion r).spilled = s.spilled := rfl

@[simp] theorem State.setRegion_arena (s : State) (r : Region) :
    (s.setRegion r).arena = s.arena := rfl

@[simp] theorem State.setRegion_jobs (s : State) (r : Region) :
    (s.setRegion r).jobs = s.jobs := rfl

@[simp] theorem State.setRegion_codeSeg (s : State) (r : Region) :
    (s.setRegion r).codeSeg = s.codeSeg := rfl

@[simp] theorem State.setRegion_sys (s : State) (r : Region) :
    (s.setRegion r).sys = s.sys := rfl

@[simp] theorem State.setRegion_base (s : State) (r : Region) :
    (s.setRegion r).base = s.base := rfl

@[simp] theorem State.setRegion_serial (s : State) (r : Region) :
    (s.setRegion r).serial = s.serial := rfl

@[simp] theorem State.setRegion_owed (s : State) (r : Region) :
    (s.setRegion r).owed = s.owed := rfl

@[simp] theorem State.setRegion_lastServed (s : State) (r : Region) :
    (s.setRegion r).lastServed = s.lastServed := rfl

@[simp] theorem State.setRegion_shareWindow (s : State) (r : Region) :
    (s.setRegion r).shareWindow = s.shareWindow := rfl

@[simp] theorem State.setRegion_out (s : State) (r : Region) :
    (s.setRegion r).out = s.out := rfl

@[simp] theorem State.setRegion_cur (s : State) (r : Region) :
    (s.setRegion r).cur = s.cur := rfl

@[simp] theorem State.setRegion_word (s : State) (r : Region) :
    (s.setRegion r).word = s.word := rfl

@[simp] theorem State.setRegion_slow (s : State) (r : Region) :
    (s.setRegion r).slow = s.slow := rfl

@[simp] theorem State.setRegion_ev (s : State) (r : Region) :
    (s.setRegion r).ev = s.ev := rfl

@[simp] theorem State.setRegion_due (s : State) (r : Region) :
    (s.setRegion r).due = s.due := rfl

@[simp] theorem State.setRegion_agenda (s : State) (r : Region) :
    (s.setRegion r).agenda = s.agenda := rfl

@[simp] theorem State.setRegion_free (s : State) (r : Region) :
    (s.setRegion r).free = s.free := rfl

/-! ## State.write -/

@[simp] theorem State.write_cyc (s : State) (k n v : Nat) :
    (s.write k n v).cyc = s.cyc := rfl

@[simp] theorem State.write_threads (s : State) (k n v : Nat) :
    (s.write k n v).threads = s.threads := rfl

@[simp] theorem State.write_cores (s : State) (k n v : Nat) :
    (s.write k n v).cores = s.cores := rfl

@[simp] theorem State.write_empties (s : State) (k n v : Nat) :
    (s.write k n v).empties = s.empties := rfl

@[simp] theorem State.write_poisoned (s : State) (k n v : Nat) :
    (s.write k n v).poisoned = s.poisoned := rfl

@[simp] theorem State.write_accs (s : State) (k n v : Nat) :
    (s.write k n v).accs = s.accs := rfl

@[simp] theorem State.write_regions (s : State) (k n v : Nat) :
    (s.write k n v).regions = s.regions := rfl

@[simp] theorem State.write_mesh (s : State) (k n v : Nat) :
    (s.write k n v).mesh = s.mesh := rfl

@[simp] theorem State.write_tlb (s : State) (k n v : Nat) :
    (s.write k n v).tlb = s.tlb := rfl

@[simp] theorem State.write_mmuWaits (s : State) (k n v : Nat) :
    (s.write k n v).mmuWaits = s.mmuWaits := rfl

@[simp] theorem State.write_pageReqs (s : State) (k n v : Nat) :
    (s.write k n v).pageReqs = s.pageReqs := rfl

@[simp] theorem State.write_rewalks (s : State) (k n v : Nat) :
    (s.write k n v).rewalks = s.rewalks := rfl

@[simp] theorem State.write_dups (s : State) (k n v : Nat) :
    (s.write k n v).dups = s.dups := rfl

@[simp] theorem State.write_forwards (s : State) (k n v : Nat) :
    (s.write k n v).forwards = s.forwards := rfl

@[simp] theorem State.write_spilled (s : State) (k n v : Nat) :
    (s.write k n v).spilled = s.spilled := rfl

@[simp] theorem State.write_arena (s : State) (k n v : Nat) :
    (s.write k n v).arena = s.arena := rfl

@[simp] theorem State.write_jobs (s : State) (k n v : Nat) :
    (s.write k n v).jobs = s.jobs := rfl

@[simp] theorem State.write_codeSeg (s : State) (k n v : Nat) :
    (s.write k n v).codeSeg = s.codeSeg := rfl

@[simp] theorem State.write_sys (s : State) (k n v : Nat) :
    (s.write k n v).sys = s.sys := rfl

@[simp] theorem State.write_base (s : State) (k n v : Nat) :
    (s.write k n v).base = s.base := rfl

@[simp] theorem State.write_serial (s : State) (k n v : Nat) :
    (s.write k n v).serial = s.serial := rfl

@[simp] theorem State.write_owed (s : State) (k n v : Nat) :
    (s.write k n v).owed = s.owed := rfl

@[simp] theorem State.write_lastServed (s : State) (k n v : Nat) :
    (s.write k n v).lastServed = s.lastServed := rfl

@[simp] theorem State.write_shareWindow (s : State) (k n v : Nat) :
    (s.write k n v).shareWindow = s.shareWindow := rfl

@[simp] theorem State.write_out (s : State) (k n v : Nat) :
    (s.write k n v).out = s.out := rfl

@[simp] theorem State.write_cur (s : State) (k n v : Nat) :
    (s.write k n v).cur = s.cur := rfl

@[simp] theorem State.write_word (s : State) (k n v : Nat) :
    (s.write k n v).word = s.word := rfl

@[simp] theorem State.write_slow (s : State) (k n v : Nat) :
    (s.write k n v).slow = s.slow := rfl

@[simp] theorem State.write_ev (s : State) (k n v : Nat) :
    (s.write k n v).ev = s.ev := rfl

@[simp] theorem State.write_due (s : State) (k n v : Nat) :
    (s.write k n v).due = s.due := rfl

@[simp] theorem State.write_agenda (s : State) (k n v : Nat) :
    (s.write k n v).agenda = s.agenda := rfl

@[simp] theorem State.write_free (s : State) (k n v : Nat) :
    (s.write k n v).free = s.free := rfl

/-! ## State.writeBytes -/

@[simp] theorem State.writeBytes_cyc (s : State) (k : Nat) (l : List Byte) :
    (s.writeBytes k l).cyc = s.cyc := rfl

@[simp] theorem State.writeBytes_threads (s : State) (k : Nat) (l : List Byte) :
    (s.writeBytes k l).threads = s.threads := rfl

@[simp] theorem State.writeBytes_cores (s : State) (k : Nat) (l : List Byte) :
    (s.writeBytes k l).cores = s.cores := rfl

@[simp] theorem State.writeBytes_empties (s : State) (k : Nat) (l : List Byte) :
    (s.writeBytes k l).empties = s.empties := rfl

@[simp] theorem State.writeBytes_poisoned (s : State) (k : Nat) (l : List Byte) :
    (s.writeBytes k l).poisoned = s.poisoned := rfl

@[simp] theorem State.writeBytes_accs (s : State) (k : Nat) (l : List Byte) :
    (s.writeBytes k l).accs = s.accs := rfl

@[simp] theorem State.writeBytes_regions (s : State) (k : Nat) (l : List Byte) :
    (s.writeBytes k l).regions = s.regions := rfl

@[simp] theorem State.writeBytes_mesh (s : State) (k : Nat) (l : List Byte) :
    (s.writeBytes k l).mesh = s.mesh := rfl

@[simp] theorem State.writeBytes_tlb (s : State) (k : Nat) (l : List Byte) :
    (s.writeBytes k l).tlb = s.tlb := rfl

@[simp] theorem State.writeBytes_mmuWaits (s : State) (k : Nat) (l : List Byte) :
    (s.writeBytes k l).mmuWaits = s.mmuWaits := rfl

@[simp] theorem State.writeBytes_pageReqs (s : State) (k : Nat) (l : List Byte) :
    (s.writeBytes k l).pageReqs = s.pageReqs := rfl

@[simp] theorem State.writeBytes_rewalks (s : State) (k : Nat) (l : List Byte) :
    (s.writeBytes k l).rewalks = s.rewalks := rfl

@[simp] theorem State.writeBytes_dups (s : State) (k : Nat) (l : List Byte) :
    (s.writeBytes k l).dups = s.dups := rfl

@[simp] theorem State.writeBytes_forwards (s : State) (k : Nat) (l : List Byte) :
    (s.writeBytes k l).forwards = s.forwards := rfl

@[simp] theorem State.writeBytes_spilled (s : State) (k : Nat) (l : List Byte) :
    (s.writeBytes k l).spilled = s.spilled := rfl

@[simp] theorem State.writeBytes_arena (s : State) (k : Nat) (l : List Byte) :
    (s.writeBytes k l).arena = s.arena := rfl

@[simp] theorem State.writeBytes_jobs (s : State) (k : Nat) (l : List Byte) :
    (s.writeBytes k l).jobs = s.jobs := rfl

@[simp] theorem State.writeBytes_codeSeg (s : State) (k : Nat) (l : List Byte) :
    (s.writeBytes k l).codeSeg = s.codeSeg := rfl

@[simp] theorem State.writeBytes_sys (s : State) (k : Nat) (l : List Byte) :
    (s.writeBytes k l).sys = s.sys := rfl

@[simp] theorem State.writeBytes_base (s : State) (k : Nat) (l : List Byte) :
    (s.writeBytes k l).base = s.base := rfl

@[simp] theorem State.writeBytes_serial (s : State) (k : Nat) (l : List Byte) :
    (s.writeBytes k l).serial = s.serial := rfl

@[simp] theorem State.writeBytes_owed (s : State) (k : Nat) (l : List Byte) :
    (s.writeBytes k l).owed = s.owed := rfl

@[simp] theorem State.writeBytes_lastServed (s : State) (k : Nat) (l : List Byte) :
    (s.writeBytes k l).lastServed = s.lastServed := rfl

@[simp] theorem State.writeBytes_shareWindow (s : State) (k : Nat) (l : List Byte) :
    (s.writeBytes k l).shareWindow = s.shareWindow := rfl

@[simp] theorem State.writeBytes_out (s : State) (k : Nat) (l : List Byte) :
    (s.writeBytes k l).out = s.out := rfl

@[simp] theorem State.writeBytes_cur (s : State) (k : Nat) (l : List Byte) :
    (s.writeBytes k l).cur = s.cur := rfl

@[simp] theorem State.writeBytes_word (s : State) (k : Nat) (l : List Byte) :
    (s.writeBytes k l).word = s.word := rfl

@[simp] theorem State.writeBytes_slow (s : State) (k : Nat) (l : List Byte) :
    (s.writeBytes k l).slow = s.slow := rfl

@[simp] theorem State.writeBytes_ev (s : State) (k : Nat) (l : List Byte) :
    (s.writeBytes k l).ev = s.ev := rfl

@[simp] theorem State.writeBytes_due (s : State) (k : Nat) (l : List Byte) :
    (s.writeBytes k l).due = s.due := rfl

@[simp] theorem State.writeBytes_agenda (s : State) (k : Nat) (l : List Byte) :
    (s.writeBytes k l).agenda = s.agenda := rfl

@[simp] theorem State.writeBytes_free (s : State) (k : Nat) (l : List Byte) :
    (s.writeBytes k l).free = s.free := rfl

/-! ## State.setFull -/

@[simp] theorem State.setFull_cyc (s : State) (k : Nat) (b : Bool) :
    (s.setFull k b).cyc = s.cyc := rfl

@[simp] theorem State.setFull_threads (s : State) (k : Nat) (b : Bool) :
    (s.setFull k b).threads = s.threads := rfl

@[simp] theorem State.setFull_cores (s : State) (k : Nat) (b : Bool) :
    (s.setFull k b).cores = s.cores := rfl

@[simp] theorem State.setFull_mem (s : State) (k : Nat) (b : Bool) :
    (s.setFull k b).mem = s.mem := rfl

@[simp] theorem State.setFull_poisoned (s : State) (k : Nat) (b : Bool) :
    (s.setFull k b).poisoned = s.poisoned := rfl

@[simp] theorem State.setFull_accs (s : State) (k : Nat) (b : Bool) :
    (s.setFull k b).accs = s.accs := rfl

@[simp] theorem State.setFull_regions (s : State) (k : Nat) (b : Bool) :
    (s.setFull k b).regions = s.regions := rfl

@[simp] theorem State.setFull_mesh (s : State) (k : Nat) (b : Bool) :
    (s.setFull k b).mesh = s.mesh := rfl

@[simp] theorem State.setFull_tlb (s : State) (k : Nat) (b : Bool) :
    (s.setFull k b).tlb = s.tlb := rfl

@[simp] theorem State.setFull_mmuWaits (s : State) (k : Nat) (b : Bool) :
    (s.setFull k b).mmuWaits = s.mmuWaits := rfl

@[simp] theorem State.setFull_pageReqs (s : State) (k : Nat) (b : Bool) :
    (s.setFull k b).pageReqs = s.pageReqs := rfl

@[simp] theorem State.setFull_rewalks (s : State) (k : Nat) (b : Bool) :
    (s.setFull k b).rewalks = s.rewalks := rfl

@[simp] theorem State.setFull_dups (s : State) (k : Nat) (b : Bool) :
    (s.setFull k b).dups = s.dups := rfl

@[simp] theorem State.setFull_forwards (s : State) (k : Nat) (b : Bool) :
    (s.setFull k b).forwards = s.forwards := rfl

@[simp] theorem State.setFull_spilled (s : State) (k : Nat) (b : Bool) :
    (s.setFull k b).spilled = s.spilled := rfl

@[simp] theorem State.setFull_arena (s : State) (k : Nat) (b : Bool) :
    (s.setFull k b).arena = s.arena := rfl

@[simp] theorem State.setFull_jobs (s : State) (k : Nat) (b : Bool) :
    (s.setFull k b).jobs = s.jobs := rfl

@[simp] theorem State.setFull_codeSeg (s : State) (k : Nat) (b : Bool) :
    (s.setFull k b).codeSeg = s.codeSeg := rfl

@[simp] theorem State.setFull_sys (s : State) (k : Nat) (b : Bool) :
    (s.setFull k b).sys = s.sys := rfl

@[simp] theorem State.setFull_base (s : State) (k : Nat) (b : Bool) :
    (s.setFull k b).base = s.base := rfl

@[simp] theorem State.setFull_serial (s : State) (k : Nat) (b : Bool) :
    (s.setFull k b).serial = s.serial := rfl

@[simp] theorem State.setFull_owed (s : State) (k : Nat) (b : Bool) :
    (s.setFull k b).owed = s.owed := rfl

@[simp] theorem State.setFull_lastServed (s : State) (k : Nat) (b : Bool) :
    (s.setFull k b).lastServed = s.lastServed := rfl

@[simp] theorem State.setFull_shareWindow (s : State) (k : Nat) (b : Bool) :
    (s.setFull k b).shareWindow = s.shareWindow := rfl

@[simp] theorem State.setFull_out (s : State) (k : Nat) (b : Bool) :
    (s.setFull k b).out = s.out := rfl

@[simp] theorem State.setFull_cur (s : State) (k : Nat) (b : Bool) :
    (s.setFull k b).cur = s.cur := rfl

@[simp] theorem State.setFull_word (s : State) (k : Nat) (b : Bool) :
    (s.setFull k b).word = s.word := rfl

@[simp] theorem State.setFull_slow (s : State) (k : Nat) (b : Bool) :
    (s.setFull k b).slow = s.slow := rfl

@[simp] theorem State.setFull_ev (s : State) (k : Nat) (b : Bool) :
    (s.setFull k b).ev = s.ev := rfl

@[simp] theorem State.setFull_due (s : State) (k : Nat) (b : Bool) :
    (s.setFull k b).due = s.due := rfl

@[simp] theorem State.setFull_agenda (s : State) (k : Nat) (b : Bool) :
    (s.setFull k b).agenda = s.agenda := rfl

@[simp] theorem State.setFull_free (s : State) (k : Nat) (b : Bool) :
    (s.setFull k b).free = s.free := rfl

/-! ## State.scrubbed -/

@[simp] theorem State.scrubbed_cyc (s : State) (k n : Nat) :
    (s.scrubbed k n).cyc = s.cyc := rfl

@[simp] theorem State.scrubbed_threads (s : State) (k n : Nat) :
    (s.scrubbed k n).threads = s.threads := rfl

@[simp] theorem State.scrubbed_cores (s : State) (k n : Nat) :
    (s.scrubbed k n).cores = s.cores := rfl

@[simp] theorem State.scrubbed_accs (s : State) (k n : Nat) :
    (s.scrubbed k n).accs = s.accs := rfl

@[simp] theorem State.scrubbed_regions (s : State) (k n : Nat) :
    (s.scrubbed k n).regions = s.regions := rfl

@[simp] theorem State.scrubbed_mesh (s : State) (k n : Nat) :
    (s.scrubbed k n).mesh = s.mesh := rfl

@[simp] theorem State.scrubbed_tlb (s : State) (k n : Nat) :
    (s.scrubbed k n).tlb = s.tlb := rfl

@[simp] theorem State.scrubbed_mmuWaits (s : State) (k n : Nat) :
    (s.scrubbed k n).mmuWaits = s.mmuWaits := rfl

@[simp] theorem State.scrubbed_pageReqs (s : State) (k n : Nat) :
    (s.scrubbed k n).pageReqs = s.pageReqs := rfl

@[simp] theorem State.scrubbed_rewalks (s : State) (k n : Nat) :
    (s.scrubbed k n).rewalks = s.rewalks := rfl

@[simp] theorem State.scrubbed_dups (s : State) (k n : Nat) :
    (s.scrubbed k n).dups = s.dups := rfl

@[simp] theorem State.scrubbed_forwards (s : State) (k n : Nat) :
    (s.scrubbed k n).forwards = s.forwards := rfl

@[simp] theorem State.scrubbed_spilled (s : State) (k n : Nat) :
    (s.scrubbed k n).spilled = s.spilled := rfl

@[simp] theorem State.scrubbed_arena (s : State) (k n : Nat) :
    (s.scrubbed k n).arena = s.arena := rfl

@[simp] theorem State.scrubbed_jobs (s : State) (k n : Nat) :
    (s.scrubbed k n).jobs = s.jobs := rfl

@[simp] theorem State.scrubbed_codeSeg (s : State) (k n : Nat) :
    (s.scrubbed k n).codeSeg = s.codeSeg := rfl

@[simp] theorem State.scrubbed_sys (s : State) (k n : Nat) :
    (s.scrubbed k n).sys = s.sys := rfl

@[simp] theorem State.scrubbed_base (s : State) (k n : Nat) :
    (s.scrubbed k n).base = s.base := rfl

@[simp] theorem State.scrubbed_serial (s : State) (k n : Nat) :
    (s.scrubbed k n).serial = s.serial := rfl

@[simp] theorem State.scrubbed_owed (s : State) (k n : Nat) :
    (s.scrubbed k n).owed = s.owed := rfl

@[simp] theorem State.scrubbed_lastServed (s : State) (k n : Nat) :
    (s.scrubbed k n).lastServed = s.lastServed := rfl

@[simp] theorem State.scrubbed_shareWindow (s : State) (k n : Nat) :
    (s.scrubbed k n).shareWindow = s.shareWindow := rfl

@[simp] theorem State.scrubbed_out (s : State) (k n : Nat) :
    (s.scrubbed k n).out = s.out := rfl

@[simp] theorem State.scrubbed_cur (s : State) (k n : Nat) :
    (s.scrubbed k n).cur = s.cur := rfl

@[simp] theorem State.scrubbed_word (s : State) (k n : Nat) :
    (s.scrubbed k n).word = s.word := rfl

@[simp] theorem State.scrubbed_slow (s : State) (k n : Nat) :
    (s.scrubbed k n).slow = s.slow := rfl

@[simp] theorem State.scrubbed_ev (s : State) (k n : Nat) :
    (s.scrubbed k n).ev = s.ev := rfl

@[simp] theorem State.scrubbed_due (s : State) (k n : Nat) :
    (s.scrubbed k n).due = s.due := rfl

@[simp] theorem State.scrubbed_agenda (s : State) (k n : Nat) :
    (s.scrubbed k n).agenda = s.agenda := rfl

@[simp] theorem State.scrubbed_free (s : State) (k n : Nat) :
    (s.scrubbed k n).free = s.free := rfl

/-! ## State.zeroed -/

@[simp] theorem State.zeroed_cyc (s : State) (k n : Nat) :
    (s.zeroed k n).cyc = s.cyc := rfl

@[simp] theorem State.zeroed_threads (s : State) (k n : Nat) :
    (s.zeroed k n).threads = s.threads := rfl

@[simp] theorem State.zeroed_cores (s : State) (k n : Nat) :
    (s.zeroed k n).cores = s.cores := rfl

@[simp] theorem State.zeroed_poisoned (s : State) (k n : Nat) :
    (s.zeroed k n).poisoned = s.poisoned := rfl

@[simp] theorem State.zeroed_accs (s : State) (k n : Nat) :
    (s.zeroed k n).accs = s.accs := rfl

@[simp] theorem State.zeroed_regions (s : State) (k n : Nat) :
    (s.zeroed k n).regions = s.regions := rfl

@[simp] theorem State.zeroed_mesh (s : State) (k n : Nat) :
    (s.zeroed k n).mesh = s.mesh := rfl

@[simp] theorem State.zeroed_tlb (s : State) (k n : Nat) :
    (s.zeroed k n).tlb = s.tlb := rfl

@[simp] theorem State.zeroed_mmuWaits (s : State) (k n : Nat) :
    (s.zeroed k n).mmuWaits = s.mmuWaits := rfl

@[simp] theorem State.zeroed_pageReqs (s : State) (k n : Nat) :
    (s.zeroed k n).pageReqs = s.pageReqs := rfl

@[simp] theorem State.zeroed_rewalks (s : State) (k n : Nat) :
    (s.zeroed k n).rewalks = s.rewalks := rfl

@[simp] theorem State.zeroed_dups (s : State) (k n : Nat) :
    (s.zeroed k n).dups = s.dups := rfl

@[simp] theorem State.zeroed_forwards (s : State) (k n : Nat) :
    (s.zeroed k n).forwards = s.forwards := rfl

@[simp] theorem State.zeroed_spilled (s : State) (k n : Nat) :
    (s.zeroed k n).spilled = s.spilled := rfl

@[simp] theorem State.zeroed_arena (s : State) (k n : Nat) :
    (s.zeroed k n).arena = s.arena := rfl

@[simp] theorem State.zeroed_jobs (s : State) (k n : Nat) :
    (s.zeroed k n).jobs = s.jobs := rfl

@[simp] theorem State.zeroed_codeSeg (s : State) (k n : Nat) :
    (s.zeroed k n).codeSeg = s.codeSeg := rfl

@[simp] theorem State.zeroed_sys (s : State) (k n : Nat) :
    (s.zeroed k n).sys = s.sys := rfl

@[simp] theorem State.zeroed_base (s : State) (k n : Nat) :
    (s.zeroed k n).base = s.base := rfl

@[simp] theorem State.zeroed_serial (s : State) (k n : Nat) :
    (s.zeroed k n).serial = s.serial := rfl

@[simp] theorem State.zeroed_owed (s : State) (k n : Nat) :
    (s.zeroed k n).owed = s.owed := rfl

@[simp] theorem State.zeroed_lastServed (s : State) (k n : Nat) :
    (s.zeroed k n).lastServed = s.lastServed := rfl

@[simp] theorem State.zeroed_shareWindow (s : State) (k n : Nat) :
    (s.zeroed k n).shareWindow = s.shareWindow := rfl

@[simp] theorem State.zeroed_out (s : State) (k n : Nat) :
    (s.zeroed k n).out = s.out := rfl

@[simp] theorem State.zeroed_cur (s : State) (k n : Nat) :
    (s.zeroed k n).cur = s.cur := rfl

@[simp] theorem State.zeroed_word (s : State) (k n : Nat) :
    (s.zeroed k n).word = s.word := rfl

@[simp] theorem State.zeroed_slow (s : State) (k n : Nat) :
    (s.zeroed k n).slow = s.slow := rfl

@[simp] theorem State.zeroed_ev (s : State) (k n : Nat) :
    (s.zeroed k n).ev = s.ev := rfl

@[simp] theorem State.zeroed_due (s : State) (k n : Nat) :
    (s.zeroed k n).due = s.due := rfl

@[simp] theorem State.zeroed_agenda (s : State) (k n : Nat) :
    (s.zeroed k n).agenda = s.agenda := rfl

@[simp] theorem State.zeroed_free (s : State) (k n : Nat) :
    (s.zeroed k n).free = s.free := rfl

/-! ## State.post -/

@[simp] theorem State.post_cyc (s : State) (c : CoreId) (h : BitVec 5) (o : Option Ident) (d : BitVec 32) (b : MsgBody) :
    (s.post c h o d b).cyc = s.cyc := rfl

@[simp] theorem State.post_threads (s : State) (c : CoreId) (h : BitVec 5) (o : Option Ident) (d : BitVec 32) (b : MsgBody) :
    (s.post c h o d b).threads = s.threads := rfl

@[simp] theorem State.post_cores (s : State) (c : CoreId) (h : BitVec 5) (o : Option Ident) (d : BitVec 32) (b : MsgBody) :
    (s.post c h o d b).cores = s.cores := rfl

@[simp] theorem State.post_mem (s : State) (c : CoreId) (h : BitVec 5) (o : Option Ident) (d : BitVec 32) (b : MsgBody) :
    (s.post c h o d b).mem = s.mem := rfl

@[simp] theorem State.post_empties (s : State) (c : CoreId) (h : BitVec 5) (o : Option Ident) (d : BitVec 32) (b : MsgBody) :
    (s.post c h o d b).empties = s.empties := rfl

@[simp] theorem State.post_poisoned (s : State) (c : CoreId) (h : BitVec 5) (o : Option Ident) (d : BitVec 32) (b : MsgBody) :
    (s.post c h o d b).poisoned = s.poisoned := rfl

@[simp] theorem State.post_accs (s : State) (c : CoreId) (h : BitVec 5) (o : Option Ident) (d : BitVec 32) (b : MsgBody) :
    (s.post c h o d b).accs = s.accs := rfl

@[simp] theorem State.post_regions (s : State) (c : CoreId) (h : BitVec 5) (o : Option Ident) (d : BitVec 32) (b : MsgBody) :
    (s.post c h o d b).regions = s.regions := rfl

@[simp] theorem State.post_tlb (s : State) (c : CoreId) (h : BitVec 5) (o : Option Ident) (d : BitVec 32) (b : MsgBody) :
    (s.post c h o d b).tlb = s.tlb := rfl

@[simp] theorem State.post_mmuWaits (s : State) (c : CoreId) (h : BitVec 5) (o : Option Ident) (d : BitVec 32) (b : MsgBody) :
    (s.post c h o d b).mmuWaits = s.mmuWaits := rfl

@[simp] theorem State.post_pageReqs (s : State) (c : CoreId) (h : BitVec 5) (o : Option Ident) (d : BitVec 32) (b : MsgBody) :
    (s.post c h o d b).pageReqs = s.pageReqs := rfl

@[simp] theorem State.post_rewalks (s : State) (c : CoreId) (h : BitVec 5) (o : Option Ident) (d : BitVec 32) (b : MsgBody) :
    (s.post c h o d b).rewalks = s.rewalks := rfl

@[simp] theorem State.post_dups (s : State) (c : CoreId) (h : BitVec 5) (o : Option Ident) (d : BitVec 32) (b : MsgBody) :
    (s.post c h o d b).dups = s.dups := rfl

@[simp] theorem State.post_forwards (s : State) (c : CoreId) (h : BitVec 5) (o : Option Ident) (d : BitVec 32) (b : MsgBody) :
    (s.post c h o d b).forwards = s.forwards := rfl

@[simp] theorem State.post_spilled (s : State) (c : CoreId) (h : BitVec 5) (o : Option Ident) (d : BitVec 32) (b : MsgBody) :
    (s.post c h o d b).spilled = s.spilled := rfl

@[simp] theorem State.post_arena (s : State) (c : CoreId) (h : BitVec 5) (o : Option Ident) (d : BitVec 32) (b : MsgBody) :
    (s.post c h o d b).arena = s.arena := rfl

@[simp] theorem State.post_jobs (s : State) (c : CoreId) (h : BitVec 5) (o : Option Ident) (d : BitVec 32) (b : MsgBody) :
    (s.post c h o d b).jobs = s.jobs := rfl

@[simp] theorem State.post_codeSeg (s : State) (c : CoreId) (h : BitVec 5) (o : Option Ident) (d : BitVec 32) (b : MsgBody) :
    (s.post c h o d b).codeSeg = s.codeSeg := rfl

@[simp] theorem State.post_sys (s : State) (c : CoreId) (h : BitVec 5) (o : Option Ident) (d : BitVec 32) (b : MsgBody) :
    (s.post c h o d b).sys = s.sys := rfl

@[simp] theorem State.post_base (s : State) (c : CoreId) (h : BitVec 5) (o : Option Ident) (d : BitVec 32) (b : MsgBody) :
    (s.post c h o d b).base = s.base := rfl

@[simp] theorem State.post_owed (s : State) (c : CoreId) (h : BitVec 5) (o : Option Ident) (d : BitVec 32) (b : MsgBody) :
    (s.post c h o d b).owed = s.owed := rfl

@[simp] theorem State.post_lastServed (s : State) (c : CoreId) (h : BitVec 5) (o : Option Ident) (d : BitVec 32) (b : MsgBody) :
    (s.post c h o d b).lastServed = s.lastServed := rfl

@[simp] theorem State.post_shareWindow (s : State) (c : CoreId) (h : BitVec 5) (o : Option Ident) (d : BitVec 32) (b : MsgBody) :
    (s.post c h o d b).shareWindow = s.shareWindow := rfl

@[simp] theorem State.post_out (s : State) (c : CoreId) (h : BitVec 5) (o : Option Ident) (d : BitVec 32) (b : MsgBody) :
    (s.post c h o d b).out = s.out := rfl

@[simp] theorem State.post_cur (s : State) (c : CoreId) (h : BitVec 5) (o : Option Ident) (d : BitVec 32) (b : MsgBody) :
    (s.post c h o d b).cur = s.cur := rfl

@[simp] theorem State.post_word (s : State) (c : CoreId) (h : BitVec 5) (o : Option Ident) (d : BitVec 32) (b : MsgBody) :
    (s.post c h o d b).word = s.word := rfl

@[simp] theorem State.post_slow (s : State) (c : CoreId) (h : BitVec 5) (o : Option Ident) (d : BitVec 32) (b : MsgBody) :
    (s.post c h o d b).slow = s.slow := rfl

@[simp] theorem State.post_ev (s : State) (c : CoreId) (h : BitVec 5) (o : Option Ident) (d : BitVec 32) (b : MsgBody) :
    (s.post c h o d b).ev = s.ev := rfl

@[simp] theorem State.post_due (s : State) (c : CoreId) (h : BitVec 5) (o : Option Ident) (d : BitVec 32) (b : MsgBody) :
    (s.post c h o d b).due = s.due := rfl

@[simp] theorem State.post_agenda (s : State) (c : CoreId) (h : BitVec 5) (o : Option Ident) (d : BitVec 32) (b : MsgBody) :
    (s.post c h o d b).agenda = s.agenda := rfl

@[simp] theorem State.post_free (s : State) (c : CoreId) (h : BitVec 5) (o : Option Ident) (d : BitVec 32) (b : MsgBody) :
    (s.post c h o d b).free = s.free := rfl

/-! ## State.parked -/

@[simp] theorem State.parked_cyc (s : State) (t : Thread) (w : Wait) :
    (s.parked t w).cyc = s.cyc := rfl

@[simp] theorem State.parked_cores (s : State) (t : Thread) (w : Wait) :
    (s.parked t w).cores = s.cores := rfl

@[simp] theorem State.parked_mem (s : State) (t : Thread) (w : Wait) :
    (s.parked t w).mem = s.mem := rfl

@[simp] theorem State.parked_empties (s : State) (t : Thread) (w : Wait) :
    (s.parked t w).empties = s.empties := rfl

@[simp] theorem State.parked_poisoned (s : State) (t : Thread) (w : Wait) :
    (s.parked t w).poisoned = s.poisoned := rfl

@[simp] theorem State.parked_accs (s : State) (t : Thread) (w : Wait) :
    (s.parked t w).accs = s.accs := rfl

@[simp] theorem State.parked_regions (s : State) (t : Thread) (w : Wait) :
    (s.parked t w).regions = s.regions := rfl

@[simp] theorem State.parked_mesh (s : State) (t : Thread) (w : Wait) :
    (s.parked t w).mesh = s.mesh := rfl

@[simp] theorem State.parked_tlb (s : State) (t : Thread) (w : Wait) :
    (s.parked t w).tlb = s.tlb := rfl

@[simp] theorem State.parked_mmuWaits (s : State) (t : Thread) (w : Wait) :
    (s.parked t w).mmuWaits = s.mmuWaits := rfl

@[simp] theorem State.parked_pageReqs (s : State) (t : Thread) (w : Wait) :
    (s.parked t w).pageReqs = s.pageReqs := rfl

@[simp] theorem State.parked_rewalks (s : State) (t : Thread) (w : Wait) :
    (s.parked t w).rewalks = s.rewalks := rfl

@[simp] theorem State.parked_dups (s : State) (t : Thread) (w : Wait) :
    (s.parked t w).dups = s.dups := rfl

@[simp] theorem State.parked_forwards (s : State) (t : Thread) (w : Wait) :
    (s.parked t w).forwards = s.forwards := rfl

@[simp] theorem State.parked_spilled (s : State) (t : Thread) (w : Wait) :
    (s.parked t w).spilled = s.spilled := rfl

@[simp] theorem State.parked_arena (s : State) (t : Thread) (w : Wait) :
    (s.parked t w).arena = s.arena := rfl

@[simp] theorem State.parked_jobs (s : State) (t : Thread) (w : Wait) :
    (s.parked t w).jobs = s.jobs := rfl

@[simp] theorem State.parked_codeSeg (s : State) (t : Thread) (w : Wait) :
    (s.parked t w).codeSeg = s.codeSeg := rfl

@[simp] theorem State.parked_sys (s : State) (t : Thread) (w : Wait) :
    (s.parked t w).sys = s.sys := rfl

@[simp] theorem State.parked_base (s : State) (t : Thread) (w : Wait) :
    (s.parked t w).base = s.base := rfl

@[simp] theorem State.parked_serial (s : State) (t : Thread) (w : Wait) :
    (s.parked t w).serial = s.serial := rfl

@[simp] theorem State.parked_owed (s : State) (t : Thread) (w : Wait) :
    (s.parked t w).owed = s.owed := rfl

@[simp] theorem State.parked_lastServed (s : State) (t : Thread) (w : Wait) :
    (s.parked t w).lastServed = s.lastServed := rfl

@[simp] theorem State.parked_shareWindow (s : State) (t : Thread) (w : Wait) :
    (s.parked t w).shareWindow = s.shareWindow := rfl

@[simp] theorem State.parked_out (s : State) (t : Thread) (w : Wait) :
    (s.parked t w).out = s.out := rfl

@[simp] theorem State.parked_cur (s : State) (t : Thread) (w : Wait) :
    (s.parked t w).cur = s.cur := rfl

@[simp] theorem State.parked_word (s : State) (t : Thread) (w : Wait) :
    (s.parked t w).word = s.word := rfl

@[simp] theorem State.parked_slow (s : State) (t : Thread) (w : Wait) :
    (s.parked t w).slow = s.slow := rfl

@[simp] theorem State.parked_ev (s : State) (t : Thread) (w : Wait) :
    (s.parked t w).ev = s.ev := rfl

@[simp] theorem State.parked_due (s : State) (t : Thread) (w : Wait) :
    (s.parked t w).due = s.due := rfl

@[simp] theorem State.parked_agenda (s : State) (t : Thread) (w : Wait) :
    (s.parked t w).agenda = s.agenda := rfl

@[simp] theorem State.parked_free (s : State) (t : Thread) (w : Wait) :
    (s.parked t w).free = s.free := rfl

/-! ## State.countInstr -/

@[simp] theorem State.countInstr_cyc (s : State) (t : Thread) :
    (s.countInstr t).cyc = s.cyc := by
  unfold State.countInstr; split <;> rfl

@[simp] theorem State.countInstr_threads (s : State) (t : Thread) :
    (s.countInstr t).threads = s.threads := by
  unfold State.countInstr; split <;> rfl

@[simp] theorem State.countInstr_cores (s : State) (t : Thread) :
    (s.countInstr t).cores = s.cores := by
  unfold State.countInstr; split <;> rfl

@[simp] theorem State.countInstr_mem (s : State) (t : Thread) :
    (s.countInstr t).mem = s.mem := by
  unfold State.countInstr; split <;> rfl

@[simp] theorem State.countInstr_empties (s : State) (t : Thread) :
    (s.countInstr t).empties = s.empties := by
  unfold State.countInstr; split <;> rfl

@[simp] theorem State.countInstr_poisoned (s : State) (t : Thread) :
    (s.countInstr t).poisoned = s.poisoned := by
  unfold State.countInstr; split <;> rfl

@[simp] theorem State.countInstr_accs (s : State) (t : Thread) :
    (s.countInstr t).accs = s.accs := by
  unfold State.countInstr; split <;> rfl

@[simp] theorem State.countInstr_mesh (s : State) (t : Thread) :
    (s.countInstr t).mesh = s.mesh := by
  unfold State.countInstr; split <;> rfl

@[simp] theorem State.countInstr_tlb (s : State) (t : Thread) :
    (s.countInstr t).tlb = s.tlb := by
  unfold State.countInstr; split <;> rfl

@[simp] theorem State.countInstr_mmuWaits (s : State) (t : Thread) :
    (s.countInstr t).mmuWaits = s.mmuWaits := by
  unfold State.countInstr; split <;> rfl

@[simp] theorem State.countInstr_pageReqs (s : State) (t : Thread) :
    (s.countInstr t).pageReqs = s.pageReqs := by
  unfold State.countInstr; split <;> rfl

@[simp] theorem State.countInstr_rewalks (s : State) (t : Thread) :
    (s.countInstr t).rewalks = s.rewalks := by
  unfold State.countInstr; split <;> rfl

@[simp] theorem State.countInstr_dups (s : State) (t : Thread) :
    (s.countInstr t).dups = s.dups := by
  unfold State.countInstr; split <;> rfl

@[simp] theorem State.countInstr_forwards (s : State) (t : Thread) :
    (s.countInstr t).forwards = s.forwards := by
  unfold State.countInstr; split <;> rfl

@[simp] theorem State.countInstr_spilled (s : State) (t : Thread) :
    (s.countInstr t).spilled = s.spilled := by
  unfold State.countInstr; split <;> rfl

@[simp] theorem State.countInstr_arena (s : State) (t : Thread) :
    (s.countInstr t).arena = s.arena := by
  unfold State.countInstr; split <;> rfl

@[simp] theorem State.countInstr_jobs (s : State) (t : Thread) :
    (s.countInstr t).jobs = s.jobs := by
  unfold State.countInstr; split <;> rfl

@[simp] theorem State.countInstr_codeSeg (s : State) (t : Thread) :
    (s.countInstr t).codeSeg = s.codeSeg := by
  unfold State.countInstr; split <;> rfl

@[simp] theorem State.countInstr_sys (s : State) (t : Thread) :
    (s.countInstr t).sys = s.sys := by
  unfold State.countInstr; split <;> rfl

@[simp] theorem State.countInstr_base (s : State) (t : Thread) :
    (s.countInstr t).base = s.base := by
  unfold State.countInstr; split <;> rfl

@[simp] theorem State.countInstr_serial (s : State) (t : Thread) :
    (s.countInstr t).serial = s.serial := by
  unfold State.countInstr; split <;> rfl

@[simp] theorem State.countInstr_owed (s : State) (t : Thread) :
    (s.countInstr t).owed = s.owed := by
  unfold State.countInstr; split <;> rfl

@[simp] theorem State.countInstr_lastServed (s : State) (t : Thread) :
    (s.countInstr t).lastServed = s.lastServed := by
  unfold State.countInstr; split <;> rfl

@[simp] theorem State.countInstr_shareWindow (s : State) (t : Thread) :
    (s.countInstr t).shareWindow = s.shareWindow := by
  unfold State.countInstr; split <;> rfl

@[simp] theorem State.countInstr_out (s : State) (t : Thread) :
    (s.countInstr t).out = s.out := by
  unfold State.countInstr; split <;> rfl

@[simp] theorem State.countInstr_cur (s : State) (t : Thread) :
    (s.countInstr t).cur = s.cur := by
  unfold State.countInstr; split <;> rfl

@[simp] theorem State.countInstr_word (s : State) (t : Thread) :
    (s.countInstr t).word = s.word := by
  unfold State.countInstr; split <;> rfl

@[simp] theorem State.countInstr_slow (s : State) (t : Thread) :
    (s.countInstr t).slow = s.slow := by
  unfold State.countInstr; split <;> rfl

@[simp] theorem State.countInstr_ev (s : State) (t : Thread) :
    (s.countInstr t).ev = s.ev := by
  unfold State.countInstr; split <;> rfl

@[simp] theorem State.countInstr_due (s : State) (t : Thread) :
    (s.countInstr t).due = s.due := by
  unfold State.countInstr; split <;> rfl

@[simp] theorem State.countInstr_agenda (s : State) (t : Thread) :
    (s.countInstr t).agenda = s.agenda := by
  unfold State.countInstr; split <;> rfl

@[simp] theorem State.countInstr_free (s : State) (t : Thread) :
    (s.countInstr t).free = s.free := by
  unfold State.countInstr; split <;> rfl

/-! ## State.commit -/

@[simp] theorem State.commit_cyc (s : State) (t : Thread) :
    (s.commit t).cyc = s.cyc := by simp [State.commit]

@[simp] theorem State.commit_cores (s : State) (t : Thread) :
    (s.commit t).cores = s.cores := by simp [State.commit]

@[simp] theorem State.commit_mem (s : State) (t : Thread) :
    (s.commit t).mem = s.mem := by simp [State.commit]

@[simp] theorem State.commit_empties (s : State) (t : Thread) :
    (s.commit t).empties = s.empties := by simp [State.commit]

@[simp] theorem State.commit_poisoned (s : State) (t : Thread) :
    (s.commit t).poisoned = s.poisoned := by simp [State.commit]

@[simp] theorem State.commit_accs (s : State) (t : Thread) :
    (s.commit t).accs = s.accs := by simp [State.commit]

@[simp] theorem State.commit_mesh (s : State) (t : Thread) :
    (s.commit t).mesh = s.mesh := by simp [State.commit]

@[simp] theorem State.commit_tlb (s : State) (t : Thread) :
    (s.commit t).tlb = s.tlb := by simp [State.commit]

@[simp] theorem State.commit_mmuWaits (s : State) (t : Thread) :
    (s.commit t).mmuWaits = s.mmuWaits := by simp [State.commit]

@[simp] theorem State.commit_pageReqs (s : State) (t : Thread) :
    (s.commit t).pageReqs = s.pageReqs := by simp [State.commit]

@[simp] theorem State.commit_rewalks (s : State) (t : Thread) :
    (s.commit t).rewalks = s.rewalks := by simp [State.commit]

@[simp] theorem State.commit_dups (s : State) (t : Thread) :
    (s.commit t).dups = s.dups := by simp [State.commit]

@[simp] theorem State.commit_forwards (s : State) (t : Thread) :
    (s.commit t).forwards = s.forwards := by simp [State.commit]

@[simp] theorem State.commit_spilled (s : State) (t : Thread) :
    (s.commit t).spilled = s.spilled := by simp [State.commit]

@[simp] theorem State.commit_arena (s : State) (t : Thread) :
    (s.commit t).arena = s.arena := by simp [State.commit]

@[simp] theorem State.commit_jobs (s : State) (t : Thread) :
    (s.commit t).jobs = s.jobs := by simp [State.commit]

@[simp] theorem State.commit_codeSeg (s : State) (t : Thread) :
    (s.commit t).codeSeg = s.codeSeg := by simp [State.commit]

@[simp] theorem State.commit_sys (s : State) (t : Thread) :
    (s.commit t).sys = s.sys := by simp [State.commit]

@[simp] theorem State.commit_base (s : State) (t : Thread) :
    (s.commit t).base = s.base := by simp [State.commit]

@[simp] theorem State.commit_serial (s : State) (t : Thread) :
    (s.commit t).serial = s.serial := by simp [State.commit]

@[simp] theorem State.commit_owed (s : State) (t : Thread) :
    (s.commit t).owed = s.owed := by simp [State.commit]

@[simp] theorem State.commit_lastServed (s : State) (t : Thread) :
    (s.commit t).lastServed = s.lastServed := by simp [State.commit]

@[simp] theorem State.commit_shareWindow (s : State) (t : Thread) :
    (s.commit t).shareWindow = s.shareWindow := by simp [State.commit]

@[simp] theorem State.commit_out (s : State) (t : Thread) :
    (s.commit t).out = s.out := by simp [State.commit]

@[simp] theorem State.commit_cur (s : State) (t : Thread) :
    (s.commit t).cur = s.cur := by simp [State.commit]

@[simp] theorem State.commit_word (s : State) (t : Thread) :
    (s.commit t).word = s.word := by simp [State.commit]

@[simp] theorem State.commit_slow (s : State) (t : Thread) :
    (s.commit t).slow = s.slow := by simp [State.commit]

@[simp] theorem State.commit_ev (s : State) (t : Thread) :
    (s.commit t).ev = s.ev := by simp [State.commit]

@[simp] theorem State.commit_due (s : State) (t : Thread) :
    (s.commit t).due = s.due := by simp [State.commit]

@[simp] theorem State.commit_agenda (s : State) (t : Thread) :
    (s.commit t).agenda = s.agenda := by simp [State.commit]

@[simp] theorem State.commit_free (s : State) (t : Thread) :
    (s.commit t).free = s.free := by simp [State.commit]

/-- Committing writes the thread's record, and counts in its region alone. -/
@[simp] theorem State.commit_threads (s : State) (t : Thread) :
    (s.commit t).threads = tabPut t.id.toNat t s.threads := by
  unfold State.commit State.countInstr; split <;> rfl

@[simp] theorem State.setThread_threads (s : State) (t : Thread) :
    (s.setThread t).threads = tabPut t.id.toNat t s.threads := rfl


/-! ## Thread.setReg -/

@[simp] theorem Thread.setReg_id (t : Thread) (r : RegNum) (v : Reg) :
    (t.setReg r v).id = t.id := rfl

@[simp] theorem Thread.setReg_state (t : Thread) (r : RegNum) (v : Reg) :
    (t.setReg r v).state = t.state := rfl

@[simp] theorem Thread.setReg_wait (t : Thread) (r : RegNum) (v : Reg) :
    (t.setReg r v).wait = t.wait := rfl

@[simp] theorem Thread.setReg_dbg (t : Thread) (r : RegNum) (v : Reg) :
    (t.setReg r v).dbg = t.dbg := rfl

@[simp] theorem Thread.setReg_regionHeld (t : Thread) (r : RegNum) (v : Reg) :
    (t.setReg r v).regionHeld = t.regionHeld := rfl

@[simp] theorem Thread.setReg_pending (t : Thread) (r : RegNum) (v : Reg) :
    (t.setReg r v).pending = t.pending := rfl

@[simp] theorem Thread.setReg_cls (t : Thread) (r : RegNum) (v : Reg) :
    (t.setReg r v).cls = t.cls := rfl

@[simp] theorem Thread.setReg_prio (t : Thread) (r : RegNum) (v : Reg) :
    (t.setReg r v).prio = t.prio := rfl

@[simp] theorem Thread.setReg_rcb (t : Thread) (r : RegNum) (v : Reg) :
    (t.setReg r v).rcb = t.rcb := rfl

@[simp] theorem Thread.setReg_parent (t : Thread) (r : RegNum) (v : Reg) :
    (t.setReg r v).parent = t.parent := rfl

@[simp] theorem Thread.setReg_wbase (t : Thread) (r : RegNum) (v : Reg) :
    (t.setReg r v).wbase = t.wbase := rfl

@[simp] theorem Thread.setReg_masks (t : Thread) (r : RegNum) (v : Reg) :
    (t.setReg r v).masks = t.masks := rfl

@[simp] theorem Thread.setReg_segs (t : Thread) (r : RegNum) (v : Reg) :
    (t.setReg r v).segs = t.segs := rfl

@[simp] theorem Thread.setReg_pc (t : Thread) (r : RegNum) (v : Reg) :
    (t.setReg r v).pc = t.pc := rfl

@[simp] theorem Thread.setReg_sp (t : Thread) (r : RegNum) (v : Reg) :
    (t.setReg r v).sp = t.sp := rfl

@[simp] theorem Thread.setReg_nextBatch (t : Thread) (r : RegNum) (v : Reg) :
    (t.setReg r v).nextBatch = t.nextBatch := rfl

@[simp] theorem Thread.setReg_batchOps (t : Thread) (r : RegNum) (v : Reg) :
    (t.setReg r v).batchOps = t.batchOps := rfl

@[simp] theorem Thread.setReg_reopen (t : Thread) (r : RegNum) (v : Reg) :
    (t.setReg r v).reopen = t.reopen := rfl

@[simp] theorem Thread.setReg_yielded (t : Thread) (r : RegNum) (v : Reg) :
    (t.setReg r v).yielded = t.yielded := rfl

@[simp] theorem Thread.setReg_firstTurn (t : Thread) (r : RegNum) (v : Reg) :
    (t.setReg r v).firstTurn = t.firstTurn := rfl

@[simp] theorem Thread.setReg_ifenced (t : Thread) (r : RegNum) (v : Reg) :
    (t.setReg r v).ifenced = t.ifenced := rfl

@[simp] theorem Thread.setReg_chan1 (t : Thread) (r : RegNum) (v : Reg) :
    (t.setReg r v).chan1 = t.chan1 := rfl

@[simp] theorem Thread.setReg_voids (t : Thread) (r : RegNum) (v : Reg) :
    (t.setReg r v).voids = t.voids := rfl

@[simp] theorem Thread.setReg_released (t : Thread) (r : RegNum) (v : Reg) :
    (t.setReg r v).released = t.released := rfl

@[simp] theorem Thread.setReg_pool (t : Thread) (r : RegNum) (v : Reg) :
    (t.setReg r v).pool = t.pool := rfl

@[simp] theorem Thread.setReg_tiles (t : Thread) (r : RegNum) (v : Reg) :
    (t.setReg r v).tiles = t.tiles := rfl

@[simp] theorem Thread.setReg_stampArg (t : Thread) (r : RegNum) (v : Reg) :
    (t.setReg r v).stampArg = t.stampArg := rfl

@[simp] theorem Thread.setReg_image (t : Thread) (r : RegNum) (v : Reg) :
    (t.setReg r v).image = t.image := rfl

@[simp] theorem Thread.setReg_roomWait (t : Thread) (r : RegNum) (v : Reg) :
    (t.setReg r v).roomWait = t.roomWait := rfl

@[simp] theorem Thread.setReg_killed (t : Thread) (r : RegNum) (v : Reg) :
    (t.setReg r v).killed = t.killed := rfl

@[simp] theorem Thread.setReg_spec (t : Thread) (r : RegNum) (v : Reg) :
    (t.setReg r v).spec = t.spec := rfl

@[simp] theorem Thread.setReg_disp (t : Thread) (r : RegNum) (v : Reg) :
    (t.setReg r v).disp = t.disp := rfl

@[simp] theorem Thread.setReg_ctx (t : Thread) (r : RegNum) (v : Reg) :
    (t.setReg r v).ctx = t.ctx := rfl

@[simp] theorem Thread.setReg_saved (t : Thread) (r : RegNum) (v : Reg) :
    (t.setReg r v).saved = t.saved := rfl

/-! ## Thread.setPres -/

@[simp] theorem Thread.setPres_id (t : Thread) (r : RegNum) (p : Presence) :
    (t.setPres r p).id = t.id := rfl

@[simp] theorem Thread.setPres_state (t : Thread) (r : RegNum) (p : Presence) :
    (t.setPres r p).state = t.state := rfl

@[simp] theorem Thread.setPres_wait (t : Thread) (r : RegNum) (p : Presence) :
    (t.setPres r p).wait = t.wait := rfl

@[simp] theorem Thread.setPres_dbg (t : Thread) (r : RegNum) (p : Presence) :
    (t.setPres r p).dbg = t.dbg := rfl

@[simp] theorem Thread.setPres_regionHeld (t : Thread) (r : RegNum) (p : Presence) :
    (t.setPres r p).regionHeld = t.regionHeld := rfl

@[simp] theorem Thread.setPres_pending (t : Thread) (r : RegNum) (p : Presence) :
    (t.setPres r p).pending = t.pending := rfl

@[simp] theorem Thread.setPres_cls (t : Thread) (r : RegNum) (p : Presence) :
    (t.setPres r p).cls = t.cls := rfl

@[simp] theorem Thread.setPres_prio (t : Thread) (r : RegNum) (p : Presence) :
    (t.setPres r p).prio = t.prio := rfl

@[simp] theorem Thread.setPres_rcb (t : Thread) (r : RegNum) (p : Presence) :
    (t.setPres r p).rcb = t.rcb := rfl

@[simp] theorem Thread.setPres_parent (t : Thread) (r : RegNum) (p : Presence) :
    (t.setPres r p).parent = t.parent := rfl

@[simp] theorem Thread.setPres_wbase (t : Thread) (r : RegNum) (p : Presence) :
    (t.setPres r p).wbase = t.wbase := rfl

@[simp] theorem Thread.setPres_masks (t : Thread) (r : RegNum) (p : Presence) :
    (t.setPres r p).masks = t.masks := rfl

@[simp] theorem Thread.setPres_segs (t : Thread) (r : RegNum) (p : Presence) :
    (t.setPres r p).segs = t.segs := rfl

@[simp] theorem Thread.setPres_pc (t : Thread) (r : RegNum) (p : Presence) :
    (t.setPres r p).pc = t.pc := rfl

@[simp] theorem Thread.setPres_sp (t : Thread) (r : RegNum) (p : Presence) :
    (t.setPres r p).sp = t.sp := rfl

@[simp] theorem Thread.setPres_nextBatch (t : Thread) (r : RegNum) (p : Presence) :
    (t.setPres r p).nextBatch = t.nextBatch := rfl

@[simp] theorem Thread.setPres_batchOps (t : Thread) (r : RegNum) (p : Presence) :
    (t.setPres r p).batchOps = t.batchOps := rfl

@[simp] theorem Thread.setPres_reopen (t : Thread) (r : RegNum) (p : Presence) :
    (t.setPres r p).reopen = t.reopen := rfl

@[simp] theorem Thread.setPres_yielded (t : Thread) (r : RegNum) (p : Presence) :
    (t.setPres r p).yielded = t.yielded := rfl

@[simp] theorem Thread.setPres_firstTurn (t : Thread) (r : RegNum) (p : Presence) :
    (t.setPres r p).firstTurn = t.firstTurn := rfl

@[simp] theorem Thread.setPres_ifenced (t : Thread) (r : RegNum) (p : Presence) :
    (t.setPres r p).ifenced = t.ifenced := rfl

@[simp] theorem Thread.setPres_chan1 (t : Thread) (r : RegNum) (p : Presence) :
    (t.setPres r p).chan1 = t.chan1 := rfl

@[simp] theorem Thread.setPres_voids (t : Thread) (r : RegNum) (p : Presence) :
    (t.setPres r p).voids = t.voids := rfl

@[simp] theorem Thread.setPres_released (t : Thread) (r : RegNum) (p : Presence) :
    (t.setPres r p).released = t.released := rfl

@[simp] theorem Thread.setPres_pool (t : Thread) (r : RegNum) (p : Presence) :
    (t.setPres r p).pool = t.pool := rfl

@[simp] theorem Thread.setPres_tiles (t : Thread) (r : RegNum) (p : Presence) :
    (t.setPres r p).tiles = t.tiles := rfl

@[simp] theorem Thread.setPres_stampArg (t : Thread) (r : RegNum) (p : Presence) :
    (t.setPres r p).stampArg = t.stampArg := rfl

@[simp] theorem Thread.setPres_image (t : Thread) (r : RegNum) (p : Presence) :
    (t.setPres r p).image = t.image := rfl

@[simp] theorem Thread.setPres_roomWait (t : Thread) (r : RegNum) (p : Presence) :
    (t.setPres r p).roomWait = t.roomWait := rfl

@[simp] theorem Thread.setPres_killed (t : Thread) (r : RegNum) (p : Presence) :
    (t.setPres r p).killed = t.killed := rfl

@[simp] theorem Thread.setPres_spec (t : Thread) (r : RegNum) (p : Presence) :
    (t.setPres r p).spec = t.spec := rfl

@[simp] theorem Thread.setPres_disp (t : Thread) (r : RegNum) (p : Presence) :
    (t.setPres r p).disp = t.disp := rfl

@[simp] theorem Thread.setPres_ctx (t : Thread) (r : RegNum) (p : Presence) :
    (t.setPres r p).ctx = t.ctx := rfl

@[simp] theorem Thread.setPres_saved (t : Thread) (r : RegNum) (p : Presence) :
    (t.setPres r p).saved = t.saved := rfl

/-! ## Thread.setMask -/

@[simp] theorem Thread.setMask_id (t : Thread) (k : KReg) (v : Word) :
    (t.setMask k v).id = t.id := by
  unfold Thread.setMask; split <;> rfl

@[simp] theorem Thread.setMask_state (t : Thread) (k : KReg) (v : Word) :
    (t.setMask k v).state = t.state := by
  unfold Thread.setMask; split <;> rfl

@[simp] theorem Thread.setMask_wait (t : Thread) (k : KReg) (v : Word) :
    (t.setMask k v).wait = t.wait := by
  unfold Thread.setMask; split <;> rfl

@[simp] theorem Thread.setMask_dbg (t : Thread) (k : KReg) (v : Word) :
    (t.setMask k v).dbg = t.dbg := by
  unfold Thread.setMask; split <;> rfl

@[simp] theorem Thread.setMask_regionHeld (t : Thread) (k : KReg) (v : Word) :
    (t.setMask k v).regionHeld = t.regionHeld := by
  unfold Thread.setMask; split <;> rfl

@[simp] theorem Thread.setMask_pending (t : Thread) (k : KReg) (v : Word) :
    (t.setMask k v).pending = t.pending := by
  unfold Thread.setMask; split <;> rfl

@[simp] theorem Thread.setMask_cls (t : Thread) (k : KReg) (v : Word) :
    (t.setMask k v).cls = t.cls := by
  unfold Thread.setMask; split <;> rfl

@[simp] theorem Thread.setMask_prio (t : Thread) (k : KReg) (v : Word) :
    (t.setMask k v).prio = t.prio := by
  unfold Thread.setMask; split <;> rfl

@[simp] theorem Thread.setMask_rcb (t : Thread) (k : KReg) (v : Word) :
    (t.setMask k v).rcb = t.rcb := by
  unfold Thread.setMask; split <;> rfl

@[simp] theorem Thread.setMask_parent (t : Thread) (k : KReg) (v : Word) :
    (t.setMask k v).parent = t.parent := by
  unfold Thread.setMask; split <;> rfl

@[simp] theorem Thread.setMask_wbase (t : Thread) (k : KReg) (v : Word) :
    (t.setMask k v).wbase = t.wbase := by
  unfold Thread.setMask; split <;> rfl

@[simp] theorem Thread.setMask_regs (t : Thread) (k : KReg) (v : Word) :
    (t.setMask k v).regs = t.regs := by
  unfold Thread.setMask; split <;> rfl

@[simp] theorem Thread.setMask_segs (t : Thread) (k : KReg) (v : Word) :
    (t.setMask k v).segs = t.segs := by
  unfold Thread.setMask; split <;> rfl

@[simp] theorem Thread.setMask_pc (t : Thread) (k : KReg) (v : Word) :
    (t.setMask k v).pc = t.pc := by
  unfold Thread.setMask; split <;> rfl

@[simp] theorem Thread.setMask_sp (t : Thread) (k : KReg) (v : Word) :
    (t.setMask k v).sp = t.sp := by
  unfold Thread.setMask; split <;> rfl

@[simp] theorem Thread.setMask_nextBatch (t : Thread) (k : KReg) (v : Word) :
    (t.setMask k v).nextBatch = t.nextBatch := by
  unfold Thread.setMask; split <;> rfl

@[simp] theorem Thread.setMask_batchOps (t : Thread) (k : KReg) (v : Word) :
    (t.setMask k v).batchOps = t.batchOps := by
  unfold Thread.setMask; split <;> rfl

@[simp] theorem Thread.setMask_reopen (t : Thread) (k : KReg) (v : Word) :
    (t.setMask k v).reopen = t.reopen := by
  unfold Thread.setMask; split <;> rfl

@[simp] theorem Thread.setMask_yielded (t : Thread) (k : KReg) (v : Word) :
    (t.setMask k v).yielded = t.yielded := by
  unfold Thread.setMask; split <;> rfl

@[simp] theorem Thread.setMask_firstTurn (t : Thread) (k : KReg) (v : Word) :
    (t.setMask k v).firstTurn = t.firstTurn := by
  unfold Thread.setMask; split <;> rfl

@[simp] theorem Thread.setMask_ifenced (t : Thread) (k : KReg) (v : Word) :
    (t.setMask k v).ifenced = t.ifenced := by
  unfold Thread.setMask; split <;> rfl

@[simp] theorem Thread.setMask_chan1 (t : Thread) (k : KReg) (v : Word) :
    (t.setMask k v).chan1 = t.chan1 := by
  unfold Thread.setMask; split <;> rfl

@[simp] theorem Thread.setMask_voids (t : Thread) (k : KReg) (v : Word) :
    (t.setMask k v).voids = t.voids := by
  unfold Thread.setMask; split <;> rfl

@[simp] theorem Thread.setMask_released (t : Thread) (k : KReg) (v : Word) :
    (t.setMask k v).released = t.released := by
  unfold Thread.setMask; split <;> rfl

@[simp] theorem Thread.setMask_pool (t : Thread) (k : KReg) (v : Word) :
    (t.setMask k v).pool = t.pool := by
  unfold Thread.setMask; split <;> rfl

@[simp] theorem Thread.setMask_tiles (t : Thread) (k : KReg) (v : Word) :
    (t.setMask k v).tiles = t.tiles := by
  unfold Thread.setMask; split <;> rfl

@[simp] theorem Thread.setMask_stampArg (t : Thread) (k : KReg) (v : Word) :
    (t.setMask k v).stampArg = t.stampArg := by
  unfold Thread.setMask; split <;> rfl

@[simp] theorem Thread.setMask_image (t : Thread) (k : KReg) (v : Word) :
    (t.setMask k v).image = t.image := by
  unfold Thread.setMask; split <;> rfl

@[simp] theorem Thread.setMask_roomWait (t : Thread) (k : KReg) (v : Word) :
    (t.setMask k v).roomWait = t.roomWait := by
  unfold Thread.setMask; split <;> rfl

@[simp] theorem Thread.setMask_killed (t : Thread) (k : KReg) (v : Word) :
    (t.setMask k v).killed = t.killed := by
  unfold Thread.setMask; split <;> rfl

@[simp] theorem Thread.setMask_spec (t : Thread) (k : KReg) (v : Word) :
    (t.setMask k v).spec = t.spec := by
  unfold Thread.setMask; split <;> rfl

@[simp] theorem Thread.setMask_disp (t : Thread) (k : KReg) (v : Word) :
    (t.setMask k v).disp = t.disp := by
  unfold Thread.setMask; split <;> rfl

@[simp] theorem Thread.setMask_ctx (t : Thread) (k : KReg) (v : Word) :
    (t.setMask k v).ctx = t.ctx := by
  unfold Thread.setMask; split <;> rfl

@[simp] theorem Thread.setMask_saved (t : Thread) (k : KReg) (v : Word) :
    (t.setMask k v).saved = t.saved := by
  unfold Thread.setMask; split <;> rfl

/-! ## Thread.setSeg -/

@[simp] theorem Thread.setSeg_id (t : Thread) (g : SegReg) (d : BitVec 128) :
    (t.setSeg g d).id = t.id := rfl

@[simp] theorem Thread.setSeg_state (t : Thread) (g : SegReg) (d : BitVec 128) :
    (t.setSeg g d).state = t.state := rfl

@[simp] theorem Thread.setSeg_wait (t : Thread) (g : SegReg) (d : BitVec 128) :
    (t.setSeg g d).wait = t.wait := rfl

@[simp] theorem Thread.setSeg_dbg (t : Thread) (g : SegReg) (d : BitVec 128) :
    (t.setSeg g d).dbg = t.dbg := rfl

@[simp] theorem Thread.setSeg_regionHeld (t : Thread) (g : SegReg) (d : BitVec 128) :
    (t.setSeg g d).regionHeld = t.regionHeld := rfl

@[simp] theorem Thread.setSeg_pending (t : Thread) (g : SegReg) (d : BitVec 128) :
    (t.setSeg g d).pending = t.pending := rfl

@[simp] theorem Thread.setSeg_cls (t : Thread) (g : SegReg) (d : BitVec 128) :
    (t.setSeg g d).cls = t.cls := rfl

@[simp] theorem Thread.setSeg_prio (t : Thread) (g : SegReg) (d : BitVec 128) :
    (t.setSeg g d).prio = t.prio := rfl

@[simp] theorem Thread.setSeg_rcb (t : Thread) (g : SegReg) (d : BitVec 128) :
    (t.setSeg g d).rcb = t.rcb := rfl

@[simp] theorem Thread.setSeg_parent (t : Thread) (g : SegReg) (d : BitVec 128) :
    (t.setSeg g d).parent = t.parent := rfl

@[simp] theorem Thread.setSeg_wbase (t : Thread) (g : SegReg) (d : BitVec 128) :
    (t.setSeg g d).wbase = t.wbase := rfl

@[simp] theorem Thread.setSeg_regs (t : Thread) (g : SegReg) (d : BitVec 128) :
    (t.setSeg g d).regs = t.regs := rfl

@[simp] theorem Thread.setSeg_masks (t : Thread) (g : SegReg) (d : BitVec 128) :
    (t.setSeg g d).masks = t.masks := rfl

@[simp] theorem Thread.setSeg_pc (t : Thread) (g : SegReg) (d : BitVec 128) :
    (t.setSeg g d).pc = t.pc := rfl

@[simp] theorem Thread.setSeg_sp (t : Thread) (g : SegReg) (d : BitVec 128) :
    (t.setSeg g d).sp = t.sp := rfl

@[simp] theorem Thread.setSeg_nextBatch (t : Thread) (g : SegReg) (d : BitVec 128) :
    (t.setSeg g d).nextBatch = t.nextBatch := rfl

@[simp] theorem Thread.setSeg_batchOps (t : Thread) (g : SegReg) (d : BitVec 128) :
    (t.setSeg g d).batchOps = t.batchOps := rfl

@[simp] theorem Thread.setSeg_reopen (t : Thread) (g : SegReg) (d : BitVec 128) :
    (t.setSeg g d).reopen = t.reopen := rfl

@[simp] theorem Thread.setSeg_yielded (t : Thread) (g : SegReg) (d : BitVec 128) :
    (t.setSeg g d).yielded = t.yielded := rfl

@[simp] theorem Thread.setSeg_firstTurn (t : Thread) (g : SegReg) (d : BitVec 128) :
    (t.setSeg g d).firstTurn = t.firstTurn := rfl

@[simp] theorem Thread.setSeg_ifenced (t : Thread) (g : SegReg) (d : BitVec 128) :
    (t.setSeg g d).ifenced = t.ifenced := rfl

@[simp] theorem Thread.setSeg_chan1 (t : Thread) (g : SegReg) (d : BitVec 128) :
    (t.setSeg g d).chan1 = t.chan1 := rfl

@[simp] theorem Thread.setSeg_voids (t : Thread) (g : SegReg) (d : BitVec 128) :
    (t.setSeg g d).voids = t.voids := rfl

@[simp] theorem Thread.setSeg_released (t : Thread) (g : SegReg) (d : BitVec 128) :
    (t.setSeg g d).released = t.released := rfl

@[simp] theorem Thread.setSeg_pool (t : Thread) (g : SegReg) (d : BitVec 128) :
    (t.setSeg g d).pool = t.pool := rfl

@[simp] theorem Thread.setSeg_tiles (t : Thread) (g : SegReg) (d : BitVec 128) :
    (t.setSeg g d).tiles = t.tiles := rfl

@[simp] theorem Thread.setSeg_stampArg (t : Thread) (g : SegReg) (d : BitVec 128) :
    (t.setSeg g d).stampArg = t.stampArg := rfl

@[simp] theorem Thread.setSeg_image (t : Thread) (g : SegReg) (d : BitVec 128) :
    (t.setSeg g d).image = t.image := rfl

@[simp] theorem Thread.setSeg_roomWait (t : Thread) (g : SegReg) (d : BitVec 128) :
    (t.setSeg g d).roomWait = t.roomWait := rfl

@[simp] theorem Thread.setSeg_killed (t : Thread) (g : SegReg) (d : BitVec 128) :
    (t.setSeg g d).killed = t.killed := rfl

@[simp] theorem Thread.setSeg_spec (t : Thread) (g : SegReg) (d : BitVec 128) :
    (t.setSeg g d).spec = t.spec := rfl

@[simp] theorem Thread.setSeg_disp (t : Thread) (g : SegReg) (d : BitVec 128) :
    (t.setSeg g d).disp = t.disp := rfl

@[simp] theorem Thread.setSeg_ctx (t : Thread) (g : SegReg) (d : BitVec 128) :
    (t.setSeg g d).ctx = t.ctx := rfl

@[simp] theorem Thread.setSeg_saved (t : Thread) (g : SegReg) (d : BitVec 128) :
    (t.setSeg g d).saved = t.saved := rfl

/-! ## Thread.adv -/

@[simp] theorem Thread.adv_id (t : Thread) :
    t.adv.id = t.id := rfl

@[simp] theorem Thread.adv_state (t : Thread) :
    t.adv.state = t.state := rfl

@[simp] theorem Thread.adv_wait (t : Thread) :
    t.adv.wait = t.wait := rfl

@[simp] theorem Thread.adv_dbg (t : Thread) :
    t.adv.dbg = t.dbg := rfl

@[simp] theorem Thread.adv_regionHeld (t : Thread) :
    t.adv.regionHeld = t.regionHeld := rfl

@[simp] theorem Thread.adv_pending (t : Thread) :
    t.adv.pending = t.pending := rfl

@[simp] theorem Thread.adv_cls (t : Thread) :
    t.adv.cls = t.cls := rfl

@[simp] theorem Thread.adv_prio (t : Thread) :
    t.adv.prio = t.prio := rfl

@[simp] theorem Thread.adv_rcb (t : Thread) :
    t.adv.rcb = t.rcb := rfl

@[simp] theorem Thread.adv_parent (t : Thread) :
    t.adv.parent = t.parent := rfl

@[simp] theorem Thread.adv_wbase (t : Thread) :
    t.adv.wbase = t.wbase := rfl

@[simp] theorem Thread.adv_regs (t : Thread) :
    t.adv.regs = t.regs := rfl

@[simp] theorem Thread.adv_masks (t : Thread) :
    t.adv.masks = t.masks := rfl

@[simp] theorem Thread.adv_segs (t : Thread) :
    t.adv.segs = t.segs := rfl

@[simp] theorem Thread.adv_sp (t : Thread) :
    t.adv.sp = t.sp := rfl

@[simp] theorem Thread.adv_nextBatch (t : Thread) :
    t.adv.nextBatch = t.nextBatch := rfl

@[simp] theorem Thread.adv_batchOps (t : Thread) :
    t.adv.batchOps = t.batchOps := rfl

@[simp] theorem Thread.adv_reopen (t : Thread) :
    t.adv.reopen = t.reopen := rfl

@[simp] theorem Thread.adv_yielded (t : Thread) :
    t.adv.yielded = t.yielded := rfl

@[simp] theorem Thread.adv_firstTurn (t : Thread) :
    t.adv.firstTurn = t.firstTurn := rfl

@[simp] theorem Thread.adv_ifenced (t : Thread) :
    t.adv.ifenced = t.ifenced := rfl

@[simp] theorem Thread.adv_chan1 (t : Thread) :
    t.adv.chan1 = t.chan1 := rfl

@[simp] theorem Thread.adv_voids (t : Thread) :
    t.adv.voids = t.voids := rfl

@[simp] theorem Thread.adv_released (t : Thread) :
    t.adv.released = t.released := rfl

@[simp] theorem Thread.adv_pool (t : Thread) :
    t.adv.pool = t.pool := rfl

@[simp] theorem Thread.adv_tiles (t : Thread) :
    t.adv.tiles = t.tiles := rfl

@[simp] theorem Thread.adv_stampArg (t : Thread) :
    t.adv.stampArg = t.stampArg := rfl

@[simp] theorem Thread.adv_image (t : Thread) :
    t.adv.image = t.image := rfl

@[simp] theorem Thread.adv_roomWait (t : Thread) :
    t.adv.roomWait = t.roomWait := rfl

@[simp] theorem Thread.adv_killed (t : Thread) :
    t.adv.killed = t.killed := rfl

@[simp] theorem Thread.adv_spec (t : Thread) :
    t.adv.spec = t.spec := rfl

@[simp] theorem Thread.adv_disp (t : Thread) :
    t.adv.disp = t.disp := rfl

@[simp] theorem Thread.adv_ctx (t : Thread) :
    t.adv.ctx = t.ctx := rfl

@[simp] theorem Thread.adv_saved (t : Thread) :
    t.adv.saved = t.saved := rfl

/-! ## Thread.orNv -/

@[simp] theorem Thread.orNv_id (t : Thread) (b : Bool) :
    (t.orNv b).id = t.id := by
  unfold Thread.orNv; split <;> rfl

@[simp] theorem Thread.orNv_state (t : Thread) (b : Bool) :
    (t.orNv b).state = t.state := by
  unfold Thread.orNv; split <;> rfl

@[simp] theorem Thread.orNv_wait (t : Thread) (b : Bool) :
    (t.orNv b).wait = t.wait := by
  unfold Thread.orNv; split <;> rfl

@[simp] theorem Thread.orNv_dbg (t : Thread) (b : Bool) :
    (t.orNv b).dbg = t.dbg := by
  unfold Thread.orNv; split <;> rfl

@[simp] theorem Thread.orNv_regionHeld (t : Thread) (b : Bool) :
    (t.orNv b).regionHeld = t.regionHeld := by
  unfold Thread.orNv; split <;> rfl

@[simp] theorem Thread.orNv_pending (t : Thread) (b : Bool) :
    (t.orNv b).pending = t.pending := by
  unfold Thread.orNv; split <;> rfl

@[simp] theorem Thread.orNv_cls (t : Thread) (b : Bool) :
    (t.orNv b).cls = t.cls := by
  unfold Thread.orNv; split <;> rfl

@[simp] theorem Thread.orNv_prio (t : Thread) (b : Bool) :
    (t.orNv b).prio = t.prio := by
  unfold Thread.orNv; split <;> rfl

@[simp] theorem Thread.orNv_rcb (t : Thread) (b : Bool) :
    (t.orNv b).rcb = t.rcb := by
  unfold Thread.orNv; split <;> rfl

@[simp] theorem Thread.orNv_parent (t : Thread) (b : Bool) :
    (t.orNv b).parent = t.parent := by
  unfold Thread.orNv; split <;> rfl

@[simp] theorem Thread.orNv_wbase (t : Thread) (b : Bool) :
    (t.orNv b).wbase = t.wbase := by
  unfold Thread.orNv; split <;> rfl

@[simp] theorem Thread.orNv_regs (t : Thread) (b : Bool) :
    (t.orNv b).regs = t.regs := by
  unfold Thread.orNv; split <;> rfl

@[simp] theorem Thread.orNv_masks (t : Thread) (b : Bool) :
    (t.orNv b).masks = t.masks := by
  unfold Thread.orNv; split <;> rfl

@[simp] theorem Thread.orNv_segs (t : Thread) (b : Bool) :
    (t.orNv b).segs = t.segs := by
  unfold Thread.orNv; split <;> rfl

@[simp] theorem Thread.orNv_pc (t : Thread) (b : Bool) :
    (t.orNv b).pc = t.pc := by
  unfold Thread.orNv; split <;> rfl

@[simp] theorem Thread.orNv_nextBatch (t : Thread) (b : Bool) :
    (t.orNv b).nextBatch = t.nextBatch := by
  unfold Thread.orNv; split <;> rfl

@[simp] theorem Thread.orNv_batchOps (t : Thread) (b : Bool) :
    (t.orNv b).batchOps = t.batchOps := by
  unfold Thread.orNv; split <;> rfl

@[simp] theorem Thread.orNv_reopen (t : Thread) (b : Bool) :
    (t.orNv b).reopen = t.reopen := by
  unfold Thread.orNv; split <;> rfl

@[simp] theorem Thread.orNv_yielded (t : Thread) (b : Bool) :
    (t.orNv b).yielded = t.yielded := by
  unfold Thread.orNv; split <;> rfl

@[simp] theorem Thread.orNv_firstTurn (t : Thread) (b : Bool) :
    (t.orNv b).firstTurn = t.firstTurn := by
  unfold Thread.orNv; split <;> rfl

@[simp] theorem Thread.orNv_ifenced (t : Thread) (b : Bool) :
    (t.orNv b).ifenced = t.ifenced := by
  unfold Thread.orNv; split <;> rfl

@[simp] theorem Thread.orNv_chan1 (t : Thread) (b : Bool) :
    (t.orNv b).chan1 = t.chan1 := by
  unfold Thread.orNv; split <;> rfl

@[simp] theorem Thread.orNv_voids (t : Thread) (b : Bool) :
    (t.orNv b).voids = t.voids := by
  unfold Thread.orNv; split <;> rfl

@[simp] theorem Thread.orNv_released (t : Thread) (b : Bool) :
    (t.orNv b).released = t.released := by
  unfold Thread.orNv; split <;> rfl

@[simp] theorem Thread.orNv_pool (t : Thread) (b : Bool) :
    (t.orNv b).pool = t.pool := by
  unfold Thread.orNv; split <;> rfl

@[simp] theorem Thread.orNv_tiles (t : Thread) (b : Bool) :
    (t.orNv b).tiles = t.tiles := by
  unfold Thread.orNv; split <;> rfl

@[simp] theorem Thread.orNv_stampArg (t : Thread) (b : Bool) :
    (t.orNv b).stampArg = t.stampArg := by
  unfold Thread.orNv; split <;> rfl

@[simp] theorem Thread.orNv_image (t : Thread) (b : Bool) :
    (t.orNv b).image = t.image := by
  unfold Thread.orNv; split <;> rfl

@[simp] theorem Thread.orNv_roomWait (t : Thread) (b : Bool) :
    (t.orNv b).roomWait = t.roomWait := by
  unfold Thread.orNv; split <;> rfl

@[simp] theorem Thread.orNv_killed (t : Thread) (b : Bool) :
    (t.orNv b).killed = t.killed := by
  unfold Thread.orNv; split <;> rfl

@[simp] theorem Thread.orNv_spec (t : Thread) (b : Bool) :
    (t.orNv b).spec = t.spec := by
  unfold Thread.orNv; split <;> rfl

@[simp] theorem Thread.orNv_disp (t : Thread) (b : Bool) :
    (t.orNv b).disp = t.disp := by
  unfold Thread.orNv; split <;> rfl

@[simp] theorem Thread.orNv_ctx (t : Thread) (b : Bool) :
    (t.orNv b).ctx = t.ctx := by
  unfold Thread.orNv; split <;> rfl

@[simp] theorem Thread.orNv_saved (t : Thread) (b : Bool) :
    (t.orNv b).saved = t.saved := by
  unfold Thread.orNv; split <;> rfl

@[simp] theorem Thread.adv_pc (t : Thread) : t.adv.pc = t.pc + 8 := rfl

end Sys2Proof.Machine
end

