-- ==== Sys2Proof/Laws/Families.lean ====
section
/-! SUPPORT. What the shared shapes of the families do when nothing stops them: integer and vector instructions,
accesses, engine operations; and the laws of tables. -/

namespace Sys2Proof.Machine

/-! ## Tables -/

theorem tabGet_tabPut {α : Type} (k j : Nat) (v : α) (m : Tab α) :
    tabGet j (tabPut k v m) = if j = k then some v else tabGet j m := by
  induction m with
  | nil =>
    by_cases h : j = k
    · simp [tabPut, tabGet, h]
    · have hk : ¬ k = j := fun e => h e.symm
      simp [tabPut, tabGet, h, hk]
  | cons p m ih =>
    obtain ⟨i, u⟩ := p
    by_cases h : j = k
    · subst h
      simp only [tabPut, if_true]
      split
      · simp [tabGet]
      · split
        · simp [tabGet]
        · simp [tabGet, *]
    · have hk : ¬ k = j := fun e => h e.symm
      simp only [tabPut, h, if_false] at ih ⊢
      split
      · rename_i e
        subst e
        simp [tabGet, hk]
      · split
        · simp [tabGet, hk]
        · simp [tabGet, ih]

theorem tabGet_tabDel {α : Type} (k j : Nat) (m : Tab α) :
    tabGet j (tabDel k m) = if j = k then none else tabGet j m := by
  induction m with
  | nil => simp [tabDel, tabGet]
  | cons p m ih =>
    obtain ⟨i, u⟩ := p
    by_cases h : j = k
    · subst h
      simp only [tabDel, if_true] at ih ⊢
      split
      · exact ih
      · simp [tabGet, *]
    · simp only [tabDel, h, if_false] at ih ⊢
      split
      · rename_i e
        subst e
        have hk : ¬ i = j := fun e => h e.symm
        simp [tabGet, hk, ih]
      · simp [tabGet, ih]

/-- The thread of an identity after a thread is put. -/
theorem State.thread?_setThread (s : State) (t : Thread) (q : Ident) :
    (s.setThread t).thread? q = if q = t.id then some t else s.thread? q := by
  simp [State.thread?, State.setThread, tabGet_tabPut, BitVec.toNat_inj]

/-- The core of a number after a core is put. -/
theorem State.core_setCore (s : State) (c d : Nat) (k : Core) :
    (s.setCore c k).core d = if d = c then k else s.core d := by
  by_cases h : d = c <;> simp [State.core, State.setCore, tabGet_tabPut, h]

/-! ## Computations that may stop -/

/-- A computation that answers goes on with its answer. -/
theorem okb {α β : Type} (a : α) (f : α → X β) : (Except.ok a >>= f) = f a := rfl

/-- A computation that stops stops what follows. -/
theorem erb {α β : Type} (a : Stop) (f : α → X β) : ((Except.error a : X α) >>= f) = Except.error a := rfl

theorem prb {α : Type} (a : α)  : (pure a : X α) = Except.ok a := rfl

/-! ## Windows -/

theorem win1 {t : Thread} {a} (h : a.toNat < t.win) : windowX t [a] = .ok () := by simp [windowX, h]

theorem win2 {t : Thread} {a b} (h : a.toNat < t.win) (h2 : b.toNat < t.win) : windowX t [a, b] = .ok () := by simp [windowX, h, h2]

theorem win3 {t : Thread} {a b c} (h : a.toNat < t.win) (h2 : b.toNat < t.win) (h3 : c.toNat < t.win) : windowX t [a, b, c] = .ok () := by simp [windowX, h, h2, h3]

theorem win4 {t : Thread} {a b c d} (h : a.toNat < t.win) (h2 : b.toNat < t.win) (h3 : c.toNat < t.win) (h4 : d.toNat < t.win) : windowX t [a, b, c, d] = .ok () := by simp [windowX, h, h2, h3, h4]

/-! ## INT -/

/-- An INT or IMM instruction of one source completes. -/
theorem int1_ok {s t d a f x} (hI : Issues s t) (ha : t.holds a x) (hd : t.takes d) : int1 s d a f = .next (s.commit (t.setReg d (f x)).adv) := by
  unfold int1 runReg
  refine runT_ok hI ?_
  simp only [win2 hd.inside ha.inside, readX_holds ha, destX_takes hd, okb, prb]

/-- An INT instruction of two sources completes. -/
theorem int2_ok {s t d a b f x y} (hI : Issues s t) (ha : t.holds a x) (hb : t.holds b y) (hd : t.takes d) : int2 s d a b f = .next (s.commit (t.setReg d (f x y)).adv) := by
  unfold int2 runReg
  refine runT_ok hI ?_
  simp only [win3 hd.inside ha.inside hb.inside, readX_holds ha, readX_holds hb, destX_takes hd, okb, prb]

/-- An INT instruction of three sources completes. -/
theorem int3_ok {s t d a b c f x y z} (hI : Issues s t) (ha : t.holds a x) (hb : t.holds b y) (hc : t.holds c z) (hd : t.takes d) : int3 s d a b c f = .next (s.commit (t.setReg d (f x y z)).adv) := by
  unfold int3 runReg
  refine runT_ok hI ?_
  simp only [win4 hd.inside ha.inside hb.inside hc.inside, readX_holds ha, readX_holds hb, readX_holds hc, destX_takes hd, okb, prb]

/-- Put depends on its value modulo 2^w alone (R37). -/
theorem putTy_congr {ty : Ty} {v u : Int} (h : v % 2 ^ ty.width = u % 2 ^ ty.width) : putTy ty v = putTy ty u := by
  simp only [putTy, wrap, h]

/-! ## Vectors -/

theorem lane_zero (x : Reg) (w : Nat) : lane x w 0 = x.toNat % 2 ^ w := by simp [lane]

/-- A vector instruction whose body answers completes. -/
theorem vecOp_ok {s s' : State} {t t' : Thread} {l f} (hI : Issues s t) (hu : s.has t 0) (hl : ∀ r ∈ l, r.toNat < t.win) (hf : f s t = .ok (s', t')) : vecOp s l f = .next (s'.commit t') := by
  refine runT_ok hI ?_
  simp only [windowX_ok hl, unitX_has hu, okb, hf]

theorem keeps_in {t : Thread} {d k z old} (h : t.keeps d k z old) : d.toNat < t.win := by
  unfold Thread.keeps at h
  split at h
  · exact h.inside
  · exact h.1.inside

/-- The old value of a masked destination (R108). -/
theorem oldX_keeps {t : Thread} {d k z old} (h : t.keeps d k z old) : oldX t d k z = .ok old := by
  unfold Thread.keeps at h
  unfold oldX
  split at h
  · rename_i c
    rw [if_pos (by simpa using c)]
    exact readX_holds h
  · rename_i c
    have : ¬ ((k ≠ 0 && !z) = true) := by simpa using c
    rw [if_neg (by simpa using c)]
    simp [destX_takes h.1, okb, h.2, prb]

theorem mem2 {t : Thread} {a b : RegNum} (h : a.toNat < t.win) (h2 : b.toNat < t.win) : ∀ r ∈ [a, b], r.toNat < t.win := by simp [h, h2]

theorem mem3 {t : Thread} {a b c : RegNum} (h : a.toNat < t.win) (h2 : b.toNat < t.win) (h3 : c.toNat < t.win) : ∀ r ∈ [a, b, c], r.toNat < t.win := by simp [h, h2, h3]

theorem mem4 {t : Thread} {a b c d : RegNum} (h : a.toNat < t.win) (h2 : b.toNat < t.win) (h3 : c.toNat < t.win) (h4 : d.toNat < t.win): ∀ r ∈ [a, b, c, d], r.toNat < t.win := by simp [h, h2, h3, h4]

/-- A VINT instruction of two sources completes. -/
theorem vint2_ok {s t d a b ty k z f x y old} (hI : Issues s t) (hu : s.has t 0) (ha : t.holds a x) (hb : t.holds b y) (hk : t.keeps d k z old) :
   vint2 s d a b ty k z f = .next (s.commit (t.setReg d (masked (t.mask k) z false old ty.width (count ty.width) fun i => wrap ty.width (f (slane x ty.width ty.isSigned i) (slane y ty.width ty.isSigned i)))).adv) := by
  refine vecOp_ok hI hu (mem3 (keeps_in hk) ha.inside hb.inside) ?_
  simp only [readX_holds ha, readX_holds hb, oldX_keeps hk, okb, done]

/-- A VINT instruction of one source completes. -/
theorem vint1_ok {s t d a ty k z f x old} (hI : Issues s t) (hu : s.has t 0) (ha : t.holds a x) (hk : t.keeps d k z old) :
   vint1 s d a ty k z f = .next (s.commit (t.setReg d (masked (t.mask k) z false old ty.width (count ty.width) fun i => wrap ty.width (f (slane x ty.width ty.isSigned i)))).adv) := by
  refine vecOp_ok hI hu (mem2 (keeps_in hk) ha.inside) ?_
  simp only [readX_holds ha, oldX_keeps hk, okb, done]

/-- A VINT comparison completes. -/
theorem vcmp_ok {s t a b ty k z f x y} {dk : KReg} (hI : Issues s t) (hu : s.has t 0) (ha : t.holds a x) (hb : t.holds b y) :
   vcmp s dk a b ty k z f = .next (s.commit (t.setMask dk (maskBits (t.mask k) z false (t.mask dk) (count ty.width) fun i => (f (slane x ty.width ty.isSigned i) (slane y ty.width ty.isSigned i)))).adv) := by
  refine vecOp_ok hI hu (mem2 ha.inside hb.inside) ?_
  simp only [readX_holds ha, readX_holds hb, okb, prb]

/-- A VFP instruction of two sources completes. -/
theorem vf2_ok {s t d a b ty k z sl f x y old} (hI : Issues s t) (hu : s.has t 0) (ha : t.holds a x) (hb : t.holds b y) (hk : t.keeps d k z old) :
   vf2 s d a b ty k z sl f = .next (s.commit (((t.orNv ((List.range (count ty.width)).any fun i => active (t.mask k) sl i && (f (fmtX t.xs ty) t (flane ty x i) (flane ty y i)).nv)).setReg d (masked (t.mask k) z sl old ty.width (count ty.width) fun i => fput ty (f (fmtX t.xs ty) t (flane ty x i) (flane ty y i)).code)).adv)) := by
  refine vecOp_ok hI hu (mem3 (keeps_in hk) ha.inside hb.inside) ?_
  simp only [readX_holds ha, readX_holds hb, vfloat, oldX_keeps hk, okb, done]

/-- A VFP instruction of one source completes. -/
theorem vf1_ok {s t d a ty k z sl f x old} (hI : Issues s t) (hu : s.has t 0) (ha : t.holds a x) (hk : t.keeps d k z old) :
   vf1 s d a ty k z sl f = .next (s.commit (((t.orNv ((List.range (count ty.width)).any fun i => active (t.mask k) sl i && (f (fmtX t.xs ty) t (flane ty x i)).nv)).setReg d (masked (t.mask k) z sl old ty.width (count ty.width) fun i => fput ty (f (fmtX t.xs ty) t (flane ty x i)).code)).adv)) := by
  refine vecOp_ok hI hu (mem2 (keeps_in hk) ha.inside) ?_
  simp only [readX_holds ha, vfloat, oldX_keeps hk, okb, done]

/-- A VFP instruction of three sources completes. -/
theorem vf3_ok {s t d a b c ty k z sl f x y v old} (hI : Issues s t) (hu : s.has t 0) (ha : t.holds a x) (hb : t.holds b y) (hc : t.holds c v) (hk : t.keeps d k z old) :
   vf3 s d a b c ty k z sl f = .next (s.commit (((t.orNv ((List.range (count ty.width)).any fun i => active (t.mask k) sl i && (f (fmtX t.xs ty) t (flane ty x i) (flane ty y i) (flane ty v i)).nv)).setReg d (masked (t.mask k) z sl old ty.width (count ty.width) fun i => fput ty (f (fmtX t.xs ty) t (flane ty x i) (flane ty y i) (flane ty v i)).code)).adv)) := by
  refine vecOp_ok hI hu (mem4 (keeps_in hk) ha.inside hb.inside hc.inside) ?_
  simp only [readX_holds ha, readX_holds hb, readX_holds hc, vfloat, oldX_keeps hk, okb, done]

/-- A VFP comparison completes. -/
theorem vfcmp_ok {s t a b ty k z sl q f x y} {dk : KReg} (hI : Issues s t) (hu : s.has t 0) (ha : t.holds a x) (hb : t.holds b y) :
   vfcmp s dk a b ty k z sl q f = .next (s.commit ((((t.orNv ((List.range (count ty.width)).any fun i => active (t.mask k) sl i &&
      (((fmtX t.xs ty).read (flane ty x i)).isSnan || ((fmtX t.xs ty).read (flane ty y i)).isSnan || (!q && (((fmtX t.xs ty).read (flane ty x i)).isNan || ((fmtX t.xs ty).read (flane ty y i)).isNan))))).setMask dk (maskBits (t.mask k) z sl (t.mask dk) (count ty.width) fun i => (f (fmtX t.xs ty) (flane ty x i) (flane ty y i))))).adv)) := by
  refine vecOp_ok hI hu (mem2 ha.inside hb.inside) ?_
  simp only [readX_holds ha, readX_holds hb, okb, prb]

/-! ## Memory -/

/-- An access at a bank of this device, with nothing in its way. -/
theorem bankX_calm {s s1 : State} {t : Thread} {g e f align k rel d data} (h : Reaches s t g e f align s1 k)
    (hc : cleansX t data = .ok ()) :
   bankX s1 t (mkAccess s1 t g e (segBase (t.seg g) + e) f rel d none .inFlight) k data = if rel then issueRelaxed s1 t (mkAccess s1 t g e (segBase (t.seg g) + e) f rel d (some k) .inFlight) else performX s1 t (mkAccess s1 t g e (segBase (t.seg g) + e) f rel d (some k) .inFlight) k := by
  unfold bankX reachX placeX roomX need sameKeyX
  simp [mkAccess, h.may, h.size, State.sharedKeys, h.still, okb, h.plain, h.calm, hc, State.inOrder, Access.tStore]

/-- An access that reaches its bank issues if relaxed and else is performed. -/
theorem accessX_calm {s s1 : State} {t : Thread} {g e f align k rel d data} (h : Reaches s t g e f align s1 k)
    (hc : cleansX t data = .ok ()) :
   accessX s t g e f align rel d data = if rel then issueRelaxed s1 t (mkAccess s1 t g e (segBase (t.seg g) + e) f rel d (some k) .inFlight) else performX s1 t (mkAccess s1 t g e (segBase (t.seg g) + e) f rel d (some k) .inFlight) k := by
  unfold accessX
  rw [← bankX_calm h hc]
  rw [checkX_reaches h]
  simp only [okb, sameWordX_alone h.alone, oldestX_plain h.plain, h.route, State.relaxedCount, h.alone]
  cases rel <;> cases f.sync <;> rfl

/-- Reaching depends on the size, rights and kind of the form alone. -/
theorem Reaches.congr {s s1 : State} {t : Thread} {g e f f' align k} (h : Reaches s t g e f align s1 k) (h1 : f'.bytes = f.bytes) (h2 : f'.rights = f.rights) (h3 : f'.writes = f.writes) (h4 : f'.sync = f.sync) (h5 : f'.mayReach k = f.mayReach k) : Reaches s t g e f' align s1 k := by
  obtain ⟨a,b,c,d,e,f,g,i,j,k,l⟩ := h
  exact ⟨by rw [h1]; exact a, by rw [h1]; exact b, by rw [h2]; exact c, d, e, f, by rw [h3, h4]; exact g, i, j,
    by rw [h5]; exact k, by unfold Form.dieSize at l ⊢; rw [h1, h3]; exact l⟩

/-- The bank step over sound memory. -/
theorem bankStep_sound {s : State} {k f} (h : s.sound k f.bytes) : bankStep s k f =
      (let (s1, ans, p) := act s k f
      match ans with
      | .ok v =>
        let s2 := if f.writes then s1.settle k f.bytes else s1
        (if p then s2.wakeBarrier k else s2, .ok v)
      | a => (s1, a)) := by
  unfold bankStep
  have : (paSpace k = 6 && (poolOf k).isNone) = false := by
    rcases h.memory with h | h
    · simp [h]
    · cases hp : poolOf k <;> simp_all
  rw [this, h.good]; rfl

/-- A full/empty form that loads. -/
theorem syncL {s s1 : State} {t : Thread} {d base : RegNum} {g : SegReg} {off : BitVec 32} {v : Bool} {b : Reg} {k : Nat} {f : Form}
   (hI : Issues s t) (hb : t.holds base b) (hd : t.takes d) (hR : Reaches s t g (b.extractLsb' 0 64 + off.signExtend 64) f (if v then 64 else 8) s1 k) :
   syncLoad s d base g off v f = runT s fun _ _ => performX s1 t (mkAccess s1 t g (b.extractLsb' 0 64 + off.signExtend 64) (segBase (t.seg g) + (b.extractLsb' 0 64 + off.signExtend 64)) f false (some d) (some k) .inFlight) k := by
    unfold syncLoad runT runWith
    simp only [hI.live, hI.cycles]
    simp only [win2 hd.inside hb.inside, readX_holds hb, destX_takes hd, okb]
    have := accessX_calm (rel := false) (d := some d) (data := []) hR rfl
    have e : offM b off = (b.extractLsb' 0 64 + off.signExtend 64) := rfl
    have e2 : syncBytes v = if v then 64 else 8 := rfl
    rw [e, e2, this]
    rfl

/-- A full/empty form that stores. -/
theorem syncS {s s1 : State} {t : Thread} {d base : RegNum} {g : SegReg} {off : BitVec 32} {v : Bool} {b x : Reg} {k : Nat} {f : Reg → Form}
   (hI : Issues s t) (hb : t.holds base b) (hd : t.holds d x) (hR : Reaches s t g (b.extractLsb' 0 64 + off.signExtend 64) (f x) (if v then 64 else 8) s1 k) :
   syncStore s d base g off v f = runT s fun _ _ => performX s1 t (mkAccess s1 t g (b.extractLsb' 0 64 + off.signExtend 64) (segBase (t.seg g) + (b.extractLsb' 0 64 + off.signExtend 64)) (f x) false none (some k) .inFlight) k := by
    unfold syncStore runT runWith
    simp only [hI.live, hI.cycles]
    simp only [win2 hd.inside hb.inside, readX_holds hb, presentX_holds hd, okb]
    have hc : cleansX t [d] = .ok () := cleansX_ok fun r hr => by
      rw [List.mem_singleton.mp hr, hd.entry]
    have := accessX_calm (rel := false) (d := none) (data := [d]) hR hc
    have e : offM b off = (b.extractLsb' 0 64 + off.signExtend 64) := rfl
    have e2 : syncBytes v = if v then 64 else 8 := rfl
    rw [e, e2, this]
    rfl

/-- Nothing waits, so nothing settles. -/
theorem settle_nil {s : State} {k n} (h : s.accs = []) : s.settle k n = s := by simp [State.settle, h]

/-! ## The engine -/

/-- An engine operation joins a queue with room (R221, R222). -/
theorem enq_ok {s : State} {t : Thread} {o : EngineOp} (h1 : t.spec = none) (h2 : (s.core t.id.core.toNat).engq.length < 32) (h3 : s.openOps t < 16) :
   enqueue s t o = .ok ({ s.setCore t.id.core.toNat { s.core t.id.core.toNat with engq := (s.core t.id.core.toNat).engq ++ [o] } with serial := s.serial + 1 }, { t with batchOps := t.batchOps + 1 }.adv) := by
  unfold enqueue
  have e2 := need_true (st := .park .queueFull) (c := decide ((s.core t.id.core.toNat).engq.length < 32)) (by simp only [h2, decide_true])
  have e3 := need_true (st := .park .batchFull) (c := decide (s.openOps t < 16)) (by simp only [h3, decide_true])
  simp only [oldestX_plain h1, okb, e2, e3, prb]

theorem slotX_ok {s t i l} (h : ∀ j ∈ l, s.slotAllowed t j = true) : slotX s t i l = .ok () := by
  unfold slotX; rw [if_pos (by simpa using h)]

end Sys2Proof.Machine
end

