-- ==== Sys2Proof/Laws/PerInstr.lean ====
section
/-! SUPPORT. Decoding the word that an instruction encodes to gives the instruction back, one lemma per
constructor; and what each field of a word reads in each format. -/

set_option linter.unusedSimpArgs false

namespace Sys2Proof

/-! ## Parts of a word -/

theorem extract_hi {n m : Nat} (x : BitVec n) (y : BitVec m) (s l : Nat) (h : m ≤ s) :
    (x ++ y).extractLsb' s l = x.extractLsb' (s - m) l := by
  ext i hi
  simp only [BitVec.getElem_extractLsb', BitVec.getLsbD_append]
  rw [if_neg (by omega)]
  congr 1
  omega

theorem extract_lo {n m : Nat} (x : BitVec n) (y : BitVec m) (s l : Nat) (h : s + l ≤ m) :
    (x ++ y).extractLsb' s l = y.extractLsb' s l := by
  ext i hi
  simp only [BitVec.getElem_extractLsb', BitVec.getLsbD_append]
  rw [if_pos (by omega)]

theorem extract_all {n : Nat} (x : BitVec n) : x.extractLsb' 0 n = x := by simp

theorem bit_hi {n m : Nat} (x : BitVec n) (y : BitVec m) (i : Nat) (h : m ≤ i) :
    (x ++ y).getLsbD i = x.getLsbD (i - m) := by
  rw [BitVec.getLsbD_append, if_neg (by omega)]

theorem bit_lo {n m : Nat} (x : BitVec n) (y : BitVec m) (i : Nat) (h : i < m) :
    (x ++ y).getLsbD i = y.getLsbD i := by
  rw [BitVec.getLsbD_append, if_pos h]

theorem bit_bool (b : Bool) : (BitVec.ofBool b).getLsbD 0 = b := by cases b <;> rfl

/-! ## Fields of rrr -/

@[simp] theorem fOp_rrr (op fn : Nat) (d a b c : RegNum) (ty : BitVec 5) (k : KReg) (m : BitVec 12) : fOp (rrr op fn d a b c ty k m) = op % 256 := by
  simp (disch := decide) only [fOp, rrr, extract_hi, extract_lo, extract_all, Nat.reduceSub]
  simp

@[simp] theorem fFn8_rrr (op fn : Nat) (d a b c : RegNum) (ty : BitVec 5) (k : KReg) (m : BitVec 12) : fFn8 (rrr op fn d a b c ty k m) = fn % 256 := by
  simp (disch := decide) only [fFn8, rrr, extract_hi, extract_lo, extract_all, Nat.reduceSub]
  simp

@[simp] theorem fD_rrr (op fn : Nat) (d a b c : RegNum) (ty : BitVec 5) (k : KReg) (m : BitVec 12) : fD (rrr op fn d a b c ty k m) = d := by
  simp (disch := decide) only [fD, rrr, extract_hi, extract_lo, extract_all, Nat.reduceSub]

@[simp] theorem fA_rrr (op fn : Nat) (d a b c : RegNum) (ty : BitVec 5) (k : KReg) (m : BitVec 12) : fA (rrr op fn d a b c ty k m) = a := by
  simp (disch := decide) only [fA, rrr, extract_hi, extract_lo, extract_all, Nat.reduceSub]

@[simp] theorem fB_rrr (op fn : Nat) (d a b c : RegNum) (ty : BitVec 5) (k : KReg) (m : BitVec 12) : fB (rrr op fn d a b c ty k m) = b := by
  simp (disch := decide) only [fB, rrr, extract_hi, extract_lo, extract_all, Nat.reduceSub]

@[simp] theorem fC_rrr (op fn : Nat) (d a b c : RegNum) (ty : BitVec 5) (k : KReg) (m : BitVec 12) : fC (rrr op fn d a b c ty k m) = c := by
  simp (disch := decide) only [fC, rrr, extract_hi, extract_lo, extract_all, Nat.reduceSub]

@[simp] theorem fTy_rrr (op fn : Nat) (d a b c : RegNum) (ty : BitVec 5) (k : KReg) (m : BitVec 12) : fTy (rrr op fn d a b c ty k m) = ty := by
  simp (disch := decide) only [fTy, rrr, extract_hi, extract_lo, extract_all, Nat.reduceSub]

@[simp] theorem fK_rrr (op fn : Nat) (d a b c : RegNum) (ty : BitVec 5) (k : KReg) (m : BitVec 12) : fK (rrr op fn d a b c ty k m) = k := by
  simp (disch := decide) only [fK, rrr, extract_hi, extract_lo, extract_all, Nat.reduceSub]

@[simp] theorem fM_rrr (op fn : Nat) (d a b c : RegNum) (ty : BitVec 5) (k : KReg) (m : BitVec 12) : fM (rrr op fn d a b c ty k m) = m := by
  simp (disch := decide) only [fM, rrr, extract_hi, extract_lo, extract_all, Nat.reduceSub]

/-! ## Fields of ri -/

@[simp] theorem fOp_ri (op fn : Nat) (d a : RegNum) (ty : BitVec 4) (i : BitVec 32) : fOp (ri op fn d a ty i) = op % 256 := by
  simp (disch := decide) only [fOp, ri, extract_hi, extract_lo, extract_all, Nat.reduceSub]
  simp

@[simp] theorem fFn6_ri (op fn : Nat) (d a : RegNum) (ty : BitVec 4) (i : BitVec 32) : fFn6 (ri op fn d a ty i) = fn % 64 := by
  simp (disch := decide) only [fFn6, ri, extract_hi, extract_lo, extract_all, Nat.reduceSub]
  simp

@[simp] theorem fD6_ri (op fn : Nat) (d a : RegNum) (ty : BitVec 4) (i : BitVec 32) : fD6 (ri op fn d a ty i) = d := by
  simp (disch := decide) only [fD6, ri, extract_hi, extract_lo, extract_all, Nat.reduceSub]

@[simp] theorem fA6_ri (op fn : Nat) (d a : RegNum) (ty : BitVec 4) (i : BitVec 32) : fA6 (ri op fn d a ty i) = a := by
  simp (disch := decide) only [fA6, ri, extract_hi, extract_lo, extract_all, Nat.reduceSub]

@[simp] theorem fTy4_ri (op fn : Nat) (d a : RegNum) (ty : BitVec 4) (i : BitVec 32) : fTy4 (ri op fn d a ty i) = ty := by
  simp (disch := decide) only [fTy4, ri, extract_hi, extract_lo, extract_all, Nat.reduceSub]

@[simp] theorem fI32_ri (op fn : Nat) (d a : RegNum) (ty : BitVec 4) (i : BitVec 32) : fI32 (ri op fn d a ty i) = i := by
  simp (disch := decide) only [fI32, ri, extract_hi, extract_lo, extract_all, Nat.reduceSub]

/-! ## Fields of mfmt -/

@[simp] theorem fOp_mfmt (op fn : Nat) (d a : RegNum) (g : SegReg) (r : Bool) (o : BitVec 32) : fOp (mfmt op fn d a g r o) = op % 256 := by
  simp (disch := decide) only [fOp, mfmt, extract_hi, extract_lo, extract_all, Nat.reduceSub]
  simp

@[simp] theorem fFn6_mfmt (op fn : Nat) (d a : RegNum) (g : SegReg) (r : Bool) (o : BitVec 32) : fFn6 (mfmt op fn d a g r o) = fn % 64 := by
  simp (disch := decide) only [fFn6, mfmt, extract_hi, extract_lo, extract_all, Nat.reduceSub]
  simp

@[simp] theorem fD6_mfmt (op fn : Nat) (d a : RegNum) (g : SegReg) (r : Bool) (o : BitVec 32) : fD6 (mfmt op fn d a g r o) = d := by
  simp (disch := decide) only [fD6, mfmt, extract_hi, extract_lo, extract_all, Nat.reduceSub]

@[simp] theorem fA6_mfmt (op fn : Nat) (d a : RegNum) (g : SegReg) (r : Bool) (o : BitVec 32) : fA6 (mfmt op fn d a g r o) = a := by
  simp (disch := decide) only [fA6, mfmt, extract_hi, extract_lo, extract_all, Nat.reduceSub]

@[simp] theorem fSeg_mfmt (op fn : Nat) (d a : RegNum) (g : SegReg) (r : Bool) (o : BitVec 32) : fSeg (mfmt op fn d a g r o) = g := by
  simp (disch := decide) only [fSeg, mfmt, extract_hi, extract_lo, extract_all, Nat.reduceSub]

@[simp] theorem fRel_mfmt (op fn : Nat) (d a : RegNum) (g : SegReg) (r : Bool) (o : BitVec 32) : fRel (mfmt op fn d a g r o) = r := by
  simp (disch := decide) only [fRel, mfmt, bit_hi, bit_lo, bit_bool, Nat.reduceSub]

@[simp] theorem fI32_mfmt (op fn : Nat) (d a : RegNum) (g : SegReg) (r : Bool) (o : BitVec 32) : fI32 (mfmt op fn d a g r o) = o := by
  simp (disch := decide) only [fI32, mfmt, extract_hi, extract_lo, extract_all, Nat.reduceSub]

/-! ## Fields of gfmt -/

@[simp] theorem fOp_gfmt (fn : Nat) (g : GForm) : fOp (gfmt fn g) = 0x70 := by
  simp (disch := decide) only [fOp, gfmt, extract_hi, extract_lo, Nat.reduceSub]
  decide

@[simp] theorem fFn6_gfmt (fn : Nat) (g : GForm) : fFn6 (gfmt fn g) = fn % 64 := by
  simp (disch := decide) only [fFn6, gfmt, extract_hi, extract_lo, extract_all, Nat.reduceSub]
  simp

@[simp] theorem fD6_gfmt (fn : Nat) (g : GForm) : fD6 (gfmt fn g) = g.d := by
  simp (disch := decide) only [fD6, gfmt, extract_hi, extract_lo, extract_all, Nat.reduceSub]

@[simp] theorem fA6_gfmt (fn : Nat) (g : GForm) : fA6 (gfmt fn g) = g.base := by
  simp (disch := decide) only [fA6, gfmt, extract_hi, extract_lo, extract_all, Nat.reduceSub]

@[simp] theorem fSeg_gfmt (fn : Nat) (g : GForm) : fSeg (gfmt fn g) = g.seg := by
  simp (disch := decide) only [fSeg, gfmt, extract_hi, extract_lo, extract_all, Nat.reduceSub]

@[simp] theorem fRel_gfmt (fn : Nat) (g : GForm) : fRel (gfmt fn g) = g.rel := by
  simp (disch := decide) only [fRel, gfmt, bit_hi, bit_lo, bit_bool, Nat.reduceSub]

/-! ## Fields of bfmt -/

@[simp] theorem fOp_bfmt (op cc : Nat) (a b l : RegNum) (h : Hint) (o : BitVec 29) : fOp (bfmt op cc a b l h o) = op % 256 := by
  simp (disch := decide) only [fOp, bfmt, extract_hi, extract_lo, extract_all, Nat.reduceSub]
  simp

@[simp] theorem fCc_bfmt (op cc : Nat) (a b l : RegNum) (h : Hint) (o : BitVec 29) : fCc (bfmt op cc a b l h o) = cc % 16 := by
  simp (disch := decide) only [fCc, bfmt, extract_hi, extract_lo, extract_all, Nat.reduceSub]
  simp

@[simp] theorem fBA_bfmt (op cc : Nat) (a b l : RegNum) (h : Hint) (o : BitVec 29) : fBA (bfmt op cc a b l h o) = a := by
  simp (disch := decide) only [fBA, bfmt, extract_hi, extract_lo, extract_all, Nat.reduceSub]

@[simp] theorem fBB_bfmt (op cc : Nat) (a b l : RegNum) (h : Hint) (o : BitVec 29) : fBB (bfmt op cc a b l h o) = b := by
  simp (disch := decide) only [fBB, bfmt, extract_hi, extract_lo, extract_all, Nat.reduceSub]

@[simp] theorem fLnk_bfmt (op cc : Nat) (a b l : RegNum) (h : Hint) (o : BitVec 29) : fLnk (bfmt op cc a b l h o) = l := by
  simp (disch := decide) only [fLnk, bfmt, extract_hi, extract_lo, extract_all, Nat.reduceSub]

@[simp] theorem fHint_bfmt (op cc : Nat) (a b l : RegNum) (h : Hint) (o : BitVec 29) : fHint (bfmt op cc a b l h o) = h.code := by
  simp (disch := decide) only [fHint, bfmt, extract_hi, extract_lo, extract_all, Nat.reduceSub]

@[simp] theorem fDisp_bfmt (op cc : Nat) (a b l : RegNum) (h : Hint) (o : BitVec 29) : fDisp (bfmt op cc a b l h o) = o := by
  simp (disch := decide) only [fDisp, bfmt, extract_hi, extract_lo, extract_all, Nat.reduceSub]

/-! ## Fields of sfmt -/

@[simp] theorem fOp_sfmt (op fn : Nat) (d a b : RegNum) (i : BitVec 27) : fOp (sfmt op fn d a b i) = op % 256 := by
  simp (disch := decide) only [fOp, sfmt, extract_hi, extract_lo, extract_all, Nat.reduceSub]
  simp

@[simp] theorem fFn8_sfmt (op fn : Nat) (d a b : RegNum) (i : BitVec 27) : fFn8 (sfmt op fn d a b i) = fn % 256 := by
  simp (disch := decide) only [fFn8, sfmt, extract_hi, extract_lo, extract_all, Nat.reduceSub]
  simp

@[simp] theorem fD_sfmt (op fn : Nat) (d a b : RegNum) (i : BitVec 27) : fD (sfmt op fn d a b i) = d := by
  simp (disch := decide) only [fD, sfmt, extract_hi, extract_lo, extract_all, Nat.reduceSub]

@[simp] theorem fA_sfmt (op fn : Nat) (d a b : RegNum) (i : BitVec 27) : fA (sfmt op fn d a b i) = a := by
  simp (disch := decide) only [fA, sfmt, extract_hi, extract_lo, extract_all, Nat.reduceSub]

@[simp] theorem fB_sfmt (op fn : Nat) (d a b : RegNum) (i : BitVec 27) : fB (sfmt op fn d a b i) = b := by
  simp (disch := decide) only [fB, sfmt, extract_hi, extract_lo, extract_all, Nat.reduceSub]

@[simp] theorem fImm_sfmt (op fn : Nat) (d a b : RegNum) (i : BitVec 27) : fImm (sfmt op fn d a b i) = i := by
  simp (disch := decide) only [fImm, sfmt, extract_hi, extract_lo, extract_all, Nat.reduceSub]

/-! ## Fields of efmt -/

@[simp] theorem fOp_efmt (op fn : Nat) (t : BitVec 8) (a b c : RegNum) (l : Bool) (g : BitVec 18) : fOp (efmt op fn t a b c l g) = op % 256 := by
  simp (disch := decide) only [fOp, efmt, extract_hi, extract_lo, extract_all, Nat.reduceSub]
  simp

@[simp] theorem fFn8_efmt (op fn : Nat) (t : BitVec 8) (a b c : RegNum) (l : Bool) (g : BitVec 18) : fFn8 (efmt op fn t a b c l g) = fn % 256 := by
  simp (disch := decide) only [fFn8, efmt, extract_hi, extract_lo, extract_all, Nat.reduceSub]
  simp

@[simp] theorem fTile_efmt (op fn : Nat) (t : BitVec 8) (a b c : RegNum) (l : Bool) (g : BitVec 18) : fTile (efmt op fn t a b c l g) = t := by
  simp (disch := decide) only [fTile, efmt, extract_hi, extract_lo, extract_all, Nat.reduceSub]

@[simp] theorem fEA_efmt (op fn : Nat) (t : BitVec 8) (a b c : RegNum) (l : Bool) (g : BitVec 18) : fEA (efmt op fn t a b c l g) = a := by
  simp (disch := decide) only [fEA, efmt, extract_hi, extract_lo, extract_all, Nat.reduceSub]

@[simp] theorem fEB_efmt (op fn : Nat) (t : BitVec 8) (a b c : RegNum) (l : Bool) (g : BitVec 18) : fEB (efmt op fn t a b c l g) = b := by
  simp (disch := decide) only [fEB, efmt, extract_hi, extract_lo, extract_all, Nat.reduceSub]

@[simp] theorem fEC_efmt (op fn : Nat) (t : BitVec 8) (a b c : RegNum) (l : Bool) (g : BitVec 18) : fEC (efmt op fn t a b c l g) = c := by
  simp (disch := decide) only [fEC, efmt, extract_hi, extract_lo, extract_all, Nat.reduceSub]

@[simp] theorem fLat_efmt (op fn : Nat) (t : BitVec 8) (a b c : RegNum) (l : Bool) (g : BitVec 18) : fLat (efmt op fn t a b c l g) = l := by
  simp (disch := decide) only [fLat, efmt, bit_hi, bit_lo, bit_bool, Nat.reduceSub]

@[simp] theorem fFlg_efmt (op fn : Nat) (t : BitVec 8) (a b c : RegNum) (l : Bool) (g : BitVec 18) : fFlg (efmt op fn t a b c l g) = g := by
  simp (disch := decide) only [fFlg, efmt, extract_hi, extract_lo, extract_all, Nat.reduceSub]
/-! ## Codes -/

@[simp] theorem Ty.ofCode_code (t : Ty) : Ty.ofCode t.code = some t := by cases t <;> rfl
@[simp] theorem Rnd.ofCode_code (r : Rnd) : Rnd.ofCode r.code = some r := by cases r <;> rfl
@[simp] theorem SatC.ofCode_code (c : SatC) : SatC.ofCode c.code = some c := by cases c <;> rfl
@[simp] theorem Hint.ofCode_code (h : Hint) : Hint.ofCode h.code = some h := by cases h <;> rfl
@[simp] theorem Scope.ofCode_code (c : Scope) : Scope.ofCode c.code = some c := by cases c <;> rfl
@[simp] theorem CopyMode.ofCode_code (m : CopyMode) : CopyMode.ofCode m.code = m := by cases m <;> rfl
@[simp] theorem MemSize.ofCode_code (m : MemSize) : MemSize.ofCode m.code = some m := by cases m <;> rfl

theorem MemSize.code_lt (m : MemSize) : m.code < 8 := by cases m <;> decide

/-- RI carries the low four bits of an integer type's code. -/
@[simp] theorem Ty.ofCode_code4 (t : Ty) (h : t.isInt = true) :
    Ty.ofCode (t.code4.zeroExtend 5) = some t := by cases t <;> first | rfl | cases h

@[simp] theorem low3_wide3 (k : BitVec 3) : low3 (wide3 k) = some k := by
  revert k; decide

theorem decode_of {w : Word} {i : Instr} (hf : decodeFields w = some i) (h : i.wf = true) :
    decode w = some i := by
  rw [decode, hf, Option.bind_some, if_pos h]

/-! ## The groups by OP -/

theorem fields_int {w : Word} {r : Option Instr} (h : fOp w = 0x10) (hd : decodeInt w = r) :
    decodeFields w = r := by
  rw [decodeFields, h]; exact hd

theorem fields_imm {w : Word} {r : Option Instr} (h : fOp w = 0x20) (hd : decodeImm w = r) :
    decodeFields w = r := by
  rw [decodeFields, h]; exact hd

theorem fields_branch {w : Word} {r : Option Instr} (h : fOp w = 0x30) (hd : decodeBranch w = r) :
    decodeFields w = r := by
  rw [decodeFields, h]; exact hd

theorem fields_jump {w : Word} {r : Option Instr} (h : fOp w = 0x31) (hd : decodeJump w = r) :
    decodeFields w = r := by
  rw [decodeFields, h]; exact hd

theorem fields_thread {w : Word} {r : Option Instr} (h : fOp w = 0x32) (hd : decodeThread w = r) :
    decodeFields w = r := by
  rw [decodeFields, h]; exact hd

theorem fields_mem {w : Word} {r : Option Instr} (h : fOp w = 0x38) (hd : decodeMem w = r) :
    decodeFields w = r := by
  rw [decodeFields, h]; exact hd

theorem fields_seg {w : Word} {r : Option Instr} (h : fOp w = 0x39) (hd : decodeSeg w = r) :
    decodeFields w = r := by
  rw [decodeFields, h]; exact hd

theorem fields_vint {w : Word} {r : Option Instr} (h : fOp w = 0x40) (hd : decodeVint w = r) :
    decodeFields w = r := by
  rw [decodeFields, h]; exact hd

theorem fields_vfp {w : Word} {r : Option Instr} (h : fOp w = 0x50) (hd : decodeVfp w = r) :
    decodeFields w = r := by
  rw [decodeFields, h]; exact hd

theorem fields_vperm {w : Word} {r : Option Instr} (h : fOp w = 0x60) (hd : decodeVperm w = r) :
    decodeFields w = r := by
  rw [decodeFields, h]; exact hd

theorem fields_sync {w : Word} {r : Option Instr} (h : fOp w = 0x68) (hd : decodeSync w = r) :
    decodeFields w = r := by
  rw [decodeFields, h]; exact hd

theorem fields_atom {w : Word} {r : Option Instr} (h : fOp w = 0x69) (hd : decodeAtom w = r) :
    decodeFields w = r := by
  rw [decodeFields, h]; exact hd

theorem fields_gather {w : Word} {r : Option Instr} (h : fOp w = 0x70) (hd : decodeGather w = r) :
    decodeFields w = r := by
  rw [decodeFields, h]; exact hd

theorem fields_fence {w : Word} {r : Option Instr} (h : fOp w = 0x78) (hd : decodeFence w = r) :
    decodeFields w = r := by
  rw [decodeFields, h]; exact hd

theorem fields_rule {w : Word} {r : Option Instr} (h : fOp w = 0x80) (hd : decodeRule w = r) :
    decodeFields w = r := by
  rw [decodeFields, h]; exact hd

theorem fields_msg {w : Word} {r : Option Instr} (h : fOp w = 0x81) (hd : decodeMsg w = r) :
    decodeFields w = r := by
  rw [decodeFields, h]; exact hd

theorem fields_matrix {w : Word} {r : Option Instr} (h : fOp w = 0x90) (hd : decodeMatrix w = r) :
    decodeFields w = r := by
  rw [decodeFields, h]; exact hd

theorem fields_rank {w : Word} {r : Option Instr} (h : fOp w = 0xA0) (hd : decodeRank w = r) :
    decodeFields w = r := by
  rw [decodeFields, h]; exact hd

theorem fields_copy {w : Word} {r : Option Instr} (h : fOp w = 0xA8) (hd : decodeCopy w = r) :
    decodeFields w = r := by
  rw [decodeFields, h]; exact hd

theorem fields_conv {w : Word} {r : Option Instr} (h : fOp w = 0xB0) (hd : decodeConv w = r) :
    decodeFields w = r := by
  rw [decodeFields, h]; exact hd

theorem fields_sys {w : Word} {r : Option Instr} (h : fOp w = 0xC0) (hd : decodeSys w = r) :
    decodeFields w = r := by
  rw [decodeFields, h]; exact hd

/-! ## Shapes of operands -/


/-! ## Fields of M in VINT, VPERM, VFP and CONV -/

theorem wordM_rrr (op fn : Nat) (d a b c : RegNum) (ty : BitVec 5) (k : KReg) (m : BitVec 12) (s l : Nat)
    (h : s + l ≤ 12) : (rrr op fn d a b c ty k m).extractLsb' s l = m.extractLsb' s l := by
  unfold rrr; exact extract_lo _ _ s l h

theorem bitM_rrr (op fn : Nat) (d a b c : RegNum) (ty : BitVec 5) (k : KReg) (m : BitVec 12) (i : Nat)
    (h : i < 12) : (rrr op fn d a b c ty k m).getLsbD i = m.getLsbD i := by
  unfold rrr; exact bit_lo _ _ i h

theorem riLow (op fn : Nat) (d a : RegNum) (ty : BitVec 4) (m : BitVec 32) (s l : Nat)
    (h : s + l ≤ 32) : (ri op fn d a ty m).extractLsb' s l = m.extractLsb' s l := by
  unfold ri; exact extract_lo _ _ s l h

theorem riLow6 (op fn : Nat) (d a : RegNum) (ty : BitVec 4) (n : BitVec 6) :
    (ri op fn d a ty (0#26 ++ n)).extractLsb' 0 6 = n := by
  rw [riLow _ _ _ _ _ _ _ _ (by decide)]
  exact (extract_lo (0#26) n 0 6 (by decide)).trans (extract_all n)

theorem riHigh26 (op fn : Nat) (d a : RegNum) (ty : BitVec 4) (n : BitVec 6) :
    (ri op fn d a ty (0#26 ++ n)).extractLsb' 6 26 = 0 := by
  rw [riLow _ _ _ _ _ _ _ _ (by decide)]
  exact (extract_hi (0#26) n 6 26 (by decide)).trans (extract_all _)

theorem efmtLow (op fn : Nat) (t : BitVec 8) (a b c : RegNum) (lt : Bool) (g : BitVec 18) (s l : Nat)
    (h : s + l ≤ 18) : (efmt op fn t a b c lt g).extractLsb' s l = g.extractLsb' s l := by
  unfold efmt; exact extract_lo _ _ s l h

theorem mfmtLow (op fn : Nat) (d a : RegNum) (g : SegReg) (r : Bool) (m : BitVec 32) (s l : Nat)
    (h : s + l ≤ 32) : (mfmt op fn d a g r m).extractLsb' s l = m.extractLsb' s l := by
  unfold mfmt; exact extract_lo _ _ s l h

theorem efmtBit (op fn : Nat) (t : BitVec 8) (a b c : RegNum) (lt : Bool) (g : BitVec 18) (i : Nat)
    (h : i < 18) : (efmt op fn t a b c lt g).getLsbD i = g.getLsbD i := by
  unfold efmt; exact bit_lo _ _ i h

theorem efmtTop (op fn : Nat) (t : BitVec 8) (a b c : RegNum) (lt : Bool) (g : BitVec 18) :
    (efmt op fn t a b c lt g).getLsbD 47 = t.getLsbD 7 := by
  simp (disch := decide) only [efmt, bit_hi, bit_lo, Nat.reduceSub]

theorem efmtTile (op fn : Nat) (t : BitVec 8) (a b c : RegNum) (lt : Bool) (g : BitVec 18) :
    (efmt op fn t a b c lt g).extractLsb' 40 7 = t.extractLsb' 0 7 := by
  simp (disch := decide) only [efmt, extract_hi, extract_lo, Nat.reduceSub]

@[simp] theorem mop_efmt (op fn : Nat) (t : BitVec 8) (b c : RegNum) (lt : Bool) (m : MOp) (mid : BitVec 3) :
    mop (efmt op fn t m.a b c lt (flgMem m mid)) = m := by
  unfold mop
  rw [efmtLow _ _ _ _ _ _ _ _ _ _ (by decide), efmtLow _ _ _ _ _ _ _ _ _ _ (by decide)]
  simp (disch := decide) only [flgMem, extract_hi, extract_lo, extract_all, Nat.reduceSub, fEA_efmt]

theorem flgMem_mid (m : MOp) (mid : BitVec 3) : (flgMem m mid).extractLsb' 3 3 = mid := by
  simp (disch := decide) only [flgMem, extract_hi, extract_lo, extract_all, Nat.reduceSub]

theorem flgMem_bit (m : MOp) (mid : BitVec 3) (i : Nat) (h : 3 ≤ i) (h2 : i < 6) :
    (flgMem m mid).getLsbD i = mid.getLsbD (i - 3) := by
  rw [flgMem, bit_hi _ _ _ h, bit_lo _ _ _ (by omega)]

theorem flgMem_mid2 (m : MOp) (mid : BitVec 3) : (flgMem m mid).extractLsb' 4 2 = mid.extractLsb' 1 2 := by
  simp (disch := decide) only [flgMem, extract_hi, extract_lo, Nat.reduceSub]

theorem decodeSwr_other (idx : BitVec 12) (a b : RegNum) (h : swrOwnRow idx = false) :
    decodeSwr idx a b = .swr idx a b := by
  simp [swrOwnRow, BitVec.toNat_eq] at h
  unfold decodeSwr
  split <;> simp_all

theorem decodeThwr_other (d a b : RegNum) (item : BitVec 12) (h : (Instr.thwr d a b item).wf = true) :
    decodeThwr d a b item = .thwr d a b item := by
  replace h : (item != 0x190 && item != 0x191) = true := h
  simp [BitVec.toNat_eq] at h
  unfold decodeThwr
  split <;> simp_all

@[simp] theorem gform_gfmt (fn : Nat) (g : GForm) : gform (gfmt fn g) = g := by
  simp only [gform, fD6_gfmt, fA6_gfmt, fSeg_gfmt, fRel_gfmt]
  simp (disch := decide) only [gfmt, extract_hi, extract_lo, extract_all, bit_hi, bit_lo, bit_bool,
    Nat.reduceSub]

theorem gfmtEw (fn : Nat) (g : GForm) : (gfmt fn g).getLsbD 18 = false := by
  simp (disch := decide) only [gfmt, bit_hi, bit_lo, Nat.reduceSub]
  rfl

@[simp] theorem fSatc_rrr (op fn : Nat) (d a b c : RegNum) (ty : BitVec 5) (k : KReg) (s : BitVec 2)
    (t : BitVec 5) (z sl : Bool) (r : BitVec 3) : fSatc (rrr op fn d a b c ty k (mFp s t z sl r)) = s := by
  rw [fSatc, wordM_rrr _ _ _ _ _ _ _ _ _ _ _ (by decide)]
  simp (disch := decide) only [mFp, extract_hi, extract_lo, extract_all, Nat.reduceSub]

@[simp] theorem fTy2_rrr (op fn : Nat) (d a b c : RegNum) (ty : BitVec 5) (k : KReg) (s : BitVec 2)
    (t : BitVec 5) (z sl : Bool) (r : BitVec 3) : fTy2 (rrr op fn d a b c ty k (mFp s t z sl r)) = t := by
  rw [fTy2, wordM_rrr _ _ _ _ _ _ _ _ _ _ _ (by decide)]
  simp (disch := decide) only [mFp, extract_hi, extract_lo, extract_all, Nat.reduceSub]

@[simp] theorem fRnd_rrr (op fn : Nat) (d a b c : RegNum) (ty : BitVec 5) (k : KReg) (s : BitVec 2)
    (t : BitVec 5) (z sl : Bool) (r : BitVec 3) : fRnd (rrr op fn d a b c ty k (mFp s t z sl r)) = r := by
  rw [fRnd, wordM_rrr _ _ _ _ _ _ _ _ _ _ _ (by decide)]
  simp (disch := decide) only [mFp, extract_lo, extract_all]

@[simp] theorem fFz_rrr (op fn : Nat) (d a b c : RegNum) (ty : BitVec 5) (k : KReg) (s : BitVec 2)
    (t : BitVec 5) (z sl : Bool) (r : BitVec 3) : fFz (rrr op fn d a b c ty k (mFp s t z sl r)) = z := by
  rw [fFz, bitM_rrr _ _ _ _ _ _ _ _ _ _ (by decide)]
  simp (disch := decide) only [mFp, bit_hi, bit_lo, bit_bool, Nat.reduceSub]

@[simp] theorem fSl_rrr (op fn : Nat) (d a b c : RegNum) (ty : BitVec 5) (k : KReg) (s : BitVec 2)
    (t : BitVec 5) (z sl : Bool) (r : BitVec 3) : fSl (rrr op fn d a b c ty k (mFp s t z sl r)) = sl := by
  rw [fSl, bitM_rrr _ _ _ _ _ _ _ _ _ _ (by decide)]
  simp (disch := decide) only [mFp, bit_hi, bit_lo, bit_bool, Nat.reduceSub]

@[simp] theorem fZ_rrr (op fn : Nat) (d a b c : RegNum) (ty : BitVec 5) (k : KReg) (z : Bool) :
    fZ (rrr op fn d a b c ty k (mZ z)) = z := by
  rw [fZ, bitM_rrr _ _ _ _ _ _ _ _ _ _ (by decide)]
  simp (disch := decide) only [mZ, bit_lo, bit_bool]

@[simp] theorem zOnly_rrr (op fn : Nat) (d a b c : RegNum) (ty : BitVec 5) (k : KReg) (z : Bool) :
    zOnly (rrr op fn d a b c ty k (mZ z)) = true := by
  cases z <;> simp [zOnly, mZ]

@[simp] theorem fZ_src (op fn : Nat) (d a b c : RegNum) (ty : BitVec 5) (k : KReg) (s : VSrc) (z : Bool) :
    fZ (rrr op fn d a b c ty k (mSrc s z)) = z := by
  rw [fZ, bitM_rrr _ _ _ _ _ _ _ _ _ _ (by decide)]
  cases s <;> simp (disch := decide) only [mSrc, bit_lo, bit_bool]

@[simp] theorem vsrc_rrr (op fn : Nat) (d a c : RegNum) (ty : BitVec 5) (k : KReg) (s : VSrc) (z : Bool) :
    vsrc (rrr op fn d a s.field c ty k (mSrc s z)) = some s := by
  rw [vsrc, bitM_rrr _ _ _ _ _ _ _ _ _ _ (by decide)]
  cases s with
  | reg b => cases z <;> simp [mSrc, VSrc.field]
  | imm v =>
    simp only [fM_rrr, fB_rrr, VSrc.field, mSrc]
    revert v
    cases z <;> decide

@[simp] theorem intDAB_ok (op fn : Nat) (d a b : RegNum) (ty : Ty)
    (mk : RegNum → RegNum → RegNum → Ty → Instr) :
    intDAB (rrr op fn d a b 0 ty.code 0 0) mk = some (mk d a b ty) := by
  simp (disch := decide) [intDAB, zCKM, req, extract_hi, extract_lo, bit_hi, bit_lo, bit_bool]

@[simp] theorem intDABC_ok (op fn : Nat) (d a b c : RegNum) (ty : Ty)
    (mk : RegNum → RegNum → RegNum → RegNum → Ty → Instr) :
    intDABC (rrr op fn d a b c ty.code 0 0) mk = some (mk d a b c ty) := by
  simp (disch := decide) [intDABC, req, extract_hi, extract_lo, bit_hi, bit_lo, bit_bool]

@[simp] theorem intDA_ok (op fn : Nat) (d a : RegNum) (ty : Ty)
    (mk : RegNum → RegNum → Ty → Instr) :
    intDA (rrr op fn d a 0 0 ty.code 0 0) mk = some (mk d a ty) := by
  simp (disch := decide) [intDA, zCKM, req, extract_hi, extract_lo, bit_hi, bit_lo, bit_bool]

@[simp] theorem intExt_ok (op fn : Nat) (d a : RegNum)
    (mk : RegNum → RegNum → Instr) :
    intExt (rrr op fn d a 0 0 3 0 0) mk = some (mk d a) := by
  simp (disch := decide) [intExt, zCKM, req, extract_hi, extract_lo, bit_hi, bit_lo, bit_bool]

@[simp] theorem vDAB_ok (op fn : Nat) (d a b : RegNum) (ty : Ty) (k : KReg) (z : Bool)
    (mk : RegNum → RegNum → RegNum → Ty → KReg → Bool → Instr) :
    vDAB (rrr op fn d a b 0 ty.code k (mZ z)) mk = some (mk d a b ty k z) := by
  simp (disch := decide) [vDAB, req, extract_hi, extract_lo, bit_hi, bit_lo, bit_bool]

@[simp] theorem vDABC_ok (op fn : Nat) (d a b c : RegNum) (ty : Ty) (k : KReg) (z : Bool)
    (mk : RegNum → RegNum → RegNum → RegNum → Ty → KReg → Bool → Instr) :
    vDABC (rrr op fn d a b c ty.code k (mZ z)) mk = some (mk d a b c ty k z) := by
  simp (disch := decide) [vDABC, req, extract_hi, extract_lo, bit_hi, bit_lo, bit_bool]

@[simp] theorem vDA_ok (op fn : Nat) (d a : RegNum) (ty : Ty) (k : KReg) (z : Bool)
    (mk : RegNum → RegNum → Ty → KReg → Bool → Instr) :
    vDA (rrr op fn d a 0 0 ty.code k (mZ z)) mk = some (mk d a ty k z) := by
  simp (disch := decide) [vDA, req, extract_hi, extract_lo, bit_hi, bit_lo, bit_bool]

@[simp] theorem vRed_ok (op fn : Nat) (d a : RegNum) (ty : Ty) (k : KReg)
    (mk : RegNum → RegNum → Ty → KReg → Instr) :
    vRed (rrr op fn d a 0 0 ty.code k (mZ false)) mk = some (mk d a ty k) := by
  simp (disch := decide) [vRed, mZ, req, extract_hi, extract_lo, bit_hi, bit_lo, bit_bool]

@[simp] theorem vCmp_ok (op fn : Nat) (d : KReg) (a b : RegNum) (ty : Ty) (k : KReg) (z : Bool)
    (mk : KReg → RegNum → RegNum → Ty → KReg → Bool → Instr) :
    vCmp (rrr op fn (wide3 d) a b 0 ty.code k (mZ z)) mk = some (mk d a b ty k z) := by
  simp (disch := decide) [vCmp, req, extract_hi, extract_lo, bit_hi, bit_lo, bit_bool]

@[simp] theorem vShift_ok (op fn : Nat) (d a : RegNum) (src : VSrc) (ty : Ty) (k : KReg) (z : Bool)
    (mk : RegNum → RegNum → VSrc → Ty → KReg → Bool → Instr) :
    vShift (rrr op fn d a src.field 0 ty.code k (mSrc src z)) mk = some (mk d a src ty k z) := by
  simp (disch := decide) [vShift, req, extract_hi, extract_lo, bit_hi, bit_lo, bit_bool]

@[simp] theorem vPick_ok (op fn : Nat) (d a : RegNum) (src : VSrc) (ty : Ty)
    (mk : RegNum → RegNum → VSrc → Ty → Instr) :
    vPick (rrr op fn d a src.field 0 ty.code 0 (mSrc src false)) mk = some (mk d a src ty) := by
  simp (disch := decide) [vPick, req, extract_hi, extract_lo, bit_hi, bit_lo, bit_bool]

@[simp] theorem fpDAB_ok (op fn : Nat) (d a b : RegNum) (ty : Ty) (k : KReg) (z sl : Bool) (r : Rnd)
    (mk : RegNum → RegNum → RegNum → Ty → KReg → Bool → Bool → Rnd → Instr) :
    fpDAB (rrr op fn d a b 0 ty.code k (mFp 0 0 z sl r.code)) mk = some (mk d a b ty k z sl r) := by
  simp (disch := decide) [fpDAB, req, extract_hi, extract_lo, bit_hi, bit_lo, bit_bool]

@[simp] theorem fpDABC_ok (op fn : Nat) (d a b c : RegNum) (ty : Ty) (k : KReg) (z sl : Bool) (r : Rnd)
    (mk : RegNum → RegNum → RegNum → RegNum → Ty → KReg → Bool → Bool → Rnd → Instr) :
    fpDABC (rrr op fn d a b c ty.code k (mFp 0 0 z sl r.code)) mk = some (mk d a b c ty k z sl r) := by
  simp (disch := decide) [fpDABC, req, extract_hi, extract_lo, bit_hi, bit_lo, bit_bool]

@[simp] theorem fpDA_ok (op fn : Nat) (d a : RegNum) (ty : Ty) (k : KReg) (z sl : Bool) (r : Rnd)
    (mk : RegNum → RegNum → Ty → KReg → Bool → Bool → Rnd → Instr) :
    fpDA (rrr op fn d a 0 0 ty.code k (mFp 0 0 z sl r.code)) mk = some (mk d a ty k z sl r) := by
  simp (disch := decide) [fpDA, req, extract_hi, extract_lo, bit_hi, bit_lo, bit_bool]

@[simp] theorem fpDAB0_ok (op fn : Nat) (d a b : RegNum) (ty : Ty) (k : KReg) (z sl : Bool)
    (mk : RegNum → RegNum → RegNum → Ty → KReg → Bool → Bool → Instr) :
    fpDAB0 (rrr op fn d a b 0 ty.code k (mFp 0 0 z sl 0)) mk = some (mk d a b ty k z sl) := by
  simp (disch := decide) [fpDAB0, req, extract_hi, extract_lo, bit_hi, bit_lo, bit_bool]

@[simp] theorem fpDA0_ok (op fn : Nat) (d a : RegNum) (ty : Ty) (k : KReg) (z sl : Bool)
    (mk : RegNum → RegNum → Ty → KReg → Bool → Bool → Instr) :
    fpDA0 (rrr op fn d a 0 0 ty.code k (mFp 0 0 z sl 0)) mk = some (mk d a ty k z sl) := by
  simp (disch := decide) [fpDA0, req, extract_hi, extract_lo, bit_hi, bit_lo, bit_bool]

@[simp] theorem fpCmp_ok (op fn : Nat) (d : KReg) (a b : RegNum) (ty : Ty) (k : KReg) (z sl : Bool)
    (mk : KReg → RegNum → RegNum → Ty → KReg → Bool → Bool → Instr) :
    fpCmp (rrr op fn (wide3 d) a b 0 ty.code k (mFp 0 0 z sl 0)) mk = some (mk d a b ty k z sl) := by
  simp (disch := decide) [fpCmp, req, extract_hi, extract_lo, bit_hi, bit_lo, bit_bool]

@[simp] theorem fpCvt_ok (op fn : Nat) (d a : RegNum) (ty ty2 : Ty) (k : KReg) (z sl : Bool) (r : Rnd)
    (mk : RegNum → RegNum → Ty → Ty → KReg → Bool → Bool → Rnd → Instr) :
    fpCvt (rrr op fn d a 0 0 ty.code k (mFp 0 ty2.code z sl r.code)) mk = some (mk d a ty ty2 k z sl r) := by
  simp (disch := decide) [fpCvt, req, extract_hi, extract_lo, bit_hi, bit_lo, bit_bool]

@[simp] theorem kDAB_ok (op fn : Nat) (d a b : KReg)
    (mk : KReg → KReg → KReg → Instr) :
    kDAB (rrr op fn (wide3 d) (wide3 a) (wide3 b) 0 0 0 0) mk = some (mk d a b) := by
  simp (disch := decide) [kDAB, zMask, zCKM, req, extract_hi, extract_lo, bit_hi, bit_lo, bit_bool]

@[simp] theorem cvCvt_ok (op fn : Nat) (d a : RegNum) (ty ty2 : Ty) (k : KReg) (r : Rnd) (sc : SatC)
    (mk : RegNum → RegNum → Ty → Ty → KReg → Rnd → SatC → Instr) :
    cvCvt (rrr op fn d a 0 0 ty.code k (mFp sc.code ty2.code false false r.code)) mk = some (mk d a ty ty2 k r sc) := by
  simp (disch := decide) [cvCvt, req, extract_hi, extract_lo, bit_hi, bit_lo, bit_bool]

@[simp] theorem brAB_ok (op cc : Nat) (a b : RegNum) (h : Hint) (o : BitVec 29)
    (mk : RegNum → RegNum → Hint → BitVec 29 → Instr) :
    brAB (bfmt op cc a b 0 h o) mk = some (mk a b h o) := by
  simp (disch := decide) [brAB, req, extract_hi, extract_lo, bit_hi, bit_lo, bit_bool]

@[simp] theorem brA_ok (op cc : Nat) (a : RegNum) (h : Hint) (o : BitVec 29)
    (mk : RegNum → Hint → BitVec 29 → Instr) :
    brA (bfmt op cc a 0 0 h o) mk = some (mk a h o) := by
  simp (disch := decide) [brA, req, extract_hi, extract_lo, bit_hi, bit_lo, bit_bool]

@[simp] theorem riDA_ok (op fn : Nat) (d a : RegNum) (ty : Ty) (i : BitVec 32) (h : ty.isInt = true)
    (mk : RegNum → RegNum → Ty → BitVec 32 → Instr) :
    riDA (ri op fn d a ty.code4 i) mk = some (mk d a ty i) := by
  simp (disch := first | decide | assumption) [riDA, req, riLow6, riHigh26]

@[simp] theorem riShift_ok (op fn : Nat) (d a : RegNum) (ty : Ty) (n : BitVec 6) (h : ty.isInt = true)
    (mk : RegNum → RegNum → Ty → BitVec 6 → Instr) :
    riShift (ri op fn d a ty.code4 (0#26 ++ n)) mk = some (mk d a ty n) := by
  simp (disch := first | decide | assumption) [riShift, req, riLow6, riHigh26]

/-! ## The round trip -/

/-- The word of a well-formed instruction decodes to the instruction. -/
def Laws.Encoding.Statement (i : Instr) : Prop := i.wf = true → ∀ w, encode i = some w → decode w = some i

end Sys2Proof

namespace Sys2Proof.Laws

theorem Encoding.add : ∀ d a b ty, Encoding.Statement (.add d a b ty) := by
  intro d a b ty h w hw
  cases Option.some.inj hw
  refine decode_of (fields_int (fOp_rrr ..) ?_) h
  rw [decodeInt, fFn8_rrr]
  exact intDAB_ok ..

theorem Encoding.sub : ∀ d a b ty, Encoding.Statement (.sub d a b ty) := by
  intro d a b ty h w hw
  cases Option.some.inj hw
  refine decode_of (fields_int (fOp_rrr ..) ?_) h
  rw [decodeInt, fFn8_rrr]
  exact intDAB_ok ..

theorem Encoding.mul : ∀ d a b ty, Encoding.Statement (.mul d a b ty) := by
  intro d a b ty h w hw
  cases Option.some.inj hw
  refine decode_of (fields_int (fOp_rrr ..) ?_) h
  rw [decodeInt, fFn8_rrr]
  exact intDAB_ok ..

theorem Encoding.mulh : ∀ d a b ty, Encoding.Statement (.mulh d a b ty) := by
  intro d a b ty h w hw
  cases Option.some.inj hw
  refine decode_of (fields_int (fOp_rrr ..) ?_) h
  rw [decodeInt, fFn8_rrr]
  exact intDAB_ok ..

theorem Encoding.mulhn : ∀ d a b ty, Encoding.Statement (.mulhn d a b ty) := by
  intro d a b ty h w hw
  cases Option.some.inj hw
  refine decode_of (fields_int (fOp_rrr ..) ?_) h
  rw [decodeInt, fFn8_rrr]
  exact intDAB_ok ..

theorem Encoding.madd : ∀ d a b c ty, Encoding.Statement (.madd d a b c ty) := by
  intro d a b c ty h w hw
  cases Option.some.inj hw
  refine decode_of (fields_int (fOp_rrr ..) ?_) h
  rw [decodeInt, fFn8_rrr]
  exact intDABC_ok ..

theorem Encoding.div : ∀ d a b ty, Encoding.Statement (.div d a b ty) := by
  intro d a b ty h w hw
  cases Option.some.inj hw
  refine decode_of (fields_int (fOp_rrr ..) ?_) h
  rw [decodeInt, fFn8_rrr]
  exact intDAB_ok ..

theorem Encoding.divn : ∀ d a b ty, Encoding.Statement (.divn d a b ty) := by
  intro d a b ty h w hw
  cases Option.some.inj hw
  refine decode_of (fields_int (fOp_rrr ..) ?_) h
  rw [decodeInt, fFn8_rrr]
  exact intDAB_ok ..

theorem Encoding.rem : ∀ d a b ty, Encoding.Statement (.rem d a b ty) := by
  intro d a b ty h w hw
  cases Option.some.inj hw
  refine decode_of (fields_int (fOp_rrr ..) ?_) h
  rw [decodeInt, fFn8_rrr]
  exact intDAB_ok ..

theorem Encoding.remn : ∀ d a b ty, Encoding.Statement (.remn d a b ty) := by
  intro d a b ty h w hw
  cases Option.some.inj hw
  refine decode_of (fields_int (fOp_rrr ..) ?_) h
  rw [decodeInt, fFn8_rrr]
  exact intDAB_ok ..

theorem Encoding.min : ∀ d a b ty, Encoding.Statement (.min d a b ty) := by
  intro d a b ty h w hw
  cases Option.some.inj hw
  refine decode_of (fields_int (fOp_rrr ..) ?_) h
  rw [decodeInt, fFn8_rrr]
  exact intDAB_ok ..

theorem Encoding.max : ∀ d a b ty, Encoding.Statement (.max d a b ty) := by
  intro d a b ty h w hw
  cases Option.some.inj hw
  refine decode_of (fields_int (fOp_rrr ..) ?_) h
  rw [decodeInt, fFn8_rrr]
  exact intDAB_ok ..

theorem Encoding.minn : ∀ d a b ty, Encoding.Statement (.minn d a b ty) := by
  intro d a b ty h w hw
  cases Option.some.inj hw
  refine decode_of (fields_int (fOp_rrr ..) ?_) h
  rw [decodeInt, fFn8_rrr]
  exact intDAB_ok ..

theorem Encoding.maxn : ∀ d a b ty, Encoding.Statement (.maxn d a b ty) := by
  intro d a b ty h w hw
  cases Option.some.inj hw
  refine decode_of (fields_int (fOp_rrr ..) ?_) h
  rw [decodeInt, fFn8_rrr]
  exact intDAB_ok ..

theorem Encoding.sel : ∀ d a b c ty, Encoding.Statement (.sel d a b c ty) := by
  intro d a b c ty h w hw
  cases Option.some.inj hw
  refine decode_of (fields_int (fOp_rrr ..) ?_) h
  rw [decodeInt, fFn8_rrr]
  exact intDABC_ok ..

theorem Encoding.and : ∀ d a b ty, Encoding.Statement (.and d a b ty) := by
  intro d a b ty h w hw
  cases Option.some.inj hw
  refine decode_of (fields_int (fOp_rrr ..) ?_) h
  rw [decodeInt, fFn8_rrr]
  exact intDAB_ok ..

theorem Encoding.or : ∀ d a b ty, Encoding.Statement (.or d a b ty) := by
  intro d a b ty h w hw
  cases Option.some.inj hw
  refine decode_of (fields_int (fOp_rrr ..) ?_) h
  rw [decodeInt, fFn8_rrr]
  exact intDAB_ok ..

theorem Encoding.xor : ∀ d a b ty, Encoding.Statement (.xor d a b ty) := by
  intro d a b ty h w hw
  cases Option.some.inj hw
  refine decode_of (fields_int (fOp_rrr ..) ?_) h
  rw [decodeInt, fFn8_rrr]
  exact intDAB_ok ..

theorem Encoding.andn : ∀ d a b ty, Encoding.Statement (.andn d a b ty) := by
  intro d a b ty h w hw
  cases Option.some.inj hw
  refine decode_of (fields_int (fOp_rrr ..) ?_) h
  rw [decodeInt, fFn8_rrr]
  exact intDAB_ok ..

theorem Encoding.orn : ∀ d a b ty, Encoding.Statement (.orn d a b ty) := by
  intro d a b ty h w hw
  cases Option.some.inj hw
  refine decode_of (fields_int (fOp_rrr ..) ?_) h
  rw [decodeInt, fFn8_rrr]
  exact intDAB_ok ..

theorem Encoding.shl : ∀ d a b ty, Encoding.Statement (.shl d a b ty) := by
  intro d a b ty h w hw
  cases Option.some.inj hw
  refine decode_of (fields_int (fOp_rrr ..) ?_) h
  rw [decodeInt, fFn8_rrr]
  exact intDAB_ok ..

theorem Encoding.shr : ∀ d a b ty, Encoding.Statement (.shr d a b ty) := by
  intro d a b ty h w hw
  cases Option.some.inj hw
  refine decode_of (fields_int (fOp_rrr ..) ?_) h
  rw [decodeInt, fFn8_rrr]
  exact intDAB_ok ..

theorem Encoding.sra : ∀ d a b ty, Encoding.Statement (.sra d a b ty) := by
  intro d a b ty h w hw
  cases Option.some.inj hw
  refine decode_of (fields_int (fOp_rrr ..) ?_) h
  rw [decodeInt, fFn8_rrr]
  exact intDAB_ok ..

theorem Encoding.rol : ∀ d a b ty, Encoding.Statement (.rol d a b ty) := by
  intro d a b ty h w hw
  cases Option.some.inj hw
  refine decode_of (fields_int (fOp_rrr ..) ?_) h
  rw [decodeInt, fFn8_rrr]
  exact intDAB_ok ..

theorem Encoding.ror : ∀ d a b ty, Encoding.Statement (.ror d a b ty) := by
  intro d a b ty h w hw
  cases Option.some.inj hw
  refine decode_of (fields_int (fOp_rrr ..) ?_) h
  rw [decodeInt, fFn8_rrr]
  exact intDAB_ok ..

theorem Encoding.clz : ∀ d a ty, Encoding.Statement (.clz d a ty) := by
  intro d a ty h w hw
  cases Option.some.inj hw
  refine decode_of (fields_int (fOp_rrr ..) ?_) h
  rw [decodeInt, fFn8_rrr]
  exact intDA_ok ..

theorem Encoding.ctz : ∀ d a ty, Encoding.Statement (.ctz d a ty) := by
  intro d a ty h w hw
  cases Option.some.inj hw
  refine decode_of (fields_int (fOp_rrr ..) ?_) h
  rw [decodeInt, fFn8_rrr]
  exact intDA_ok ..

theorem Encoding.pop : ∀ d a ty, Encoding.Statement (.pop d a ty) := by
  intro d a ty h w hw
  cases Option.some.inj hw
  refine decode_of (fields_int (fOp_rrr ..) ?_) h
  rw [decodeInt, fFn8_rrr]
  exact intDA_ok ..

theorem Encoding.bswap : ∀ d a ty, Encoding.Statement (.bswap d a ty) := by
  intro d a ty h w hw
  cases Option.some.inj hw
  refine decode_of (fields_int (fOp_rrr ..) ?_) h
  rw [decodeInt, fFn8_rrr]
  exact intDA_ok ..

theorem Encoding.seq : ∀ d a b ty, Encoding.Statement (.seq d a b ty) := by
  intro d a b ty h w hw
  cases Option.some.inj hw
  refine decode_of (fields_int (fOp_rrr ..) ?_) h
  rw [decodeInt, fFn8_rrr]
  exact intDAB_ok ..

theorem Encoding.sne : ∀ d a b ty, Encoding.Statement (.sne d a b ty) := by
  intro d a b ty h w hw
  cases Option.some.inj hw
  refine decode_of (fields_int (fOp_rrr ..) ?_) h
  rw [decodeInt, fFn8_rrr]
  exact intDAB_ok ..

theorem Encoding.slt : ∀ d a b ty, Encoding.Statement (.slt d a b ty) := by
  intro d a b ty h w hw
  cases Option.some.inj hw
  refine decode_of (fields_int (fOp_rrr ..) ?_) h
  rw [decodeInt, fFn8_rrr]
  exact intDAB_ok ..

theorem Encoding.sle : ∀ d a b ty, Encoding.Statement (.sle d a b ty) := by
  intro d a b ty h w hw
  cases Option.some.inj hw
  refine decode_of (fields_int (fOp_rrr ..) ?_) h
  rw [decodeInt, fFn8_rrr]
  exact intDAB_ok ..

theorem Encoding.sltn : ∀ d a b ty, Encoding.Statement (.sltn d a b ty) := by
  intro d a b ty h w hw
  cases Option.some.inj hw
  refine decode_of (fields_int (fOp_rrr ..) ?_) h
  rw [decodeInt, fFn8_rrr]
  exact intDAB_ok ..

theorem Encoding.slen : ∀ d a b ty, Encoding.Statement (.slen d a b ty) := by
  intro d a b ty h w hw
  cases Option.some.inj hw
  refine decode_of (fields_int (fOp_rrr ..) ?_) h
  rw [decodeInt, fFn8_rrr]
  exact intDAB_ok ..

theorem Encoding.ext : ∀ d a ty pos len, Encoding.Statement (.ext d a ty pos len) := by
  intro d a ty pos len h w hw
  cases Option.some.inj hw
  refine decode_of (fields_int (fOp_rrr ..) ?_) h
  rw [decodeInt, fFn8_rrr]
  simp (disch := decide) only [fD_rrr, fA_rrr, fB_rrr, fC_rrr, fTy_rrr, fK_rrr, fM_rrr, extract_hi, extract_lo, extract_all, bit_hi, bit_lo, bit_bool, Nat.reduceSub]
  simp [req]

theorem Encoding.ins : ∀ d a b ty pos len, Encoding.Statement (.ins d a b ty pos len) := by
  intro d a b ty pos len h w hw
  cases Option.some.inj hw
  refine decode_of (fields_int (fOp_rrr ..) ?_) h
  rw [decodeInt, fFn8_rrr]
  simp (disch := decide) only [fD_rrr, fA_rrr, fB_rrr, fC_rrr, fTy_rrr, fK_rrr, fM_rrr, extract_hi, extract_lo, extract_all, bit_hi, bit_lo, bit_bool, Nat.reduceSub]
  simp [req]

theorem Encoding.sxt8 : ∀ d a, Encoding.Statement (.sxt8 d a) := by
  intro d a h w hw
  cases Option.some.inj hw
  refine decode_of (fields_int (fOp_rrr ..) ?_) h
  rw [decodeInt, fFn8_rrr]
  exact intExt_ok ..

theorem Encoding.sxt16 : ∀ d a, Encoding.Statement (.sxt16 d a) := by
  intro d a h w hw
  cases Option.some.inj hw
  refine decode_of (fields_int (fOp_rrr ..) ?_) h
  rw [decodeInt, fFn8_rrr]
  exact intExt_ok ..

theorem Encoding.sxt32 : ∀ d a, Encoding.Statement (.sxt32 d a) := by
  intro d a h w hw
  cases Option.some.inj hw
  refine decode_of (fields_int (fOp_rrr ..) ?_) h
  rw [decodeInt, fFn8_rrr]
  exact intExt_ok ..

theorem Encoding.zxt8 : ∀ d a, Encoding.Statement (.zxt8 d a) := by
  intro d a h w hw
  cases Option.some.inj hw
  refine decode_of (fields_int (fOp_rrr ..) ?_) h
  rw [decodeInt, fFn8_rrr]
  exact intExt_ok ..

theorem Encoding.zxt16 : ∀ d a, Encoding.Statement (.zxt16 d a) := by
  intro d a h w hw
  cases Option.some.inj hw
  refine decode_of (fields_int (fOp_rrr ..) ?_) h
  rw [decodeInt, fFn8_rrr]
  exact intExt_ok ..

theorem Encoding.zxt32 : ∀ d a, Encoding.Statement (.zxt32 d a) := by
  intro d a h w hw
  cases Option.some.inj hw
  refine decode_of (fields_int (fOp_rrr ..) ?_) h
  rw [decodeInt, fFn8_rrr]
  exact intExt_ok ..

theorem Encoding.addi : ∀ d a ty imm, Encoding.Statement (.addi d a ty imm) := by
  intro d a ty imm h w hw
  cases Option.some.inj hw
  refine decode_of (fields_imm (fOp_ri ..) ?_) h
  rw [decodeImm, fFn6_ri]
  exact riDA_ok _ _ _ _ _ _ h _

theorem Encoding.muli : ∀ d a ty imm, Encoding.Statement (.muli d a ty imm) := by
  intro d a ty imm h w hw
  cases Option.some.inj hw
  refine decode_of (fields_imm (fOp_ri ..) ?_) h
  rw [decodeImm, fFn6_ri]
  exact riDA_ok _ _ _ _ _ _ h _

theorem Encoding.andi : ∀ d a ty imm, Encoding.Statement (.andi d a ty imm) := by
  intro d a ty imm h w hw
  cases Option.some.inj hw
  refine decode_of (fields_imm (fOp_ri ..) ?_) h
  rw [decodeImm, fFn6_ri]
  exact riDA_ok _ _ _ _ _ _ h _

theorem Encoding.ori : ∀ d a ty imm, Encoding.Statement (.ori d a ty imm) := by
  intro d a ty imm h w hw
  cases Option.some.inj hw
  refine decode_of (fields_imm (fOp_ri ..) ?_) h
  rw [decodeImm, fFn6_ri]
  exact riDA_ok _ _ _ _ _ _ h _

theorem Encoding.xori : ∀ d a ty imm, Encoding.Statement (.xori d a ty imm) := by
  intro d a ty imm h w hw
  cases Option.some.inj hw
  refine decode_of (fields_imm (fOp_ri ..) ?_) h
  rw [decodeImm, fFn6_ri]
  exact riDA_ok _ _ _ _ _ _ h _

theorem Encoding.shli : ∀ d a ty cnt, Encoding.Statement (.shli d a ty cnt) := by
  intro d a ty cnt h w hw
  cases Option.some.inj hw
  refine decode_of (fields_imm (fOp_ri ..) ?_) h
  rw [decodeImm, fFn6_ri]
  exact riShift_ok _ _ _ _ _ _ h _

theorem Encoding.shri : ∀ d a ty cnt, Encoding.Statement (.shri d a ty cnt) := by
  intro d a ty cnt h w hw
  cases Option.some.inj hw
  refine decode_of (fields_imm (fOp_ri ..) ?_) h
  rw [decodeImm, fFn6_ri]
  exact riShift_ok _ _ _ _ _ _ h _

theorem Encoding.srai : ∀ d a ty cnt, Encoding.Statement (.srai d a ty cnt) := by
  intro d a ty cnt h w hw
  cases Option.some.inj hw
  refine decode_of (fields_imm (fOp_ri ..) ?_) h
  rw [decodeImm, fFn6_ri]
  exact riShift_ok _ _ _ _ _ _ h _

theorem Encoding.slti : ∀ d a ty imm, Encoding.Statement (.slti d a ty imm) := by
  intro d a ty imm h w hw
  cases Option.some.inj hw
  refine decode_of (fields_imm (fOp_ri ..) ?_) h
  rw [decodeImm, fFn6_ri]
  exact riDA_ok _ _ _ _ _ _ h _

theorem Encoding.sltni : ∀ d a ty imm, Encoding.Statement (.sltni d a ty imm) := by
  intro d a ty imm h w hw
  cases Option.some.inj hw
  refine decode_of (fields_imm (fOp_ri ..) ?_) h
  rw [decodeImm, fFn6_ri]
  exact riDA_ok _ _ _ _ _ _ h _

theorem Encoding.seqi : ∀ d a ty imm, Encoding.Statement (.seqi d a ty imm) := by
  intro d a ty imm h w hw
  cases Option.some.inj hw
  refine decode_of (fields_imm (fOp_ri ..) ?_) h
  rw [decodeImm, fFn6_ri]
  exact riDA_ok _ _ _ _ _ _ h _

theorem Encoding.movi : ∀ d ty imm, Encoding.Statement (.movi d ty imm) := by
  intro d ty imm h w hw
  cases Option.some.inj hw
  refine decode_of (fields_imm (fOp_ri ..) ?_) h
  rw [decodeImm, fFn6_ri]
  simp only [fTy4_ri, fA6_ri, fD6_ri, fI32_ri, Ty.ofCode_code4 _ h]
  simp [req]

theorem Encoding.movhi : ∀ d a imm, Encoding.Statement (.movhi d a imm) := by
  intro d a imm h w hw
  cases Option.some.inj hw
  refine decode_of (fields_imm (fOp_ri ..) ?_) h
  rw [decodeImm, fFn6_ri]
  simp (disch := decide) only [fD6_ri, fA6_ri, fTy4_ri, fI32_ri, extract_hi, extract_lo, extract_all, bit_hi, bit_lo, bit_bool, Nat.reduceSub]
  simp [req]

theorem Encoding.br : ∀ hint disp, Encoding.Statement (.br hint disp) := by
  intro hint disp h w hw
  cases Option.some.inj hw
  refine decode_of (fields_branch (fOp_bfmt ..) ?_) h
  rw [decodeBranch, fCc_bfmt]
  simp (disch := decide) only [fBA_bfmt, fBB_bfmt, fLnk_bfmt, fHint_bfmt, fDisp_bfmt, extract_hi, extract_lo, extract_all, bit_hi, bit_lo, bit_bool, Nat.reduceSub]
  simp [req]

theorem Encoding.beq : ∀ a b hint disp, Encoding.Statement (.beq a b hint disp) := by
  intro a b hint disp h w hw
  cases Option.some.inj hw
  refine decode_of (fields_branch (fOp_bfmt ..) ?_) h
  rw [decodeBranch, fCc_bfmt]
  exact brAB_ok ..

theorem Encoding.bne : ∀ a b hint disp, Encoding.Statement (.bne a b hint disp) := by
  intro a b hint disp h w hw
  cases Option.some.inj hw
  refine decode_of (fields_branch (fOp_bfmt ..) ?_) h
  rw [decodeBranch, fCc_bfmt]
  exact brAB_ok ..

theorem Encoding.blt : ∀ a b hint disp, Encoding.Statement (.blt a b hint disp) := by
  intro a b hint disp h w hw
  cases Option.some.inj hw
  refine decode_of (fields_branch (fOp_bfmt ..) ?_) h
  rw [decodeBranch, fCc_bfmt]
  exact brAB_ok ..

theorem Encoding.bge : ∀ a b hint disp, Encoding.Statement (.bge a b hint disp) := by
  intro a b hint disp h w hw
  cases Option.some.inj hw
  refine decode_of (fields_branch (fOp_bfmt ..) ?_) h
  rw [decodeBranch, fCc_bfmt]
  exact brAB_ok ..

theorem Encoding.bltn : ∀ a b hint disp, Encoding.Statement (.bltn a b hint disp) := by
  intro a b hint disp h w hw
  cases Option.some.inj hw
  refine decode_of (fields_branch (fOp_bfmt ..) ?_) h
  rw [decodeBranch, fCc_bfmt]
  exact brAB_ok ..

theorem Encoding.bgen : ∀ a b hint disp, Encoding.Statement (.bgen a b hint disp) := by
  intro a b hint disp h w hw
  cases Option.some.inj hw
  refine decode_of (fields_branch (fOp_bfmt ..) ?_) h
  rw [decodeBranch, fCc_bfmt]
  exact brAB_ok ..

theorem Encoding.bz : ∀ a hint disp, Encoding.Statement (.bz a hint disp) := by
  intro a hint disp h w hw
  cases Option.some.inj hw
  refine decode_of (fields_branch (fOp_bfmt ..) ?_) h
  rw [decodeBranch, fCc_bfmt]
  exact brA_ok ..

theorem Encoding.bnz : ∀ a hint disp, Encoding.Statement (.bnz a hint disp) := by
  intro a hint disp h w hw
  cases Option.some.inj hw
  refine decode_of (fields_branch (fOp_bfmt ..) ?_) h
  rw [decodeBranch, fCc_bfmt]
  exact brA_ok ..

theorem Encoding.dbnz : ∀ a hint disp, Encoding.Statement (.dbnz a hint disp) := by
  intro a hint disp h w hw
  cases Option.some.inj hw
  refine decode_of (fields_branch (fOp_bfmt ..) ?_) h
  rw [decodeBranch, fCc_bfmt]
  exact brA_ok ..

theorem Encoding.call : ∀ lnk hint disp, Encoding.Statement (.call lnk hint disp) := by
  intro lnk hint disp h w hw
  cases Option.some.inj hw
  refine decode_of (fields_branch (fOp_bfmt ..) ?_) h
  rw [decodeBranch, fCc_bfmt]
  simp (disch := decide) only [fBA_bfmt, fBB_bfmt, fLnk_bfmt, fHint_bfmt, fDisp_bfmt, extract_hi, extract_lo, extract_all, bit_hi, bit_lo, bit_bool, Nat.reduceSub]
  simp [req]

theorem Encoding.jmp : ∀ a hint disp, Encoding.Statement (.jmp a hint disp) := by
  intro a hint disp h w hw
  cases Option.some.inj hw
  refine decode_of (fields_jump (fOp_bfmt ..) ?_) h
  rw [decodeJump, fCc_bfmt]
  exact brA_ok ..

theorem Encoding.callr : ∀ lnk a hint disp, Encoding.Statement (.callr lnk a hint disp) := by
  intro lnk a hint disp h w hw
  cases Option.some.inj hw
  refine decode_of (fields_jump (fOp_bfmt ..) ?_) h
  rw [decodeJump, fCc_bfmt]
  simp (disch := decide) only [fBA_bfmt, fBB_bfmt, fLnk_bfmt, fHint_bfmt, fDisp_bfmt, extract_hi, extract_lo, extract_all, bit_hi, bit_lo, bit_bool, Nat.reduceSub]
  simp [req]

theorem Encoding.pause : ∀ imm, Encoding.Statement (.pause imm) := by
  intro imm h w hw
  cases Option.some.inj hw
  refine decode_of (fields_thread (fOp_sfmt ..) ?_) h
  rw [decodeThread, fFn8_sfmt]
  simp (disch := decide) only [fD_sfmt, fA_sfmt, fB_sfmt, fImm_sfmt, extract_hi, extract_lo, extract_all, bit_hi, bit_lo, bit_bool, Nat.reduceSub]
  simp [req]

theorem Encoding.void : ∀ d, Encoding.Statement (.void d) := by
  intro d h w hw
  cases Option.some.inj hw
  refine decode_of (fields_thread (fOp_sfmt ..) ?_) h
  rw [decodeThread, fFn8_sfmt]
  simp (disch := decide) only [fD_sfmt, fA_sfmt, fB_sfmt, fImm_sfmt, extract_hi, extract_lo, extract_all, bit_hi, bit_lo, bit_bool, Nat.reduceSub]
  simp [req]

theorem Encoding.ld : ∀ d base seg rel off size, Encoding.Statement (.ld d base seg rel off size) := by
  intro d base seg rel off size h w hw
  cases Option.some.inj hw
  refine decode_of (fields_mem (fOp_mfmt ..) ?_) h
  rw [decodeMem, fFn6_mfmt]
  cases size <;> simp [MemSize.code, MemSize.ofCode]

theorem Encoding.lds : ∀ d base seg rel off size, Encoding.Statement (.lds d base seg rel off size) := by
  intro d base seg rel off size h w hw
  cases Option.some.inj hw
  refine decode_of (fields_mem (fOp_mfmt ..) ?_) h
  rw [decodeMem, fFn6_mfmt]
  cases size <;> simp [MemSize.code, MemSize.ofCode]

theorem Encoding.st : ∀ d base seg rel off size, Encoding.Statement (.st d base seg rel off size) := by
  intro d base seg rel off size h w hw
  cases Option.some.inj hw
  refine decode_of (fields_mem (fOp_mfmt ..) ?_) h
  rw [decodeMem, fFn6_mfmt]
  cases size <;> simp [MemSize.code, MemSize.ofCode]

theorem Encoding.lea : ∀ d base seg off, Encoding.Statement (.lea d base seg off) := by
  intro d base seg off h w hw
  cases Option.some.inj hw
  refine decode_of (fields_mem (fOp_mfmt ..) ?_) h
  rw [decodeMem, fFn6_mfmt]
  simp (disch := decide) only [fD6_mfmt, fA6_mfmt, fSeg_mfmt, fRel_mfmt, fI32_mfmt, extract_hi, extract_lo, extract_all, bit_hi, bit_lo, bit_bool, Nat.reduceSub]
  simp [req]

theorem Encoding.segld : ∀ d a imm, Encoding.Statement (.segld d a imm) := by
  intro d a imm h w hw
  cases Option.some.inj hw
  refine decode_of (fields_seg (fOp_sfmt ..) ?_) h
  rw [decodeSeg, fFn8_sfmt]
  simp (disch := decide) only [fD_sfmt, fA_sfmt, fB_sfmt, fImm_sfmt, extract_hi, extract_lo, extract_all, bit_hi, bit_lo, bit_bool, Nat.reduceSub]
  simp [req]

theorem Encoding.segnar : ∀ d a b rights, Encoding.Statement (.segnar d a b rights) := by
  intro d a b rights h w hw
  cases Option.some.inj hw
  refine decode_of (fields_seg (fOp_sfmt ..) ?_) h
  rw [decodeSeg, fFn8_sfmt]
  simp (disch := decide) only [fD_sfmt, fA_sfmt, fB_sfmt, fImm_sfmt, extract_hi, extract_lo, extract_all, bit_hi, bit_lo, bit_bool, Nat.reduceSub]
  simp [req]

theorem Encoding.segrd : ∀ d a, Encoding.Statement (.segrd d a) := by
  intro d a h w hw
  cases Option.some.inj hw
  refine decode_of (fields_seg (fOp_sfmt ..) ?_) h
  rw [decodeSeg, fFn8_sfmt]
  simp (disch := decide) only [fD_sfmt, fA_sfmt, fB_sfmt, fImm_sfmt, extract_hi, extract_lo, extract_all, bit_hi, bit_lo, bit_bool, Nat.reduceSub]
  simp [req]

theorem Encoding.vadd : ∀ d a b ty k z, Encoding.Statement (.vadd d a b ty k z) := by
  intro d a b ty k z h w hw
  cases Option.some.inj hw
  refine decode_of (fields_vint (fOp_rrr ..) ?_) h
  rw [decodeVint, fFn8_rrr]
  exact vDAB_ok ..

theorem Encoding.vsub : ∀ d a b ty k z, Encoding.Statement (.vsub d a b ty k z) := by
  intro d a b ty k z h w hw
  cases Option.some.inj hw
  refine decode_of (fields_vint (fOp_rrr ..) ?_) h
  rw [decodeVint, fFn8_rrr]
  exact vDAB_ok ..

theorem Encoding.vmul : ∀ d a b ty k z, Encoding.Statement (.vmul d a b ty k z) := by
  intro d a b ty k z h w hw
  cases Option.some.inj hw
  refine decode_of (fields_vint (fOp_rrr ..) ?_) h
  rw [decodeVint, fFn8_rrr]
  exact vDAB_ok ..

theorem Encoding.vmulh : ∀ d a b ty k z, Encoding.Statement (.vmulh d a b ty k z) := by
  intro d a b ty k z h w hw
  cases Option.some.inj hw
  refine decode_of (fields_vint (fOp_rrr ..) ?_) h
  rw [decodeVint, fFn8_rrr]
  exact vDAB_ok ..

theorem Encoding.vmin : ∀ d a b ty k z, Encoding.Statement (.vmin d a b ty k z) := by
  intro d a b ty k z h w hw
  cases Option.some.inj hw
  refine decode_of (fields_vint (fOp_rrr ..) ?_) h
  rw [decodeVint, fFn8_rrr]
  exact vDAB_ok ..

theorem Encoding.vmax : ∀ d a b ty k z, Encoding.Statement (.vmax d a b ty k z) := by
  intro d a b ty k z h w hw
  cases Option.some.inj hw
  refine decode_of (fields_vint (fOp_rrr ..) ?_) h
  rw [decodeVint, fFn8_rrr]
  exact vDAB_ok ..

theorem Encoding.vadds : ∀ d a b ty k z, Encoding.Statement (.vadds d a b ty k z) := by
  intro d a b ty k z h w hw
  cases Option.some.inj hw
  refine decode_of (fields_vint (fOp_rrr ..) ?_) h
  rw [decodeVint, fFn8_rrr]
  exact vDAB_ok ..

theorem Encoding.vsubs : ∀ d a b ty k z, Encoding.Statement (.vsubs d a b ty k z) := by
  intro d a b ty k z h w hw
  cases Option.some.inj hw
  refine decode_of (fields_vint (fOp_rrr ..) ?_) h
  rw [decodeVint, fFn8_rrr]
  exact vDAB_ok ..

theorem Encoding.vand : ∀ d a b ty k z, Encoding.Statement (.vand d a b ty k z) := by
  intro d a b ty k z h w hw
  cases Option.some.inj hw
  refine decode_of (fields_vint (fOp_rrr ..) ?_) h
  rw [decodeVint, fFn8_rrr]
  exact vDAB_ok ..

theorem Encoding.vor : ∀ d a b ty k z, Encoding.Statement (.vor d a b ty k z) := by
  intro d a b ty k z h w hw
  cases Option.some.inj hw
  refine decode_of (fields_vint (fOp_rrr ..) ?_) h
  rw [decodeVint, fFn8_rrr]
  exact vDAB_ok ..

theorem Encoding.vxor : ∀ d a b ty k z, Encoding.Statement (.vxor d a b ty k z) := by
  intro d a b ty k z h w hw
  cases Option.some.inj hw
  refine decode_of (fields_vint (fOp_rrr ..) ?_) h
  rw [decodeVint, fFn8_rrr]
  exact vDAB_ok ..

theorem Encoding.vshl : ∀ d a src ty k z, Encoding.Statement (.vshl d a src ty k z) := by
  intro d a src ty k z h w hw
  cases Option.some.inj hw
  refine decode_of (fields_vint (fOp_rrr ..) ?_) h
  rw [decodeVint, fFn8_rrr]
  exact vShift_ok ..

theorem Encoding.vshr : ∀ d a src ty k z, Encoding.Statement (.vshr d a src ty k z) := by
  intro d a src ty k z h w hw
  cases Option.some.inj hw
  refine decode_of (fields_vint (fOp_rrr ..) ?_) h
  rw [decodeVint, fFn8_rrr]
  exact vShift_ok ..

theorem Encoding.vsra : ∀ d a src ty k z, Encoding.Statement (.vsra d a src ty k z) := by
  intro d a src ty k z h w hw
  cases Option.some.inj hw
  refine decode_of (fields_vint (fOp_rrr ..) ?_) h
  rw [decodeVint, fFn8_rrr]
  exact vShift_ok ..

theorem Encoding.vabs : ∀ d a ty k z, Encoding.Statement (.vabs d a ty k z) := by
  intro d a ty k z h w hw
  cases Option.some.inj hw
  refine decode_of (fields_vint (fOp_rrr ..) ?_) h
  rw [decodeVint, fFn8_rrr]
  exact vDA_ok ..

theorem Encoding.vneg : ∀ d a ty k z, Encoding.Statement (.vneg d a ty k z) := by
  intro d a ty k z h w hw
  cases Option.some.inj hw
  refine decode_of (fields_vint (fOp_rrr ..) ?_) h
  rw [decodeVint, fFn8_rrr]
  exact vDA_ok ..

theorem Encoding.vcnt : ∀ d a ty k z, Encoding.Statement (.vcnt d a ty k z) := by
  intro d a ty k z h w hw
  cases Option.some.inj hw
  refine decode_of (fields_vint (fOp_rrr ..) ?_) h
  rw [decodeVint, fFn8_rrr]
  exact vDA_ok ..

theorem Encoding.vdot4 : ∀ d a b c ty k z, Encoding.Statement (.vdot4 d a b c ty k z) := by
  intro d a b c ty k z h w hw
  cases Option.some.inj hw
  refine decode_of (fields_vint (fOp_rrr ..) ?_) h
  rw [decodeVint, fFn8_rrr]
  exact vDABC_ok ..

theorem Encoding.vsel : ∀ d a b ty k, Encoding.Statement (.vsel d a b ty k) := by
  intro d a b ty k h w hw
  cases Option.some.inj hw
  refine decode_of (fields_vint (fOp_rrr ..) ?_) h
  rw [decodeVint, fFn8_rrr]
  simp (disch := decide) only [fD_rrr, fA_rrr, fB_rrr, fC_rrr, fTy_rrr, fK_rrr, fM_rrr, extract_hi, extract_lo, extract_all, bit_hi, bit_lo, bit_bool, Nat.reduceSub, mZ]
  simp [req]

theorem Encoding.vcmpeq : ∀ d a b ty k z, Encoding.Statement (.vcmpeq d a b ty k z) := by
  intro d a b ty k z h w hw
  cases Option.some.inj hw
  refine decode_of (fields_vint (fOp_rrr ..) ?_) h
  rw [decodeVint, fFn8_rrr]
  exact vCmp_ok ..

theorem Encoding.vcmpne : ∀ d a b ty k z, Encoding.Statement (.vcmpne d a b ty k z) := by
  intro d a b ty k z h w hw
  cases Option.some.inj hw
  refine decode_of (fields_vint (fOp_rrr ..) ?_) h
  rw [decodeVint, fFn8_rrr]
  exact vCmp_ok ..

theorem Encoding.vcmplt : ∀ d a b ty k z, Encoding.Statement (.vcmplt d a b ty k z) := by
  intro d a b ty k z h w hw
  cases Option.some.inj hw
  refine decode_of (fields_vint (fOp_rrr ..) ?_) h
  rw [decodeVint, fFn8_rrr]
  exact vCmp_ok ..

theorem Encoding.vcmple : ∀ d a b ty k z, Encoding.Statement (.vcmple d a b ty k z) := by
  intro d a b ty k z h w hw
  cases Option.some.inj hw
  refine decode_of (fields_vint (fOp_rrr ..) ?_) h
  rw [decodeVint, fFn8_rrr]
  exact vCmp_ok ..

theorem Encoding.vfadd : ∀ d a b ty k z sl rnd, Encoding.Statement (.vfadd d a b ty k z sl rnd) := by
  intro d a b ty k z sl rnd h w hw
  cases Option.some.inj hw
  refine decode_of (fields_vfp (fOp_rrr ..) ?_) h
  rw [decodeVfp, fFn8_rrr]
  exact fpDAB_ok ..

theorem Encoding.vfsub : ∀ d a b ty k z sl rnd, Encoding.Statement (.vfsub d a b ty k z sl rnd) := by
  intro d a b ty k z sl rnd h w hw
  cases Option.some.inj hw
  refine decode_of (fields_vfp (fOp_rrr ..) ?_) h
  rw [decodeVfp, fFn8_rrr]
  exact fpDAB_ok ..

theorem Encoding.vfmul : ∀ d a b ty k z sl rnd, Encoding.Statement (.vfmul d a b ty k z sl rnd) := by
  intro d a b ty k z sl rnd h w hw
  cases Option.some.inj hw
  refine decode_of (fields_vfp (fOp_rrr ..) ?_) h
  rw [decodeVfp, fFn8_rrr]
  exact fpDAB_ok ..

theorem Encoding.vfdiv : ∀ d a b ty k z sl rnd, Encoding.Statement (.vfdiv d a b ty k z sl rnd) := by
  intro d a b ty k z sl rnd h w hw
  cases Option.some.inj hw
  refine decode_of (fields_vfp (fOp_rrr ..) ?_) h
  rw [decodeVfp, fFn8_rrr]
  exact fpDAB_ok ..

theorem Encoding.vfma : ∀ d a b c ty k z sl rnd, Encoding.Statement (.vfma d a b c ty k z sl rnd) := by
  intro d a b c ty k z sl rnd h w hw
  cases Option.some.inj hw
  refine decode_of (fields_vfp (fOp_rrr ..) ?_) h
  rw [decodeVfp, fFn8_rrr]
  exact fpDABC_ok ..

theorem Encoding.vfms : ∀ d a b c ty k z sl rnd, Encoding.Statement (.vfms d a b c ty k z sl rnd) := by
  intro d a b c ty k z sl rnd h w hw
  cases Option.some.inj hw
  refine decode_of (fields_vfp (fOp_rrr ..) ?_) h
  rw [decodeVfp, fFn8_rrr]
  exact fpDABC_ok ..

theorem Encoding.vfnma : ∀ d a b c ty k z sl rnd, Encoding.Statement (.vfnma d a b c ty k z sl rnd) := by
  intro d a b c ty k z sl rnd h w hw
  cases Option.some.inj hw
  refine decode_of (fields_vfp (fOp_rrr ..) ?_) h
  rw [decodeVfp, fFn8_rrr]
  exact fpDABC_ok ..

theorem Encoding.vfsqrt : ∀ d a ty k z sl rnd, Encoding.Statement (.vfsqrt d a ty k z sl rnd) := by
  intro d a ty k z sl rnd h w hw
  cases Option.some.inj hw
  refine decode_of (fields_vfp (fOp_rrr ..) ?_) h
  rw [decodeVfp, fFn8_rrr]
  exact fpDA_ok ..

theorem Encoding.vfround : ∀ d a ty k z sl rnd, Encoding.Statement (.vfround d a ty k z sl rnd) := by
  intro d a ty k z sl rnd h w hw
  cases Option.some.inj hw
  refine decode_of (fields_vfp (fOp_rrr ..) ?_) h
  rw [decodeVfp, fFn8_rrr]
  exact fpDA_ok ..

theorem Encoding.vfmin : ∀ d a b ty k z sl, Encoding.Statement (.vfmin d a b ty k z sl) := by
  intro d a b ty k z sl h w hw
  cases Option.some.inj hw
  refine decode_of (fields_vfp (fOp_rrr ..) ?_) h
  rw [decodeVfp, fFn8_rrr]
  exact fpDAB0_ok ..

theorem Encoding.vfmax : ∀ d a b ty k z sl, Encoding.Statement (.vfmax d a b ty k z sl) := by
  intro d a b ty k z sl h w hw
  cases Option.some.inj hw
  refine decode_of (fields_vfp (fOp_rrr ..) ?_) h
  rw [decodeVfp, fFn8_rrr]
  exact fpDAB0_ok ..

theorem Encoding.vfabs : ∀ d a ty k z sl, Encoding.Statement (.vfabs d a ty k z sl) := by
  intro d a ty k z sl h w hw
  cases Option.some.inj hw
  refine decode_of (fields_vfp (fOp_rrr ..) ?_) h
  rw [decodeVfp, fFn8_rrr]
  exact fpDA0_ok ..

theorem Encoding.vfneg : ∀ d a ty k z sl, Encoding.Statement (.vfneg d a ty k z sl) := by
  intro d a ty k z sl h w hw
  cases Option.some.inj hw
  refine decode_of (fields_vfp (fOp_rrr ..) ?_) h
  rw [decodeVfp, fFn8_rrr]
  exact fpDA0_ok ..

theorem Encoding.vfrcp : ∀ d a ty k z sl, Encoding.Statement (.vfrcp d a ty k z sl) := by
  intro d a ty k z sl h w hw
  cases Option.some.inj hw
  refine decode_of (fields_vfp (fOp_rrr ..) ?_) h
  rw [decodeVfp, fFn8_rrr]
  exact fpDA0_ok ..

theorem Encoding.vfrsq : ∀ d a ty k z sl, Encoding.Statement (.vfrsq d a ty k z sl) := by
  intro d a ty k z sl h w hw
  cases Option.some.inj hw
  refine decode_of (fields_vfp (fOp_rrr ..) ?_) h
  rw [decodeVfp, fFn8_rrr]
  exact fpDA0_ok ..

theorem Encoding.vfexp2 : ∀ d a ty k z sl, Encoding.Statement (.vfexp2 d a ty k z sl) := by
  intro d a ty k z sl h w hw
  cases Option.some.inj hw
  refine decode_of (fields_vfp (fOp_rrr ..) ?_) h
  rw [decodeVfp, fFn8_rrr]
  exact fpDA0_ok ..

theorem Encoding.vflog2 : ∀ d a ty k z sl, Encoding.Statement (.vflog2 d a ty k z sl) := by
  intro d a ty k z sl h w hw
  cases Option.some.inj hw
  refine decode_of (fields_vfp (fOp_rrr ..) ?_) h
  rw [decodeVfp, fFn8_rrr]
  exact fpDA0_ok ..

theorem Encoding.vfcvt : ∀ d a ty ty2 k z sl rnd satc, Encoding.Statement (.vfcvt d a ty ty2 k z sl rnd satc) := by
  intro d a ty ty2 k z sl rnd satc h w hw
  cases Option.some.inj hw
  refine decode_of (fields_vfp (fOp_rrr ..) ?_) h
  rw [decodeVfp, fFn8_rrr]
  simp (disch := decide) only [fD_rrr, fA_rrr, fB_rrr, fC_rrr, fTy_rrr, fK_rrr, fM_rrr, extract_hi, extract_lo, extract_all, bit_hi, bit_lo, bit_bool, Nat.reduceSub]
  simp [req]

theorem Encoding.vfcvti : ∀ d a ty ty2 k z sl rnd, Encoding.Statement (.vfcvti d a ty ty2 k z sl rnd) := by
  intro d a ty ty2 k z sl rnd h w hw
  cases Option.some.inj hw
  refine decode_of (fields_vfp (fOp_rrr ..) ?_) h
  rw [decodeVfp, fFn8_rrr]
  exact fpCvt_ok ..

theorem Encoding.vicvtf : ∀ d a ty ty2 k z sl rnd, Encoding.Statement (.vicvtf d a ty ty2 k z sl rnd) := by
  intro d a ty ty2 k z sl rnd h w hw
  cases Option.some.inj hw
  refine decode_of (fields_vfp (fOp_rrr ..) ?_) h
  rw [decodeVfp, fFn8_rrr]
  exact fpCvt_ok ..

theorem Encoding.vfcmpeq : ∀ d a b ty k z sl, Encoding.Statement (.vfcmpeq d a b ty k z sl) := by
  intro d a b ty k z sl h w hw
  cases Option.some.inj hw
  refine decode_of (fields_vfp (fOp_rrr ..) ?_) h
  rw [decodeVfp, fFn8_rrr]
  exact fpCmp_ok ..

theorem Encoding.vfcmplt : ∀ d a b ty k z sl, Encoding.Statement (.vfcmplt d a b ty k z sl) := by
  intro d a b ty k z sl h w hw
  cases Option.some.inj hw
  refine decode_of (fields_vfp (fOp_rrr ..) ?_) h
  rw [decodeVfp, fFn8_rrr]
  exact fpCmp_ok ..

theorem Encoding.vfcmple : ∀ d a b ty k z sl, Encoding.Statement (.vfcmple d a b ty k z sl) := by
  intro d a b ty k z sl h w hw
  cases Option.some.inj hw
  refine decode_of (fields_vfp (fOp_rrr ..) ?_) h
  rw [decodeVfp, fFn8_rrr]
  exact fpCmp_ok ..

theorem Encoding.vfcmpun : ∀ d a b ty k z sl, Encoding.Statement (.vfcmpun d a b ty k z sl) := by
  intro d a b ty k z sl h w hw
  cases Option.some.inj hw
  refine decode_of (fields_vfp (fOp_rrr ..) ?_) h
  rw [decodeVfp, fFn8_rrr]
  exact fpCmp_ok ..

theorem Encoding.vsplat : ∀ d a ty k z, Encoding.Statement (.vsplat d a ty k z) := by
  intro d a ty k z h w hw
  cases Option.some.inj hw
  refine decode_of (fields_vperm (fOp_rrr ..) ?_) h
  rw [decodeVperm, fFn8_rrr]
  exact vDA_ok ..

theorem Encoding.vextr : ∀ d a src ty, Encoding.Statement (.vextr d a src ty) := by
  intro d a src ty h w hw
  cases Option.some.inj hw
  refine decode_of (fields_vperm (fOp_rrr ..) ?_) h
  rw [decodeVperm, fFn8_rrr]
  exact vPick_ok ..

theorem Encoding.vinsr : ∀ d a src ty, Encoding.Statement (.vinsr d a src ty) := by
  intro d a src ty h w hw
  cases Option.some.inj hw
  refine decode_of (fields_vperm (fOp_rrr ..) ?_) h
  rw [decodeVperm, fFn8_rrr]
  exact vPick_ok ..

theorem Encoding.vperm : ∀ d a b ty k z, Encoding.Statement (.vperm d a b ty k z) := by
  intro d a b ty k z h w hw
  cases Option.some.inj hw
  refine decode_of (fields_vperm (fOp_rrr ..) ?_) h
  rw [decodeVperm, fFn8_rrr]
  exact vDAB_ok ..

theorem Encoding.vperm2 : ∀ d a b c ty k z, Encoding.Statement (.vperm2 d a b c ty k z) := by
  intro d a b c ty k z h w hw
  cases Option.some.inj hw
  refine decode_of (fields_vperm (fOp_rrr ..) ?_) h
  rw [decodeVperm, fFn8_rrr]
  exact vDABC_ok ..

theorem Encoding.vrot : ∀ d a src ty k z, Encoding.Statement (.vrot d a src ty k z) := by
  intro d a src ty k z h w hw
  cases Option.some.inj hw
  refine decode_of (fields_vperm (fOp_rrr ..) ?_) h
  rw [decodeVperm, fFn8_rrr]
  exact vShift_ok ..

theorem Encoding.vcompr : ∀ d a ty k z, Encoding.Statement (.vcompr d a ty k z) := by
  intro d a ty k z h w hw
  cases Option.some.inj hw
  refine decode_of (fields_vperm (fOp_rrr ..) ?_) h
  rw [decodeVperm, fFn8_rrr]
  exact vDA_ok ..

theorem Encoding.vexpnd : ∀ d a ty k z, Encoding.Statement (.vexpnd d a ty k z) := by
  intro d a ty k z h w hw
  cases Option.some.inj hw
  refine decode_of (fields_vperm (fOp_rrr ..) ?_) h
  rw [decodeVperm, fFn8_rrr]
  exact vDA_ok ..

theorem Encoding.viota : ∀ d ty k, Encoding.Statement (.viota d ty k) := by
  intro d ty k h w hw
  cases Option.some.inj hw
  refine decode_of (fields_vperm (fOp_rrr ..) ?_) h
  rw [decodeVperm, fFn8_rrr]
  simp (disch := decide) only [fD_rrr, fA_rrr, fB_rrr, fC_rrr, fTy_rrr, fK_rrr, fM_rrr, extract_hi, extract_lo, extract_all, bit_hi, bit_lo, bit_bool, Nat.reduceSub, mZ]
  simp [req]

theorem Encoding.vredadd : ∀ d a ty k, Encoding.Statement (.vredadd d a ty k) := by
  intro d a ty k h w hw
  cases Option.some.inj hw
  refine decode_of (fields_vperm (fOp_rrr ..) ?_) h
  rw [decodeVperm, fFn8_rrr]
  exact vRed_ok ..

theorem Encoding.vredmin : ∀ d a ty k, Encoding.Statement (.vredmin d a ty k) := by
  intro d a ty k h w hw
  cases Option.some.inj hw
  refine decode_of (fields_vperm (fOp_rrr ..) ?_) h
  rw [decodeVperm, fFn8_rrr]
  exact vRed_ok ..

theorem Encoding.vredmax : ∀ d a ty k, Encoding.Statement (.vredmax d a ty k) := by
  intro d a ty k h w hw
  cases Option.some.inj hw
  refine decode_of (fields_vperm (fOp_rrr ..) ?_) h
  rw [decodeVperm, fFn8_rrr]
  exact vRed_ok ..

theorem Encoding.vfredadd : ∀ d a ty k, Encoding.Statement (.vfredadd d a ty k) := by
  intro d a ty k h w hw
  cases Option.some.inj hw
  refine decode_of (fields_vperm (fOp_rrr ..) ?_) h
  rw [decodeVperm, fFn8_rrr]
  exact vRed_ok ..

theorem Encoding.vfredmax : ∀ d a ty k, Encoding.Statement (.vfredmax d a ty k) := by
  intro d a ty k h w hw
  cases Option.some.inj hw
  refine decode_of (fields_vperm (fOp_rrr ..) ?_) h
  rw [decodeVperm, fFn8_rrr]
  exact vRed_ok ..

theorem Encoding.vfredmin : ∀ d a ty k, Encoding.Statement (.vfredmin d a ty k) := by
  intro d a ty k h w hw
  cases Option.some.inj hw
  refine decode_of (fields_vperm (fOp_rrr ..) ?_) h
  rw [decodeVperm, fFn8_rrr]
  exact vRed_ok ..

theorem Encoding.kand : ∀ d a b, Encoding.Statement (.kand d a b) := by
  intro d a b h w hw
  cases Option.some.inj hw
  refine decode_of (fields_vperm (fOp_rrr ..) ?_) h
  rw [decodeVperm, fFn8_rrr]
  exact kDAB_ok ..

theorem Encoding.kor : ∀ d a b, Encoding.Statement (.kor d a b) := by
  intro d a b h w hw
  cases Option.some.inj hw
  refine decode_of (fields_vperm (fOp_rrr ..) ?_) h
  rw [decodeVperm, fFn8_rrr]
  exact kDAB_ok ..

theorem Encoding.kxor : ∀ d a b, Encoding.Statement (.kxor d a b) := by
  intro d a b h w hw
  cases Option.some.inj hw
  refine decode_of (fields_vperm (fOp_rrr ..) ?_) h
  rw [decodeVperm, fFn8_rrr]
  exact kDAB_ok ..

theorem Encoding.knot : ∀ d a, Encoding.Statement (.knot d a) := by
  intro d a h w hw
  cases Option.some.inj hw
  refine decode_of (fields_vperm (fOp_rrr ..) ?_) h
  rw [decodeVperm, fFn8_rrr]
  simp (disch := decide) only [fD_rrr, fA_rrr, fB_rrr, fC_rrr, fTy_rrr, fK_rrr, fM_rrr, extract_hi, extract_lo, extract_all, bit_hi, bit_lo, bit_bool, Nat.reduceSub, zMask, zCKM]
  simp [req]

theorem Encoding.kpop : ∀ d a, Encoding.Statement (.kpop d a) := by
  intro d a h w hw
  cases Option.some.inj hw
  refine decode_of (fields_vperm (fOp_rrr ..) ?_) h
  rw [decodeVperm, fFn8_rrr]
  simp (disch := decide) only [fD_rrr, fA_rrr, fB_rrr, fC_rrr, fTy_rrr, fK_rrr, fM_rrr, extract_hi, extract_lo, extract_all, bit_hi, bit_lo, bit_bool, Nat.reduceSub, zMask, zCKM]
  simp [req]

theorem Encoding.kfirst : ∀ d a, Encoding.Statement (.kfirst d a) := by
  intro d a h w hw
  cases Option.some.inj hw
  refine decode_of (fields_vperm (fOp_rrr ..) ?_) h
  rw [decodeVperm, fFn8_rrr]
  simp (disch := decide) only [fD_rrr, fA_rrr, fB_rrr, fC_rrr, fTy_rrr, fK_rrr, fM_rrr, extract_hi, extract_lo, extract_all, bit_hi, bit_lo, bit_bool, Nat.reduceSub, zMask, zCKM]
  simp [req]

theorem Encoding.kmov : ∀ d a, Encoding.Statement (.kmov d a) := by
  intro d a h w hw
  cases Option.some.inj hw
  refine decode_of (fields_vperm (fOp_rrr ..) ?_) h
  rw [decodeVperm, fFn8_rrr]
  simp (disch := decide) only [fD_rrr, fA_rrr, fB_rrr, fC_rrr, fTy_rrr, fK_rrr, fM_rrr, extract_hi, extract_lo, extract_all, bit_hi, bit_lo, bit_bool, Nat.reduceSub, zMask, zCKM]
  simp [req]

theorem Encoding.kmovg : ∀ d a, Encoding.Statement (.kmovg d a) := by
  intro d a h w hw
  cases Option.some.inj hw
  refine decode_of (fields_vperm (fOp_rrr ..) ?_) h
  rw [decodeVperm, fFn8_rrr]
  simp (disch := decide) only [fD_rrr, fA_rrr, fB_rrr, fC_rrr, fTy_rrr, fK_rrr, fM_rrr, extract_hi, extract_lo, extract_all, bit_hi, bit_lo, bit_bool, Nat.reduceSub, zMask, zCKM]
  simp [req]

theorem Encoding.ldw : ∀ d base seg off v, Encoding.Statement (.ldw d base seg off v) := by
  intro d base seg off v h w hw
  cases Option.some.inj hw
  refine decode_of (fields_sync (fOp_mfmt ..) ?_) h
  rw [decodeSync, fFn6_mfmt]
  cases v <;> simp [syncForm, req]

theorem Encoding.ldc : ∀ d base seg off v, Encoding.Statement (.ldc d base seg off v) := by
  intro d base seg off v h w hw
  cases Option.some.inj hw
  refine decode_of (fields_sync (fOp_mfmt ..) ?_) h
  rw [decodeSync, fFn6_mfmt]
  cases v <;> simp [syncForm, req]

theorem Encoding.stf : ∀ d base seg off v, Encoding.Statement (.stf d base seg off v) := by
  intro d base seg off v h w hw
  cases Option.some.inj hw
  refine decode_of (fields_sync (fOp_mfmt ..) ?_) h
  rw [decodeSync, fFn6_mfmt]
  cases v <;> simp [syncForm, req]

theorem Encoding.ste : ∀ d base seg off v, Encoding.Statement (.ste d base seg off v) := by
  intro d base seg off v h w hw
  cases Option.some.inj hw
  refine decode_of (fields_sync (fOp_mfmt ..) ?_) h
  rw [decodeSync, fFn6_mfmt]
  cases v <;> simp [syncForm, req]

theorem Encoding.feset : ∀ d base seg off v, Encoding.Statement (.feset d base seg off v) := by
  intro d base seg off v h w hw
  cases Option.some.inj hw
  refine decode_of (fields_sync (fOp_mfmt ..) ?_) h
  rw [decodeSync, fFn6_mfmt]
  cases v <;> simp [syncForm, req]

theorem Encoding.feget : ∀ d base seg off v, Encoding.Statement (.feget d base seg off v) := by
  intro d base seg off v h w hw
  cases Option.some.inj hw
  refine decode_of (fields_sync (fOp_mfmt ..) ?_) h
  rw [decodeSync, fFn6_mfmt]
  cases v <;> simp [syncForm, req]

theorem Encoding.waitv : ∀ d base seg off v, Encoding.Statement (.waitv d base seg off v) := by
  intro d base seg off v h w hw
  cases Option.some.inj hw
  refine decode_of (fields_sync (fOp_mfmt ..) ?_) h
  rw [decodeSync, fFn6_mfmt]
  cases v <;> simp [syncForm, req]

theorem Encoding.aadd : ∀ d base seg off dbl, Encoding.Statement (.aadd d base seg off dbl) := by
  intro d base seg off dbl h w hw
  cases Option.some.inj hw
  refine decode_of (fields_atom (fOp_mfmt ..) ?_) h
  rw [decodeAtom, fFn6_mfmt]
  cases dbl <;> simp [atomForm, req]

theorem Encoding.aand : ∀ d base seg off dbl, Encoding.Statement (.aand d base seg off dbl) := by
  intro d base seg off dbl h w hw
  cases Option.some.inj hw
  refine decode_of (fields_atom (fOp_mfmt ..) ?_) h
  rw [decodeAtom, fFn6_mfmt]
  cases dbl <;> simp [atomForm, req]

theorem Encoding.aor : ∀ d base seg off dbl, Encoding.Statement (.aor d base seg off dbl) := by
  intro d base seg off dbl h w hw
  cases Option.some.inj hw
  refine decode_of (fields_atom (fOp_mfmt ..) ?_) h
  rw [decodeAtom, fFn6_mfmt]
  cases dbl <;> simp [atomForm, req]

theorem Encoding.axor : ∀ d base seg off dbl, Encoding.Statement (.axor d base seg off dbl) := by
  intro d base seg off dbl h w hw
  cases Option.some.inj hw
  refine decode_of (fields_atom (fOp_mfmt ..) ?_) h
  rw [decodeAtom, fFn6_mfmt]
  cases dbl <;> simp [atomForm, req]

theorem Encoding.amin : ∀ d base seg off dbl, Encoding.Statement (.amin d base seg off dbl) := by
  intro d base seg off dbl h w hw
  cases Option.some.inj hw
  refine decode_of (fields_atom (fOp_mfmt ..) ?_) h
  rw [decodeAtom, fFn6_mfmt]
  cases dbl <;> simp [atomForm, req]

theorem Encoding.amax : ∀ d base seg off dbl, Encoding.Statement (.amax d base seg off dbl) := by
  intro d base seg off dbl h w hw
  cases Option.some.inj hw
  refine decode_of (fields_atom (fOp_mfmt ..) ?_) h
  rw [decodeAtom, fFn6_mfmt]
  cases dbl <;> simp [atomForm, req]

theorem Encoding.aminn : ∀ d base seg off dbl, Encoding.Statement (.aminn d base seg off dbl) := by
  intro d base seg off dbl h w hw
  cases Option.some.inj hw
  refine decode_of (fields_atom (fOp_mfmt ..) ?_) h
  rw [decodeAtom, fFn6_mfmt]
  cases dbl <;> simp [atomForm, req]

theorem Encoding.amaxn : ∀ d base seg off dbl, Encoding.Statement (.amaxn d base seg off dbl) := by
  intro d base seg off dbl h w hw
  cases Option.some.inj hw
  refine decode_of (fields_atom (fOp_mfmt ..) ?_) h
  rw [decodeAtom, fFn6_mfmt]
  cases dbl <;> simp [atomForm, req]

theorem Encoding.aswp : ∀ d base seg off dbl, Encoding.Statement (.aswp d base seg off dbl) := by
  intro d base seg off dbl h w hw
  cases Option.some.inj hw
  refine decode_of (fields_atom (fOp_mfmt ..) ?_) h
  rw [decodeAtom, fFn6_mfmt]
  cases dbl <;> simp [atomForm, req]

theorem Encoding.acas : ∀ d base new seg off dbl, Encoding.Statement (.acas d base new seg off dbl) := by
  intro d base new seg off dbl h w hw
  cases Option.some.inj hw
  refine decode_of (fields_atom (fOp_mfmt ..) ?_) h
  rw [decodeAtom, fFn6_mfmt]
  simp (disch := decide) only [fD6_mfmt, fA6_mfmt, fSeg_mfmt, fRel_mfmt, mfmtLow, extract_hi, extract_lo, extract_all, Nat.reduceSub]
  cases dbl <;> simp [req]

theorem Encoding.afadd : ∀ d base seg off dbl, Encoding.Statement (.afadd d base seg off dbl) := by
  intro d base seg off dbl h w hw
  cases Option.some.inj hw
  refine decode_of (fields_atom (fOp_mfmt ..) ?_) h
  rw [decodeAtom, fFn6_mfmt]
  cases dbl <;> simp [atomForm, req]

theorem Encoding.gld : ∀ g, Encoding.Statement (.gld g) := by
  intro g h w hw
  cases Option.some.inj hw
  refine decode_of (fields_gather (fOp_gfmt ..) ?_) h
  rw [decodeGather, fFn6_gfmt]
  rw [gfmtEw]; simp

theorem Encoding.gst : ∀ g, Encoding.Statement (.gst g) := by
  intro g h w hw
  cases Option.some.inj hw
  refine decode_of (fields_gather (fOp_gfmt ..) ?_) h
  rw [decodeGather, fFn6_gfmt]
  rw [gfmtEw]; simp

theorem Encoding.gadd : ∀ g, Encoding.Statement (.gadd g) := by
  intro g h w hw
  cases Option.some.inj hw
  refine decode_of (fields_gather (fOp_gfmt ..) ?_) h
  rw [decodeGather, fFn6_gfmt]
  rw [gfmtEw]; simp

theorem Encoding.gfadd : ∀ g, Encoding.Statement (.gfadd g) := by
  intro g h w hw
  cases Option.some.inj hw
  refine decode_of (fields_gather (fOp_gfmt ..) ?_) h
  rw [decodeGather, fFn6_gfmt]
  rw [gfmtEw]; simp

theorem Encoding.gldw : ∀ g, Encoding.Statement (.gldw g) := by
  intro g h w hw
  cases Option.some.inj hw
  refine decode_of (fields_gather (fOp_gfmt ..) ?_) h
  rw [decodeGather, fFn6_gfmt]
  rw [gfmtEw]; simp

theorem Encoding.fence : ∀ scope eng, Encoding.Statement (.fence scope eng) := by
  intro scope eng h w hw
  cases Option.some.inj hw
  refine decode_of (fields_fence (fOp_sfmt ..) ?_) h
  rw [decodeFence, fFn8_sfmt]
  simp (disch := decide) only [fD_sfmt, fA_sfmt, fB_sfmt, fImm_sfmt, extract_hi, extract_lo, extract_all, bit_hi, bit_lo, bit_bool, Nat.reduceSub]
  simp [req]

theorem Encoding.split : ∀ axis pt rule, Encoding.Statement (.split axis pt rule) := by
  intro axis pt rule h w hw
  cases Option.some.inj hw
  refine decode_of (fields_rule (fOp_sfmt ..) ?_) h
  rw [decodeRule, fFn8_sfmt]
  simp (disch := decide) only [fD_sfmt, fA_sfmt, fB_sfmt, fImm_sfmt, immSplit, extract_hi, extract_lo, extract_all, bit_hi, bit_lo, bit_bool, Nat.reduceSub]
  cases pt <;> cases rule <;> simp [req]

theorem Encoding.jdone : ∀ src, Encoding.Statement (.jdone src) := by
  intro src h w hw
  cases Option.some.inj hw
  refine decode_of (fields_rule (fOp_sfmt ..) ?_) h
  rw [decodeRule, fFn8_sfmt]
  simp (disch := decide) only [fD_sfmt, fA_sfmt, fB_sfmt, fImm_sfmt, extract_hi, extract_lo, extract_all, bit_hi, bit_lo, bit_bool, Nat.reduceSub]
  cases src <;> simp [req]

theorem Encoding.stamp : ∀ a b, Encoding.Statement (.stamp a b) := by
  intro a b h w hw
  cases Option.some.inj hw
  refine decode_of (fields_rule (fOp_sfmt ..) ?_) h
  rw [decodeRule, fFn8_sfmt]
  simp (disch := decide) only [fD_sfmt, fA_sfmt, fB_sfmt, fImm_sfmt, extract_hi, extract_lo, extract_all, bit_hi, bit_lo, bit_bool, Nat.reduceSub]
  simp [req]

theorem Encoding.boxrd : ∀ d up, Encoding.Statement (.boxrd d up) := by
  intro d up h w hw
  cases Option.some.inj hw
  refine decode_of (fields_rule (fOp_sfmt ..) ?_) h
  rw [decodeRule, fFn8_sfmt]
  simp (disch := decide) only [fD_sfmt, fA_sfmt, fB_sfmt, fImm_sfmt, extract_hi, extract_lo, extract_all, bit_hi, bit_lo, bit_bool, Nat.reduceSub]
  simp [req]

theorem Encoding.budrd : ∀ d sel, Encoding.Statement (.budrd d sel) := by
  intro d sel h w hw
  cases Option.some.inj hw
  refine decode_of (fields_rule (fOp_sfmt ..) ?_) h
  rw [decodeRule, fFn8_sfmt]
  simp (disch := decide) only [fD_sfmt, fA_sfmt, fB_sfmt, fImm_sfmt, extract_hi, extract_lo, extract_all, bit_hi, bit_lo, bit_bool, Nat.reduceSub]
  simp [req]

theorem Encoding.launch : ∀ d a seg, Encoding.Statement (.launch d a seg) := by
  intro d a seg h w hw
  cases Option.some.inj hw
  refine decode_of (fields_rule (fOp_sfmt ..) ?_) h
  rw [decodeRule, fFn8_sfmt]
  simp (disch := decide) only [fD_sfmt, fA_sfmt, fB_sfmt, fImm_sfmt, extract_hi, extract_lo, extract_all, bit_hi, bit_lo, bit_bool, Nat.reduceSub]
  simp [req]

theorem Encoding.rgnq : ∀ d a sel, Encoding.Statement (.rgnq d a sel) := by
  intro d a sel h w hw
  cases Option.some.inj hw
  refine decode_of (fields_rule (fOp_sfmt ..) ?_) h
  rw [decodeRule, fFn8_sfmt]
  simp (disch := decide) only [fD_sfmt, fA_sfmt, fB_sfmt, fImm_sfmt, extract_hi, extract_lo, extract_all, bit_hi, bit_lo, bit_bool, Nat.reduceSub]
  simp [req]

theorem Encoding.send : ∀ d a b narrow count, Encoding.Statement (.send d a b narrow count) := by
  intro d a b narrow count h w hw
  cases Option.some.inj hw
  refine decode_of (fields_msg (fOp_sfmt ..) ?_) h
  rw [decodeMsg, fFn8_sfmt]
  simp (disch := decide) only [fD_sfmt, fA_sfmt, fB_sfmt, fImm_sfmt, extract_hi, extract_lo, extract_all, bit_hi, bit_lo, bit_bool, Nat.reduceSub]
  simp [req]

theorem Encoding.sendr : ∀ a reg slot prev, Encoding.Statement (.sendr a reg slot prev) := by
  intro a reg slot prev h w hw
  cases Option.some.inj hw
  refine decode_of (fields_msg (fOp_sfmt ..) ?_) h
  rw [decodeMsg, fFn8_sfmt]
  simp (disch := decide) only [fD_sfmt, fA_sfmt, fB_sfmt, fImm_sfmt, extract_hi, extract_lo, extract_all, bit_hi, bit_lo, bit_bool, Nat.reduceSub]
  simp [req]

theorem Encoding.chset : ∀ d a bits, Encoding.Statement (.chset d a bits) := by
  intro d a bits h w hw
  cases Option.some.inj hw
  refine decode_of (fields_msg (fOp_sfmt ..) ?_) h
  rw [decodeMsg, fFn8_sfmt]
  simp (disch := decide) only [fD_sfmt, fA_sfmt, fB_sfmt, fImm_sfmt, extract_hi, extract_lo, extract_all, bit_hi, bit_lo, bit_bool, Nat.reduceSub]
  simp [req]

theorem Encoding.chget : ∀ d a, Encoding.Statement (.chget d a) := by
  intro d a h w hw
  cases Option.some.inj hw
  refine decode_of (fields_msg (fOp_sfmt ..) ?_) h
  rw [decodeMsg, fFn8_sfmt]
  simp (disch := decide) only [fD_sfmt, fA_sfmt, fB_sfmt, fImm_sfmt, extract_hi, extract_lo, extract_all, bit_hi, bit_lo, bit_bool, Nat.reduceSub]
  simp [req]

theorem Encoding.migrate : ∀ d a b, Encoding.Statement (.migrate d a b) := by
  intro d a b h w hw
  cases Option.some.inj hw
  refine decode_of (fields_msg (fOp_sfmt ..) ?_) h
  rw [decodeMsg, fFn8_sfmt]
  simp (disch := decide) only [fD_sfmt, fA_sfmt, fB_sfmt, fImm_sfmt, extract_hi, extract_lo, extract_all, bit_hi, bit_lo, bit_bool, Nat.reduceSub]
  simp [req]

theorem Encoding.syscall : ∀ d a count svc, Encoding.Statement (.syscall d a count svc) := by
  intro d a count svc h w hw
  cases Option.some.inj hw
  refine decode_of (fields_msg (fOp_sfmt ..) ?_) h
  rw [decodeMsg, fFn8_sfmt]
  simp (disch := decide) only [fD_sfmt, fA_sfmt, fB_sfmt, fImm_sfmt, extract_hi, extract_lo, extract_all, bit_hi, bit_lo, bit_bool, Nat.reduceSub]
  simp [req]

theorem Encoding.mma : ∀ tile a lat edge aux rel bnd rank skip, Encoding.Statement (.mma tile a lat edge aux rel bnd rank skip) := by
  intro tile a lat edge aux rel bnd rank skip h w hw
  cases Option.some.inj hw
  refine decode_of (fields_matrix (fOp_efmt ..) ?_) h
  rw [decodeMatrix, fFn8_efmt]
  simp (disch := decide) only [fTile_efmt, fEA_efmt, fEB_efmt, fEC_efmt, fLat_efmt, fFlg_efmt, extract_hi, extract_lo, extract_all, bit_hi, bit_lo, bit_bool, Nat.reduceSub]
  cases edge <;> cases aux <;> simp [req]

theorem Encoding.bload : ∀ lat m, Encoding.Statement (.bload lat m) := by
  intro lat m h w hw
  cases Option.some.inj hw
  refine decode_of (fields_matrix (fOp_efmt ..) ?_) h
  rw [decodeMatrix, fFn8_efmt]
  simp only [fTile_efmt, fEA_efmt, fEB_efmt, fEC_efmt, fLat_efmt, fFlg_efmt, mop_efmt, flgMem_mid]
  simp [req]

theorem Encoding.brot : ∀ lat dl, Encoding.Statement (.brot lat dl) := by
  intro lat dl h w hw
  cases Option.some.inj hw
  refine decode_of (fields_matrix (fOp_efmt ..) ?_) h
  rw [decodeMatrix, fFn8_efmt]
  simp (disch := decide) only [fTile_efmt, fEA_efmt, fEB_efmt, fEC_efmt, fLat_efmt, fFlg_efmt, extract_hi, extract_lo, extract_all, bit_hi, bit_lo, bit_bool, Nat.reduceSub]
  simp [req]

theorem Encoding.brel : ∀ lat, Encoding.Statement (.brel lat) := by
  intro lat h w hw
  cases Option.some.inj hw
  refine decode_of (fields_matrix (fOp_efmt ..) ?_) h
  rw [decodeMatrix, fFn8_efmt]
  simp (disch := decide) only [fTile_efmt, fEA_efmt, fEB_efmt, fEC_efmt, fLat_efmt, fFlg_efmt, extract_hi, extract_lo, extract_all, bit_hi, bit_lo, bit_bool, Nat.reduceSub]
  simp [req]

theorem Encoding.mcommit : ∀ a, Encoding.Statement (.mcommit a) := by
  intro a h w hw
  cases Option.some.inj hw
  refine decode_of (fields_matrix (fOp_efmt ..) ?_) h
  rw [decodeMatrix, fFn8_efmt]
  simp (disch := decide) only [fTile_efmt, fEA_efmt, fEB_efmt, fEC_efmt, fLat_efmt, fFlg_efmt, extract_hi, extract_lo, extract_all, bit_hi, bit_lo, bit_bool, Nat.reduceSub]
  simp [req]

theorem Encoding.mwait : ∀ n, Encoding.Statement (.mwait n) := by
  intro n h w hw
  cases Option.some.inj hw
  refine decode_of (fields_matrix (fOp_efmt ..) ?_) h
  rw [decodeMatrix, fFn8_efmt]
  simp (disch := decide) only [fTile_efmt, fEA_efmt, fEB_efmt, fEC_efmt, fLat_efmt, fFlg_efmt, extract_hi, extract_lo, extract_all, bit_hi, bit_lo, bit_bool, Nat.reduceSub]
  simp [req]

theorem Encoding.mzero : ∀ tile, Encoding.Statement (.mzero tile) := by
  intro tile h w hw
  cases Option.some.inj hw
  refine decode_of (fields_matrix (fOp_efmt ..) ?_) h
  rw [decodeMatrix, fFn8_efmt]
  simp (disch := decide) only [fTile_efmt, fEA_efmt, fEB_efmt, fEC_efmt, fLat_efmt, fFlg_efmt, extract_hi, extract_lo, extract_all, bit_hi, bit_lo, bit_bool, Nat.reduceSub]
  simp [req]

theorem Encoding.mfill : ∀ tile m, Encoding.Statement (.mfill tile m) := by
  intro tile m h w hw
  cases Option.some.inj hw
  refine decode_of (fields_matrix (fOp_efmt ..) ?_) h
  rw [decodeMatrix, fFn8_efmt]
  simp only [fTile_efmt, fEA_efmt, fEB_efmt, fEC_efmt, fLat_efmt, fFlg_efmt, mop_efmt, flgMem_mid]
  simp [req]

theorem Encoding.mdrain : ∀ tile m, Encoding.Statement (.mdrain tile m) := by
  intro tile m h w hw
  cases Option.some.inj hw
  refine decode_of (fields_matrix (fOp_efmt ..) ?_) h
  rw [decodeMatrix, fFn8_efmt]
  simp only [fTile_efmt, fEA_efmt, fEB_efmt, fEC_efmt, fLat_efmt, fFlg_efmt, mop_efmt, flgMem_mid]
  simp [req]

theorem Encoding.qrow : ∀ b c m, Encoding.Statement (.qrow b c m) := by
  intro b c m h w hw
  cases Option.some.inj hw
  refine decode_of (fields_matrix (fOp_efmt ..) ?_) h
  rw [decodeMatrix, fFn8_efmt]
  simp only [fTile_efmt, fEA_efmt, fEB_efmt, fEC_efmt, fLat_efmt, fFlg_efmt, mop_efmt, flgMem_mid]
  simp [req]

theorem Encoding.rlset : ∀ tile log2k col i32, Encoding.Statement (.rlset tile log2k col i32) := by
  intro tile log2k col i32 h w hw
  cases Option.some.inj hw
  refine decode_of (fields_rank (fOp_efmt ..) ?_) h
  rw [decodeRank, fFn8_efmt]
  simp (disch := decide) only [fTile_efmt, fEA_efmt, fEB_efmt, fEC_efmt, fLat_efmt, fFlg_efmt, extract_hi, extract_lo, extract_all, bit_hi, bit_lo, bit_bool, Nat.reduceSub]
  simp [req]

theorem Encoding.rlins : ∀ tile a b list k, Encoding.Statement (.rlins tile a b list k) := by
  intro tile a b list k h w hw
  cases Option.some.inj hw
  refine decode_of (fields_rank (fOp_efmt ..) ?_) h
  rw [decodeRank, fFn8_efmt]
  simp (disch := decide) only [fTile_efmt, fEA_efmt, fEB_efmt, fEC_efmt, fLat_efmt, fFlg_efmt, extract_hi, extract_lo, extract_all, bit_hi, bit_lo, bit_bool, Nat.reduceSub]
  simp [req]

theorem Encoding.rlmergeTile : ∀ tile src, Encoding.Statement (.rlmergeTile tile src) := by
  intro tile src h w hw
  cases Option.some.inj hw
  refine decode_of (fields_rank (fOp_efmt ..) ?_) h
  rw [decodeRank, fFn8_efmt]
  simp (disch := decide) only [fTile_efmt, fEA_efmt, fEB_efmt, fEC_efmt, fLat_efmt, fFlg_efmt, extract_hi, extract_lo, extract_all, bit_hi, bit_lo, bit_bool, Nat.reduceSub]
  simp [req]

theorem Encoding.rlmergeImage : ∀ tile m, Encoding.Statement (.rlmergeImage tile m) := by
  intro tile m h w hw
  cases Option.some.inj hw
  refine decode_of (fields_rank (fOp_efmt ..) ?_) h
  rw [decodeRank, fFn8_efmt]
  simp (disch := decide) only [fTile_efmt, fEA_efmt, fEB_efmt, fEC_efmt, fLat_efmt, fFlg_efmt, mop_efmt, flgMem_bit, flgMem_mid2, Nat.reduceSub]
  simp [req]

theorem Encoding.rlthr : ∀ a tile list, Encoding.Statement (.rlthr a tile list) := by
  intro a tile list h w hw
  cases Option.some.inj hw
  refine decode_of (fields_rank (fOp_efmt ..) ?_) h
  rw [decodeRank, fFn8_efmt]
  simp (disch := decide) only [fTile_efmt, fEA_efmt, fEB_efmt, fEC_efmt, fLat_efmt, fFlg_efmt, extract_hi, extract_lo, extract_all, bit_hi, bit_lo, bit_bool, Nat.reduceSub]
  simp [req]

theorem Encoding.rldrain : ∀ tile m, Encoding.Statement (.rldrain tile m) := by
  intro tile m h w hw
  cases Option.some.inj hw
  refine decode_of (fields_rank (fOp_efmt ..) ?_) h
  rw [decodeRank, fFn8_efmt]
  simp only [fTile_efmt, fEA_efmt, fEB_efmt, fEC_efmt, fLat_efmt, fFlg_efmt, mop_efmt, flgMem_mid]
  simp [req]

theorem Encoding.rlclr : ∀ tile, Encoding.Statement (.rlclr tile) := by
  intro tile h w hw
  cases Option.some.inj hw
  refine decode_of (fields_rank (fOp_efmt ..) ?_) h
  rw [decodeRank, fFn8_efmt]
  simp (disch := decide) only [fTile_efmt, fEA_efmt, fEB_efmt, fEC_efmt, fLat_efmt, fFlg_efmt, extract_hi, extract_lo, extract_all, bit_hi, bit_lo, bit_bool, Nat.reduceSub]
  simp [req]

theorem Encoding.copy : ∀ f, Encoding.Statement (.copy f) := by
  intro f h w hw
  have hw' : eCopy 0x00 f = some w := hw
  obtain ⟨a, segD, b, segS, c, bar, bnd, mode, ch⟩ := f
  cases bar with
  | none =>
    simp only [eCopy, Option.some.injEq] at hw'
    subst hw'
    refine decode_of (fields_copy (fOp_efmt ..) ?_) h
    rw [decodeCopy, fFn8_efmt]
    simp (disch := decide) only [copyReserved, copyForm, fTile_efmt, fEA_efmt, fEB_efmt, fEC_efmt, fLat_efmt, fFlg_efmt,
      efmtLow, efmtBit, efmtTop, efmtTile, extract_hi, extract_lo, extract_all, bit_hi, bit_lo, bit_bool,
      Nat.reduceSub]
    simp [req]
  | some x =>
    simp only [eCopy, Option.some.injEq] at hw'
    subst hw'
    refine decode_of (fields_copy (fOp_efmt ..) ?_) h
    rw [decodeCopy, fFn8_efmt]
    simp (disch := decide) only [copyReserved, copyForm, fTile_efmt, fEA_efmt, fEB_efmt, fEC_efmt, fLat_efmt, fFlg_efmt,
      efmtLow, efmtBit, efmtTop, efmtTile, extract_hi, extract_lo, extract_all, bit_hi, bit_lo, bit_bool,
      Nat.reduceSub]
    simp [req]

theorem Encoding.copy2 : ∀ f, Encoding.Statement (.copy2 f) := by
  intro f h w hw
  have hw' : eCopy 0x01 f = some w := hw
  obtain ⟨a, segD, b, segS, c, bar, bnd, mode, ch⟩ := f
  cases bar with
  | none =>
    simp only [eCopy, Option.some.injEq] at hw'
    subst hw'
    refine decode_of (fields_copy (fOp_efmt ..) ?_) h
    rw [decodeCopy, fFn8_efmt]
    simp (disch := decide) only [copyReserved, copyForm, fTile_efmt, fEA_efmt, fEB_efmt, fEC_efmt, fLat_efmt, fFlg_efmt,
      efmtLow, efmtBit, efmtTop, efmtTile, extract_hi, extract_lo, extract_all, bit_hi, bit_lo, bit_bool,
      Nat.reduceSub]
    simp [req]
  | some x =>
    simp only [eCopy, Option.some.injEq] at hw'
    subst hw'
    refine decode_of (fields_copy (fOp_efmt ..) ?_) h
    rw [decodeCopy, fFn8_efmt]
    simp (disch := decide) only [copyReserved, copyForm, fTile_efmt, fEA_efmt, fEB_efmt, fEC_efmt, fLat_efmt, fFlg_efmt,
      efmtLow, efmtBit, efmtTop, efmtTile, extract_hi, extract_lo, extract_all, bit_hi, bit_lo, bit_bool,
      Nat.reduceSub]
    simp [req]

theorem Encoding.cwait : ∀ ch, Encoding.Statement (.cwait ch) := by
  intro ch h w hw
  cases Option.some.inj hw
  refine decode_of (fields_copy (fOp_efmt ..) ?_) h
  rw [decodeCopy, fFn8_efmt]
  simp (disch := decide) only [fTile_efmt, fEA_efmt, fEB_efmt, fEC_efmt, fLat_efmt, fFlg_efmt, extract_hi, extract_lo, extract_all, bit_hi, bit_lo, bit_bool, Nat.reduceSub]
  simp [req]

theorem Encoding.cwaitPtr : ∀ ch a, Encoding.Statement (.cwaitPtr ch a) := by
  intro ch a h w hw
  cases Option.some.inj hw
  refine decode_of (fields_copy (fOp_efmt ..) ?_) h
  rw [decodeCopy, fFn8_efmt]
  simp (disch := decide) only [fTile_efmt, fEA_efmt, fEB_efmt, fEC_efmt, fLat_efmt, fFlg_efmt, extract_hi, extract_lo, extract_all, bit_hi, bit_lo, bit_bool, Nat.reduceSub]
  simp [req]

theorem Encoding.barinit : ∀ b m, Encoding.Statement (.barinit b m) := by
  intro b m h w hw
  cases Option.some.inj hw
  refine decode_of (fields_copy (fOp_efmt ..) ?_) h
  rw [decodeCopy, fFn8_efmt]
  simp only [fTile_efmt, fEA_efmt, fEB_efmt, fEC_efmt, fLat_efmt, fFlg_efmt, mop_efmt, flgMem_mid]
  simp [req]

theorem Encoding.bararr : ∀ c m, Encoding.Statement (.bararr c m) := by
  intro c m h w hw
  cases Option.some.inj hw
  refine decode_of (fields_copy (fOp_efmt ..) ?_) h
  rw [decodeCopy, fFn8_efmt]
  simp (disch := decide) only [fTile_efmt, fEA_efmt, fEB_efmt, fEC_efmt, fLat_efmt, fFlg_efmt, mop_efmt, flgMem_bit, bit_hi, bit_lo, bit_bool, Nat.reduceSub]
  simp [req]

theorem Encoding.bararrCount : ∀ b c out m, Encoding.Statement (.bararrCount b c out m) := by
  intro b c out m h w hw
  cases Option.some.inj hw
  refine decode_of (fields_copy (fOp_efmt ..) ?_) h
  rw [decodeCopy, fFn8_efmt]
  simp (disch := decide) only [fTile_efmt, fEA_efmt, fEB_efmt, fEC_efmt, fLat_efmt, fFlg_efmt, mop_efmt, flgMem_bit, bit_hi, bit_lo, bit_bool, Nat.reduceSub]
  simp [req]

theorem Encoding.barwait : ∀ b m, Encoding.Statement (.barwait b m) := by
  intro b m h w hw
  cases Option.some.inj hw
  refine decode_of (fields_copy (fOp_efmt ..) ?_) h
  rw [decodeCopy, fFn8_efmt]
  simp only [fTile_efmt, fEA_efmt, fEB_efmt, fEC_efmt, fLat_efmt, fFlg_efmt, mop_efmt, flgMem_mid]
  simp [req]

theorem Encoding.cvtn : ∀ d a ty ty2 k rnd satc, Encoding.Statement (.cvtn d a ty ty2 k rnd satc) := by
  intro d a ty ty2 k rnd satc h w hw
  cases Option.some.inj hw
  refine decode_of (fields_conv (fOp_rrr ..) ?_) h
  rw [decodeConv, fFn8_rrr]
  exact cvCvt_ok ..

theorem Encoding.cvtw : ∀ d a ty ty2 k rnd satc, Encoding.Statement (.cvtw d a ty ty2 k rnd satc) := by
  intro d a ty ty2 k rnd satc h w hw
  cases Option.some.inj hw
  refine decode_of (fields_conv (fOp_rrr ..) ?_) h
  rw [decodeConv, fFn8_rrr]
  exact cvCvt_ok ..

theorem Encoding.qmx : ∀ d a ty ty2, Encoding.Statement (.qmx d a ty ty2) := by
  intro d a ty ty2 h w hw
  cases Option.some.inj hw
  refine decode_of (fields_conv (fOp_rrr ..) ?_) h
  rw [decodeConv, fFn8_rrr]
  simp (disch := decide) only [fD_rrr, fA_rrr, fB_rrr, fC_rrr, fTy_rrr, fK_rrr, fM_rrr, extract_hi, extract_lo, extract_all, bit_hi, bit_lo, bit_bool, Nat.reduceSub]
  simp [req]

theorem Encoding.dqmx : ∀ d a ty ty2 rnd satc, Encoding.Statement (.dqmx d a ty ty2 rnd satc) := by
  intro d a ty ty2 rnd satc h w hw
  cases Option.some.inj hw
  refine decode_of (fields_conv (fOp_rrr ..) ?_) h
  rw [decodeConv, fFn8_rrr]
  simp (disch := decide) only [fD_rrr, fA_rrr, fB_rrr, fC_rrr, fTy_rrr, fK_rrr, fM_rrr, extract_hi, extract_lo, extract_all, bit_hi, bit_lo, bit_bool, Nat.reduceSub]
  simp [req]

theorem Encoding.plane : ∀ d a ty, Encoding.Statement (.plane d a ty) := by
  intro d a ty h w hw
  cases Option.some.inj hw
  refine decode_of (fields_conv (fOp_rrr ..) ?_) h
  rw [decodeConv, fFn8_rrr]
  exact intDA_ok ..

theorem Encoding.unplane : ∀ d a ty, Encoding.Statement (.unplane d a ty) := by
  intro d a ty h w hw
  cases Option.some.inj hw
  refine decode_of (fields_conv (fOp_rrr ..) ?_) h
  rw [decodeConv, fFn8_rrr]
  exact intDA_ok ..

theorem Encoding.srd : ∀ d idx b, Encoding.Statement (.srd d idx b) := by
  intro d idx b h w hw
  cases Option.some.inj hw
  refine decode_of (fields_sys (fOp_sfmt ..) ?_) h
  rw [decodeSys, fFn8_sfmt]
  simp (disch := decide) only [fD_sfmt, fA_sfmt, fB_sfmt, fImm_sfmt, extract_hi, extract_lo, extract_all, bit_hi, bit_lo, bit_bool, Nat.reduceSub]
  simp [req]

theorem Encoding.swr : ∀ idx a b, Encoding.Statement (.swr idx a b) := by
  intro idx a b h w hw
  cases Option.some.inj hw
  refine decode_of (fields_sys (fOp_sfmt ..) ?_) h
  rw [decodeSys, fFn8_sfmt]
  simp (disch := decide) only [fD_sfmt, fA_sfmt, fB_sfmt, fImm_sfmt, extract_hi, extract_lo, extract_all, Nat.reduceSub]
  have hh : (selectorOk idx b && !swrOwnRow idx) = true := h
  simp only [Bool.and_eq_true, Bool.not_eq_true'] at hh
  simp [req, hh.1, decodeSwr_other idx a b hh.2]

theorem Encoding.statusWrite : ∀ a, Encoding.Statement (.statusWrite a) := by
  intro a h w hw
  cases Option.some.inj hw
  refine decode_of (fields_sys (fOp_sfmt ..) ?_) h
  rw [decodeSys, fFn8_sfmt]
  simp (disch := decide) only [fD_sfmt, fA_sfmt, fB_sfmt, fImm_sfmt, extract_hi, extract_lo, extract_all, Nat.reduceSub]
  simp [req, selectorOk, decodeSwr]

theorem Encoding.partitionWrite : ∀ a b, Encoding.Statement (.partitionWrite a b) := by
  intro a b h w hw
  cases Option.some.inj hw
  refine decode_of (fields_sys (fOp_sfmt ..) ?_) h
  rw [decodeSys, fFn8_sfmt]
  simp (disch := decide) only [fD_sfmt, fA_sfmt, fB_sfmt, fImm_sfmt, extract_hi, extract_lo, extract_all, Nat.reduceSub]
  simp [req, selectorOk, decodeSwr]

theorem Encoding.atollWrite : ∀ a, Encoding.Statement (.atollWrite a) := by
  intro a h w hw
  cases Option.some.inj hw
  refine decode_of (fields_sys (fOp_sfmt ..) ?_) h
  rw [decodeSys, fFn8_sfmt]
  simp (disch := decide) only [fD_sfmt, fA_sfmt, fB_sfmt, fImm_sfmt, extract_hi, extract_lo, extract_all, Nat.reduceSub]
  simp [req, selectorOk, decodeSwr]

theorem Encoding.channelEntryWrite : ∀ a b, Encoding.Statement (.channelEntryWrite a b) := by
  intro a b h w hw
  cases Option.some.inj hw
  refine decode_of (fields_sys (fOp_sfmt ..) ?_) h
  rw [decodeSys, fFn8_sfmt]
  simp (disch := decide) only [fD_sfmt, fA_sfmt, fB_sfmt, fImm_sfmt, extract_hi, extract_lo, extract_all, Nat.reduceSub]
  simp [req, selectorOk, decodeSwr]

theorem Encoding.scrub : ∀ a b, Encoding.Statement (.scrub a b) := by
  intro a b h w hw
  cases Option.some.inj hw
  refine decode_of (fields_sys (fOp_sfmt ..) ?_) h
  rw [decodeSys, fFn8_sfmt]
  simp (disch := decide) only [fD_sfmt, fA_sfmt, fB_sfmt, fImm_sfmt, extract_hi, extract_lo, extract_all, Nat.reduceSub]
  simp [req, selectorOk, decodeSwr]

theorem Encoding.errlogClear : ∀ a b, Encoding.Statement (.errlogClear a b) := by
  intro a b h w hw
  cases Option.some.inj hw
  refine decode_of (fields_sys (fOp_sfmt ..) ?_) h
  rw [decodeSys, fFn8_sfmt]
  simp (disch := decide) only [fD_sfmt, fA_sfmt, fB_sfmt, fImm_sfmt, extract_hi, extract_lo, extract_all, Nat.reduceSub]
  simp [req, selectorOk, decodeSwr]

theorem Encoding.thrd : ∀ d a item, Encoding.Statement (.thrd d a item) := by
  intro d a item h w hw
  cases Option.some.inj hw
  refine decode_of (fields_sys (fOp_sfmt ..) ?_) h
  rw [decodeSys, fFn8_sfmt]
  simp (disch := decide) only [fD_sfmt, fA_sfmt, fB_sfmt, fImm_sfmt, extract_hi, extract_lo, extract_all, bit_hi, bit_lo, bit_bool, Nat.reduceSub]
  simp [req]

theorem Encoding.thwr : ∀ d a b item, Encoding.Statement (.thwr d a b item) := by
  intro d a b item h w hw
  cases Option.some.inj hw
  refine decode_of (fields_sys (fOp_sfmt ..) ?_) h
  rw [decodeSys, fFn8_sfmt]
  simp (disch := decide) only [fD_sfmt, fA_sfmt, fB_sfmt, fImm_sfmt, extract_hi, extract_lo, extract_all, Nat.reduceSub]
  simp [req, decodeThwr_other d a b item h]

theorem Encoding.discardQueueImage : ∀ d a b, Encoding.Statement (.discardQueueImage d a b) := by
  intro d a b h w hw
  cases Option.some.inj hw
  refine decode_of (fields_sys (fOp_sfmt ..) ?_) h
  rw [decodeSys, fFn8_sfmt]
  simp (disch := decide) only [fD_sfmt, fA_sfmt, fB_sfmt, fImm_sfmt, extract_hi, extract_lo, extract_all, Nat.reduceSub]
  simp [req, decodeThwr]

theorem Encoding.debugHold : ∀ d a b, Encoding.Statement (.debugHold d a b) := by
  intro d a b h w hw
  cases Option.some.inj hw
  refine decode_of (fields_sys (fOp_sfmt ..) ?_) h
  rw [decodeSys, fFn8_sfmt]
  simp (disch := decide) only [fD_sfmt, fA_sfmt, fB_sfmt, fImm_sfmt, extract_hi, extract_lo, extract_all, Nat.reduceSub]
  simp [req, decodeThwr]

theorem Encoding.thres : ∀ d a, Encoding.Statement (.thres d a) := by
  intro d a h w hw
  cases Option.some.inj hw
  refine decode_of (fields_sys (fOp_sfmt ..) ?_) h
  rw [decodeSys, fFn8_sfmt]
  simp (disch := decide) only [fD_sfmt, fA_sfmt, fB_sfmt, fImm_sfmt, extract_hi, extract_lo, extract_all, bit_hi, bit_lo, bit_bool, Nat.reduceSub]
  simp [req]

theorem Encoding.thkill : ∀ d a, Encoding.Statement (.thkill d a) := by
  intro d a h w hw
  cases Option.some.inj hw
  refine decode_of (fields_sys (fOp_sfmt ..) ?_) h
  rw [decodeSys, fFn8_sfmt]
  simp (disch := decide) only [fD_sfmt, fA_sfmt, fB_sfmt, fImm_sfmt, extract_hi, extract_lo, extract_all, bit_hi, bit_lo, bit_bool, Nat.reduceSub]
  simp [req]

theorem Encoding.spill : ∀ d a, Encoding.Statement (.spill d a) := by
  intro d a h w hw
  cases Option.some.inj hw
  refine decode_of (fields_sys (fOp_sfmt ..) ?_) h
  rw [decodeSys, fFn8_sfmt]
  simp (disch := decide) only [fD_sfmt, fA_sfmt, fB_sfmt, fImm_sfmt, extract_hi, extract_lo, extract_all, bit_hi, bit_lo, bit_bool, Nat.reduceSub]
  simp [req]

theorem Encoding.reghold : ∀ d a finish nowait, Encoding.Statement (.reghold d a finish nowait) := by
  intro d a finish nowait h w hw
  cases Option.some.inj hw
  refine decode_of (fields_sys (fOp_sfmt ..) ?_) h
  rw [decodeSys, fFn8_sfmt]
  simp (disch := decide) only [fD_sfmt, fA_sfmt, fB_sfmt, fImm_sfmt, extract_hi, extract_lo, extract_all, bit_hi, bit_lo, bit_bool, Nat.reduceSub]
  simp [req]

theorem Encoding.regrel : ∀ d a, Encoding.Statement (.regrel d a) := by
  intro d a h w hw
  cases Option.some.inj hw
  refine decode_of (fields_sys (fOp_sfmt ..) ?_) h
  rw [decodeSys, fFn8_sfmt]
  simp (disch := decide) only [fD_sfmt, fA_sfmt, fB_sfmt, fImm_sfmt, extract_hi, extract_lo, extract_all, bit_hi, bit_lo, bit_bool, Nat.reduceSub]
  simp [req]

theorem Encoding.rcbrd : ∀ d a, Encoding.Statement (.rcbrd d a) := by
  intro d a h w hw
  cases Option.some.inj hw
  refine decode_of (fields_sys (fOp_sfmt ..) ?_) h
  rw [decodeSys, fFn8_sfmt]
  simp (disch := decide) only [fD_sfmt, fA_sfmt, fB_sfmt, fImm_sfmt, extract_hi, extract_lo, extract_all, bit_hi, bit_lo, bit_bool, Nat.reduceSub]
  simp [req]

theorem Encoding.capq : ∀ d a sel, Encoding.Statement (.capq d a sel) := by
  intro d a sel h w hw
  cases Option.some.inj hw
  refine decode_of (fields_sys (fOp_sfmt ..) ?_) h
  rw [decodeSys, fFn8_sfmt]
  simp (disch := decide) only [fD_sfmt, fA_sfmt, fB_sfmt, fImm_sfmt, extract_hi, extract_lo, extract_all, bit_hi, bit_lo, bit_bool, Nat.reduceSub]
  simp [req]

theorem Encoding.brk : ∀ imm, Encoding.Statement (.brk imm) := by
  intro imm h w hw
  cases Option.some.inj hw
  refine decode_of (fields_sys (fOp_sfmt ..) ?_) h
  rw [decodeSys, fFn8_sfmt]
  simp (disch := decide) only [fD_sfmt, fA_sfmt, fB_sfmt, fImm_sfmt, extract_hi, extract_lo, extract_all, bit_hi, bit_lo, bit_bool, Nat.reduceSub]
  simp [req]

theorem Encoding.wakep : ∀ a b, Encoding.Statement (.wakep a b) := by
  intro a b h w hw
  cases Option.some.inj hw
  refine decode_of (fields_sys (fOp_sfmt ..) ?_) h
  rw [decodeSys, fFn8_sfmt]
  simp (disch := decide) only [fD_sfmt, fA_sfmt, fB_sfmt, fImm_sfmt, extract_hi, extract_lo, extract_all, bit_hi, bit_lo, bit_bool, Nat.reduceSub]
  simp [req]

theorem Encoding.tlbinv : ∀ a b scope, Encoding.Statement (.tlbinv a b scope) := by
  intro a b scope h w hw
  cases Option.some.inj hw
  refine decode_of (fields_sys (fOp_sfmt ..) ?_) h
  rw [decodeSys, fFn8_sfmt]
  simp (disch := decide) only [fD_sfmt, fA_sfmt, fB_sfmt, fImm_sfmt, extract_hi, extract_lo, extract_all, bit_hi, bit_lo, bit_bool, Nat.reduceSub]
  simp [req]

theorem Encoding.nop : Encoding.Statement (.nop) := by
  intro  h w hw
  cases Option.some.inj hw
  refine decode_of (fields_thread (fOp_sfmt ..) ?_) h
  rw [decodeThread, fFn8_sfmt]
  simp (disch := decide) only [fD_sfmt, fA_sfmt, fB_sfmt, fImm_sfmt, extract_hi, extract_lo, extract_all, bit_hi, bit_lo, bit_bool, Nat.reduceSub]
  simp [req]

theorem Encoding.endT : Encoding.Statement (.endT) := by
  intro  h w hw
  cases Option.some.inj hw
  refine decode_of (fields_thread (fOp_sfmt ..) ?_) h
  rw [decodeThread, fFn8_sfmt]
  simp (disch := decide) only [fD_sfmt, fA_sfmt, fB_sfmt, fImm_sfmt, extract_hi, extract_lo, extract_all, bit_hi, bit_lo, bit_bool, Nat.reduceSub]
  simp [req]

theorem Encoding.yield : Encoding.Statement (.yield) := by
  intro  h w hw
  cases Option.some.inj hw
  refine decode_of (fields_thread (fOp_sfmt ..) ?_) h
  rw [decodeThread, fFn8_sfmt]
  simp (disch := decide) only [fD_sfmt, fA_sfmt, fB_sfmt, fImm_sfmt, extract_hi, extract_lo, extract_all, bit_hi, bit_lo, bit_bool, Nat.reduceSub]
  simp [req]

theorem Encoding.ifence : Encoding.Statement (.ifence) := by
  intro  h w hw
  cases Option.some.inj hw
  refine decode_of (fields_fence (fOp_sfmt ..) ?_) h
  rw [decodeFence, fFn8_sfmt]
  simp (disch := decide) only [fD_sfmt, fA_sfmt, fB_sfmt, fImm_sfmt, extract_hi, extract_lo, extract_all, bit_hi, bit_lo, bit_bool, Nat.reduceSub]
  simp [req]

theorem Encoding.prune : Encoding.Statement (.prune) := by
  intro  h w hw
  cases Option.some.inj hw
  refine decode_of (fields_rule (fOp_sfmt ..) ?_) h
  rw [decodeRule, fFn8_sfmt]
  simp (disch := decide) only [fD_sfmt, fA_sfmt, fB_sfmt, fImm_sfmt, extract_hi, extract_lo, extract_all, bit_hi, bit_lo, bit_bool, Nat.reduceSub]
  simp [req]

theorem Encoding.leaf : Encoding.Statement (.leaf) := by
  intro  h w hw
  cases Option.some.inj hw
  refine decode_of (fields_rule (fOp_sfmt ..) ?_) h
  rw [decodeRule, fFn8_sfmt]
  simp (disch := decide) only [fD_sfmt, fA_sfmt, fB_sfmt, fImm_sfmt, extract_hi, extract_lo, extract_all, bit_hi, bit_lo, bit_bool, Nat.reduceSub]
  simp [req]

theorem Encoding.defer : Encoding.Statement (.defer) := by
  intro  h w hw
  cases Option.some.inj hw
  refine decode_of (fields_rule (fOp_sfmt ..) ?_) h
  rw [decodeRule, fFn8_sfmt]
  simp (disch := decide) only [fD_sfmt, fA_sfmt, fB_sfmt, fImm_sfmt, extract_hi, extract_lo, extract_all, bit_hi, bit_lo, bit_bool, Nat.reduceSub]
  simp [req]

theorem Encoding.threadRetire : Encoding.Statement .threadRetire := fun _ _ h => nomatch h

theorem Encoding.pauseExpiry : Encoding.Statement .pauseExpiry := fun _ _ h => nomatch h

theorem Encoding.decisionTakesEffect : Encoding.Statement .decisionTakesEffect := fun _ _ h => nomatch h

theorem Encoding.unitMigration : Encoding.Statement .unitMigration := fun _ _ h => nomatch h

theorem Encoding.messageArrival : Encoding.Statement .messageArrival := fun _ _ h => nomatch h

theorem Encoding.bufferedMessageStart : Encoding.Statement .bufferedMessageStart := fun _ _ h => nomatch h

theorem Encoding.pageWake : Encoding.Statement .pageWake := fun _ _ h => nomatch h

theorem Encoding.trapMessage : Encoding.Statement .trapMessage := fun _ _ h => nomatch h

theorem Encoding.migrationArrival : Encoding.Statement .migrationArrival := fun _ _ h => nomatch h

theorem Encoding.forwardedReply : Encoding.Statement .forwardedReply := fun _ _ h => nomatch h

theorem Encoding.forwardingEntryExpiry : Encoding.Statement .forwardingEntryExpiry := fun _ _ h => nomatch h

theorem Encoding.depositLanding : Encoding.Statement .depositLanding := fun _ _ h => nomatch h

theorem Encoding.accessAcknowledgement : Encoding.Statement .accessAcknowledgement := fun _ _ h => nomatch h

theorem Encoding.relaxedCompletion : Encoding.Statement .relaxedCompletion := fun _ _ h => nomatch h

theorem Encoding.relaxedErrorResponse : Encoding.Statement .relaxedErrorResponse := fun _ _ h => nomatch h

theorem Encoding.bankAccess : Encoding.Statement .bankAccess := fun _ _ h => nomatch h

theorem Encoding.refusalRetry : Encoding.Statement .refusalRetry := fun _ _ h => nomatch h

theorem Encoding.becomeOldest : Encoding.Statement .becomeOldest := fun _ _ h => nomatch h

theorem Encoding.dispatch : Encoding.Statement .dispatch := fun _ _ h => nomatch h

theorem Encoding.evaluate : Encoding.Statement .evaluate := fun _ _ h => nomatch h

theorem Encoding.leafDispatch : Encoding.Statement .leafDispatch := fun _ _ h => nomatch h

theorem Encoding.joinDispatch : Encoding.Statement .joinDispatch := fun _ _ h => nomatch h

theorem Encoding.regionCompletion : Encoding.Statement .regionCompletion := fun _ _ h => nomatch h

theorem Encoding.cycleBudgetExhausted : Encoding.Statement .cycleBudgetExhausted := fun _ _ h => nomatch h

theorem Encoding.engineOpStart : Encoding.Statement .engineOpStart := fun _ _ h => nomatch h

theorem Encoding.engineOpComplete : Encoding.Statement .engineOpComplete := fun _ _ h => nomatch h

theorem Encoding.brotArrival : Encoding.Statement .brotArrival := fun _ _ h => nomatch h

theorem Encoding.enginePageFault : Encoding.Statement .enginePageFault := fun _ _ h => nomatch h

theorem Encoding.engineFailure : Encoding.Statement .engineFailure := fun _ _ h => nomatch h

theorem Encoding.copyLine : Encoding.Statement .copyLine := fun _ _ h => nomatch h

theorem Encoding.copyComplete : Encoding.Statement .copyComplete := fun _ _ h => nomatch h

theorem Encoding.copyCancel : Encoding.Statement .copyCancel := fun _ _ h => nomatch h

theorem Encoding.pageFault : Encoding.Statement .pageFault := fun _ _ h => nomatch h

theorem Encoding.mmuRewalk : Encoding.Statement .mmuRewalk := fun _ _ h => nomatch h

theorem Encoding.tlbinvComplete : Encoding.Statement .tlbinvComplete := fun _ _ h => nomatch h

theorem Encoding.collapse : Encoding.Statement .collapse := fun _ _ h => nomatch h

theorem Encoding.collapseAck : Encoding.Statement .collapseAck := fun _ _ h => nomatch h

theorem Encoding.uncorrectableError : Encoding.Statement .uncorrectableError := fun _ _ h => nomatch h

theorem Encoding.hold : Encoding.Statement .hold := fun _ _ h => nomatch h

theorem Encoding.spillWrite : Encoding.Statement .spillWrite := fun _ _ h => nomatch h

theorem Encoding.contextRestore : Encoding.Statement .contextRestore := fun _ _ h => nomatch h

theorem Encoding.throttleEvent : Encoding.Statement .throttleEvent := fun _ _ h => nomatch h

theorem Encoding.powerLimitWrite : Encoding.Statement .powerLimitWrite := fun _ _ h => nomatch h

theorem Encoding.inboundDoorbell : Encoding.Statement .inboundDoorbell := fun _ _ h => nomatch h

theorem Encoding.mbxtgtWrite : Encoding.Statement .mbxtgtWrite := fun _ _ h => nomatch h

theorem Encoding.outboundDoorbell : Encoding.Statement .outboundDoorbell := fun _ _ h => nomatch h

theorem Encoding.devstatWrite : Encoding.Statement .devstatWrite := fun _ _ h => nomatch h

theorem Encoding.hostirq : Encoding.Statement .hostirq := fun _ _ h => nomatch h

theorem Encoding.msixUnmask : Encoding.Statement .msixUnmask := fun _ _ h => nomatch h

theorem Encoding.hostBar2Access : Encoding.Statement .hostBar2Access := fun _ _ h => nomatch h

theorem Encoding.hostConfigRequest : Encoding.Statement .hostConfigRequest := fun _ _ h => nomatch h

theorem Encoding.functionLevelReset : Encoding.Statement .functionLevelReset := fun _ _ h => nomatch h

theorem Encoding.fmsend : Encoding.Statement .fmsend := fun _ _ h => nomatch h

theorem Encoding.fabricMessageArrival : Encoding.Statement .fabricMessageArrival := fun _ _ h => nomatch h

theorem Encoding.fmdropClear : Encoding.Statement .fmdropClear := fun _ _ h => nomatch h

theorem Encoding.peerAccessArrival : Encoding.Statement .peerAccessArrival := fun _ _ h => nomatch h

theorem Encoding.fabricTimeout : Encoding.Statement .fabricTimeout := fun _ _ h => nomatch h

theorem Encoding.mgmtTransmit : Encoding.Statement .mgmtTransmit := fun _ _ h => nomatch h

theorem Encoding.mgmtReceive : Encoding.Statement .mgmtReceive := fun _ _ h => nomatch h

theorem Encoding.powerOnReset : Encoding.Statement .powerOnReset := fun _ _ h => nomatch h

theorem Encoding.notAnInstruction : Encoding.Statement .notAnInstruction := fun _ _ h => nomatch h

theorem Encoding.syscallReply : Encoding.Statement .syscallReply := fun _ _ h => nomatch h

theorem Encoding.pageMigration : Encoding.Statement .pageMigration := fun _ _ h => nomatch h

theorem Encoding.straitWithdrawal : Encoding.Statement .straitWithdrawal := fun _ _ h => nomatch h

theorem Encoding.hostBlockAccess : Encoding.Statement .hostBlockAccess := fun _ _ h => nomatch h

theorem Encoding.linkUpChange : Encoding.Statement .linkUpChange := fun _ _ h => nomatch h

theorem Encoding.bootFabricStore : Encoding.Statement .bootFabricStore := fun _ _ h => nomatch h

end Sys2Proof.Laws
end

