-- ==== Sys2Proof/Tests/Slice0.lean ====
section
/-! SUPPORT. Small tests, whose expected results are the manual's words and examples, and a witness for each
statement that has hypotheses. -/

namespace Sys2Proof.Tests

open Sys2Proof Sys2Proof.Machine

set_option Elab.async false

/-! ## Words of every group, field by field (R26 to R33) -/

theorem test_decode_int :
    decode (0x10#8 ++ 0x05#8 ++ 1#7 ++ 2#7 ++ 3#7 ++ 4#7 ++ 6#5 ++ 0#3 ++ 0#12) = some (.madd 1 2 3 4 .n32) := by
  decide +kernel

theorem test_decode_ext :
    decode (0x10#8 ++ 0x28#8 ++ 1#7 ++ 2#7 ++ 0#7 ++ 0#7 ++ 3#5 ++ 0#3 ++ 60#6 ++ 4#6) =
      some (.ext 1 2 .i64 60 4) := by
  decide +kernel

theorem test_decode_imm : decode (0x20#8 ++ 0x09#6 ++ 7#7 ++ 9#7 ++ 4#4 ++ 0xFFFFFFFE#32) =
    some (.sltni 7 9 .n8 0xFFFFFFFE) := by
  decide +kernel

theorem test_decode_branch : decode (0x30#8 ++ 0xA#4 ++ 0#7 ++ 0#7 ++ 31#7 ++ 2#2 ++ 0x1FFFFFFF#29) =
    some (.call 31 .unlikely 0x1FFFFFFF) := by
  decide +kernel

theorem test_decode_jump : decode (0x31#8 ++ 1#4 ++ 31#7 ++ 0#7 ++ 31#7 ++ 1#2 ++ 0#29) =
    some (.callr 31 31 .likely 0) := by
  decide +kernel

theorem test_decode_thread : decode 0x3200_0000_0000_0000 = some .nop ∧
    decode (0x32#8 ++ 3#8 ++ 0#7 ++ 0#7 ++ 0#7 ++ 0x7FFFFFF#27) = some (.pause 0x7FFFFFF) := by
  decide +kernel

theorem test_decode_mem : decode (0x38#8 ++ 1#3 ++ 2#3 ++ 8#7 ++ 5#7 ++ 7#3 ++ 1#1 ++ 0xFFFFFFF8#32) =
    some (.lds 8 5 7 true 0xFFFFFFF8 .w) := by
  decide +kernel

theorem test_decode_seg : decode (0x39#8 ++ 1#8 ++ 6#7 ++ 2#7 ++ 9#7 ++ 0b011#27) = some (.segnar 6 2 9 0b011) := by
  decide +kernel

theorem test_decode_vint :
    decode (0x40#8 ++ 0x0D#8 ++ 1#7 ++ 2#7 ++ 0#7 ++ 0#7 ++ 2#5 ++ 5#3 ++ 31#6 ++ 0#4 ++ 1#1 ++ 1#1) =
      some (.vsra 1 2 (.imm 31) .i32 5 true) ∧
    decode (0x40#8 ++ 0x1A#8 ++ 3#7 ++ 2#7 ++ 4#7 ++ 0#7 ++ 0#5 ++ 1#3 ++ 0#12) =
      some (.vcmplt 3 2 4 .i8 1 false) := by
  decide +kernel

theorem test_decode_vfp :
    decode (0x50#8 ++ 0x11#8 ++ 1#7 ++ 2#7 ++ 0#7 ++ 0#7 ++ 11#5 ++ 2#3 ++ 2#2 ++ 13#5 ++ 1#1 ++ 0#1 ++ 5#3) =
      some (.vfcvt 1 2 .f32 .e4m3 2 true false .rna .sat) := by
  decide +kernel

theorem test_decode_vperm :
    decode (0x60#8 ++ 0x0C#8 ++ 1#7 ++ 2#7 ++ 0#7 ++ 0#7 ++ 12#5 ++ 3#3 ++ 0#12) = some (.vfredadd 1 2 .f64 3) ∧
    decode (0x60#8 ++ 0x16#8 ++ 3#7 ++ 9#7 ++ 0#7 ++ 0#7 ++ 0#5 ++ 0#3 ++ 0#12) = some (.kmov 3 9) := by
  decide +kernel

theorem test_decode_sync : decode (0x68#8 ++ 6#3 ++ 4#3 ++ 4#7 ++ 5#7 ++ 2#3 ++ 0#1 ++ 64#32) =
    some (.waitv 4 5 2 64 true) := by
  decide +kernel

theorem test_decode_atom : decode (0x69#8 ++ 9#4 ++ 0#2 ++ 3#7 ++ 5#7 ++ 2#3 ++ 0#1 ++ 7#7 ++ 0x1FFFFFC#25) =
    some (.acas 3 5 7 2 0x1FFFFFC false) := by
  decide +kernel

theorem test_decode_gather :
    decode (0x70#8 ++ 4#6 ++ 10#7 ++ 5#7 ++ 2#3 ++ 0#1 ++ 6#7 ++ 2#2 ++ 1#1 ++ 3#3 ++ 3#3 ++ 1#3 ++ 1#1 ++ 0xFF8#12) =
      some (.gldw ⟨10, 5, 2, false, 6, 2, true, 3, 3, 1, true, 0xFF8⟩) := by
  decide +kernel

theorem test_decode_fence : decode (0x78#8 ++ 1#8 ++ 0#7 ++ 0#7 ++ 0#7 ++ 0#27) = some .ifence ∧
    decode 0x7800000000000103 = some (.fence .device true) := by
  decide +kernel

theorem test_decode_rule : decode (0x80#8 ++ 6#8 ++ 3#7 ++ 0#7 ++ 0#7 ++ 48#27) = some (.boxrd 3 48) := by
  decide +kernel

theorem test_decode_msg : decode (0x81#8 ++ 5#8 ++ 2#7 ++ 3#7 ++ 0#7 ++ 0#7 ++ 4#4 ++ 9#16) =
    some (.syscall 2 3 4 9) := by
  decide +kernel

theorem test_decode_matrix : decode 0x9000000800000001 = some (.mma 0 4 false none none true false false false) ∧
    decode (0x90#8 ++ 5#8 ++ 0#8 ++ 0#7 ++ 0#7 ++ 0#7 ++ 0#1 ++ 7#18) = some (.mwait 7) := by
  decide +kernel

theorem test_decode_rank : decode 0xA00002000000000C = some (.rlset 2 4 true false) := by
  decide +kernel

theorem test_decode_copy : decode 0xA800000814300135 =
    some (.copy ⟨4, 3, 5, 2, 6, none, false, .setfull, 1⟩) := by
  decide +kernel

theorem test_decode_conv : decode (0xB0#8 ++ 0#8 ++ 1#7 ++ 2#7 ++ 0#7 ++ 0#7 ++ 11#5 ++ 1#3 ++ 1#2 ++ 8#5 ++ 0#2 ++ 2#3) =
    some (.cvtn 1 2 .f32 .f16 1 .rtz .nosat) := by
  decide +kernel

theorem test_decode_sys : decode (0xC0#8 ++ 0#8 ++ 3#7 ++ 0#7 ++ 11#7 ++ 0x100#27) = some (.srd 3 0x100 11) ∧
    decode 0xC001001810000104 = some (.channelEntryWrite 6 2) := by
  decide +kernel

/-- A word with a condition of R34 is no instruction: an unlisted OP, FN or CC, a reserved field, REL where it is not
allowed, a type, size or code outside the set, IW over EW, a field past the operand, a mask number over 7. -/
theorem test_decode_refuses :
    decode 0 = none ∧ decode 0xFF00_0000_0000_0000 = none ∧ decode 0x100F_0000_0000_0000 = none ∧
    decode 0x30B0_0000_0000_0000 = none ∧ decode 0x3200_0000_0000_0001 = none ∧
    decode (0x38#8 ++ 3#3 ++ 0#3 ++ 8#7 ++ 5#7 ++ 7#3 ++ 1#1 ++ 0#32) = none ∧
    decode (0x10#8 ++ 0#8 ++ 1#7 ++ 2#7 ++ 3#7 ++ 0#7 ++ 8#5 ++ 0#3 ++ 0#12) = none ∧
    decode (0x38#8 ++ 1#3 ++ 3#3 ++ 8#7 ++ 5#7 ++ 7#3 ++ 0#1 ++ 0#32) = none ∧
    decode (0x30#8 ++ 0#4 ++ 0#7 ++ 0#7 ++ 0#7 ++ 3#2 ++ 0#29) = none ∧
    decode (0x70#8 ++ 0#6 ++ 10#7 ++ 5#7 ++ 2#3 ++ 0#1 ++ 6#7 ++ 3#2 ++ 1#1 ++ 3#3 ++ 2#3 ++ 1#3 ++ 1#1 ++ 0#12) = none ∧
    decode (0x10#8 ++ 0x28#8 ++ 1#7 ++ 2#7 ++ 0#7 ++ 0#7 ++ 2#5 ++ 0#3 ++ 29#6 ++ 4#6) = none ∧
    decode (0x60#8 ++ 0x10#8 ++ 8#7 ++ 2#7 ++ 0#7 ++ 0#7 ++ 0#5 ++ 0#3 ++ 0#12) = none := by
  decide +kernel

/-! ## Ill-formed terms: one for each check of `Instr.wf` -/

theorem test_wf_int : (Instr.add 1 2 3 .f32).wf = false ∧ (Instr.madd 1 2 3 4 .i4).wf = false ∧
    (Instr.div 1 2 3 .f16).wf = false ∧ (Instr.min 1 2 3 .f64).wf = false ∧ (Instr.and 1 2 3 .n4).wf = false ∧
    (Instr.shl 1 2 3 .e4m3).wf = false ∧ (Instr.clz 1 2 .f19).wf = false ∧ (Instr.seq 1 2 3 .bf16).wf = false ∧
    (Instr.ext 1 2 .i32 29 4).wf = false ∧ (Instr.ins 1 2 3 .i64 1 0).wf = false ∧
    (Instr.ext 1 2 .f32 0 1).wf = false := by
  decide

theorem test_wf_imm : (Instr.addi 1 2 .f32 0).wf = false ∧ (Instr.shli 1 2 .f16 0).wf = false ∧
    (Instr.slti 1 2 .i4 0).wf = false ∧ (Instr.movi 1 .f64 0).wf = false ∧ (Instr.lds 1 2 3 false 0 .d).wf = false := by
  decide

theorem test_wf_vector : (Instr.vadd 1 2 3 .f32 0 false).wf = false ∧ (Instr.vshl 1 2 (.imm 3) .f32 0 false).wf = false ∧
    (Instr.vabs 1 2 .f16 0 false).wf = false ∧ (Instr.vdot4 1 2 3 4 .i64 0 false).wf = false ∧
    (Instr.vsel 1 2 3 .f32 0).wf = false ∧ (Instr.vcmpeq 1 2 3 .f64 0 false).wf = false ∧
    (Instr.vfadd 1 2 3 .i32 0 false false .dflt).wf = false ∧ (Instr.vfma 1 2 3 4 .e4m3 0 false false .dflt).wf = false ∧
    (Instr.vfsqrt 1 2 .i8 0 false false .dflt).wf = false ∧ (Instr.vfmin 1 2 3 .n8 0 false false).wf = false ∧
    (Instr.vfrcp 1 2 .i64 0 false false).wf = false ∧ (Instr.vfcvt 1 2 .f32 .i8 0 false false .dflt .status).wf = false ∧
    (Instr.vfcvti 1 2 .f32 .f16 0 false false .dflt).wf = false ∧ (Instr.vfcmplt 1 2 3 .i32 0 false false).wf = false := by
  decide

theorem test_wf_perm : (Instr.vsplat 1 2 .e4m3 0 false).wf = false ∧ (Instr.vextr 1 2 (.imm 0) .i4).wf = false ∧
    (Instr.vperm 1 2 3 .e5m2 0 false).wf = false ∧ (Instr.vperm2 1 2 3 4 .n4 0 false).wf = false ∧
    (Instr.vrot 1 2 (.imm 0) .e2m1 0 false).wf = false ∧ (Instr.viota 1 .e2m3 0).wf = false ∧
    (Instr.vredadd 1 2 .f32 0).wf = false ∧ (Instr.vfredadd 1 2 .i32 0).wf = false := by
  decide

theorem test_wf_gather : (Instr.gld ⟨1, 2, 3, false, 4, 3, false, 0, 2, 0, false, 0⟩).wf = false ∧
    (Instr.gadd ⟨1, 2, 3, true, 4, 0, false, 0, 2, 0, false, 0⟩).wf = false ∧
    (Instr.gfadd ⟨1, 2, 3, false, 4, 0, false, 0, 1, 0, false, 0⟩).wf = false ∧
    (Instr.gldw ⟨1, 2, 3, false, 4, 0, false, 0, 2, 0, false, 0⟩).wf = false := by
  decide

theorem test_wf_rest : (Instr.send 1 2 3 false 9).wf = false ∧ (Instr.syscall 1 2 9 0).wf = false ∧
    (Instr.mma 0 1 false none none false true false false).wf = false ∧
    (Instr.mma 0 1 false none none false false true true).wf = false ∧ (Instr.rlset 0 7 false false).wf = false ∧
    (Instr.cvtn 1 2 .f16 .f32 0 .dflt .status).wf = false ∧ (Instr.cvtw 1 2 .f32 .f16 0 .dflt .status).wf = false ∧
    (Instr.qmx 1 2 .f64 .i8).wf = false ∧ (Instr.dqmx 1 2 .i8 .f64 .dflt .status).wf = false ∧
    (Instr.plane 1 2 .i8).wf = false ∧ (Instr.srd 1 0 2).wf = false ∧ (Instr.swr 0x104 1 2).wf = false ∧
    (Instr.thrd 127 1 0).wf = false ∧ (Instr.thwr 1 2 3 0x190).wf = false ∧ (Instr.rcbrd 127 1).wf = false := by
  decide

/-! ## Small states -/

/-- A register that holds a value. -/
def ent (v : Reg) : RegEntry := { val := v, pres := .present, poison := false }

/-- A segment over core 0's pool window, with every right but P. -/
def poolSegment : BitVec 128 := mkSeg (BitVec.ofNat 64 (poolKey 0 0)) 0x10_0000 0b011111

/-- A thread of core 0's slot 0 with 32 registers, the first of which hold given values. -/
def thr (vals : List Reg) : Thread :=
  { fetchThread with regs := vals.map ent ++ freshRegs (32 - vals.length), segs := List.replicate 8 poolSegment }

/-- The thread at a privilege level. -/
def atLevel (n : Nat) (t : Thread) : Thread :=
  { t with sp := { t.sp with status := BitVec.ofNat 64 (4 + n) } }

/-- A state in which a thread issues. -/
def on (t : Thread) : State := { State.reset with threads := [(t.id.toNat, t)], cur := t.id, word := 0xABC }

/-- What an instruction leaves in a register of the issuing thread. -/
def gives (i : Instr) (s : State) (d : RegNum) : Option Reg :=
  match exec i s with
  | .next s' => (s'.thread? s.cur).map fun u => (u.entry d).val
  | _ => none

/-- The pc, the state and the cause after an instruction. -/
def ends (i : Instr) (s : State) : Option (Word × SlotState × Word × Word) :=
  match exec i s with
  | .next s' => (s'.thread? s.cur).map fun u => (u.pc, u.state, u.sp.tcause, u.sp.tinfo)
  | _ => none

theorem keeps_masked {t : Thread} {d : RegNum} {k : KReg} {x : Reg} (hk : k ≠ 0) (h : t.holds d x) :
    t.keeps d k false x := by
  unfold Thread.keeps
  rw [if_pos ⟨hk, rfl⟩]
  exact h

theorem run_one {t : Thread} {a : RegNum} {x : Reg} (h : t.holds a x) : t.holdsRun a [x] :=
  ⟨by have := h.inside; simp; omega, fun j y e => by
    rcases j with _ | j
    · simp at e; subst e; simpa using h
    · simp at e⟩

theorem run_two {t : Thread} {a : RegNum} {x y : Reg} (hi : a.toNat + 2 ≤ t.win) (h : t.holds a x)
    (g : t.holds (a + 1) y) : t.holdsRun a [x, y] :=
  ⟨hi, fun j z e => by
    rcases j with _ | _ | j
    · simp at e; subst e; simpa using h
    · simp at e; subst e; exact g
    · simp at e⟩

/-! ## Examples of the manual -/

def two (a b : Reg) : State := on (thr [0, a, b])

theorem test_div : gives (.div 3 1 2 .i32) (two (BitVec.ofInt 512 (-7)) 2) 3 = some 0xFFFF_FFFF_FFFF_FFFD ∧
    gives (.rem 3 1 2 .i32) (two (BitVec.ofInt 512 (-7)) 2) 3 = some 0xFFFF_FFFF_FFFF_FFFF ∧
    gives (.div 3 1 2 .i64) (two 1000 0) 3 = some 0xFFFF_FFFF_FFFF_FFFF ∧
    gives (.rem 3 1 2 .i64) (two 1000 0) 3 = some 1000 ∧
    gives (.div 3 1 2 .i32) (two 0x8000_0000 0xFFFF_FFFF) 3 = some 0xFFFF_FFFF_8000_0000 ∧
    gives (.rem 3 1 2 .i32) (two 0x8000_0000 0xFFFF_FFFF) 3 = some 0 := by
  decide +kernel

theorem test_divn : gives (.divn 3 1 2 .n32) (two 7 0) 3 = some 0x0000_0000_FFFF_FFFF ∧
    gives (.remn 3 1 2 .n32) (two 7 0) 3 = some 7 ∧
    gives (.divn 3 1 2 .n64) (two 0xFFFF_FFFF_FFFF_FFFE 2) 3 = some 0x7FFF_FFFF_FFFF_FFFF ∧
    gives (.divn 3 1 2 .i8) (two 0xFF 1) 3 = some 0xFFFF_FFFF_FFFF_FFFF ∧
    gives (.divn 3 1 2 .n8) (two 0xFF 1) 3 = some 0xFF := by
  decide +kernel

theorem test_immediates : gives (.movi 1 .i64 0xFFFF_FFFF) (two 0 0) 1 = some 0xFFFF_FFFF_FFFF_FFFF ∧
    gives (.andi 1 1 .i64 0xFFFF_FFF8) (two 0xFFFF_FFFF_FFFF_FFFF 0) 1 = some 0xFFFF_FFF8 ∧
    gives (.movhi 1 1 0x1234_5678) (two 0xFFFF_FFFF_9ABC_DEF0 0) 1 = some 0x1234_5678_9ABC_DEF0 := by
  decide +kernel

theorem test_add_wraps : gives (.add 1 1 2 .i8) (two 0x7F 1) 1 = some 0xFFFF_FFFF_FFFF_FF80 ∧
    gives (.add 1 1 2 .n8) (two 0xFF 1) 1 = some 0 := by
  decide +kernel

theorem test_dbnz_zero : gives (.dbnz 1 .none 3) (two 0 0) 1 = some 0xFFFF_FFFF_FFFF_FFFF ∧
    (ends (.dbnz 1 .none 3) (two 0 0)).map (·.1) = some 24 := by
  decide +kernel

theorem test_callr_same : gives (.callr 1 1 .none 0) (two 0x40 0) 1 = some 8 ∧
    (ends (.callr 1 1 .none 0) (two 0x40 0)).map (·.1) = some 0x40 ∧
    ends (.callr 1 1 .none 0) (two 0x44 0) = some (0, .trapped, 0x06, 0x44) := by
  decide +kernel

theorem test_shift_counts : gives (.shl 3 1 2 .n8) (two 0x81 9) 3 = some 0x02 ∧
    gives (.sra 3 1 2 .i8) (two 0x81 1) 3 = some 0xFFFF_FFFF_FFFF_FFC0 ∧
    gives (.ror 3 1 2 .n16) (two 0x0001 17) 3 = some 0x8000 := by
  decide +kernel

theorem test_fields : gives (.ext 3 1 .i32 4 4) (two 0xF0 0) 3 = some 0xFFFF_FFFF_FFFF_FFFF ∧
    gives (.ins 3 1 2 .n32 8 8) (two 0xABCD 0x1111_1111) 3 = some 0x1111_CD11 := by
  decide +kernel

theorem test_load_store :
    gives (.ld 3 1 2 false 8 .w) { on (thr [0, 0x100]) with mem := [(poolKey 0 0x108, 0xFE), (poolKey 0 0x10B, 0x80)] } 3 =
      some 0x8000_00FE ∧
    gives (.lds 3 1 2 false 8 .w) { on (thr [0, 0x100]) with mem := [(poolKey 0 0x108, 0xFE), (poolKey 0 0x10B, 0x80)] } 3 =
      some 0xFFFF_FFFF_8000_00FE := by
  decide +kernel

theorem test_segment_traps : ends (.ld 3 1 2 false 0 .d) (two 0xF_FFF9 0) = some (0, .trapped, 0x204, 0xF_FFF9) ∧
    ends (.st 3 1 2 false 4 .d) (two 0 0) = some (0, .trapped, 0xA06, 4) := by
  decide +kernel

theorem test_window : ends (.add 40 33 50 .i64) (two 0 0) = some (0, .trapped, 0x03, 0x2028) := by
  decide +kernel

theorem test_saturating : gives (.vadds 3 1 2 .n8 0 false) (two 0xF0F0 0x2001) 3 = some 0xFFF1 ∧
    gives (.vsubs 3 1 2 .i8 0 false) (two 0x0080 0x0101) 3 = some 0xFF80 := by
  decide +kernel

theorem test_float : gives (.vfadd 3 1 2 .f32 0 false true .rne) (two 0x3F80_0000 0x4000_0000) 3 = some 0x4040_0000 ∧
    gives (.vfmul 3 1 2 .f64 0 false true .rtz) (two 0x4000_0000_0000_0000 0x4008_0000_0000_0000) 3 =
      some 0x4018_0000_0000_0000 := by
  decide +kernel

theorem test_masked : gives (.vadd 3 1 2 .n32 1 false) (on { thr [0, 5, 6, 0x9_0000_0007] with
    masks := [0b01, 0, 0, 0, 0, 0, 0] }) 3 = some 0x9_0000_000B := by
  decide +kernel

theorem test_atomics : gives (.aadd 2 1 3 0 true) { on (thr [0, 0x40, 5]) with mem := [(poolKey 0 0x40, 7)] } 2 = some 7 ∧
    gives (.acas 2 1 4 3 0 true) { on (thr [0, 0x40, 7, 0, 9]) with mem := [(poolKey 0 0x40, 7)] } 2 = some 7 := by
  decide +kernel

theorem test_swr_status : ends (.statusWrite 1) (two 0x1C 0) = some (0, .trapped, 0x01, 0xABC) ∧
    ends (.statusWrite 1) (two 0x05 0) = some (0, .trapped, 0x02, 0xABC) := by
  decide +kernel

theorem test_step_runs_word :
    (match step (State.reset.withFetchWord 64 0x202C100389ABCDEF) with
      | .next s => (s.thread? 0).map fun t => (t.pc, (t.entry 2).val)
      | _ => none) = some (8, 0xFFFF_FFFF_89AB_CDEF) := by
  decide +kernel

/-! ## Witnesses: states and operands that meet the hypotheses of the statements -/

theorem witness_EncodedInstructionDecodes :
    (Instr.ld 127 127 7 true 0xFFFFFFFF .v).wf = true ∧
    encode (.ld 127 127 7 true 0xFFFFFFFF .v) =
      some (0x38#8 ++ 0#3 ++ 4#3 ++ 127#7 ++ 127#7 ++ 7#3 ++ 1#1 ++ 0xFFFFFFFF#32) ∧
    (Instr.ext 1 2 .n8 7 1).wf = true ∧ (encode (.ext 1 2 .n8 7 1)).isSome = true := by
  decide +kernel

theorem witness_StepRunsFetchedInstruction :
    let s := State.reset.withFetchWord 64 0x3200_0000_0000_0000
    s.agenda = [] ∧ s.slow = false ∧ s.due = [0] ∧ s.thread? 0 = some fetchThread ∧ fetchThread.state = .ready ∧
    s.mayIssue fetchThread = true ∧ fetchThread.pending = [] ∧ fetchThread.pc.toNat + 8 ≤ segLimit (fetchThread.seg 0) ∧
    s.dvaOk (segBase (fetchThread.seg 0) + fetchThread.pc) 8 = true ∧ (segRights (fetchThread.seg 0)).getLsbD 2 = true ∧
    ({ s with due := [] }).route 0 0 (segBase (fetchThread.seg 0) + fetchThread.pc) false false =
      ({ s with due := [] }, .bank (poolKey 0 0)) ∧
    s.badAt (poolKey 0 0) 8 = none ∧ ({ s with due := [] }).cachedWords fetchThread (poolKey 0 0) = [] ∧
    decode (BitVec.ofNat 64 (s.read (poolKey 0 0) 8)) = some .nop := by
  decide +kernel

/-- A state in which a thread is due to issue. -/
def dueOn (t : Thread) : State := { on t with due := [t.id] }

theorem witness_FailedFetchesTrap :
    (let t : Thread := { thr [] with pc := 0xF_FFF8, segs := [mkSeg (BitVec.ofNat 64 (poolKey 0 0)) 0xF_FFFF 0b001111] }
     (dueOn t).thread? 0 = some t ∧ (dueOn t).mayIssue t = true ∧ (dueOn t).spent t = false ∧ t.pending = [] ∧ segLimit (t.seg 0) < t.pc.toNat + 8) ∧
    (let t : Thread := { thr [] with pc := 0xF_FFF8, segs := [mkSeg (BitVec.ofNat 64 (poolKey 0 0)) 0x10_0000 0b111011] }
     (dueOn t).thread? 0 = some t ∧ t.pc.toNat + 8 ≤ segLimit (t.seg 0) ∧
     (dueOn t).dvaOk (segBase (t.seg 0) + t.pc) 8 = true ∧ (segRights (t.seg 0)).getLsbD 2 = false) ∧
    (let t : Thread := { thr [] with pc := 0xF_FFF8, segs := [mkSeg (BitVec.ofNat 64 (poolKey 0x3FF 0x100000)) 0x10_0000 0b001111] }
     (dueOn t).thread? 0 = some t ∧ t.pc.toNat + 8 ≤ segLimit (t.seg 0) ∧
     (dueOn t).dvaOk (segBase (t.seg 0) + t.pc) 8 = false) ∧
    decode 0 = none ∧ Issues (on (thr [])) (thr []) := by
  and_intros <;> first | decide +kernel | (constructor <;> decide +kernel)

theorem witness_registers :
    let t := thr [0, BitVec.allOnes 512, 0, 2 ^ 63]
    Issues (on t) t ∧ t.holds 1 (BitVec.allOnes 512) ∧ t.holds 2 0 ∧ t.holds 3 (2 ^ 63) ∧ t.takes 31 ∧
    Ty.i8.isInt = true ∧ Ty.n64.isSigned = false ∧ Ty.i64.isSigned = true ∧
    fieldFits .i64 0 0 = true ∧ fieldFits .n8 7 1 = true := by
  and_intros <;> first | decide +kernel | (constructor <;> decide +kernel)

theorem witness_JumpsCompleteOrTrapAlign :
    let t := thr [0, 0x40, 0xFFFF_FFFF_FFFF_FFFC]
    Issues (on t) t ∧ t.holds 1 0x40 ∧ t.holds 2 0xFFFF_FFFF_FFFF_FFFC ∧ t.takes 1 ∧
    ((0x40 : Reg).extractLsb' 0 64 + 8 * (0x1FFFFFFF : BitVec 29).signExtend 64).extractLsb' 0 3 = 0 ∧
    ((0xFFFF_FFFF_FFFF_FFFC : Reg).extractLsb' 0 64 + 8 * (1 : BitVec 29).signExtend 64).extractLsb' 0 3 ≠ 0 := by
  and_intros <;> first | decide +kernel | (constructor <;> decide +kernel)

/-- A thread whose g1 is open, g2 awaiting and g3 poisoned. -/
def gaps : Thread :=
  ((thr []).setPres 1 .opened |>.setPres 2 .awaiting).setPres 3 .present |> fun t =>
    { t with regs := t.regs.set 3 { val := 5, pres := .present, poison := true } }

theorem witness_RegisterStops :
    Issues (on gaps) gaps ∧ gaps.win = 32 ∧ (gaps.entry 1).pres ≠ .present ∧ (gaps.entry 2).pres = .awaiting ∧
    (gaps.entry 3).pres = .present ∧ (gaps.entry 3).poison = true ∧ gaps.holds 4 0 ∧
    regOps (.add 4 32 5 .i8) = some ([4] ++ 32 :: [5], [4], none) ∧
    (∀ x ∈ ([4] : List RegNum), x.toNat < gaps.win) ∧ gaps.win ≤ (32 : RegNum).toNat ∧
    regOps (.vcmpeq 1 127 5 .i8 0 false) = some ([] ++ 127 :: [5], [], some 1) := by
  and_intros <;> first | decide +kernel | (constructor <;> decide +kernel)

theorem witness_MaskedElementsFollowMask : (0 : Nat) < 512 / 64 ∧ (63 : Nat) < 512 / 8 ∧ (63 : Nat) < 64 := by decide

/-- A thread with masks k1 = 1 and k2 = all ones. -/
def masked3 : Thread := { thr [0, 5, 3, 9] with masks := [1, BitVec.allOnes 64, 0, 0, 0, 0, 0] }

theorem witness_vectors :
    Issues (on masked3) masked3 ∧ (on masked3).has masked3 0 ∧ masked3.holds 1 5 ∧ masked3.holds 2 3 ∧
    masked3.holds 3 9 ∧ masked3.takes 31 ∧ masked3.keeps 3 1 false 9 ∧ masked3.keeps 3 0 false 0 ∧
    masked3.keeps 3 1 true 0 := by
  and_intros
  all_goals
    first
      | decide +kernel
      | (constructor <;> decide +kernel)

theorem witness_ConversionRunsComplete :
    Issues (on masked3) masked3 ∧ (on masked3).has masked3 0 ∧ masked3.holdsRun 1 [5, 3] ∧ masked3.holdsRun 1 [5] ∧
    masked3.keepsRun 3 1 [9] ∧ ([5, 3] : List Reg).length = Ty.f32.width / Ty.f16.width ∧
    ([9] : List Reg).length = Ty.f32.width / Ty.f32.width := by
  and_intros
  on_goal 3 =>
    exact run_two (by decide +kernel) (by constructor <;> decide +kernel) (by constructor <;> decide +kernel)
  on_goal 3 => exact run_one (by constructor <;> decide +kernel)
  on_goal 3 =>
    refine ⟨by decide +kernel, fun j x e => ?_⟩
    rcases j with _ | j
    · simp at e; subst e
      exact keeps_masked (by decide) (by constructor <;> decide +kernel)
    · simp at e
  all_goals
    first
      | decide +kernel
      | (constructor <;> decide +kernel)

theorem takes_run {t : Thread} {d : RegNum} {n : Nat} (hi : d.toNat + n ≤ t.win)
    (h : ∀ e ∈ t.regs, e.pres ≠ .awaiting) : t.takesRun d n :=
  ⟨hi, fun j hj => ⟨by have := Nat.mod_le (d.toNat + j) 128; simp [BitVec.toNat_add]; omega, by
    intro e
    unfold Thread.entry at e
    rcases hq : t.regs[(d + BitVec.ofNat 7 j).toNat]? with _ | q
    · rw [List.getD, hq] at e
      simp at e
    · rw [List.getD, hq] at e
      exact h q (List.mem_of_getElem? hq) e⟩⟩

theorem witness_MxAndPlanesComplete :
    Issues (on masked3) masked3 ∧ (on masked3).has masked3 0 ∧ masked3.holdsRun 1 [5, 3] ∧ masked3.takes 4 ∧
    ([5, 3] : List Reg).length = Ty.f32.width / 16 ∧ masked3.holds 1 5 ∧ masked3.takesRun 4 (Ty.f32.width / 16) ∧
    masked3.takesRun 4 (planeRun .e2m1) ∧ masked3.takesRun 4 2 := by
  and_intros
  on_goal 3 =>
    exact run_two (by decide +kernel) (by constructor <;> decide +kernel) (by constructor <;> decide +kernel)
  on_goal 6 => exact takes_run (by decide +kernel) (by decide +kernel)
  on_goal 6 => exact takes_run (by decide +kernel) (by decide +kernel)
  on_goal 6 => exact takes_run (by decide +kernel) (by decide +kernel)
  all_goals
    first
      | decide +kernel
      | (constructor <;> decide +kernel)

/-! ### Frames, budgets and traps -/

/-- A region of domain 0 with its thread's level, a budget and a count. -/
def rgn (budget : Word) (count : Nat) (spent : Bool) : Region :=
  { id := 1, domain := 0, record := 0, ruleTab := 0, rules := [0], root := BitVec.ofNat 64 (poolKey 0 0x1000),
    prio := 3, arenaBase := BitVec.ofNat 64 (poolKey 0 0x1000), arenaLen := 0x1000,
    arenaNext := BitVec.ofNat 64 (poolKey 0 0x1080), budget := budget, count := count, spent := spent, recent := [], expired := 0,
    faulted := 0, complWord := BitVec.ofNat 64 (poolKey 0 0x3000), fmta := 0, fmtb := 0, fmtc := 0x0B, scla := 0,
    sclb := 0, code := poolSegment, segs := List.replicate 6 0, boxes := [], hold := .free, completing := false }

/-- A thread of region 1. -/
def inRegion (t : Thread) : Thread := { t with sp := { t.sp with region := 1 } }

theorem witness_RegisterInstructionsFrame :
    let t := thr [0, 5, 3]
    regOps (.add 31 1 2 .i8) = some ([31, 1, 2], [31], none) ∧ (on t).thread? (on t).cur = some t ∧ (on t).killsOf t.id = [] ∧
    (match exec (.add 31 1 2 .i8) (on t) with | .next _ => true | _ => false) = true ∧
    (match exec (.add 31 1 32 .i8) (on t) with | .next _ => true | _ => false) = true := by
  decide +kernel

theorem witness_SpentBudgetTraps :
    let t := inRegion (thr [0, 5, 3])
    let s := { on t with regions := [(1, rgn 10 10 true)] }
    s.thread? s.cur = some t ∧ s.spent t = true ∧ (31 : RegNum).toNat < t.win ∧
    s.region? t.regionId = some (rgn 10 10 true) ∧ (∀ p ∈ s.regions, p.2.id = p.1) := by
  decide +kernel

theorem witness_TrapEntry :
    let t := thr []
    let s := { on t with sys := { Sys.reset with domains := [(0, [0x801, 0, 0, 0])] } }
    t.wait = .none ∧ s.killsOf t.id = [] ∧ t.chan1 = false ∧ (s.domWord t.dom 0).getLsbD 11 = true ∧
    s.reachable ((s.domWord t.dom 0).extractLsb' 0 11).toNat = true ∧
    ({ t with chan1 := true }).chan1 = true ∧ (State.reset.domWord t.dom 0).getLsbD 11 = false := by
  decide +kernel

/-! ### Memory -/

/-- A thread whose g1 is an offset and g2 data. -/
def user (o x : Reg) : Thread := thr [0, o, x]

/-- A state whose domain 0 maps its first page to the frame at 0x20000 of space 0. -/
def mapped (s : State) : State :=
  { (((s.write 0x1000 8 0x2001).write 0x2000 8 0x3001).write 0x3000 8 0x4001).write 0x4000 8 0x20003 with
    sys := { s.sys with domains := [(0, [0, 0x1000, 0, 0])] } }

/-- The same with its page on the base-die registers, and a thread whose seg2 covers it. -/
def dieMapped (t : Thread) : State := { (mapped (on t)).write 0x4000 8 (6 * 2 ^ 48 + 3) with slow := false }

def dieUser (o x : Reg) : Thread := { user o x with segs := [poolSegment, 0, mkSeg 0 0x20000 0b000011] }

theorem witness_LoadsComplete_registers :
    let t := dieUser 0x2178 0x8000_0000_0002_0000
    let s := dieMapped t
    let r := (s.route 0 0 0x2178 false false).1
    let w := (s.route 0 0 0x2178 true false).1
    Issues s t ∧ t.holds 1 0x2178 ∧ t.holds 2 0x8000_0000_0002_0000 ∧ t.takes 3 ∧
    Reaches s t 2 0x2178 (.load 8 false) 8 r (6 * 2 ^ 48 + 0x2178) ∧
    Reaches s t 2 0x2178 (.store 8 0x8000_0000_0002_0000) 8 w (6 * 2 ^ 48 + 0x2178) ∧
    paSpace (6 * 2 ^ 48 + 0x2178) = 6 ∧ poolOf (6 * 2 ^ 48 + 0x2178) = none ∧
    paOff (6 * 2 ^ 48 + 0x2178) = 0x2100 + 8 * 15 ∧ w.base.apbase.length = 16 := by
  and_intros <;> first | decide +kernel | (constructor <;> decide +kernel)

theorem witness_LoadsComplete :
    let t := user 0xF_FFC0 0
    Issues (on t) t ∧ t.holds 1 0xF_FFC0 ∧ t.takes 3 ∧
    Reaches (on t) t 2 0xF_FFC0 (.load 64 false) 64 (on t) (poolKey 0 0xF_FFC0) ∧
    (on t).sound (poolKey 0 0xF_FFC0) 64 ∧ paSpace (poolKey 0 0xF_FFC0) ≠ 6 ∧
    Reaches (on t) t 2 0xF_FFFF (.load 1 false) 1 (on t) (poolKey 0 0xF_FFFF) := by
  and_intros <;> first | decide +kernel | (constructor <;> decide +kernel)

theorem witness_StoreCompletes :
    let t := user 0x40 5
    Issues (on t) t ∧ t.holds 1 0x40 ∧ t.holds 2 5 ∧ Reaches (on t) t 2 0x40 (.store 8 5) 8 (on t) (poolKey 0 0x40) ∧
    (on t).sound (poolKey 0 0x40) 8 ∧ (on t).accs = [] ∧ (on t).memOk := by
  and_intros
  on_goal 7 => (show Memory.wf _ = true; decide +kernel)
  all_goals first | decide +kernel | (constructor <;> decide +kernel)

theorem witness_AccessChecksTrapInOrder :
    let t := { user 0x3C 5 with segs := [poolSegment, mkSeg (BitVec.ofNat 64 (poolKey 0 0)) 0x43 0b000011,
      mkSeg (BitVec.ofNat 64 (poolKey 0 0)) 0x44 0b000000, mkSeg (BitVec.ofNat 64 (poolKey 0 0)) 0x44 0b000011] }
    Issues (on t) t ∧ t.holds 1 0x3C ∧ t.holds 2 5 ∧ t.takes 2 ∧
    ¬ (0x3C + 8 ≤ segLimit (t.seg 1) ∧ (on t).dvaOk (segBase (t.seg 1) + 0x3C) 8 = true) ∧
    (0x3C + 8 ≤ segLimit (t.seg 2) ∧ (on t).dvaOk (segBase (t.seg 2) + 0x3C) 8 = true ∧
      (t.seg 2).getLsbD 113 = false ∧ (t.seg 2).getLsbD 114 = false) ∧
    (0x3C + 8 ≤ segLimit (t.seg 3) ∧ (t.seg 3).getLsbD 113 = true ∧ (t.seg 3).getLsbD 114 = true ∧ 0x3C % 8 ≠ 0) := by
  and_intros <;> first | decide +kernel | (constructor <;> decide +kernel)

theorem witness_SegmentInstructionsComplete :
    let t := atLevel 2 (user (0x40 + 2 ^ 64 * 0xF_FFC0) 0)
    let s := { on t with sys := { Sys.reset with domains := [(0, [0, 0, BitVec.ofNat 64 (poolKey 0 0x80), 1])] } }
    Issues s t ∧ t.holds 1 (0x40 + 2 ^ 64 * 0xF_FFC0) ∧ t.takes 3 ∧ t.level = 2 ∧ (thr []).level ≠ 2 ∧
    0x40 ≤ segLimit (t.seg 2) ∧ s.dvaOk (segBase (t.seg 2) + 0x40) 0 = true ∧ 0x40 + 0xF_FFC0 ≤ segLimit (t.seg 2) ∧
    (segBase (t.seg 2) + 0x40).toNat < 2 ^ 53 ∧ (0x40 + 2 ^ 64 * 0xF_FFC0 : Reg).extractLsb' 0 6 = 0 ∧
    t.holds 2 0 ∧ (0 : Nat) < ((s.domWord t.dom 3).extractLsb' 0 32).toNat ∧
    s.route 0 t.dom (s.domWord t.dom 2 + 16 * 0) false false = (s, .bank (poolKey 0 0x80)) ∧
    s.badAt (poolKey 0 0x80) 16 = none ∧ segValid (BitVec.ofNat 128 (s.read (poolKey 0 0x80) 16)) = true := by
  and_intros <;> first | decide +kernel | (constructor <;> decide +kernel)

theorem witness_TranslationFrame :
    let s := mapped State.reset
    s.accs = [] ∧ Memory.wf s.mem = true ∧ (s.lookup 0 0 0x1FFFF).2 = .ok ⟨0x20003, 17, 0x4000⟩ ∧
    (s.lookup 0 0 0x20000).2 = .error ⟨0, 0, 0⟩ ∧
    (s.route 0 0 0x1FFFF true false).2 = .bank 0x3FFFF ∧
    ((s.route 0 0 0x1FFFF true false).1.read 0x4000 8) = 0x2000F := by
  decide +kernel

theorem witness_FullEmptyForms :
    let t := user 0x40 0
    let e := { on t with empties := (wordsOf (poolKey 0 0x40) 64).map (· / 8) }
    let k := poolKey 0 0x40
    Issues (on t) t ∧ Issues e t ∧ t.holds 1 0x40 ∧ t.holds 2 0 ∧ t.takes 3 ∧ (on t).sound k 64 ∧ e.sound k 8 ∧
    Reaches (on t) t 2 0x40 (.ldw true) 64 (on t) k ∧ (on t).allFull k 64 = true ∧ e.allFull k 8 = false ∧
    Reaches (on t) t 2 0x40 (.ldc false) 8 (on t) k ∧ Reaches e t 2 0x40 (.ldc true) 64 e k ∧
    Reaches (on t) t 2 0x40 (.feget true) 64 (on t) k ∧ Reaches (on t) t 2 0x40 (.feset true 0) 64 (on t) k ∧
    Reaches e t 2 0x40 (.stf true 0) 64 e k ∧ e.allEmpty k 64 = true ∧ (on t).allEmpty k 64 = false ∧
    Reaches e t 2 0x40 (.ste false 0) 8 e k ∧
    Reaches (on t) t 2 0x40 (.waitv false 0) 8 (on t) k ∧ (on t).read k 8 = 0 % 2 ^ 64 ∧
    ({ on t with mem := [(k, 1)] }).read k 8 ≠ 0 ∧ (on t).accs = [] := by
  and_intros <;> first | decide +kernel | (constructor <;> decide +kernel)

theorem witness_AtomicsComplete :
    let t := user 0x40 5
    let k := poolKey 0 0x40
    Issues (on t) t ∧ t.holds 1 0x40 ∧ t.holds 2 5 ∧ t.holds 3 0 ∧ (on t).sound k 8 ∧ (on t).accs = [] ∧
    Reaches (on t) t 2 0x40 (.atom .add 8 5 0) 8 (on t) k ∧ Reaches (on t) t 2 0x40 (.atom .cas 4 5 0) 4 (on t) k := by
  and_intros <;> first | decide +kernel | (constructor <;> decide +kernel)

/-- A gather of 64-bit elements at scale 8 over g1 with the indexes of g2. -/
def gather : GForm := ⟨3, 1, 2, false, 2, 3, false, 3, 3, 0, false, 0⟩

theorem witness_GathersComplete :
    let t := thr [0, 0x40, 0, 7]
    Issues (on t) t ∧ t.wait = .none ∧ t.holds gather.base 0x40 ∧ t.holds gather.idx 0 ∧ gather.rel = false ∧
    t.spec = none ∧ (on t).accs = [] ∧ (on t).slow = false ∧ t.keeps gather.d gather.k false 0 ∧ t.holds gather.d 7 ∧
    (t.seg 2).getLsbD 113 = true ∧ (t.seg 2).getLsbD 114 = true ∧ (t.seg 2).getLsbD 116 = true ∧
    gatherElems gather t 0 = [0, 1, 2, 3, 4, 5, 6, 7] ∧
    (∀ i ∈ gatherElems gather t 0, (on t).dvaOk (segBase (t.seg 2) + gatherOffset gather 0x40 0 i) 8 = true ∧
      (gatherOffset gather 0x40 0 i).toNat + 8 ≤ segLimit (t.seg 2) ∧ (gatherOffset gather 0x40 0 i).toNat % 8 = 0 ∧
      (poolOf (segBase (t.seg 2) + gatherOffset gather 0x40 0 i).toNat).map (·.1) = some 0 ∧
      (on t).full (segBase (t.seg 2) + gatherOffset gather 0x40 0 i).toNat = true ∧
      ∀ q ∈ wordsOf (segBase (t.seg 2) + gatherOffset gather 0x40 0 i).toNat 8, (on t).bad q = false) := by
  and_intros
  all_goals first | decide +kernel | (constructor <;> decide +kernel)

/-- A relaxed access of a thread, in flight. -/
def access (t : Thread) (f : Form) (key : Nat) : Access :=
  { n := 0, group := 0, agent := .thread, t := t.id, home := t.id, rel := true, form := f, seg := 2, pRight := false,
    off := 0, dva := BitVec.ofNat 64 key, domain := 0, key := some key, d := some 3, lane := none, stage := .inFlight,
    refusals := 0, issued := 0, tSeg := false, riders := [] }

theorem witness_FencesComplete :
    let t := thr []
    let s := { on t with accs := [access t (.store 8 0) (poolKey 0 0)] }
    Issues (on t) t ∧ Issues s t ∧ (on t).relaxedOf t.id = [] ∧ (on t).copiesOf t.id = [] ∧
    (on t).committedBusy t = false ∧ (∃ a ∈ s.relaxedOf t.id, covers .device 0 a = true) := by
  and_intros <;> first | decide +kernel | (constructor <;> decide +kernel)

/-! ### The box tree -/

/-- The root RCB of the region of `rgn`, in core 0's pool. -/
def root : Nat := poolKey 0 0x1000

/-- No word of a pool is bad where nothing is poisoned. -/
theorem badAt_pool {s : State} {k : Nat} (o n : Nat) (h : s.poisoned = []) (hk : poolBase ≤ k) :
    s.badAt (k + o) n = none := by
  have h1 : decide (paSpace (k + o) < 4) = false := decide_eq_false <| by
    have h2 : poolBase / 2 ^ 48 ≤ (k + o) / 2 ^ 48 := Nat.div_le_div_right (by omega)
    have h3 : poolBase / 2 ^ 48 = 31 := by decide
    simp only [paSpace]; omega
  simp [State.badAt, State.withdrawn, h1, State.bad, h]

/-- A thread of a box at the root RCB. -/
def boxed (cls : Cls) (vals : List Reg) : Thread :=
  { inRegion (thr vals) with cls := cls, rcb := BitVec.ofNat 64 root }

/-- A state with the region and some memory. -/
def tree (t : Thread) (mem : List Host.Cell) : State :=
  { on t with regions := [(1, rgn (BitVec.allOnes 64) 0 false)], mem := mem }

theorem witness_DecisionsPark :
    let t := boxed .rule [0, 2]
    let s := tree t [(root + 0x32, 1)]
    let r := rgn (BitVec.allOnes 64) 0 false
    let big := { r with rules := [2 ^ 366] }
    let q := (({ s with regions := [(1, big)] }.write (root + 0x18) 4 4).write (root + 0x38) 8 (2 ^ 32)).write
      (root + 0x58) 8 0x1000
    let deep := q.write (root + 0x33) 1 48
    Issues s t ∧ t.cls = .rule ∧ s.region? t.regionId = some r ∧ s.route 0 t.dom t.rcb false false = (s, .bank root) ∧
    s.badAt root 128 = none ∧ 0 < s.rcbAxes root ∧ (0 : BitVec 4).toNat < r.rules.length ∧ s.relaxedOf t.id = [] ∧
    s.grains (r.rule (s.rcbRule root)) root 0 < 2 ∧ t.holds 1 2 ∧ (1 : RegNum).toNat < t.win ∧ (thr []).cls ≠ .rule ∧
    stampFixed (q.rcbStamp root) = false ∧ ¬ q.grains (big.rule (q.rcbRule root)) root 0 < 2 ∧ q.rcbDepth root ≠ 48 ∧
    q.midpoint (big.rule (q.rcbRule root)) root 0 = 2 ∧ q.splitCost (big.rule (q.rcbRule root)) root 0
      (kidsOf (q.rcbLo root 0) (q.rcbHi root 0) 2 (q.rcbStamp root) none).length ≤ q.rcbArena root ∧
    deep.rcbDepth root = 48 ∧ ¬ deep.grains (big.rule (deep.rcbRule root)) root 0 < 2 := by
  and_intros <;> first | decide +kernel | (constructor <;> decide +kernel)

theorem witness_JoinsAndReadsComplete :
    let t := boxed .join [0, 5, 6]
    let par := poolKey 0 0x2000
    let s := (tree t [(root + 0x33, 2)]).write (root + 0x40) 8 par |>.write (par + 0x78) 8 (poolKey 0 0x2800)
    let s0 := tree t []
    Issues s t ∧ Issues s0 t ∧ t.holds 1 5 ∧ t.holds 2 6 ∧ t.takes 3 ∧ t.cls = .join ∧
    s.region? t.regionId = some (rgn (BitVec.allOnes 64) 0 false) ∧
    s.route 0 t.dom t.rcb false false = (s, .bank root) ∧ s0.rcbParent root = 0 ∧ s.rcbParent root ≠ 0 ∧
    s.route 0 t.dom (s.rcbParent root) false false = (s, .bank par) ∧ s.badAt root 128 = none ∧
    s.badAt par 128 = none ∧ t.batchOps = 0 ∧ (∀ o n, o < 128 → o + n ≤ 128 → s.badAt (root + o) n = none) ∧ s.rcbJoin par ≠ 0 ∧ s.relaxedOf t.id = [] ∧
    s.route 0 t.dom (s.rcbJoin par + BitVec.ofNat 64 (s.rcbChild root * ruleJoinBytes 0)) true false =
      (s, .bank (poolKey 0 0x2800)) ∧ s.sound (poolKey 0 0x2800) 64 ∧ s.accs = [] ∧
    (∀ o n, o < 128 → o + n ≤ 128 → s.badAt (par + o) n = none) ∧ (1 : BitVec 6).toNat ≤ (s.write (root + 0x33) 1 1).rcbDepth root ∧
    s.rcbDepth root < (3 : BitVec 6).toNat ∧ (boxed .rule []).cls = .rule := by
  and_intros <;> first
    | decide +kernel
    | (constructor <;> decide +kernel)
    | (intro o n _ _; exact badAt_pool o n (by decide +kernel) (by decide +kernel))

/-- A state whose core 0 has a leaf channel 4, and whose pool holds a launch record at 0x100 and one rule at 0x400:
one axis of extent 4, an arena at `arena`, no routine but the leaf's. -/
def launching (t : Thread) (arena : Nat) : State :=
  let c := Core.reset 0
  let s : State := { on t with cores := [(0, { c with chans := c.chans.set 4 { Chan.reset .leaf with ready := true, win := 1 } })] }
  let rec' := poolKey 0 0x100
  let s := (s.write rec' 8 (poolKey 0 0x400)).write (rec' + 8) 8 0x0000_0000_0001_0001
  let s := (s.write (rec' + 0x28) 4 4).write (rec' + 0x48) 8 (2 ^ 64 - 1)
  let s := (s.write (rec' + 0x50) 8 0x8000).write (rec' + 0x58) 8 (2 ^ 64 - 1)
  let s := (s.write (rec' + 0x60) 8 (poolKey 0 0x3000)).write (rec' + 0x68) 8 arena
  mapped (s.write (poolKey 0 0x400) 64 (2 ^ 366 + 31 * 2 ^ 237 + 0xFF * 2 ^ 101 + 0xFF * 2 ^ 109 + 0xFF * 2 ^ 117 + 4 * 2 ^ 54))

/-- The launcher: seg3 covers the page that `mapped` maps. -/
def launcher : Thread := { thr [0, 0x100] with segs := (List.replicate 8 poolSegment).set 3 (mkSeg 0 0x20000 0b011111) }

/-- How far a record's checks go: the code of the first that fails, or none. -/
def launchCode (s : State) (t : Thread) : Option (Option Nat) :=
  match checkX s t 2 0x100 256 64 0b000001 false with
  | .ok dva =>
    match linesX s t 2 dva 4 with
    | .ok (s1, l) =>
      let rec' : LaunchRec := { dva := dva, bits := l.foldr (fun v acc => v.toNat + 2 ^ 512 * acc) 0 }
      match rec'.early t with
      | some c => some (some c)
      | none =>
        match linesX s1 t ((coverSeg t (rec'.word 0).toNat (64 * rec'.count) 0b000001).getD 2) (rec'.word 0) rec'.count with
        | .ok (s2, rules) =>
          match rec'.middle s2 t rules with
          | some c => some (some c)
          | none =>
            match arenaX s2 t rec' with
            | .ok (s3, key) =>
              match rec'.late t key, (s3.route 0 rec'.domain (rec'.word 0x68) true false).2 with
              | some c, _ => some (some c)
              | none, .bank _ => some none
              | none, _ => none
            | .error _ => none
        | .error _ => none
    | .error _ => none
  | .error _ => none

theorem witness_LaunchAndRegionQueryComplete :
    let s := launching launcher 0x8000
    Issues s launcher ∧ launcher.holds 1 0x100 ∧ launcher.takes 2 ∧ launcher.spec = none ∧
    s.relaxedOf launcher.id = [] ∧ s.regions.length < 16384 ∧ launchCode s launcher = some none ∧
    launchCode (launching launcher (poolKey 0 0x8000)) launcher = some (some 8) ∧
    launchCode ((launching launcher 0x8000).write (poolKey 0 0x400) 64 0) launcher = some (some 5) ∧
    launchCode (on launcher) launcher = some (some 1) ∧
    (let t := boxed .leaf [0, 1]
     let q := tree t []
     q.relaxedOf t.id = [] ∧ q.region? 1 = some (rgn (BitVec.allOnes 64) 0 false) ∧ q.region? 2 = none ∧
     q.route 0 0 (rgn (BitVec.allOnes 64) 0 false).root false false = (q, .bank root) ∧
     (∀ o n, o < 128 → o + n ≤ 128 → q.badAt (root + o) n = none)) := by
  and_intros <;> first
    | decide +kernel
    | (constructor <;> decide +kernel)
    | (intro o n _ _; exact badAt_pool o n (by decide +kernel) (by decide +kernel))

/-! ### Messages -/

theorem witness_MessagesComplete :
    let t := { atLevel 1 (thr [0, 0x7FF, 0x0_0000, 0x2_0000, 0x4_0001, 0x1, 0]) with
      segs := [poolSegment, 0] ++ List.replicate 6 poolSegment }
    let c := Core.reset 1
    let s := { on t with
      cores := [(1, { c with chans := c.chans.set 3 { Chan.reset .migration with ready := true, win := 8 } })],
      sys := { Sys.reset with syscall := 0x8000_0000_0004_0400 } }
    Issues s t ∧ t.holds 1 0x7FF ∧ t.holds 2 0 ∧ t.holds 3 0x2_0000 ∧ t.holds 4 0x4_0001 ∧ t.holds 5 1 ∧ t.takes 7 ∧
    t.spec = none ∧ t.holdsRun 1 [0x7FF] ∧ t.level ≠ 0 ∧ s.reachable 0x7FF = false ∧ s.reachable 0 = true ∧
    (s.chan 0 0).cls ≠ .message ∧ (s.chan 0 2).cls = .message ∧ (s.chan 1 4).cls = .message ∧
    (s.link 0 false).length < 4 ∧ s.atollPending 0 = false ∧ segLimit (t.seg 1) = 0 ∧ t.tiles.2 = 0 ∧
    (s.chan 1 3).ready = true ∧ (s.chan 2 3).ready = false ∧ s.migrateClear t.closeOpen = true ∧
    segLimit ((thr []).seg 1) ≠ 0 ∧ s.sys.syscall.getLsbD 63 = true ∧ s.targetOk s.sys.syscall = true ∧
    (on t).sys.syscall.getLsbD 63 = false ∧ s.slow = false ∧ ({ s with slow := true } : State).slow = true := by
  and_intros
  on_goal 9 => exact run_one (by constructor <;> decide +kernel)
  all_goals first | decide +kernel | (constructor <;> decide +kernel)

/-! ### The matrix engine, copies and barriers -/

/-- The value that a computation answers, where it does not stop. -/
def val? {α : Type} : X α → Option α
  | .ok a => some a
  | .error _ => none

/-- An engine thread with bf16 operands and f32 accumulators; g1 is an offset. -/
def engine : Thread :=
  let t := thr [0, 0x4000, 0x8000, 0x9000 + 2 ^ 64 * 64, 0]
  { t with sp := { t.sp with fmta := 0x09, fmtb := 0x09, fmtc := 0x0B } }

/-- A state whose core 0 declares its first tile slot ranked, k = 16. -/
def ranked (t : Thread) : State :=
  { on t with cores := [(0, { Core.reset 0 with
      tiles := [(0, { declared := .ranked 4 true false, kind := .ranked 4 true false, hdr := ⟨[], 0, 0⟩, poison := false })] })] }

theorem witness_EngineOperationsQueue :
    let t := engine
    let s := on t
    Issues s t ∧ s.has t 1 ∧ t.spec = none ∧ (s.core 0).engq.length < 32 ∧ s.openOps t < 16 ∧
    (∀ j ∈ s.slotsOf t 0, s.slotAllowed t j = true) ∧ t.holds 1 0x4000 ∧ (s.tile 0 0).declared = .plain ∧
    val? (memX s t ⟨1, 2, 0⟩ 0x4000 16384 true) = some (BitVec.ofNat 64 (poolKey 0 0x4000)) ∧
    (∀ r ∈ (none : Option RegNum).toList ++ (some (4 : RegNum)).toList, r.toNat < t.win ∧ (t.entry r).poison = false) ∧
    val? (optX t none) = some none ∧ val? (optX t (some 4)) = some (some 0) ∧
    fmtOk t.sp.fmta = true ∧ fmtOk t.sp.fmtb = true ∧ fmtcOk t.sp.fmtc = true ∧
    (match pairShape (fmt8 t.sp.fmta) (fmt8 t.sp.fmtb) with
      | some sh => sh.acc = fmt8 t.sp.fmtc ∧ sh.isInt = false ∧ sh.acc ≠ 0x0C ∧
          val? (mmaChecks s t true true 0x4000 (sh.m * rowBytes sh (fmt8 t.sp.fmta)) { newOp s t [0] with
            slot := 0, mE := sh.m, nE := sh.n, kE := sh.k }) = some (BitVec.ofNat 64 (poolKey 0 0x4000)) ∧
          (val? (memX s t ⟨1, 2, 0⟩ 0x4000 (sh.n * rowBytes sh (fmt8 t.sp.fmtb)) false)).isSome = true
      | none => False) ∧
    (poolOf (poolKey 0 0x4000)).map (·.1) = some 0 ∧
    ((ranked t).tile 0 0).declared = .ranked 4 true false ∧
    t.holds 2 0x8000 ∧ t.holds 3 (0x9000 + 2 ^ 64 * 64) ∧
    (val? (checkX s t 2 0x4000 (512 * 64) 64 0b000001 false)).isSome = true ∧
    (val? (peerRightX s t 2 0x4000 (BitVec.ofNat 64 (poolKey 0 0x4000)) (512 * 64) false)).isSome = true ∧
    (val? (checkX s t 1 0x8000 (128 * 64) 64 0b000010 true)).isSome = true ∧
    (val? (checkX s t 1 0x9000 (4 * 64) 4 0b000010 true)).isSome = true ∧
    (val? (peerRightX s t 1 0x8000 (BitVec.ofNat 64 (poolKey 0 0x8000)) (128 * 64) true)).isSome = true := by
  and_intros <;> first | decide +kernel | (constructor <;> decide +kernel)

/-- A state whose core 0 queues n operations of a thread's batch. -/
def queued (t : Thread) (n : Nat) (batch : BitVec 16) : State :=
  { on t with cores := [(0, { Core.reset 0 with engq := List.replicate n { newOp (on t) t [] with batch := batch } })] }

theorem witness_BatchesComplete :
    let t := engine
    let u := { engine with nextBatch := 8 }
    Issues (queued t 32 0) t ∧ (queued t 32 0).has t 1 ∧ t.takes 5 ∧ t.spec = none ∧
    32 ≤ ((queued t 32 0).core 0).engq.length ∧
    ((queued t 16 0).core 0).engq.length < 32 ∧ 16 ≤ (queued t 16 0).openOps t ∧
    oldestBatch (t.nextBatch + 1) ((queued t 1 0).opsOf t) ≤ 8 ∧
    8 < oldestBatch (u.nextBatch + 1) ((queued u 1 0).opsOf u) ∧
    (queued u 1 1).outstanding u ≤ 7 ∧ 7 < (queued u 1 0).outstanding u := by
  and_intros <;> first | decide +kernel | (constructor <;> decide +kernel)

theorem witness_RankedListsComplete :
    let t := engine
    let s := ranked t
    Issues s t ∧ s.has t 1 ∧ t.spec = none ∧ s.slotAllowed t 0 = true ∧ s.slotBusy t (s.slotsOf t 0) false = false ∧
    (s.tile 0 0).declared = .ranked (4 : BitVec 3).toNat true false ∧
    (∀ q ∈ s.slotsOf t 0, s.slotAllowed t q = true) ∧ (s.core 0).engq.length < 32 ∧ s.openOps t < 16 ∧
    t.holds 1 0x4000 ∧ t.holds 2 0x8000 ∧
    (val? (memX s t ⟨1, 2, 0⟩ 0x4000 (imageBytes 4) true)).isSome = true ∧
    val? (memX s t ⟨1, 2, 0⟩ 0x4000 8 false) = some (BitVec.ofNat 64 (poolKey 0 0x4000)) ∧
    s.relaxedOf t.id = [] ∧ s.route 0 t.dom (BitVec.ofNat 64 (poolKey 0 0x4000)) false false =
      (s, .bank (poolKey 0 0x4000)) ∧ s.sound (poolKey 0 0x4000) 8 ∧
    (let q := { s with mem := [(poolKey 0 0x4000, 4 + 8)] }
     let cfg : Word := BitVec.ofNat 64 (q.read (poolKey 0 0x4000) 8)
     cfg.toNat % 8 ≤ 6 ∧ cfg.toNat / 8 % 4 = 1) ∧
    (val? (memX s t ⟨1, 2, 0⟩ 0x4000 (imageBytes 4) false)).isSome = true ∧
    s.slotAllowed t 1 = true ∧ s.slotBusy t (s.slotsOf t 0 ++ s.slotsOf t 1) false = false ∧
    t.takes 5 ∧ s.slotBusy t (s.slotsOf t 0) true = false ∧
    (∀ q ∈ listSlots 0 4 0, (s.tile 0 q).poison = false) ∧
    ((on t).tile 0 0).declared = .plain ∧ (on t).slotAllowed t 15 = true := by
  and_intros <;> first | decide +kernel | (constructor <;> decide +kernel)

/-- A copy from seg2 to seg3 on channel 0, with g1 the destination, g2 the source and g3 the length. -/
def copyForm : CopyForm := ⟨1, 3, 2, 2, 3, none, false, .keep, 0⟩

/-- A copy of a thread, and a state whose channel 0 holds some copies. -/
def copyOp (t : Thread) (mode : CopyMode) (landed : Nat) (bar : Option (Word × Bool)) : CopyOp :=
  { n := 0, t := t.id, domain := 0, src := BitVec.ofNat 64 (poolKey 0 0), dst := BitVec.ofNat 64 (poolKey 0 0x1000),
    baseS := BitVec.ofNat 64 (poolKey 0 0), baseD := BitVec.ofNat 64 (poolKey 0 0), pS := false, pD := false,
    rows := 1, rowLen := 64, sStride := 0, dStride := 0, mode := mode, segS := 2, segD := 3, segK := 0,
    baseK := BitVec.ofNat 64 (poolKey 0 0), pK := false, bar := bar,
    bnd := none, two := false, fill := 0, started := true, landed := landed, buf := [], waitingOn := none }

def copying (t : Thread) (l : List CopyOp) : State :=
  { on t with cores := [(0, { Core.reset 0 with copyq := [l, [], [], []] })] }

theorem witness_CopiesComplete :
    let t := thr [0, 0x1000, 0x2000, 64]
    let s := on t
    let full := copying t (List.replicate 8 (copyOp t .keep 64 none))
    let o := { copyOp t .keep 0 none with
      src := segBase (t.seg 2) + 0x2000, dst := segBase (t.seg 3) + 0x1000, started := false }
    Issues s t ∧ t.spec = none ∧ t.holds 1 0x1000 ∧ t.holds 2 0x2000 ∧ t.holds 3 64 ∧
    val? (barX s t copyForm 0) = some none ∧
    copyTraps s t copyForm o 0x1000 0x2000 (ofScalar 64) 0 1 = [] ∧ copyRouteTraps s t copyForm o 0x1000 0x2000 0 1 = [] ∧
    (firstTrap (copyTraps s t copyForm { o with dst := BitVec.ofNat 64 (poolKey 0 0x10_0000) } 0x10_0000 0x2000
      (ofScalar 64) 0 1)).isSome = true ∧
    (let v := { t with segs := t.segs.set 3 (mkSeg 0 0x20000 0b001111) }
     let q := (mapped (on v)).write 0x4000 8 (5 * 2 ^ 48 + 0x20003)
     v.holds 1 0x1000 ∧ copyTraps q v copyForm { o with dst := 0x1000 } 0x1000 0x2000 (ofScalar 64) 0 1 = [] ∧
     (firstTrap (copyRouteTraps q v copyForm { o with dst := 0x1000 } 0x1000 0x2000 0 1)).isSome = true) ∧ (((s.core 0).copyq.getD 0 []).length < 8) ∧
    Issues full t ∧ 8 ≤ ((full.core 0).copyq.getD 0 []).length ∧ s.copiesOn t.id 3 = [] ∧ full.copiesOn t.id 0 ≠ [] ∧
    (match (full.copiesOn t.id 0).getLast? with
      | some p => ((64 : Reg).extractLsb' 0 49).toNat ≤ p.landed ∧ p.landed < ((65 : Reg).extractLsb' 0 49).toNat
      | none => False) := by
  and_intros <;> first | decide +kernel | (constructor <;> decide +kernel)

theorem witness_BarriersComplete :
    let t := thr [0, 0x40, 0xFFFFF]
    let k := poolKey 0 0x40
    let s := on t
    let q := s.writeBar k ⟨3, 1, 15, 0, 0⟩
    Issues s t ∧ Issues q t ∧ t.holds 1 0x40 ∧ s.sound k 16 ∧ q.sound k 16 ∧ s.accs = [] ∧ q.accs = [] ∧
    t.holds 2 0xFFFFF ∧ Reaches s t 2 0x40 (.barinit 0xFFFFF) 16 s k ∧
    1 ≤ ((0xFFFFF : Reg).extractLsb' 0 64).toNat ∧ ((0xFFFFF : Reg).extractLsb' 0 64).toNat ≤ 1048575 ∧ t.takes 3 ∧
    Reaches s t 2 0x40 (.bararr false 0) 16 s k ∧ (s.readBar k).arr = 0 ∧ (q.readBar k).arr ≠ 0 ∧
    Reaches q t 2 0x40 (.bararr true 0xFFFFF) 16 q k ∧ Reaches s t 2 0x40 (.barwait 15) 16 s k ∧
    (s.readBar k).gen ≠ 15 ∧ (q.readBar k).gen = 15 := by
  and_intros <;> first | decide +kernel | (constructor <;> decide +kernel)

/-! ### System instructions -/

/-- A second thread, in slot 1 of core 0. -/
def other (st : SlotState) : Thread := { thr [0, 77] with id := 1, state := st }

/-- The issuing thread beside another. -/
def beside (t u : Thread) : State := { on t with threads := [(0, t), (1, u)] }

theorem witness_SpecialRegisters :
    let t := atLevel 1 (thr [0, 0x09, 0x0B, 0x07])
    let u := atLevel 2 (thr [0, 0x09, 0x0B, 0x07, 2 ^ 40])
    Issues (on t) t ∧ Issues (on u) u ∧ Issues (on (thr [])) (thr []) ∧ (thr []).level = 0 ∧ 1 ≤ t.level ∧ u.level = 2 ∧
    u.holds 4 (2 ^ 40) ∧ ((2 ^ 40 : Reg).extractLsb' 0 64).extractLsb' 21 43 ≠ 0 ∧ u.holds 0 0 ∧
    t.holds 1 0x09 ∧ t.holds 2 0x0B ∧ t.holds 3 0x07 ∧ t.takes 4 ∧
    fmtOk 0x09 = true ∧ fmtOk 0x07 = false ∧ fmtcOk 0x0B = true ∧ fmtcOk 0x09 = false ∧
    0x020 ≤ (0x0FF : BitVec 12).toNat ∧ (0x100 : Nat) ≤ (0x100 : BitVec 12).toNat ∧ (0x110 : BitVec 12).toNat ≤ 0x110 ∧ 0x110 < (0x111 : BitVec 12).toNat := by
  and_intros <;> first | decide +kernel | (constructor <;> decide +kernel)

theorem witness_SystemWritesComplete :
    let t := atLevel 2 (thr [0, 8, 0x3FF, 0x1_0000, 0])
    Issues (on t) t ∧ t.level = 2 ∧ t.holds 1 8 ∧ t.holds 2 0x3FF ∧ (thr []).level ≠ 2 ∧
    Issues (on (thr [])) (thr []) ∧
    (0x3FF < 0x400 ∧ 1 ≤ 8 ∧ 8 ≤ 16) ∧ t.holds 4 0 ∧ ¬ (0x400 ≤ ((0x3FF : Reg).extractLsb' 0 64).toNat ∨
      (1 ≤ ((0 : Reg).extractLsb' 0 5).toNat ∧ ((0 : Reg).extractLsb' 0 5).toNat ≤ 16)) ∧ (on t).reachable 0x3FF = true ∧ ((on t).core 0x3FF).acc ≠ 8 ∧
    ((on t).core 0x3FF).engq = [] ∧
    (∀ r ∈ (on t).poolUse 0x3FF, apart (0x20_0000 - 0x1_0000 * 8) (0x1_0000 * 4) r.1 r.2 = true) ∧
    (∀ r ∈ (on t).tileUse 0x3FF, r.2 = 0) ∧ Memory.wf (on t).mem = true ∧ (on t).ringBusy 0 = false ∧
    paSpace 0x20000 < 5 ∧ chanWordOk 0x1_0000_0000 4 .message = true := by
  and_intros <;> first | decide +kernel | (constructor <;> decide +kernel)

theorem witness_ThreadAccessCompletes :
    let t := atLevel 2 (thr [0, 1, 5])
    let s := beside t (other .held)
    Issues s t ∧ t.holds 1 1 ∧ t.holds 2 5 ∧ t.takes 3 ∧ t.takes 4 ∧ s.thread? 1 = some (other .held) ∧
    isCore (1 : Ident).core.toNat = true ∧
    (on t).thread? 1 = none ∧ s.targetClear 1 = true ∧ (beside t (other .parked)).thread? 1 = some (other .parked) ∧
    (other .held).win = 32 ∧ (thr []).level = 0 ∧ (0x1F : BitVec 12).toNat < (other .held).win ∧
    ((other .held).entry 0x1F).pres ≠ .opened ∧
    ({ other .held with regs := ((other .held).setPres 2 .opened).regs } : Thread).entry 2 =
      { val := 0, pres := .opened, poison := false } := by
  and_intros <;> first | decide +kernel | (constructor <;> decide +kernel)

theorem witness_HoldResumeKillComplete :
    let t := atLevel 2 (thr [0, 1, 1])
    let self := atLevel 1 (thr [0, 0, 1])
    let s := beside t (other .trapped)
    Issues s t ∧ s.cur = t.id ∧ t.holds 1 1 ∧ t.holds 2 1 ∧ t.takes 3 ∧ s.targetClear 1 = true ∧
    Issues (on self) self ∧ self.holds 1 0 ∧ self.holds 2 1 ∧ 1 ≤ self.level ∧ (1 : Reg).getLsbD 0 = true ∧
    self.state = .ready ∧ s.thread? 1 = some (other .trapped) ∧ (1 : Ident) ≠ t.id ∧
    s.region? (other .trapped).regionId = none ∧ (other .trapped).cls ≠ .leaf ∧
    ({ rgn 0 0 false with hold := .finish } : Region).hold ≠ .free ∧ (other .trapped).rcb = 0 ∧ (other .trapped).wait = .none ∧
    isCore (1 : Ident).core.toNat = true ∧ (other .trapped).killed = none ∧ s.killsOf 1 = [] ∧ (other .trapped).image = [] ∧
    ({ other .parked with killed := some ⟨0, .ready, .none, []⟩ } : Thread).killed ≠ none ∧
    s.accs = [] ∧ s.copiesOf 1 = [] ∧ (s.core 0).engq = [] ∧
    (beside t (other .ready)).thread? 1 = some (other .ready) ∧ (other .ready).dbg = false ∧
    ({ other .ready with rcb := 0x1000 } : Thread).rcb ≠ 0 ∧ (on t).thread? 1 = none := by
  and_intros <;> first | decide +kernel | (constructor <;> decide +kernel)

/-- A state with a spill arena in the page that `mapped` maps, with room for one thread's image. -/
def spillable (t u : Thread) : State :=
  let s := mapped (beside t u)
  { s with sys := { s.sys with spillBase := 0x8000, spillLimit := BitVec.ofNat 64 (s.contextBytes u) } }

/-- The job of a context of which some lines are done. -/
def jobAt (restore : Bool) (done : Nat) (read : Bool) : CtxJob :=
  { t := 1, restore := restore, addr := 0x8000, lines := 4, head := 3, done := done, read := read, keepSlot := true,
    saved := [], home := 1 }

theorem witness_SpillAndRegionHoldComplete :
    let t := atLevel 2 (thr [0, 1])
    let u := other .held
    let s := spillable t u
    let leaf := { other .ready with cls := .leaf, rcb := BitVec.ofNat 64 root, sp := { (other .ready).sp with region := 1 } }
    let r := rgn (BitVec.allOnes 64) 0 false
    let q := { beside t leaf with regions := [(1, r)] }
    let v := { thr [] with state := .parked, wait := .spilling 1 2 }
    let w := { beside v u with jobs := [jobAt false 4 false], ev := some (.spillWrite 1) }
    Issues s t ∧ t.level = 2 ∧ t.holds 1 1 ∧ t.takes 2 ∧ s.thread? 1 = some u ∧ u.state = .held ∧
    isCore (1 : Ident).core.toNat = true ∧
    s.spillReady u = true ∧ (s.spillStart u true).2.isSome = true ∧
    (({ s with sys := { s.sys with spillLimit := 0 } } : State).spillStart u true).2 = none ∧ (on t).thread? 1 = none ∧ (beside t (other .ready)).thread? 1 = some (other .ready) ∧
    (on t).region? 1 = none ∧ Issues q t ∧ q.region? 1 = some r ∧ r.hold = .free ∧
    (q.holdRegion r false).regionQuiet 1 = true ∧ (q.holdRegion r true).regionQuiet 1 = false ∧
    ({ r with hold := .hold } : Region).hold ≠ .free ∧
    w.jobOf 1 = some (jobAt false 4 false) ∧ w.thread? 1 = some u ∧ u.killed = none ∧ u.cls ≠ .leaf ∧ v.id ≠ 1 ∧
    w.thread? 0 = some v ∧ v.image = [] ∧
    (∀ p ∈ w.threads, (p.2.awaitsSpill 1).isSome = true → p.2 = v) ∧
    (∃ c ∈ ({ q with spilled := [{ addr := 0, bytes := 0, keep := leaf }] } : State).spilled,
      c.keep.regionId = 1 ∧ c.keep.cls = .leaf) := by
  and_intros <;>
    first
    | decide +kernel
    | (constructor <;> decide +kernel)

theorem witness_ReadbackAndPageServiceComplete :
    let t := { inRegion (atLevel 2 (thr [0, BitVec.ofNat 512 root, 0x20000])) with rcb := 0 }
    let s := tree t []
    Issues s t ∧ t.holds 1 (BitVec.ofNat 512 root) ∧ t.holds 2 0x20000 ∧ t.takes 3 ∧ t.takes 4 ∧ t.level = 2 ∧
    s.relaxedOf t.id = [] ∧ root % 128 = 0 ∧ s.arenaOf t (BitVec.ofNat 64 root) = some (rgn (BitVec.allOnes 64) 0 false) ∧
    s.route 0 0 (BitVec.ofNat 64 root) false false = (s, .bank root) ∧ s.badAt root 128 = none ∧
    s.arenaOf t (BitVec.ofNat 64 (root + 128)) = none ∧ (2 : BitVec 2) ≠ 3 ∧
    (1 : Word).getLsbD 22 = false ∧ (1 : Word).extractLsb' 17 2 ≠ 2 ∧ (thr []).level ≠ 2 := by
  and_intros <;> first | decide +kernel | (constructor <;> decide +kernel)

/-! ### Events -/

/-- A state in which an event is about to happen to a thread. -/
def event (e : Event) (t : Thread) : State := { on t with ev := some e }

/-- The thread waits. -/
def waiting (t : Thread) (w : Wait) : Thread := { t with state := .parked, wait := w }

/-- The record of a stamped leaf. -/
def stampedLeaf : Thread :=
  { boxed .leaf [] with spec := some { anc := 0x2000, cluster := 0, stores := [], reads := [], fwd := [], direct := false, committing := false } }

/-- A state with a leaf channel 4 of core 0, a window of 8, and a message to it. -/
def withMsg (t : Thread) (m : Msg) : State :=
  let c := Core.reset 0
  { on t with cores := [(0, { c with chans := c.chans.set 4 { Chan.reset .message with ready := true, win := 0, npay := 1 } })],
              mesh := [m] }

def msg (core : CoreId) (chan : BitVec 5) (body : MsgBody) : Msg :=
  { n := 9, core := core, chan := chan, src := some 0, domain := 0, kept := false, body := body }

theorem witness_ThreadEvents_ends :
    let t := waiting (thr []) .endDrain
    let b := waiting (boxed .leaf []) .endDrain
    let r := { rgn (BitVec.allOnes 64) 0 false with
      boxes := [{ addr := BitVec.ofNat 64 root, parent := 0, ended := false, holder := .device, pinned := none, stamped := none, axis := none }] }
    let sb := { event (.threadRetire 0) b with regions := [(1, r)], mem := [(root + 0x30, 5)] }
    let d := waiting (boxed .rule []) (.decision .prune)
    let sd := { event (.decisionTakesEffect 0) d with regions := [(1, r)], mem := [(root + 0x30, 1)] }
    let p := waiting (thr []) (.pause 16)
    let sp := { event (.pauseExpiry 0) p with cyc := 15 }
    let v := waiting (thr []) (.tlbinv 0 0x20000 0)
    (event (.threadRetire 0) t).thread? 0 = some t ∧ t.image = [] ∧ (event (.threadRetire 0) t).drained t = true ∧
    t.spec = none ∧ t.pending = [] ∧ b.pending = [] ∧ d.pending = [] ∧ t.rcb = 0 ∧ sb.drained b = true ∧ b.rcb ≠ 0 ∧ b.cls ≠ .rule ∧ sb.region? b.regionId = some r ∧
    (sb.settleBoxAt r b.rcb stDone).2 = true ∧ sd.drained d = true ∧ sd.region? d.regionId = some r ∧
    (sd.rcbKey (r.holderOf d.rcb) r d.rcb true).2 = some root ∧
    (sd.applyDecision r (r.noteOf d.rcb) root 0 none .prune).2 = true ∧
    16 ≤ sp.cyc + 1 ∧ (sp.runCount 0 + 1) % 16 = (0 : Ident).slot / 4 ∧
    (event (.tlbinvComplete 0) v).opsMapped 0 0x20000 0 0 = false ∧
    (event (.tlbinvComplete 0) v).accsMapped 0 0x20000 0 0 = false := by
  decide +kernel

theorem witness_ThreadEvents_moves :
    let t := waiting (thr []) (.unit 1)
    let c := Core.reset 1
    let s := { event (.unitMigration 0) t with
      sys := { Sys.reset with units := { cores := [(0, 0x101)], straits := [], noChannels := [], noPorts := [] } } }
    let q := { s with cores := [(1, { c with chans := c.chans.set 3 { Chan.reset .migration with ready := true } })] }
    let old := waiting stampedLeaf .oldest
    let line : Buffered := { n := 5, key := poolKey 0 0x40, dva := BitVec.ofNat 64 (poolKey 0 0x40), len := 8, data := 7 }
    let late := old.withStores [line]
    let leaf := { boxed .leaf [] with state := .ready }
    let held := { rgn (BitVec.allOnes 64) 0 false with hold := .hold }
    let u := { other .held with wbase := 2016 }
    let crowd := (List.range 16).map fun i => (i + 2, { thr [] with id := BitVec.ofNat 17 (i + 2), wbase := 128 * i, regs := freshRegs (if i = 15 then 96 else 128) })
    let w := withMsg (thr []) (msg 0 4 (.user [] none))
    let full := { spillable (thr []) u with
      ev := some (.spillWrite 1), mesh := w.mesh, cores := w.cores, threads := (1, u) :: crowd }
    let small := ((List.range 64).filter (· != 1)).map fun i => (i, { thr [] with id := BitVec.ofNat 17 i, wbase := 0, regs := [] })
    let packed := { full with threads := (1, u) :: small }
    s.thread? 0 = some t ∧ s.migrateClear t = true ∧
    (((moveOrder 0).filter fun c => (s.cap c).getLsbD 1).take 16).find? (fun c => s.accepts c t.win) = none ∧
    (((moveOrder 0).filter fun c => (q.cap c).getLsbD 1).take 16).find? (fun c => q.accepts c t.win) = some 1 ∧
    (q.place 1 t.win).isSome = true ∧
    old.wait = .oldest ∧ old.speculative = true ∧ (event (.becomeOldest 0) old).isOldest old = true ∧
    (event (.becomeOldest 0) old).issuedOver 0 = true ∧ old.buffered = [] ∧ late.buffered = [line] ∧ (event (.becomeOldest 0) late).isOldest late = true ∧
    (((event (.becomeOldest 0) late).setThread late.commits).writeOne late line).2 = true ∧
    ((((event (.becomeOldest 0) late).setThread late.commits).writeOne late line).1.thread? 0).isSome = true ∧ late.id = 0 ∧
    (((event (.becomeOldest 0) old).goDirect old).thread? 0).any (fun v => v.state = .parked && v.image = []) = true ∧
    ({ event (.hold 0 false) leaf with regions := [(1, held)] }).region? leaf.regionId = some held ∧
    held.hold = .hold ∧ leaf.cls = .leaf ∧
    packed.freeSlot 0 = none ∧ (∃ n ∈ packed.wants 0, n.1 = true) ∧ packed.spillReady u = true ∧ packed.helps u (packed.wants 0) = true ∧
    packed.jobOf 1 = none ∧ packed.jobs = [] ∧ full.jobs = [] ∧ (packed.spillStart u false).2.isSome = true ∧
    full.thread? 1 = some u ∧ u.state = .held ∧ full.spillReady u = true ∧ full.helps u (full.wants 0) = true ∧
    (full.freeSlot 0).isSome = true ∧ (∃ n ∈ full.wants 0, full.freeRun 0 n.2 = none) ∧
    (full.spillStart u true).2.isSome = true := by
  and_intros <;>
    first
    | decide +kernel

theorem witness_ThreadEvents_lines :
    let u := { other .held with regs := freshRegs 8, pool := some (0x1000, 64) }
    let s (restore : Bool) (done : Nat) (read : Bool) : State :=
      { spillable (thr []) u with jobs := [jobAt restore done read] }
    (s false 0 false).jobOf 1 = some (jobAt false 0 false) ∧ (s false 0 false).thread? 1 = some u ∧ u.killed = none ∧
    ((s false 0 false).agentKey .spill 0 0 0x8000 true).2.isSome = true ∧
    ((s false 3 true).agentKey .spill 0 0 (0x8000 + 192) true).2.isSome = true ∧
    ((s true 1 false).agentKey .spill 0 0 (0x8000 + 64) false).2.isSome = true ∧
    ((s true 3 false).agentKey .spill 0 0 (0x8000 + 192) false).2.isSome = true := by
  and_intros <;> decide +kernel

/-- FORMAT at offset 0 of an image names a window of 8 (R297): the first access of a restore places the context. -/
theorem witness_ThreadEvents_restore :
    let u := { ({ other .held with regs := freshRegs 8 } : Thread).written 0x8000 [] with rcb := 0 }
    let s0 := { spillable (thr []) u with arena := [(0x8000, 1152)] }
    let s := s0.writeBytes ((s0.peek 0 0x8000).getD 0) [8]
    (match s.contexts.filter fun y => y.1.keep.id = 1 with
      | (x, kept) :: _ => s.ctxMay x kept 0 && (s.peek 0 x.addr).isSome && (s.jobOf 1).isNone &&
          (s.restoreOn x.keep x.addr x.bytes 0 (x.slotOn kept 0)).any fun s2 => s2.jobs.length != s.jobs.length
      | [] => false) = true := by
  decide +kernel

theorem witness_MessageEvents :
    let m := msg 0 4 (.user [5] none)
    let s := { withMsg (thr []) m with ev := some (.messageArrival 9) }
    let far := withMsg (thr []) (msg 0x7FF 4 (.user [5] none))
    let off := withMsg (thr []) (msg 0 5 (.user [5] none))
    let trap := withMsg (thr []) (msg 0 4 (.trap 1))
    let ctx := withMsg (thr []) (msg 0 4 (.context (thr []) none (BitVec.allOnes 64)))
    let p := waiting (thr []) .page
    let w := withMsg p (msg 0 0 (.wake 0))
    let buf := { s with mesh := [], cores := s.cores.map fun (x : Nat × Core) => (x.1, { x.2 with inbuf := [m] }) }
    let mig := withMsg (thr []) (msg 0 3 (.context (thr []) none (BitVec.allOnes 64)))
    let crowd := { off with cores := off.cores.map fun (x : Nat × Core) => (x.1, { x.2 with inbuf := List.replicate 60 m }) }
    let two2 := { s with cores := s.cores.map fun (x : Nat × Core) => (x.1, { x.2 with
      chans := x.2.chans.set 6 { Chan.reset .message with ready := true, win := 0, npay := 1 },
      inbuf := [{ msg 0 6 (.user [5] none) with n := 7 }] }) }
    let two := withMsg (thr []) (msg 0 2 (.user [5] none))
    let zero := withMsg (thr []) (msg 0 0 (.user [5] none))
    let ch := waiting (thr []) (.chset 9 31)
    let st := { withMsg ch (msg 0 4 (.chset 0xF)) with ev := some (.messageArrival 9) }
    s.arriving 9 = some m ∧ s.reachable 0 = true ∧ (s.unmesh 9).startable m = true ∧ (s.core 0).inbuf = [] ∧
    ((s.unmesh 9).chan 0 4).cls ≠ .wake ∧ (s.unmesh 9).nextBuffered 0 = none ∧ m.chan ≠ 2 ∧
    two.arriving 9 = some (msg 0 2 (.user [5] none)) ∧ ((zero.unmesh 9).chan 0 0).cls = .wake ∧
    ((off.unmesh 9).chan 0 5).cls ≠ .wake ∧ st.arriving 9 = some (msg 0 4 (.chset 0xF)) ∧ st.thread? 0 = some ch ∧
    (msg 0 4 (.chset 0xF)).src = some 0 ∧ ch.image = [] ∧
    far.arriving 9 = some (msg 0x7FF 4 (.user [5] none)) ∧ far.reachable 0x7FF = false ∧
    (off.unmesh 9).startable (msg 0 5 (.user [5] none)) = false ∧
    (trap.unmesh 9).startable (msg 0 4 (.trap 1)) = true ∧ ctx.passed (BitVec.allOnes 64) = false ∧
    (ctx.unmesh 9).freeIdent 0xFB00 0x1_0400 = some 0x1_0400 ∧ (ctx.unmesh 9).thread? 0 = some (thr []) ∧
    (mig.unmesh 9).startable (msg 0 3 (.context (thr []) none (BitVec.allOnes 64))) = false ∧
    ((mig.unmesh 9).chan 0 3).cls ≠ .wake ∧ (((mig.unmesh 9).core 0).inbuf.filter (·.kept)).length < 4 ∧
    (let c := (off.unmesh 9).core 0
     c.inbuf.length - (c.inbuf.filter (·.kept)).length < 60) ∧
    60 ≤ (crowd.core 0).inbuf.length - ((crowd.core 0).inbuf.filter (·.kept)).length ∧
    (two2.unmesh 9).startable m = true ∧ (∀ x ∈ ((two2.unmesh 9).core 0).inbuf, x.chan ≠ m.chan) ∧
    (two2.unmesh 9).nextBuffered 0 ≠ none ∧ p.killed = none ∧
    (w.unmesh 9).thread? (mkIdent 0 0) = some p ∧ p.image = [] ∧ buf.nextBuffered 0 = some m := by
  decide +kernel

theorem witness_MessageEvents_replies :
    let t := { thr [] with regs := ((thr []).setPres 31 .awaiting).regs }
    let f : Forward := { n := 3, old := 5, new := 6, regs := [], stop := 4096 }
    let d : Deposit := { slot := 0, reg := 31, val := 9 }
    let o := { thr [] with regs := ((thr []).setPres 31 .opened).regs, id := 0x40 }
    let ring := { event (.depositLanding 0 false) (thr []) with
      threads := [(0x40, o)], cores := [(0, { Core.reset 0 with next := [d] })] }
    (event (.syscallReply 0 31 7) t).forwards = [] ∧ (event (.syscallReply 0 31 7) t).thread? 0 = some t ∧
    (31 : RegNum).toNat < t.win ∧ (t.entry 31).pres = .awaiting ∧
    ({ event (.forwardingEntryExpiry 3) t with forwards := [f], cyc := 4096 }).forwards.find? (fun g => g.n = 3) = some f ∧
    f.stop ≤ 4096 ∧ ring.link 0 false = [d] ∧ ring.ringCore 0 false = 1 ∧ ring.reachable 1 = true ∧
    ring.thread? (mkIdent 1 0) = some o ∧ ring.openFor o 31 = true ∧ o.state = .ready ∧ o.win ≤ (127 : RegNum).toNat ∧
    ({ ring with threads := [] }).thread? (mkIdent 1 0) = none := by
  decide +kernel

theorem witness_AccessEvents :
    let t := waiting (thr []) (.access (some 3) 0)
    let a := { access t (.load 8 false) (poolKey 0 0x40) with rel := false }
    let s := { event (.bankAccess 0) t with accs := [a] }
    let answered := { a with stage := .done 7 }
    let r := { access (thr []) (.load 8 false) (poolKey 0 0x40) with stage := .done 7 }
    let refused := { a with stage := .refused 5 }
    s.accs.find? (fun a => a.n = 0) = some a ∧ s.thread? a.t = some t ∧ a.agent = .thread ∧ a.stage = .inFlight ∧
    a.key.isSome = true ∧ a.atPeer = false ∧ s.inOrder a = true ∧ a.tSeg = false ∧
    ({ s with cyc := 2 ^ 24 }).outside { a with key := some (5 * 2 ^ 48) } = true ∧ a.issued + 2 ^ 24 ≤ 2 ^ 24 ∧
    ({ s with accs := [answered] }).group 0 = [answered] ∧ answered.lane = none ∧ t.image = [] ∧ t.killed = none ∧ t.id = a.t ∧ t.spec = none ∧
    t.wait = .access (some 3) 0 ∧ r.rel = true ∧ r.d = some 3 ∧ r.t = r.home ∧
    ({ s with accs := [{ r with home := 5 }] }).group 0 = [{ r with home := 5 }] ∧ ({ r with home := 5 } : Access).t ≠ 5 ∧
    refused.stage = .refused 5 ∧ t.state = .parked ∧ (thr []).state = .ready ∧ (thr []).pending = [] ∧ 5 ≤ ({ s with cyc := 5 }).cyc ∧ t.sp.febudget ≠ 0 ∧
    ({ t with sp := { t.sp with febudget := 0 } } : Thread).sp.febudget = 0 := by
  decide +kernel

theorem witness_PageAndErrorEvents :
    let t := waiting (thr []) (.access (some 3) 0)
    let a := { access t (.load 8 false) 0 with rel := false, dva := 0x20000, key := none }
    let s := { mapped (event (.pageFault 0) t) with accs := [a] }
    let p : Dup := { home := 0x20000, bits := 17, copies := [(1, 0x40000)], collapsing := none, pteKey := 0x4000 }
    let q := { mapped (event (.collapse 0x20000) (thr [])) with
      dups := [p], accs := [{ access (thr []) (.store 8 0) 0x20000 with stage := .collapsing }] }
    a.riders = [] ∧ s.roomForSkerries 0x20000 (4 * 2 ^ 48) (2 ^ 17) = true ∧
    ((0x20000, 2 ^ 17) ∈ [(0x20000, 2 ^ 17)] ∧ 0x20000 % 2 ^ 17 = 0) ∧ a.withdrawable = false ∧
    a.dva.toNat < poolBase ∧ t.onAccess = true ∧ t.killed = none ∧ s.walk 0 0x20000 = .error ⟨0, 0, 0⟩ ∧
    (0, 0x20000, true) ∈ ({ s with rewalks := [(0, 0x20000, true)] }).rewalks ∧
    q.collapseOf 0x20000 = some p ∧
    ({ q with dups := [{ p with collapsing := some [0, 3] }] }).dupOf 0x20000 = some { p with collapsing := some [0, 3] } ∧
    (3 : Nat) ∈ ([0, 3] : List Nat) ∧ (0x20000 % 2 ^ 17 = 0 ∧ paSpace 0x20000 < 5 ∧ paSpace (4 * 2 ^ 48) < 5) ∧
    Memory.wf s.mem = true ∧ straitOf 0 = 0 ∧ (on (thr [])).thread? 0 = some (thr []) ∧
    State.reset.sys.errlog = [] ++ 0 :: List.replicate 255 0 ∧ (0 : Word).getLsbD 63 = false ∧
    15 < (on (thr [])).tileSlots 0 := by
  decide +kernel

/-- The table of what a spill may leave: a younger leaf that has read a forwarded store of a spilled leaf is rolled
back with it (R94, R296). -/
theorem test_forwarded_leaf_rolls_back :
    let sp : Stamped := { anc := 0x2000, cluster := 0, stores := [], reads := [], fwd := [], direct := false, committing := false }
    let old := { stampedLeaf with id := 1, sp := { stampedLeaf.sp with stamp := 4 } }
    let young := { stampedLeaf with id := 2, sp := { stampedLeaf.sp with stamp := 8 }, spec := some { sp with fwd := [1] } }
    let s := { on (thr []) with threads := [(1, old), (2, young)] }
    (s.youngerLeaves old).map (·.id) = [2] ∧ forwardSet (s.youngerLeaves old) [1] = [1, 2] ∧
    forwardSet (s.youngerLeaves old) [7] = [7] := by
  decide +kernel

/-- A rule with a rule routine on channel 5, a leaf on 4 and a join routine on 6, one grain an axis. -/
def fullRule : BitVec 512 :=
  2 ^ 366 + 31 * 2 ^ 237 + 0xFF * 2 ^ 101 + 0xFF * 2 ^ 109 + 0xFF * 2 ^ 117 + 2 ^ 88 + 6 * 2 ^ 83 + 4 * 2 ^ 54 + 2 ^ 29 +
    5 * 2 ^ 24

/-- A state in which one box of region 1 stands in a state, and core 0 has the routines' channels. -/
def boxState (e : Event) (code : Nat) (deadline : Nat) (rule : BitVec 512 := fullRule) : State :=
  let c := Core.reset 0
  let ready (cls : Cls) : Chan := { Chan.reset cls with ready := true }
  let r := { rgn (BitVec.allOnes 64) 0 false with
    rules := [rule],
    boxes := [{ addr := BitVec.ofNat 64 root, parent := 0, ended := false, holder := .device, pinned := none, stamped := none, axis := none }] }
  let s : State := { State.reset with
    ev := some e, cyc := 100, regions := [(1, r)],
    cores := [(0, { c with chans := ((c.chans.set 4 (ready .leaf)).set 5 (ready .rule)).set 6 (ready .join) })] }
  ((s.write (root + 0x30) 8 (code + 2 ^ 16 + 3 * 2 ^ 32)).write (root + 0x50) 8 deadline).write (root + 0x18) 4 1

/-- The region, the box and the note of `boxState`. -/
def boxReady (s : State) (kind : Ready) : Bool :=
  match s.region? 1 with
  | some r =>
    match r.note (BitVec.ofNat 64 root) with
    | some b => decide (s.readyOn r b 0 = some kind) && s.turnOf 1 (s.levelOf r b) &&
        decide ((s.rcbKey b.holder r b.addr true).2 = some root) && decide (b.addr = BitVec.ofNat 64 root) &&
        decide (r.boxes = [b]) && r.open'
    | none => false
  | none => false

theorem witness_TreeEvents :
    let never := 2 ^ 64 - 1
    let ev := boxState (.evaluate 1 root 0) stPending never
    let late := boxState (.evaluate 1 root 0) stPending 99
    let lf := boxState (.leafDispatch 1 root 0) stQueued never
    let jn := boxState (.joinDispatch 1 root 0) stJoining never
    let bare : BitVec 512 := fullRule - 2 ^ 29
    let df := boxState (.evaluate 1 root 0) stPending never bare
    let ll := boxState (.leafDispatch 1 root 0) stQueued 99
    let b : BoxNote := { addr := BitVec.ofNat 64 root, parent := 0, ended := true, holder := .device, pinned := none, stamped := none,
                         axis := none }
    let r := { rgn 10 10 false with boxes := [b] }
    let done1 := { (on (thr [])).write (root + 0x30) 1 stDone with
      threads := [], regions := [(1, r)], empties := [poolKey 0 0x3000 / 8], ev := some (.regionCompletion 1) }
    (ev.region? 1).any (fun r => ev.delivers r root .evaluate) = true ∧ ev.midDefer fullRule root = false ∧
    (late.region? 1).any (fun r => !late.delivers r root .evaluate) = true ∧ late.midDefer fullRule root = false ∧
    (lf.region? 1).any (fun r => lf.delivers r root .leaf) = true ∧
    boxReady ev .evaluate = true ∧ ev.passed (ev.rcbDeadline root) = false ∧ ruleRpres fullRule = true ∧
    boxReady late .evaluate = true ∧ late.passed (late.rcbDeadline root) = true ∧
    (match late.region? 1 with | some r => (late.settleBoxAt r (BitVec.ofNat 64 root) stExpired).2 | none => false) = true ∧
    boxReady lf .leaf = true ∧ (lf.poolPlace 0 (up64 (lf.poolNeed fullRule root))).isSome = true ∧
    (lf.tilePlace 0 (ruleTiles fullRule)).isSome = true ∧ lf.couldHold fullRule root 0 = true ∧
    boxReady jn .join = true ∧
    boxReady df .evaluate = true ∧ df.midDefer bare root = false ∧ ruleRpres bare = false ∧
    df.passed (df.rcbDeadline root) = false ∧ (df.region? 1).any (fun r => df.delivers r root .evaluate) = true ∧
    (match df.region? 1 with
      | some r => match r.note (BitVec.ofNat 64 root) with
        | some b =>
          let b1 := { b with holder := (df.evalHolder bare b root 0).getD b.holder }
          let q := (df.setRcbState root stEval).setNote r.id b1
          (q.applyDefer ((q.region? r.id).getD r) b1 root 0).2
        | none => false
      | none => false) = true ∧
    boxReady ll .leaf = true ∧ ll.passed (ll.rcbDeadline root) = true ∧ ll.couldHold fullRule root 0 = true ∧
    (ll.region? 1).any (fun r => !ll.delivers r root .leaf) = true ∧
    (match ll.region? 1 with | some r => (ll.settleBoxAt r (BitVec.ofNat 64 root) stExpired).2 | none => false) = true ∧
    r.spent = false ∧ r.budget ≠ BitVec.allOnes 64 ∧ r.budget.toNat ≤ r.count ∧
    done1.region? 1 = some r ∧ r.completing = false ∧ done1.regionOver r = true ∧
    (done1.agentKey .completion r.id r.domain r.complWord true) = (done1, some (poolKey 0 0x3000)) ∧ done1.badAt (poolKey 0 0x3000) 8 = none ∧
    done1.accs = [] ∧ done1.full (poolKey 0 0x3000) = false ∧ poolKey 0 0x3000 % 8 = 0 ∧ Memory.wf done1.mem = true := by
  and_intros <;> decide +kernel

/-- A state whose core 0 queues one operation. -/
def withOp (e : Event) (t : Thread) (o : EngineOp) (full : Bool) : State :=
  { event e t with cores := [(0, { Core.reset 0 with engq := [o], latch0 := { Latch.reset with full := full } })] }

theorem witness_EngineAndCopyEvents_engine :
    let t := engine
    let fill := { newOp (on t) t [0] with word := 0x9007_0000_0000_0000, addr1 := BitVec.ofNat 64 (poolKey 0 0x4000) }
    let far := { fill with addr1 := 0 }
    let s := withOp (.engineOpStart 0) t fill false
    let m := withOp (.enginePageFault 0) t far false
    let go := { fill with started := true, maps := [] }
    let z := withOp (.engineOpComplete 0 0) t { go with word := 0x9006_0000_0000_0000 } false
    fill.instr = some (.mfill 0 ⟨0, 0, 0⟩) ∧
    (s.core 0).engq.find? (fun o => !o.started) = some fill ∧ s.opMayStart 0 fill = true ∧
    (match (s.mapOp fill).2 with | .ok _ => true | .error _ => false) = true ∧
    m.opMayStart 0 far = true ∧ (match (m.mapOp far).2 with | .ok _ => false | .error _ => true) = true ∧
    fill.isMma = false ∧ (m.mapOp far).1.sys.pagesvc.getLsbD 63 = false ∧
    ({ m.sys with pagesvc := 0x8000_0000_0000_0000 } : Sys).pagesvc.getLsbD 63 = true ∧ far ∈ ((m.mapOp far).1.core 0).engq ∧
    (m.mapOp far).1.thread? t.id = some t ∧ t.state = .ready ∧
    z.opNext 0 { go with word := 0x9006_0000_0000_0000 } = true ∧
    ({ go with word := 0x9006_0000_0000_0000 } : EngineOp).isBrot = false ∧
    z.fillReady 0 { go with word := 0x9006_0000_0000_0000 } = true ∧
    z.opTrouble 0 { go with word := 0x9006_0000_0000_0000 } = none := by
  decide +kernel

theorem witness_EngineAndCopyEvents_latches :
    let t := engine
    let brot := { newOp (on t) t [] with word := 0x9002_0000_0000_0000, started := true }
    let b := withOp (.brotArrival 0 false) t brot true
    let bad := withOp (.engineFailure 0 0) t
      { newOp (on t) t [0] with word := 0x9007_0000_0000_0000, addr1 := BitVec.ofNat 64 (poolKey 0 0x4000), started := true } false
    let poisoned := { bad with poisoned := [poolKey 0 0x4000 / 8] }
    brot.instr = some (.brot false false) ∧
    (b.startedOps 0).find? (fun o => o.isBrot && o.readsLatch = some false) = some brot ∧ b.opNext 0 brot = true ∧
    b.opTrouble 0 brot = none ∧ Memory.wf b.mem = true ∧
    (match (poisoned.core 0).engq with
      | [o] => poisoned.opNext 0 o && (poisoned.opTrouble 0 o).isSome &&
          decide (((poisoned.partial' o).thread? 0).map (·.state) = some .ready)
      | _ => false) = true := by
  decide +kernel

theorem witness_EngineAndCopyEvents_copies :
    let t := thr []
    let o := copyOp t .keep 0 none
    let s := { copying t [o] with ev := some (.copyLine 0 0) }
    let full := copyOp t .keep 64 none
    let bar := copyOp t .keep 64 (some (BitVec.ofNat 64 (poolKey 0 0x3000), false))
    let q := { (copying t [bar]).writeBar (poolKey 0 0x3000) ⟨1, 0, 0, 64, 0⟩ with ev := some (.copyComplete 0 0) }
    let w := { s with poisoned := [poolKey 0 0 / 8] }
    let z := { q with poisoned := [poolKey 0 0x3000 / 8] }
    s.copyQueue 0 0 = [o] ∧ s.copyAtMmu 0 0 = false ∧ o.started = true ∧ o.landed < o.total ∧
    (match (s.setCwp o 0 o.landed).copyView 0 o with | .ready _ _ _ => true | _ => false) = true ∧
    full.landed = full.total ∧
    q.route 0 0 (BitVec.ofNat 64 (poolKey 0 0x3000)) true true = (q, .bank (poolKey 0 0x3000)) ∧
    (match (bankStep q (poolKey 0 0x3000) (.barcount false)).2 with | .ok v => decide (v = 0) | _ => false) = true ∧
    q.barrierBad 0 0 = none ∧ z.copyBad 0 0 = none ∧ (z.barrierBad 0 0).isSome = true ∧
    ((((s.copyResume o).1.setCwp (s.copyResume o).2 0 (s.copyResume o).2.landed).cancelCopies 0 0 o.t).thread? o.t).isSome = true ∧ (w.copyBad 0 0).isSome = true := by
  and_intros <;> decide +kernel

theorem witness_HostEvents :
    let s := State.reset
    let tgt := { s with base := { s.base with
      mbxtgt := 0x8000_0000_0002_0400, apbase := s.base.apbase.set 15 0x8000_0000_0000_0000 } }
    tabGet 15 s.sys.columns = none ∧ (1 : Word) &&& 0x1_FFFF ≠ 0 ∧
    s.base.mbxtgt.getLsbD 63 = false ∧ tgt.base.mbxtgt.getLsbD 63 = true ∧ tgt.targetOk tgt.base.mbxtgt = true ∧
    s.base.kept = none ∧ s.base.msix[(31 : BitVec 5).toNat]? = some { addr := 0, data := 0x0000_0001_0000_0000, written := false } ∧
    hostMay 0xFFF8 8 = true ∧ hostMay 0xFFF9 8 = false ∧
    tgt.apertureKey (15 * 2 ^ 32) = some 0 ∧ tgt.apertureKey (15 * 2 ^ 32 + 63) = some 63 ∧
    (15 * 2 ^ 32) % 64 + 64 ≤ 64 ∧ s.inSpace 0 = true ∧ s.inSpace 63 = true ∧ tgt.withdrawn 0 = false ∧
    (∀ w ∈ wordsOf 0 64, tgt.bad w = false) ∧ (∀ j < 64, tgt.bad j = false) ∧
    (∀ q ∈ tgt.base.bar2, q.write = false) ∧
    hostMay 0x800 8 = true ∧ 0x800 % 64 + 8 ≤ 64 ∧ 0xFFF8 % 64 + 8 ≤ 64 ∧
    (let line : Bar2Req := { write := true, todo := [(0x40, 4)], data := [1, 2, 3, 4], ep := false }
     let read : Bar2Req := { write := false, todo := [(0, 64)], data := [], ep := false }
     let busy := tgt.withBase { tgt.base with bar2 := [read, line] }
     (∃ q ∈ busy.base.bar2, q.write = true) ∧ busy.base.bar2[1]? = some line ∧
     (∀ p ∈ busy.base.bar2.take 1, p.write = false)) := by
  decide +kernel

theorem witness_FabricEvents :
    let s := State.reset
    let t := { s with base := { s.base with fmtgt := 0x8000_0000_0004_0400, bootPort := some 3,
                                            ports := s.base.ports.set 3 1, devstat := 1 } }
    let e := { s with base := { s.base with exports := [(0, 0xC000_0000_0000_0000), (1, 2 ^ 35)] } }
    let m := { s with
      base := { s.base with mgmt := [0x1000, 16, 0x1000, 4096, 0, 0, 0, 0] }, mem := [(0x1001, 0x20), (0x100C, 60), (0x100E, 1)] }
    s.fabricBoot = false ∧ s.base.fmtgt.getLsbD 63 = false ∧ t.base.fmtgt.getLsbD 63 = true ∧
    t.targetOk t.base.fmtgt = true ∧ (31 : BitVec 5).toNat ∉ s.sys.units.noPorts ∧ s.exported 0 0 62 = false ∧ e.exported 0 0 62 = true ∧
    (m.headDesc false).map (·.1) = some 0x1000 ∧ (m.headDesc true).map (·.1) = some 0x1000 ∧
    m.frameOn false = none ∧ m.frameOn true = none ∧
    (let f : Frame := { rx := true, desc := 0x1000, hi := 0, todo := [(0x2000, 60)], data := List.replicate 60 0 }
     (m.setFrame true (some f)).frameOn true = some f ∧ (m.setFrame true (some f)).usable 0x2000 60 = true ∧
     (m.setFrame false (some { f with rx := false, todo := [] })).frameOn false = some { f with rx := false, todo := [] }) ∧
    (match m.headDesc false with
      | some (_, d) => decide ((d.extractLsb' 96 16).toNat = 60) && m.usable (d.extractLsb' 0 64).toNat 60
      | none => false) = true ∧
    s.inSpace 0 = true ∧ s.badAt 0 64 = none ∧ paSpace 0 ≠ 6 ∧ 0 % 64 + 64 ≤ 64 ∧
    t.linkUp 3 = true ∧ paSpace (4 * 2 ^ 48) = 4 ∧ paOff (4 * 2 ^ 48) + 64 ≤ 2 ^ 31 := by
  decide +kernel

theorem witness_ReadAfterWrite :
    Memory.wf State.reset.mem = true ∧ (31 : RegNum).toNat < (thr []).win ∧ (thr []).masks.length = 7 := by
  decide +kernel

theorem witness_StepKeepsTables :
    let s := { State.reset.withFetchWord 64 0x3200_0000_0000_0000 with regions := [(1, rgn 10 0 false)] }
    (∀ p ∈ s.threads, p.2.masks.length = 7) ∧ (∀ p ∈ s.threads, p.2.id.toNat = p.1) ∧ s.threads ≠ [] ∧
    (∀ p ∈ s.regions, p.2.id = p.1) ∧ (match step s with | .next _ => true | _ => false) = true := by
  decide +kernel

theorem witness_StepKeepsMemoryCanonical :
    Memory.wf (State.reset.withFetchWord 64 0x3200_0000_0000_0000).mem = true ∧
    (match step (State.reset.withFetchWord 64 0x3200_0000_0000_0000) with | .next _ => true | _ => false) = true := by
  decide +kernel

end Sys2Proof.Tests
end

section
/-! PROOF. Statements of the sequential machine: fetching and stepping. -/

namespace Sys2Proof.Machine

/-! ## A thread that is due -/

/-- The thread whose turn is first among those due issues, where no item of the agenda comes before it (R63). -/
theorem step_of_due {s : State} {x : Ident} {rest : List Ident} {t : Thread} (ha : s.agenda = []) (hslow : s.slow = false)
    (hdue : s.due = x :: rest) (ht : s.thread? x = some t) (hmay : s.mayIssue t = true) :
    step s = issue { s with due := rest } t := by
  have hs : ({ s with slow := false } : State) = s := by rw [← hslow]
  have hstep : step s = ownMove s := by
    unfold step
    rw [hs]
    simp only [ha]
  simp only [hstep, ownMove, hdue, ht, hmay, if_true]

/-- The address of the next instruction passes the checks of R13. -/
structure FetchChecks (s : State) (t : Thread) : Prop where
  limit : t.pc.toNat + 8 ≤ segLimit (t.seg 0)
  mapped : s.dvaOk (segBase (t.seg 0) + t.pc) 8 = true
  execute : (segRights (t.seg 0)).getLsbD 2 = true

/-- Where every cached copy of the word agrees with memory, memory's word is fetched (R14). -/
theorem State.pickWord_same (now : Word) (s : State) :
    ∀ {l : List Word}, (∀ w ∈ l, w = now) → State.pickWord now l s = (s, now)
  | [], _ => rfl
  | w :: l, h => by
    rw [State.pickWord, if_pos (h w (by simp))]
    exact State.pickWord_same now s fun v hv => h v (by simp [hv])

/-- Bytes of memory proper are what a plain read finds (R331). -/
theorem State.plainBytes_memory {s : State} {k n : Nat} (h : paSpace k ≠ 6 ∨ (poolOf k).isSome = true) :
    s.plainBytes k n = memBytes s.mem k n := by
  unfold State.plainBytes
  rw [if_neg]
  rcases h with h | h
  · simp [h]
  · simp [Option.isNone_eq_false_iff.mpr h]

/-- A fetch that passes the checks and whose page leads to sound memory finds the word there (R13, R14). -/
theorem fetchX_of_checks {s s1 : State} {t : Thread} {k : Nat} (h : FetchChecks s t)
    (hroute : s.route (clusterOf t.id.core.toNat) t.dom (segBase (t.seg 0) + t.pc) false false = (s1, .bank k))
    (hsound : s1.sound k 8) (hcache : ∀ w ∈ s1.cachedWords t k, w = BitVec.ofNat 64 (s1.read k 8)) :
    fetchX s t = .ok (s1, BitVec.ofNat 64 (s1.read k 8)) := by
  have hword : s1.fetchWord t k = (s1, BitVec.ofNat 64 (s1.read k 8)) := by
    unfold State.fetchWord
    rw [State.plainBytes_memory hsound.memory]
    exact State.pickWord_same _ s1 hcache
  unfold fetchX
  simp only [need_true (decide_eq_true h.limit), need_true h.mapped, need_true h.execute, okb, hroute, hsound.good, hword]

/-- A fetch outside the limit of seg0 stops with SEGLIMIT (R11, R13). -/
theorem fetchX_beyond_limit {s : State} {t : Thread} (h : segLimit (t.seg 0) < t.pc.toNat + 8) :
    fetchX s t = .error (fetchTrap 0x04 t.pc 0) := by
  simp only [fetchX, need_false (decide_eq_false (Nat.not_le.mpr h)), erb]

/-- A fetch inside the limit but outside the address map stops with SEGLIMIT (R13, R331). -/
theorem fetchX_unmapped {s : State} {t : Thread} (hl : t.pc.toNat + 8 ≤ segLimit (t.seg 0))
    (h : s.dvaOk (segBase (t.seg 0) + t.pc) 8 = false) : fetchX s t = .error (fetchTrap 0x04 t.pc 0) := by
  simp only [fetchX, need_true (decide_eq_true hl), okb, need_false h, erb]

/-- A fetch through a segment without the X right stops with SEGRIGHTS, X in MISS (R13). -/
theorem fetchX_without_x {s : State} {t : Thread} (hl : t.pc.toNat + 8 ≤ segLimit (t.seg 0))
    (hm : s.dvaOk (segBase (t.seg 0) + t.pc) 8 = true) (h : (segRights (t.seg 0)).getLsbD 2 = false) :
    fetchX s t = .error (fetchTrap 0x05 t.pc 0b000100) := by
  simp only [fetchX, need_true (decide_eq_true hl), need_true hm, okb, need_false h, erb]

/-- A thread without a recorded trap runs the word it has fetched. -/
theorem issue_of_fetched {s s1 : State} {t : Thread} {w : Word} (hp : t.pending = []) (hf : fetchX s t = .ok (s1, w)) :
    issue s t = exec (fetched w) { s1.noteIssue t with cur := t.id, word := w } := by
  simp only [issue, hp, hf]

/-- A fetch that traps is a trap of the thread, where its region has cycles left (R104). -/
theorem issue_of_fetch_trap {s : State} {t : Thread} {i : TrapInfo} (hp : t.pending = []) (hsp : s.spent t = false)
    (hf : fetchX s t = .error (.trap i)) : issue s t = .next (takeTrap s t i) := by
  simp only [issue, hp, hf, fetchStop, hsp, Bool.false_eq_true, if_false, stopped]

/-- Settles O3: the first thread due issues, and its fetch finds the word in memory. -/
theorem stepRunsFetchedInstruction : Obligations.StepRunsFetchedInstruction := by
  unfold Obligations.StepRunsFetchedInstruction
  intro s s1 x rest t k i ha hslow hdue ht hmay hp hlimit hmapped hx hroute hsound hcache hdecode
  have hchecks : FetchChecks { s with due := rest } t := ⟨hlimit, hmapped, hx⟩
  rw [step_of_due ha hslow hdue ht hmay, issue_of_fetched hp (fetchX_of_checks hchecks hroute hsound hcache), fetched,
    hdecode, Option.getD_some]

/-- Settles O4: each check of R13 that fails stops the fetch with its trap, and a word that decodes to nothing runs as
an instruction that does nothing but trap ILL. -/
theorem failedFetchesTrap : Obligations.FailedFetchesTrap := by
  unfold Obligations.FailedFetchesTrap
  refine ⟨fun s x rest t ha hslow hdue ht hmay hp hsp => ?_, fun w hw => by simp [fetched, hw],
    fun s t hI => runT_error (f := fun s _ => .error (ill s)) (st := ill s) hI rfl⟩
  rw [step_of_due ha hslow hdue ht hmay]
  have traps {i : TrapInfo} : fetchX { s with due := rest } t = .error (.trap i) →
      issue { s with due := rest } t = .next (takeTrap { s with due := rest } t i) :=
    issue_of_fetch_trap hp hsp
  exact ⟨fun h => traps (fetchX_beyond_limit h), fun hl h => traps (fetchX_unmapped hl h),
    fun hl hm h => traps (fetchX_without_x hl hm h)⟩

end Sys2Proof.Machine
end

section
/-! PROOF. Statements of the sequential machine: registers that an instruction cannot use, and the VFP arithmetic. -/

namespace Sys2Proof.Machine

/-! ## A register that stops an instruction -/

/-- An absent register parks the reader (R7). -/
theorem readX_absent {t : Thread} {r : RegNum} (h : (t.entry r).pres ≠ .present) :
    readX t r = .error (.park (.reg r)) := by
  simp only [readX, presentX, if_pos h, parkX, erb]

/-- A poisoned register traps POISON (R292). -/
theorem readX_poisoned {t : Thread} {r : RegNum} (hp : (t.entry r).pres = .present) (h : (t.entry r).poison = true) :
    readX t r = .error (.trap (.plain 0x0E (0x8000000000000000#64 ||| r.zeroExtend 64))) := by
  simp [readX, presentX, cleanX, hp, h, trapX, okb]

/-- An awaiting destination parks the writer (R7). -/
theorem destX_awaiting {t : Thread} {r : RegNum} (h : (t.entry r).pres = .awaiting) :
    destX t r = .error (.park (.reg r)) := by
  simp only [destX, if_pos h, parkX]

/-- An INT instruction of two sources whose first source stops it. -/
theorem int2_first_stops {s t d a b f st} (hI : Issues s t) (hw : windowX t [d, a, b] = .ok ())
    (ha : readX t a = .error st) : int2 s d a b f = .next (stopped s t st) := by
  unfold int2 runReg
  exact runT_error hI (by simp only [hw, ha, okb, erb])

/-- An INT instruction of two sources whose second source stops it. -/
theorem int2_second_stops {s t d a b f st x} (hI : Issues s t) (hw : windowX t [d, a, b] = .ok ()) (ha : t.holds a x)
    (hb : readX t b = .error st) : int2 s d a b f = .next (stopped s t st) := by
  unfold int2 runReg
  exact runT_error hI (by simp only [hw, readX_holds ha, hb, okb, erb])

/-- An INT instruction of two sources whose destination stops it. -/
theorem int2_destination_stops {s t d a b f st x y} (hI : Issues s t) (hw : windowX t [d, a, b] = .ok ())
    (ha : t.holds a x) (hb : t.holds b y) (hd : destX t d = .error st) : int2 s d a b f = .next (stopped s t st) := by
  unfold int2 runReg
  exact runT_error hI (by simp only [hw, readX_holds ha, readX_holds hb, hd, okb, erb])

/-! ## R5 comes first -/

/-- An instruction tests a list of registers against the window before anything else: what that test answers, it
answers. -/
def WindowFirst (e : State → Host.Outcome State Fault Refusal) (l : List RegNum) : Prop :=
  ∀ (s : State) (t : Thread) (st : Stop), Issues s t → windowX t l = .error st → e s = .next (stopped s t st)

theorem WindowFirst.nil {e : State → Host.Outcome State Fault Refusal} : WindowFirst e [] :=
  fun _ _ _ _ h => nomatch h

/-- The frame of most instructions: the window, then the rest. -/
theorem WindowFirst.runT {l : List RegNum} {f : State → Thread → X (State × Thread)} :
    WindowFirst (fun s => runT s fun s t => do windowX t l; f s t) l :=
  fun _ _ _ hI hw => runT_error hI (by simp only [hw, erb])

/-- The frame of an instruction that changes its thread alone. -/
theorem WindowFirst.runReg {l : List RegNum} {f : State → Thread → X Thread} :
    WindowFirst (fun s => runReg s fun t => do windowX t l; f s t) l :=
  fun _ _ _ hI hw => by
    unfold Machine.runReg
    exact runT_error hI (by simp only [hw, erb])

/-- The instruction tests the registers that `regOps` lists first, if it lists any. -/
def TestsWindowFirst (i : Instr) : Prop := ∀ o, regOps i = some o → WindowFirst (exec i) o.1

theorem testsWindowFirst_of_some {i : Instr} {l ds : List RegNum} {k : Option KReg} (h : regOps i = some (l, ds, k))
    (hw : WindowFirst (exec i) l) : TestsWindowFirst i := by
  intro o ho
  obtain rfl : (l, ds, k) = o := Option.some.inj (h.symm.trans ho)
  exact hw

theorem testsWindowFirst_of_none {i : Instr} (h : regOps i = none) : TestsWindowFirst i :=
  fun _ ho => nomatch h.symm.trans ho

/-- R5 comes first in every instruction whose effect is on its own thread's registers alone. -/
theorem exec_testsWindowFirst (i : Instr) : TestsWindowFirst i := by
  cases i
  case br | nop | yield | kand | kor | kxor | knot => exact testsWindowFirst_of_some rfl .nil
  case add | sub | mul | mulh | mulhn | madd | div | divn | rem | remn | min | max | minn | maxn | sel | and | or | xor
      | andn | orn | shl | shr | sra | rol | ror | clz | ctz | pop | bswap | seq | sne | slt | sle | sltn | slen | ext
      | ins | sxt8 | sxt16 | sxt32 | zxt8 | zxt16 | zxt32 | addi | muli | andi | ori | xori | shli | shri | srai | slti
      | sltni | seqi | movi | movhi | void | segrd =>
    exact testsWindowFirst_of_some rfl .runReg
  case beq | bne | blt | bge | bltn | bgen | bz | bnz | dbnz | call | jmp | callr | vadd | vsub | vmul | vmulh | vmin
      | vmax | vadds | vsubs | vand | vor | vxor | vshl | vshr | vsra | vabs | vneg | vcnt | vdot4 | vsel | vcmpeq
      | vcmpne | vcmplt | vcmple | vfadd | vfsub | vfmul | vfdiv | vfma | vfms | vfnma | vfsqrt | vfround | vfmin
      | vfmax | vfabs | vfneg | vfrcp | vfrsq | vfexp2 | vflog2 | vfcvt | vfcvti | vicvtf | vfcmpeq | vfcmplt | vfcmple
      | vfcmpun | vsplat | vextr | vinsr | vperm | vperm2 | vrot | vcompr | vexpnd | viota | vredadd | vredmin | vredmax
      | vfredadd | vfredmax | vfredmin | kpop | kfirst | kmov | kmovg =>
    exact testsWindowFirst_of_some rfl .runT
  all_goals exact testsWindowFirst_of_none rfl

/-- A register outside the window stops such an instruction with WINDOW (R5). -/
theorem WindowFirst.outside {e : State → Host.Outcome State Fault Refusal} {p q : List RegNum} {r : RegNum} {s : State}
    {t : Thread} (h : WindowFirst e (p ++ r :: q)) (hI : Issues s t) (hp : ∀ x ∈ p, x.toNat < t.win)
    (hr : t.win ≤ r.toNat) : e s = .next (takeTrap s t (.plain 0x03 (BitVec.ofNat 64 (r.toNat + 256 * t.win)))) :=
  h s t _ hI (windowX_error hp hr)

/-- Settles O12: R5 is tested first, then the sources in order, then the destination. -/
theorem registerStops : Obligations.RegisterStops := by
  unfold Obligations.RegisterStops
  have outside (i : Instr) (p q ds : List RegNum) (r : RegNum) (k : Option KReg) (s : State) (t : Thread)
      (h : regOps i = some (p ++ r :: q, ds, k)) (hI : Issues s t) (hp : ∀ x ∈ p, x.toNat < t.win)
      (hr : t.win ≤ r.toNat) :
      exec i s = .next (takeTrap s t (.plain 0x03 (BitVec.ofNat 64 (r.toNat + 256 * t.win)))) :=
    WindowFirst.outside (exec_testsWindowFirst i _ h) hI hp hr
  refine ⟨fun s t d a b ty hI => ⟨fun l r m hlist hl hr => ?_, fun hd ha hb => ?_⟩, outside⟩
  · exact outside (.add d a b ty) l m [d] r none s t (by rw [← hlist]; rfl) hI hl hr
  · have hw := win3 hd ha hb
    exact ⟨fun h => int2_first_stops hI hw (readX_absent h),
      fun hp h => int2_first_stops hI hw (readX_poisoned hp h),
      fun x hx h => int2_second_stops hI hw hx (readX_absent h),
      fun x hx hp h => int2_second_stops hI hw hx (readX_poisoned hp h),
      fun x y hx hy h => int2_destination_stops hI hw hx hy (destX_awaiting h)⟩

/-! ## VFP -/

/-- Settles O15: each instruction is one of the shared shapes of one, two or three sources with its own operation. -/
theorem vectorFloatArithmeticCompletes : Obligations.VectorFloatArithmeticCompletes := by
  unfold Obligations.VectorFloatArithmeticCompletes
  intro s t d a b c ty k z sl rnd x y v old hI hu ha hb hc hk
  exact ⟨vf2_ok (f := fun f t x y => f.addV (t.rounding rnd) (f.read x) (f.read y)) hI hu ha hb hk,
    vf2_ok (f := fun f t x y => f.addV (t.rounding rnd) (f.read x) (f.read y).neg) hI hu ha hb hk,
    vf2_ok (f := fun f t x y => f.mulV (t.rounding rnd) (f.read x) (f.read y)) hI hu ha hb hk,
    vf2_ok (f := fun f t x y => f.divV (t.rounding rnd) (f.read x) (f.read y)) hI hu ha hb hk,
    vf3_ok (f := fun f t x y v => f.fmaV (t.rounding rnd) (f.read x) (f.read y) (f.read v)) hI hu ha hb hc hk,
    vf3_ok (f := fun f t x y v => f.fmaV (t.rounding rnd) (f.read x) (f.read y) (f.read v).neg) hI hu ha hb hc hk,
    vf3_ok (f := fun f t x y v => f.fmaV (t.rounding rnd) (f.read x).neg (f.read y) (f.read v)) hI hu ha hb hc hk,
    vf1_ok (f := fun f t x => f.sqrtV (t.rounding rnd) (f.read x)) hI hu ha hk,
    vf1_ok (f := fun f t x => f.roundV (t.rounding rnd) (f.read x)) hI hu ha hk,
    vf2_ok (f := fun f _ x y => f.minmax false x y) hI hu ha hb hk,
    vf2_ok (f := fun f _ x y => f.minmax true x y) hI hu ha hb hk,
    vf1_ok (f := fun f _ x => signOp f false x) hI hu ha hk,
    vf1_ok (f := fun f _ x => signOp f true x) hI hu ha hk⟩

end Sys2Proof.Machine
end

section
/-! PROOF. Statements of the sequential machine: what a trap records and sends, and the checks of an access. -/

namespace Sys2Proof.Machine

/-! ## Taking a trap -/

/-- A thread that has nothing under way has nothing that a trap takes back (R57). -/
theorem State.undone_of_nothing {s : State} {t : Thread}
    (hw : ∀ n c, t.wait ≠ .send n c ∧ t.wait ≠ .chset n c ∧ t.wait ≠ .region n c) (hsp : ∀ u c, t.wait ≠ .spilling u c)
    (hk : s.killsOf t.id = []) : s.undone t = s := by
  unfold State.undone
  split
  case h_1 n c h => exact absurd h (hw n c).1
  case h_2 n c h => exact absurd h (hw n c).2.1
  case h_3 n c h => exact absurd h (hw n c).2.2
  case h_4 u c h => exact absurd h (hsp u c)
  case h_5 => simp [hk]

/-- Putting copies back changes cores alone. -/
theorem State.copiesBack_frame (s : State) (t : Thread) : ∃ cs, s.copiesBack t = { s with cores := cs } := by
  unfold State.copiesBack
  split
  · split <;> exact ⟨_, rfl⟩
  · exact ⟨_, rfl⟩

/-- Taking operations from the engine queue changes cores, and of the thread its queue image alone. -/
theorem State.unqueue_frame (s : State) (t : Thread) :
    ∃ cs l, s.unqueue t = ({ s with cores := cs }, { t with image := l }) := by
  unfold State.unqueue
  dsimp only
  split <;> exact ⟨_, _, rfl⟩

/-- Opening a closed batch again changes the batch fields alone. -/
theorem Thread.reopened_frame (t : Thread) :
    ∃ n b r, t.reopened = { t with nextBatch := n, batchOps := b, reopen := r } := by
  unfold Thread.reopened
  split <;> exact ⟨_, _, _, rfl⟩

/-- What a trap makes of its thread's record (R21, R22, R191). -/
structure Thread.Trapped (t : Thread) (i : TrapInfo) (u : Thread) : Prop where
  id : u.id = t.id
  state : u.state = .trapped
  pc : u.pc = i.pc.getD t.pc
  regs : u.regs = t.regs
  masks : u.masks = t.masks
  segs : u.segs = t.segs
  sp : u.sp = { t.sp with tcause := i.cause, tinfo := i.info, tepc := i.pc.getD t.pc }

/-- A trap that takes nothing back changes cores, its thread and the mesh, into which it puts one message (R21, R275). -/
theorem takeTrap_of_nothing {s : State} {t : Thread} (i : TrapInfo) (h : s.undone t = s) :
    ∃ cs u, t.Trapped i u ∧ takeTrap s t i = (({ s with cores := cs } : State).setThread u).post
      (s.trapTarget t.dom t.chan1).1 (s.trapTarget t.dom t.chan1).2 (some t.id) t.dom
      (.trap (trapG0 t i (i.pc.getD t.pc) s.cyc)) := by
  obtain ⟨cs, hcopies⟩ := s.copiesBack_frame t
  obtain ⟨n, b, r, hopen⟩ := t.reopened_frame
  obtain ⟨cs', l, hqueue⟩ := ({ s with cores := cs } : State).unqueue_frame
    { t with nextBatch := n, batchOps := b, reopen := r }
  unfold takeTrap
  rw [h, hcopies, hopen, hqueue]
  refine ⟨cs', _, ?_, rfl⟩
  exact ⟨rfl, rfl, rfl, rfl, rfl, rfl, rfl⟩

/-- A trap message goes to channel 1 of the domain's handler core, where one is set that the part has (R275). -/
theorem State.trapTarget_handler {s : State} {d : BitVec 32} (hset : (s.domWord d 0).getLsbD 11 = true)
    (hr : s.reachable ((s.domWord d 0).extractLsb' 0 11).toNat = true) :
    s.trapTarget d false = ((s.domWord d 0).extractLsb' 0 11, 1) := by
  simp only [State.trapTarget, hset, hr, Bool.not_false, Bool.and_self, if_true]

/-- Otherwise, and for a thread that started on channel 1, it goes to the firmware channel of the domain, or of entry 0
(R275, R311). -/
theorem State.trapTarget_firmware {s : State} {d : BitVec 32} {c : Bool}
    (h : c = true ∨ (s.domWord d 0).getLsbD 11 = false ∨ s.reachable ((s.domWord d 0).extractLsb' 0 11).toNat = false) :
    let w := if d.toNat < 4096 then s.domWord d 0 else s.domWord 0 0
    s.trapTarget d c = (0x400#11 + (w.extractLsb' 12 4).zeroExtend 11, w.extractLsb' 16 5) := by
  have hno : (!c && (s.domWord d 0).getLsbD 11 && s.reachable ((s.domWord d 0).extractLsb' 0 11).toNat) = false := by
    rcases h with h | h | h <;> simp only [h, Bool.not_true, Bool.false_and, Bool.and_false]
  simp only [State.trapTarget, hno, Bool.false_eq_true, if_false]

/-- Settles O23: nothing is taken back, so the trap changes its thread, cores and the mesh alone, and its message goes
where the domain's entry says. -/
theorem trapEntry : Obligations.TrapEntry := by
  unfold Obligations.TrapEntry
  intro s t i hw hsp hk
  obtain ⟨cs, u, hu, htrap⟩ := takeTrap_of_nothing i (State.undone_of_nothing hw hsp hk)
  have hthread (q : Ident) : (takeTrap s t i).thread? q = if q = t.id then some u else s.thread? q := by
    rw [htrap, ← hu.id]
    exact State.thread?_setThread { s with cores := cs } u q
  refine ⟨u, _, by rw [hthread, if_pos rfl], hu.state, hu.pc, hu.regs, hu.masks, hu.segs, hu.sp,
    fun q hq => by rw [hthread, if_neg hq], by rw [htrap]; rfl, by rw [htrap]; rfl, rfl, rfl, rfl, ?_, ?_⟩
  · intro hc hset hr
    rw [hc, State.trapTarget_handler hset hr]
    exact ⟨rfl, rfl⟩
  · intro h
    rw [State.trapTarget_firmware h]
    exact ⟨rfl, rfl⟩

/-! ## The checks of R11 -/

/-- An access outside the limit or the address map traps SEGLIMIT (R11). -/
theorem checkX_outside {s : State} {t : Thread} {g : SegReg} {e : Word} {n align : Nat} {rights : BitVec 6} {wr : Bool}
    (h : ¬ (e.toNat + n ≤ segLimit (t.seg g) ∧ s.dvaOk (segBase (t.seg g) + e) n = true)) :
    checkX s t g e n align rights wr = accTrap 0x04 e g wr 0 := by
  by_cases hl : e.toNat + n ≤ segLimit (t.seg g)
  · have hm : s.dvaOk (segBase (t.seg g) + e) n = false := by simpa [hl] using h
    simp [checkX, Nat.not_lt.mpr hl, hm]
  · simp [checkX, Nat.not_le.mp hl]

section
variable {s : State} {t : Thread} {g : SegReg} {e : Word} {n align : Nat} {rights : BitVec 6} {wr : Bool}
  (hin : e.toNat + n ≤ segLimit (t.seg g) ∧ s.dvaOk (segBase (t.seg g) + e) n = true)
include hin

/-- An access inside for which a right is missing traps SEGRIGHTS with the missing rights (R11). -/
theorem checkX_missing (h : rights &&& ~~~(segRights (t.seg g)) ≠ 0) :
    checkX s t g e n align rights wr = accTrap 0x05 e g wr (rights &&& ~~~(segRights (t.seg g))) := by
  simp only [checkX, if_neg (Nat.not_lt.mpr hin.1), hin.2, Bool.not_true, Bool.false_eq_true, if_false, if_pos h]

/-- An access inside with its rights at a misaligned offset traps ALIGN (R11). -/
theorem checkX_misaligned (h : rights &&& ~~~(segRights (t.seg g)) = 0) (ha : e.toNat % align ≠ 0) :
    checkX s t g e n align rights wr = accTrap 0x06 e g wr 0 := by
  simp [checkX, Nat.not_lt.mpr hin.1, hin.2, h, ha]

end

/-- The right R of a descriptor is missing where its bit is clear (R10). -/
theorem missing_read (d : BitVec 128) : 0b000001 &&& ~~~(segRights d) = if d.getLsbD 113 then 0 else 0b000001 := by
  have key : ∀ r : BitVec 6, 0b000001 &&& ~~~r = if r.getLsbD 0 then 0 else 0b000001 := by decide
  rw [key, segRights, BitVec.getLsbD_extractLsb']
  simp

/-- The right W of a descriptor is missing where its bit is clear (R10). -/
theorem missing_write (d : BitVec 128) : 0b000010 &&& ~~~(segRights d) = if d.getLsbD 114 then 0 else 0b000010 := by
  have key : ∀ r : BitVec 6, 0b000010 &&& ~~~r = if r.getLsbD 1 then 0 else 0b000010 := by decide
  rw [key, segRights, BitVec.getLsbD_extractLsb']
  simp

/-- An access that a check stops goes no further. -/
theorem accessX_stops {s : State} {t : Thread} {g : SegReg} {e : Word} {f : Form} {align : Nat} {rel : Bool}
    {d : Option RegNum} {data : List RegNum} {st : Stop}
    (h : checkX s t g e f.bytes align f.rights f.writes = .error st) :
    accessX s t g e f align rel d data = .error st := by
  simp only [accessX, h, erb]

/-- LD stops where a check of its access does. -/
theorem exec_ld_stops {s : State} {t : Thread} {d base : RegNum} {g : SegReg} {rel : Bool} {off : BitVec 32}
    {size : MemSize} {b : Reg} {st : Stop} (hI : Issues s t) (hb : t.holds base b) (hd : t.takes d)
    (h : checkX s t g (offM b off) (sizeBytes size) (sizeBytes size) 0b000001 false = .error st) :
    exec (.ld d base g rel off size) s = .next (stopped s t st) := by
  show plainLoad s d base g rel off (sizeBytes size) false = _
  refine runT_error hI ?_
  simp only [win2 hd.inside hb.inside, readX_holds hb, destX_takes hd, okb]
  exact accessX_stops h

/-- ST stops where a check of its access does. -/
theorem exec_st_stops {s : State} {t : Thread} {d base : RegNum} {g : SegReg} {rel : Bool} {off : BitVec 32}
    {size : MemSize} {b x : Reg} {st : Stop} (hI : Issues s t) (hb : t.holds base b) (hd : t.holds d x)
    (h : checkX s t g (offM b off) (sizeBytes size) (sizeBytes size) 0b000010 true = .error st) :
    exec (.st d base g rel off size) s = .next (stopped s t st) := by
  show execSt d base g rel off size s = _
  refine runT_error hI ?_
  simp only [win2 hd.inside hb.inside, presentX_holds hd, readX_holds hb, okb]
  exact accessX_stops h

/-- Settles O26: each check that fails stops the load or store with its trap, those before it having passed. -/
theorem accessChecksTrapInOrder : Obligations.AccessChecksTrapInOrder := by
  unfold Obligations.AccessChecksTrapInOrder
  intro s t d base g rel off size b x n e inside trap hI hb
  refine ⟨fun hd => ⟨fun hout => ?_, fun hin hr => ?_, fun hin hr ha => ?_⟩,
    fun hd => ⟨fun hout => ?_, fun hin hr => ?_, fun hin hr ha => ?_⟩⟩
  · exact exec_ld_stops hI hb hd (checkX_outside hout)
  · have hm := missing_read (t.seg g)
    rw [hr] at hm
    have hc := checkX_missing (align := n) (wr := false) hin (by rw [hm]; decide)
    rw [hm] at hc
    exact exec_ld_stops hI hb hd hc
  · exact exec_ld_stops hI hb hd (checkX_misaligned hin (by rw [missing_read, hr]; rfl) ha)
  · exact exec_st_stops hI hb hd (checkX_outside hout)
  · have hm := missing_write (t.seg g)
    rw [hr] at hm
    have hc := checkX_missing (align := n) (wr := true) hin (by rw [hm]; decide)
    rw [hm] at hc
    exact exec_st_stops hI hb hd hc
  · exact exec_st_stops hI hb hd (checkX_misaligned hin (by rw [missing_write, hr]; rfl) ha)

end Sys2Proof.Machine
end

section
/-! PROOF. Statements of the sequential machine: fences, copies and the reads of special registers. -/

namespace Sys2Proof.Machine

/-! ## Committing -/

/-- The thread of an identity after an instruction has completed. -/
theorem State.thread?_commit (s : State) (t : Thread) (q : Ident) :
    (s.commit t).thread? q = if q = t.id then some t else s.thread? q := by
  rw [← State.thread?_setThread]
  simp only [State.thread?, State.commit, State.countInstr_threads]

/-- Completing an instruction changes no core. -/
theorem State.core_commit (s : State) (t : Thread) (c : Nat) : (s.commit t).core c = s.core c := by
  simp only [State.core, State.commit, State.countInstr_cores, State.setThread_cores]

/-! ## Fences -/

/-- FENCE completes where it has nothing to wait for (R170). -/
theorem exec_fence_clear {s : State} {t : Thread} {scope : Scope} {eng : Bool} (hI : Issues s t)
    (h : s.fenceClear t scope eng = true) : exec (.fence scope eng) s = .next (s.commit t.adv) := by
  show execFence scope eng s = _
  refine runT_ok hI ?_
  simp only [need_true h, okb, prb]

/-- FENCE parks where it has something to wait for (R170). -/
theorem exec_fence_busy {s : State} {t : Thread} {scope : Scope} {eng : Bool} (hI : Issues s t)
    (h : s.fenceClear t scope eng = false) : exec (.fence scope eng) s = .next (s.parked t (.fence scope eng)) := by
  show execFence scope eng s = _
  refine runT_error hI (st := .park (.fence scope eng)) ?_
  simp only [need_false h, erb]

/-- What FENCE waits for, in the terms of R170. -/
theorem State.fenceClear_iff {s : State} {t : Thread} {scope : Scope} {eng : Bool} :
    s.fenceClear t scope eng = true ↔ (∀ a ∈ s.relaxedOf t.id, covers scope t.id.core.toNat a = false) ∧
      (eng = true → s.copiesOf t.id = [] ∧ s.committedBusy t = false) := by
  cases eng <;> simp [State.fenceClear]

/-- IFENCE completes where no relaxed store is outstanding (R194). -/
theorem exec_ifence_clear {s : State} {t : Thread} (hI : Issues s t) (h : s.ifenceClear t = true) :
    exec .ifence s = .next ((s.ifenced t.id.core.toNat).commit { t with ifenced := s.serial + 1 }.adv) := by
  show execIfence s = _
  refine runT_ok hI ?_
  simp only [need_true h, okb, prb]

/-- The core of a number after an IFENCE on a core: what that one had cached is stale there (R194). -/
theorem State.core_ifenced (s : State) (c d : Nat) : (s.ifenced c).core d =
    if d = c then { s.core c with icache := [], stale := (s.core c).stale ++ (s.core c).icache } else s.core d :=
  State.core_setCore s c d _

/-- A word is cached for a thread where its core has it, or had it, from its own last IFENCE on (R14, R194). -/
theorem State.mem_cachedWords {s : State} {t : Thread} {k : Nat} {w : Word} :
    w ∈ s.cachedWords t k ↔ ∃ x, (x ∈ (s.core t.id.core.toNat).icache ∨ x ∈ (s.core t.id.core.toNat).stale) ∧
      x.1 = k ∧ t.ifenced ≤ x.2.2 ∧ x.2.1 = w := by
  simp [State.cachedWords, or_and_right, exists_or]

/-- An IFENCE loses no word that a core has or had cached. -/
theorem State.cached_ifenced {s : State} {c d : Nat} {x : Nat × Word × Nat} :
    (x ∈ ((s.ifenced c).core d).icache ∨ x ∈ ((s.ifenced c).core d).stale) ↔
      (x ∈ (s.core d).icache ∨ x ∈ (s.core d).stale) := by
  rw [State.core_ifenced]
  split
  · subst d
    simp [or_comm]
  · rfl

/-- Settles O32: an IFENCE makes every cached word stale, and its thread's mark passes the serial number of each. -/
theorem fencesComplete : Obligations.FencesComplete := by
  unfold Obligations.FencesComplete
  intro s t scope eng hI
  refine ⟨fun hacc heng => exec_fence_clear hI (State.fenceClear_iff.mpr ⟨hacc, heng⟩), fun ⟨a, ha, hcov⟩ => ?_,
    fun hst => ?_⟩
  · refine exec_fence_busy hI (Bool.eq_false_iff.mpr fun hclear => ?_)
    rw [(State.fenceClear_iff.mp hclear).1 a ha] at hcov
    cases hcov
  · let u : Thread := { t with ifenced := s.serial + 1 }.adv
    let s2 := (s.ifenced t.id.core.toNat).commit u
    have hcore (c : Nat) : s2.core c = (s.ifenced t.id.core.toNat).core c := State.core_commit _ u c
    have hclear : s.ifenceClear t = true := by simpa [State.ifenceClear] using hst
    have hcached (q : Thread) (k : Nat) (w : Word) : w ∈ s2.cachedWords q k ↔ w ∈ s.cachedWords q k := by
      simp only [State.mem_cachedWords, hcore, State.cached_ifenced]
    refine ⟨s2, u, exec_ifence_clear hI hclear, ?_, rfl, ?_, ?_, ?_, fun hold v k => ?_, hcached⟩
    · exact (State.thread?_commit _ u t.id).trans (if_pos rfl)
    · rw [hcore, State.core_ifenced, if_pos rfl]
    · simp [s2, State.ifenced]
    · simp [s2, State.ifenced]
    · refine List.eq_nil_iff_forall_not_mem.mpr fun w hw => ?_
      obtain ⟨x, hx, -, hnew, -⟩ := State.mem_cachedWords.mp ((hcached _ k w).mp hw)
      have hx' : x.2.2 ≤ s.serial := hold _ x (List.mem_append.mpr hx)
      have hnew' : s.serial + 1 ≤ x.2.2 := hnew
      omega

/-! ## Copies -/

/-- The instruction of a copy, of one row or of as many as its shape register says. -/
def copyInstr (two : Bool) (f : CopyForm) : Instr := if two then .copy2 f else .copy f

theorem exec_copyInstr (two : Bool) (f : CopyForm) (s : State) : exec (copyInstr two f) s = copyOp s f two := by
  cases two <;> rfl

/-- The copy that an instruction makes of its registers: destination and source offsets, shape (R261, R262). Its barrier
is not yet filled in. -/
def copyRecord (s : State) (t : Thread) (f : CopyForm) (two : Bool) (d e c : Reg) : CopyOp :=
  { n := s.serial, t := t.id, domain := t.dom, src := segBase (t.seg f.segS) + scalar e,
    dst := segBase (t.seg f.segD) + scalar d, baseS := segBase (t.seg f.segS), baseD := segBase (t.seg f.segD),
    pS := segP (t.seg f.segS), pD := segP (t.seg f.segD), rows := if two then (lane64 c 0).toNat else 1,
    rowLen := (if two then lane64 c 1 else scalar c).toNat, sStride := if two then lane64 c 2 else 0,
    dStride := if two then lane64 c 3 else 0, mode := f.mode, segS := f.segS, segD := f.segD,
    segK := (f.bar.map (·.seg)).getD 0, bar := none, baseK := segBase (t.seg ((f.bar.map (·.seg)).getD 0)),
    pK := segP (t.seg ((f.bar.map (·.seg)).getD 0)), bnd := if f.bnd then some t.sp.bounds else none, two := two,
    fill := t.sp.fill, started := false, landed := 0, buf := [], waitingOn := none }

/-- The registers that a copy reads hold its operands: offsets, shape, and the offset of its barrier, if it names one. -/
structure CopyOperands (t : Thread) (f : CopyForm) (d e c kv : Reg) : Prop where
  dst : t.holds f.a d
  src : t.holds f.b e
  shape : t.holds f.c c
  bar : ∀ g, f.bar = some g → t.holds g.t kv
  noBar : f.bar = none → kv = 0

/-- The registers that a copy names lie in the window. -/
theorem CopyOperands.window {t : Thread} {f : CopyForm} {d e c kv : Reg} (h : CopyOperands t f d e c kv) :
    windowX t ([f.a, f.b, f.c] ++ (f.bar.map (·.t)).toList) = .ok () := by
  refine windowX_ok fun r hr => ?_
  simp only [List.cons_append, List.nil_append, List.mem_cons, Option.mem_toList, Option.map_eq_some_iff] at hr
  obtain rfl | rfl | rfl | ⟨g, hg, rfl⟩ := hr
  exacts [h.dst.inside, h.src.inside, h.shape.inside, (h.bar g hg).inside]

/-- The traps of a copy that come before translation. -/
def earlyCopyTraps (s : State) (t : Thread) (f : CopyForm) (two : Bool) (d e c kv : Reg) : List TrapInfo :=
  let o := copyRecord s t f two d e c
  copyTraps s t f o d e (ofScalar (if two then lane64 c 1 else scalar c)) kv (if o.rowLen = 0 then 0 else o.rows)

/-- The traps of a copy that come after translation. -/
def lateCopyTraps (s : State) (t : Thread) (f : CopyForm) (two : Bool) (d e c kv : Reg) : List TrapInfo :=
  let o := copyRecord s t f two d e c
  copyRouteTraps s t f o d e kv (if o.rowLen = 0 then 0 else o.rows)

/-- A channel's queue in a core with one copy more at its tail. -/
def Core.queueCopy (k : Core) (ch : Nat) (o : CopyOp) : Core :=
  { k with copyq := k.copyq.set ch (k.copyq.getD ch [] ++ [o]) }

/-- A copy that passes its checks joins its channel's queue, and %cwp of the channel is 0 (R235, R241). -/
def queueCopyX (s : State) (t : Thread) (f : CopyForm) (o : CopyOp) (kv : Reg) : X (State × Thread) := do
  let bar ← barX s t f kv
  oldestX t
  need (((s.core t.id.core.toNat).copyq.getD f.ch.toNat []).length < 8) (.park (.copyFull f.ch.toNat))
  return ({ s.setCore t.id.core.toNat ((s.core t.id.core.toNat).queueCopy f.ch.toNat { o with bar := bar }) with
    serial := s.serial + 1 }, (t.setCwp f.ch.toNat 0).adv)

/-- A copy whose operands are there: its first trap, or its place in the queue (R23, R235). -/
def checkedCopyX (s : State) (t : Thread) (f : CopyForm) (two : Bool) (d e c kv : Reg) : X (State × Thread) :=
  match firstTrap (earlyCopyTraps s t f two d e c kv) with
  | some i => .error (.trap i)
  | none =>
    match firstTrap (lateCopyTraps s t f two d e c kv) with
    | some i => .error (.trap i)
    | none => queueCopyX s t f (copyRecord s t f two d e c) kv

/-- COPY and COPY2 read their operands and go on with them. -/
theorem copyOp_reads {s : State} {t : Thread} {f : CopyForm} {d e c kv : Reg} (two : Bool)
    (h : CopyOperands t f d e c kv) :
    ∃ body, copyOp s f two = runT s body ∧ body s t = checkedCopyX s t f two d e c kv := by
  refine ⟨_, rfl, ?_⟩
  obtain ⟨_, _, _, _, _, bar, _, _, _⟩ := f
  simp only [h.window, presentX_holds h.dst, presentX_holds h.src, presentX_holds h.shape, okb]
  cases bar with
  | none =>
    obtain rfl := h.noBar rfl
    rfl
  | some g =>
    simp only [presentX_holds (h.bar g rfl), okb]
    rfl

section
variable {s : State} {t : Thread} {f : CopyForm} {two : Bool} {d e c kv : Reg} (hI : Issues s t)
  (ho : CopyOperands t f d e c kv)
include hI ho

/-- A copy that meets causes before translation traps the first of them (R23). -/
theorem exec_copy_traps_early {tr : TrapInfo} (h : firstTrap (earlyCopyTraps s t f two d e c kv) = some tr) :
    exec (copyInstr two f) s = .next (takeTrap s t tr) := by
  obtain ⟨body, hrun, hbody⟩ := copyOp_reads (s := s) two ho
  rw [exec_copyInstr, hrun]
  exact runT_error hI (st := .trap tr) (hbody.trans (by simp only [checkedCopyX, h]))

/-- A copy that meets causes after translation alone traps the first of them (R23). -/
theorem exec_copy_traps_late {tr : TrapInfo} (he : earlyCopyTraps s t f two d e c kv = [])
    (h : firstTrap (lateCopyTraps s t f two d e c kv) = some tr) :
    exec (copyInstr two f) s = .next (takeTrap s t tr) := by
  obtain ⟨body, hrun, hbody⟩ := copyOp_reads (s := s) two ho
  rw [exec_copyInstr, hrun]
  exact runT_error hI (st := .trap tr) (hbody.trans (by simp only [checkedCopyX, he, h, firstTrap]))

section
variable (he : earlyCopyTraps s t f two d e c kv = []) (hl : lateCopyTraps s t f two d e c kv = [])
  {bar : Option (Word × Bool)} (hb : barX s t f kv = .ok bar) (hplain : t.spec = none)
include he hl hb hplain

/-- A copy that meets no cause joins a queue with room (R235). -/
theorem exec_copy_queues (hroom : ((s.core t.id.core.toNat).copyq.getD f.ch.toNat []).length < 8) :
    exec (copyInstr two f) s = .next (State.commit
      { s.setCore t.id.core.toNat ((s.core t.id.core.toNat).queueCopy f.ch.toNat
          { copyRecord s t f two d e c with bar := bar }) with serial := s.serial + 1 }
      (t.setCwp f.ch.toNat 0).adv) := by
  obtain ⟨body, hrun, hbody⟩ := copyOp_reads (s := s) two ho
  rw [exec_copyInstr, hrun]
  exact runT_ok hI (hbody.trans (by
    simp only [checkedCopyX, he, hl, firstTrap, queueCopyX, hb, oldestX_plain hplain, need_true (decide_eq_true hroom),
      okb, prb]))

/-- A copy that meets no cause parks its thread on a full channel (R235). -/
theorem exec_copy_parks (hfull : 8 ≤ ((s.core t.id.core.toNat).copyq.getD f.ch.toNat []).length) :
    exec (copyInstr two f) s = .next (s.parked t (.copyFull f.ch.toNat)) := by
  obtain ⟨body, hrun, hbody⟩ := copyOp_reads (s := s) two ho
  rw [exec_copyInstr, hrun]
  exact runT_error hI (st := .park (.copyFull f.ch.toNat)) (hbody.trans (by
    simp only [checkedCopyX, he, hl, firstTrap, queueCopyX, hb, oldestX_plain hplain,
      need_false (decide_eq_false (Nat.not_lt.mpr hfull)), okb, erb]))

end

end

/-- CWAIT of a channel completes or parks as its test says (R263). -/
theorem exec_cwait {s : State} {t : Thread} (ch : BitVec 2) (hI : Issues s t) :
    exec (.cwait ch) s = .next
      (if s.cwaitOver t ch.toNat none then s.commit t.adv else s.parked t (.cwait ch.toNat none)) := by
  show execCwait ch s = _
  cases h : s.cwaitOver t ch.toNat none with
  | true => exact runT_ok hI (by simp only [need_true h, okb, prb])
  | false => exact runT_error hI (st := .park (.cwait ch.toNat none)) (by simp only [need_false h, erb])

/-- CWAIT of a pointer completes or parks as its test says (R263). -/
theorem exec_cwaitPtr {s : State} {t : Thread} {a : RegNum} {x : Reg} (ch : BitVec 2) (hI : Issues s t)
    (ha : t.holds a x) :
    let p := (x.extractLsb' 0 49).toNat
    exec (.cwaitPtr ch a) s = .next
      (if s.cwaitOver t ch.toNat (some p) then s.commit t.adv else s.parked t (.cwait ch.toNat (some p))) := by
  intro p
  have hp : ((scalar x).extractLsb' 0 49).toNat = p := by
    simp only [p, scalar, BitVec.extractLsb'_toNat, Nat.shiftRight_zero]
    exact Nat.mod_mod_of_dvd _ (pow_dvd_pow 2 (by decide))
  show execCwaitPtr ch a s = _
  cases h : s.cwaitOver t ch.toNat (some p) with
  | true => exact runT_ok hI (by simp only [win1 ha.inside, readX_holds ha, okb, hp, need_true h, prb])
  | false =>
    exact runT_error hI (st := .park (.cwait ch.toNat (some p)))
      (by simp only [win1 ha.inside, readX_holds ha, okb, hp, need_false h, erb])

/-- Settles O40: the traps in R23's order, then the queue; CWAIT by its test. -/
theorem copiesComplete : Obligations.CopiesComplete := by
  unfold Obligations.CopiesComplete
  intro s t f d e c ch a x kv two bar rows len ss ds de se o i k q used hI hplain
  refine ⟨fun ha hb hc hk => ?_, fun h => ?_, fun h => ?_, fun ha => ⟨fun h => ?_, fun ⟨p, hp, hlt⟩ => ?_⟩⟩
  · have ho : CopyOperands t f d e c kv := by
      refine ⟨ha, hb, hc, fun g hg => ?_, fun hg => ?_⟩ <;> rw [hg] at hk <;> exact hk
    exact ⟨fun tr h => exec_copy_traps_early hI ho h, fun he tr h => exec_copy_traps_late hI ho he h,
      fun he hl hbar => ⟨exec_copy_queues hI ho he hl hbar hplain, exec_copy_parks hI ho he hl hbar hplain⟩⟩
  · rw [exec_cwait ch hI, if_pos (by simp [State.cwaitOver, h])]
  · rw [exec_cwait ch hI, if_neg (by simp [State.cwaitOver, h])]
    rfl
  · rw [exec_cwaitPtr ch hI ha, if_pos]
    cases hlast : (s.copiesOn t.id ch.toNat).getLast? with
    | none => simp only [State.cwaitOver, hlast]
    | some p => simp only [State.cwaitOver, hlast, decide_eq_true (h p hlast)]
  · rw [exec_cwaitPtr ch hI ha, if_neg]
    · rfl
    · simp only [State.cwaitOver, hp, decide_eq_false (Nat.not_le.mpr hlt), Bool.false_eq_true, not_false_eq_true]

/-! ## Reads of special registers -/

/-- The index of a system register is known (R309). -/
theorem idxKnown_system {i : Nat} (hlo : 0x100 ≤ i) (hhi : i ≤ 0x110) : idxKnown i = true := by
  simp only [idxKnown, inRange, Bool.or_eq_true, Bool.and_eq_true, decide_eq_true_eq]
  omega

section
variable {s : State} {t : Thread} {d b : RegNum} {idx : BitVec 12} (hI : Issues s t)
include hI

/-- SRD of an index that names no register traps ILL (R308). -/
theorem exec_srd_unknown (h : idxKnown idx.toNat = false) :
    exec (.srd d idx b) s = .next (takeTrap s t (.plain 0x01 s.word)) := by
  show execSrd d idx b s = _
  exact runT_error hI (st := ill s) (by simp only [need_false h, erb])

/-- SRD of a thread register gives its value at any level (R19, R308). -/
theorem exec_srd_thread (hd : t.takes d) (h : idx.toNat < 0x20) :
    exec (.srd d idx b) s = .next (s.commit (t.setReg d (ofScalar (s.special t idx.toNat))).adv) := by
  have hk : idxKnown idx.toNat = true := by simp [idxKnown, h]
  have hlow : idx.toNat < 0x100 := by omega
  show execSrd d idx b s = _
  exact runT_ok hI (by simp only [need_true hk, okb, if_pos hlow, win1 hd.inside, destX_takes hd, done])

section
variable (hlo : 0x100 ≤ idx.toNat) (hhi : idx.toNat ≤ 0x110)
include hlo hhi

/-- SRD of a system register at level 0 traps PRIV (R18). -/
theorem exec_srd_user (hlv : t.level = 0) : exec (.srd d idx b) s = .next (takeTrap s t (.plain 0x02 s.word)) := by
  show execSrd d idx b s = _
  exact runT_error hI (st := priv s) (by
    simp only [need_true (idxKnown_system hlo hhi), okb, if_neg (Nat.not_lt.mpr hlo), hlv,
      need_false (c := decide (1 ≤ 0)) rfl, erb])

/-- SRD of a system register from level 1 on gives the element that its selector names (R308, R309). -/
theorem exec_srd_system {y : Reg} (hd : t.takes d) (hb : t.holds b y) (hlv : 1 ≤ t.level) :
    exec (.srd d idx b) s = .next (s.commit (t.setReg d (ofScalar (s.sysReg idx.toNat (scalar y)))).adv) := by
  show execSrd d idx b s = _
  exact runT_ok hI (by
    simp only [need_true (idxKnown_system hlo hhi), okb, if_neg (Nat.not_lt.mpr hlo), need_true (decide_eq_true hlv),
      win2 hd.inside hb.inside, readX_holds hb, destX_takes hd, done])

end

end

/-- Settles O42: by the group in which the index lies. -/
theorem specialRegisterReads : Obligations.SpecialRegisterReads := by
  unfold Obligations.SpecialRegisterReads
  intro s t d b idx y p gives hI hd
  refine ⟨fun q hq => ?_, fun hlo hhi => ⟨fun hlv => exec_srd_user hI hlo hhi hlv,
    fun hlv hb => exec_srd_system hI hlo hhi hd hb hlv⟩, fun h => exec_srd_unknown hI ?_⟩
  · have hread : decide (q.1.toNat < 0x20) = true ∧ s.special t q.1.toNat = q.2 := by
      revert q
      simp only [List.forall_mem_cons, List.not_mem_nil, false_implies, implies_true, and_true]
      and_intros <;> rfl
    rw [exec_srd_thread hI hd (of_decide_eq_true hread.1), hread.2]
    rfl
  · simp only [idxKnown, inRange, Bool.or_eq_false_iff, Bool.and_eq_false_iff, decide_eq_false_iff_not]
    omega

end Sys2Proof.Machine
end

section
/-! PROOF. Statements of the sequential machine: what is written reads back, and the discard of a queue image. -/

namespace Sys2Proof.Machine

/-! ## Byte strings and sets -/

/-- The low bytes of a number are its lowest one and those of the rest. -/
theorem natBytes_succ (n v : Nat) : natBytes (n + 1) v = BitVec.ofNat 8 v :: natBytes n (v / 256) := by
  simp [natBytes, List.range_succ_eq_map, Nat.pow_succ', Nat.div_div_eq_div_mul]

/-- n bytes spell the number modulo 2^(8n). -/
theorem bytesNat_natBytes (n : Nat) : ∀ v, bytesNat (natBytes n v) = v % 2 ^ (8 * n) := by
  induction n with
  | zero => intro v; simp [natBytes, bytesNat, Nat.mod_one]
  | succ n ih =>
    intro v
    calc bytesNat (natBytes (n + 1) v) = v % 256 + 256 * bytesNat (natBytes n (v / 256)) := by
          rw [natBytes_succ]; rfl
      _ = v % (256 * 2 ^ (8 * n)) := by rw [ih, Nat.mod_mul]
      _ = v % 2 ^ (8 * (n + 1)) := by rw [Nat.mul_succ, Nat.pow_add, Nat.mul_comm]

theorem mem_setDel (k x : Nat) (l : List Nat) : x ∈ setDel k l ↔ x ≠ k ∧ x ∈ l := by
  induction l with
  | nil => simp [setDel]
  | cons j l ih =>
    by_cases h : j = k
    · subst h
      simp only [setDel, if_true, ih, List.mem_cons]
      tauto
    · simp only [setDel, if_neg h, List.mem_cons, ih]
      constructor
      · rintro (rfl | hx)
        · exact ⟨h, .inl rfl⟩
        · exact ⟨hx.1, .inr hx.2⟩
      · tauto

theorem mem_setAdd (k x : Nat) (l : List Nat) : x ∈ setAdd k l ↔ x = k ∨ x ∈ l := by
  induction l with
  | nil => simp [setAdd]
  | cons j l ih =>
    by_cases h : j = k
    · subst h
      simp [setAdd]
    · by_cases hlt : k < j
      · simp [setAdd, h, hlt]
      · simp only [setAdd, if_neg h, if_neg hlt, List.mem_cons, ih]
        tauto

/-! ## Reading what was written -/

/-- A value written reads back (R151). -/
theorem State.read_write {s : State} (k n v : Nat) (h : s.memOk) : (s.write k n v).read k n = v % 2 ^ (8 * n) := by
  have hbytes := memBytes_memWrite (natBytes n v) s.mem k h
  rw [natBytes_length] at hbytes
  rw [← bytesNat_natBytes, State.read, memNat, State.write, hbytes]

/-- A value written changes no byte outside its own. -/
theorem State.memByte_write_outside {s : State} {k n j : Nat} (v : Nat) (h : s.memOk) (hj : j < k ∨ k + n ≤ j) :
    memByte j (s.write k n v).mem = memByte j s.mem := by
  rw [State.write, memByte_memWrite _ _ _ _ h, natBytes_length, if_neg (by omega)]

/-- The full/empty bit of a word after one has been set (R151). -/
theorem State.full_setFull (s : State) (k j : Nat) (b : Bool) :
    (s.setFull k b).full j = if k / 8 = j / 8 then b else s.full j := by
  unfold State.full State.setFull
  by_cases h : k / 8 = j / 8
  · cases b <;> simp [mem_setAdd, mem_setDel, h]
  · have hj : j / 8 ≠ k / 8 := fun e => h e.symm
    cases b <;> simp [mem_setAdd, mem_setDel, h, hj]

/-- A register of the window after one has been written (R5, R7, R292). -/
theorem Thread.entry_setReg {t : Thread} {r : RegNum} (q : RegNum) (v : Reg) (h : r.toNat < t.win) :
    (t.setReg r v).entry q = if q = r then { val := v, pres := .present, poison := false } else t.entry q := by
  unfold Thread.win at h
  by_cases hq : q = r
  · subst hq
    simp [Thread.entry, Thread.setReg, List.getD_eq_getElem?_getD, h]
  · have hne : r.toNat ≠ q.toNat := fun e => hq (BitVec.eq_of_toNat_eq e.symm)
    simp [Thread.entry, Thread.setReg, List.getD_eq_getElem?_getD, List.getElem?_set_ne hne, hq]

/-- A mask other than k0 is a register of the thread. -/
theorem Thread.mask_of_ne {q : KReg} (t : Thread) (h : q ≠ 0) : t.mask q = t.masks.getD (q.toNat - 1) 0 := if_neg h

theorem Thread.masks_setMask {k : KReg} (t : Thread) (v : Word) (h : k ≠ 0) :
    (t.setMask k v).masks = t.masks.set (k.toNat - 1) v := congrArg Thread.masks (if_neg h)

/-- A mask of a thread with its seven masks after one has been written; k0 reads as all ones (R9). -/
theorem Thread.mask_setMask {t : Thread} (k q : KReg) (v : Word) (h : t.masks.length = 7) :
    (t.setMask k v).mask q = if q = 0 then BitVec.allOnes 64 else if q = k then v else t.mask q := by
  by_cases hq : q = 0
  · rw [if_pos hq]
    exact if_pos hq
  rw [if_neg hq]
  by_cases hk : k = 0
  · rw [if_neg (hk ▸ hq), hk]
    rfl
  have hq0 : q.toNat ≠ 0 := fun e => hq (BitVec.eq_of_toNat_eq e)
  have hk0 : k.toNat ≠ 0 := fun e => hk (BitVec.eq_of_toNat_eq e)
  rw [Thread.mask_of_ne _ hq, Thread.mask_of_ne _ hq, Thread.masks_setMask t v hk]
  by_cases hqk : q = k
  · have hin : k.toNat - 1 < t.masks.length := by have := k.isLt; omega
    rw [if_pos hqk, hqk, List.getD_eq_getElem?_getD, List.getElem?_set_self hin, Option.getD_some]
  · have hne : k.toNat - 1 ≠ q.toNat - 1 := fun e => hqk (BitVec.eq_of_toNat_eq (by omega))
    rw [if_neg hqk, List.getD_eq_getElem?_getD, List.getElem?_set_ne hne, List.getD_eq_getElem?_getD]

/-- The thread of an identity after a slot has become FREE (R67). -/
theorem State.thread?_freeThread (s : State) (t q : Ident) :
    (s.freeThread t).thread? q = if q = t then none else s.thread? q := by
  have hthreads : (s.freeThread t).threads = tabDel t.toNat s.threads := by
    unfold State.freeThread
    dsimp only
    split <;> rfl
  simp only [State.thread?, hthreads, tabGet_tabDel, BitVec.toNat_inj]

/-- Settles O60: each part of the state by its own law. -/
theorem readAfterWrite : Obligations.ReadAfterWrite := by
  unfold Obligations.ReadAfterWrite
  exact ⟨fun s k n v h => ⟨s.memWf_write k n v h, State.read_write k n v h,
      fun _ hj => State.memByte_write_outside v h hj⟩,
    State.full_setFull, fun t r q v h => Thread.entry_setReg q v h, fun t k q v h => Thread.mask_setMask k q v h,
    State.thread?_setThread, State.thread?_freeThread⟩

/-! ## The discard of a queue image -/

/-- The identity of a core that exists is the target named (R307). -/
theorem identOf_of_isCore {x : Reg} (h : isCore (Ident.core (x.extractLsb' 0 17)).toNat = true) :
    identOf x = x.extractLsb' 0 17 := by
  have hx : (scalar x).extractLsb' 0 17 = x.extractLsb' 0 17 := by
    refine BitVec.eq_of_toNat_eq ?_
    simp only [scalar, BitVec.extractLsb'_toNat, Nat.shiftRight_zero]
    exact Nat.mod_mod_of_dvd _ (pow_dvd_pow 2 (by decide))
  rw [identOf, hx, if_pos h]

/-- A register that holds a value is found by a look at it. -/
theorem Thread.peek_holds {t : Thread} {r : RegNum} {x : Reg} (h : t.holds r x) : t.peek r = some x := by
  simp [Thread.peek, h.inside, h.entry]

/-- A thread with the right over its target passes the test of it (R18). -/
theorem rightX_ok {s : State} {t u : Thread} {a : RegNum} {x : Reg} (ha : t.holds a x)
    (hu : s.thread? (identOf x) = some u) (hl : 1 ≤ t.level) (hr : hasRight t u = true) : rightX s t a = .ok () := by
  simp only [rightX, need_true (decide_eq_true hl), okb, Thread.peek_holds ha, Option.bind_some, hu, need_true hr]

/-- What is left of a thread whose queue image has been discarded: the wait that goes with the image ends, in the record of
a THKILL under way where there is one (R225, R314, R316). -/
def Thread.withoutImage (u : Thread) : Thread :=
  { (if u.ownWait = .enginePage ∨ u.ownWait = .queueRoom then u.withWait .none else u) with image := [], roomWait := false }

/-- A thread with the right over a stopped target discards its queue image (R225, R314). -/
theorem exec_discardQueueImage {s : State} {t u : Thread} {d a b : RegNum} {x y : Reg} (hI : Issues s t)
    (ha : t.holds a x) (hb : t.holds b y) (hd : t.takes d) (hu : s.thread? (identOf x) = some u) (hl : 1 ≤ t.level)
    (hr : hasRight t u = true) (hclear : s.targetClear (identOf x) = true) (hst : u.state = .held ∨ u.state = .trapped) :
    exec (.discardQueueImage d a b) s = .next ((s.setThread u.withoutImage).commit (t.setReg d (ofScalar stOk)).adv) := by
  have hx : thwrX s t d a b = .ok (identOf x, y) := by
    simp only [thwrX, rightX_ok ha hu hl hr, win3 hd.inside ha.inside hb.inside, readX_holds ha, readX_holds hb,
      destX_takes hd, hclear, Bool.or_true, need_true, okb, prb]
  have hsp : u.state ≠ .spilled := by rcases hst with h | h <;> simp [h]
  have hstop : ¬ (u.state ≠ .held ∧ u.state ≠ .trapped) := by tauto
  show execDiscardQueueImage d a b s = _
  refine runT_ok hI ?_
  simp only [hx, okb, hu, if_neg hsp, if_neg hstop, done]
  rfl

/-- A thread at level 2 whose g1 names slot 1 of its core. -/
def discarder : Thread := { fetchThread with sp := Specials.start false 2 0 0 }.setReg 1 1

/-- A HELD thread in slot 1 whose removed engine operations wait for a page, and which slot 2's THKILL has stopped. -/
def killedTarget : Thread :=
  { fetchThread with
    id := 1, state := .held, wait := .killed,
    killed := some { by' := 2, state := .held, wait := .enginePage, copies := [] } }

/-- The discarder issues beside that target. -/
def discardState : State := (State.reset.setThread discarder).setThread killedTarget

/-- Refutes O45: in `discardState` a THKILL of the target is under way, and the wait that ends with the queue image is the
one that the kill keeps to put back; the statement has that one stay. -/
theorem not_threadAccessCompletes : ¬ Obligations.ThreadAccessCompletes := by
  unfold Obligations.ThreadAccessCompletes
  intro h
  have hI : Issues discardState discarder := ⟨by decide +kernel, by decide +kernel⟩
  have ha : discarder.holds 1 1 := ⟨by decide +kernel, by decide +kernel⟩
  have hb : discarder.holds 0 0 := ⟨by decide +kernel, by decide +kernel⟩
  have hd : discarder.takes 2 := ⟨by decide +kernel, by decide +kernel⟩
  have hcore : isCore (Ident.core ((1 : Reg).extractLsb' 0 17)).toNat = true := by decide +kernel
  have hu : discardState.thread? ((1 : Reg).extractLsb' 0 17) = some killedTarget := by decide +kernel
  have hclear : discardState.targetClear ((1 : Reg).extractLsb' 0 17) = true := by decide +kernel
  have hid := identOf_of_isCore hcore
  have hmodel := exec_discardQueueImage hI ha hb hd (hid ▸ hu) (by decide +kernel) (by decide +kernel) (hid ▸ hclear)
    (.inl rfl)
  obtain ⟨-, -, htarget⟩ := h discardState discarder 2 1 0 0 1 0 hI ha hb hd hcore
  obtain ⟨-, -, -, hstopped⟩ := htarget killedTarget hu (by decide +kernel) (.inl (by decide +kernel)) hclear (by decide)
  obtain ⟨-, -, hstated⟩ := hstopped (.inl rfl) (by decide +kernel)
  have hsame := Host.Outcome.next.inj (hmodel.symm.trans hstated)
  have hthread := congrArg (fun s : State => (s.thread? 1).map (·.killed)) hsame
  revert hthread
  decide +kernel

end Sys2Proof.Machine
end

section
/-! PROOF. Statements of the encoding: the decoder undoes the encoder, and words written out from the tables. -/

namespace Sys2Proof.Machine

open Sys2Proof.Laws

/-- Every constructor of `Instr` has its round trip, in the order of the constructors. -/
theorem decode_encode (i : Instr) : Encoding.Statement i :=
  Instr.rec (motive := Encoding.Statement)
    -- INT group
    Encoding.add Encoding.sub Encoding.mul Encoding.mulh Encoding.mulhn Encoding.madd Encoding.div Encoding.divn
    Encoding.rem Encoding.remn Encoding.min Encoding.max Encoding.minn Encoding.maxn Encoding.sel Encoding.and
    Encoding.or Encoding.xor Encoding.andn Encoding.orn Encoding.shl Encoding.shr Encoding.sra Encoding.rol
    Encoding.ror Encoding.clz Encoding.ctz Encoding.pop Encoding.bswap Encoding.seq Encoding.sne Encoding.slt
    Encoding.sle Encoding.sltn Encoding.slen Encoding.ext Encoding.ins Encoding.sxt8 Encoding.sxt16 Encoding.sxt32
    Encoding.zxt8 Encoding.zxt16 Encoding.zxt32
    -- IMM group
    Encoding.addi Encoding.muli Encoding.andi Encoding.ori Encoding.xori Encoding.shli Encoding.shri Encoding.srai
    Encoding.slti Encoding.sltni Encoding.seqi Encoding.movi Encoding.movhi
    -- BRANCH group
    Encoding.br Encoding.beq Encoding.bne Encoding.blt Encoding.bge Encoding.bltn Encoding.bgen Encoding.bz
    Encoding.bnz Encoding.dbnz Encoding.call
    -- JUMP group
    Encoding.jmp Encoding.callr
    -- THREAD group
    Encoding.pause Encoding.void
    -- MEM group
    Encoding.ld Encoding.lds Encoding.st Encoding.lea
    -- SEG group
    Encoding.segld Encoding.segnar Encoding.segrd
    -- VINT group
    Encoding.vadd Encoding.vsub Encoding.vmul Encoding.vmulh Encoding.vmin Encoding.vmax Encoding.vadds
    Encoding.vsubs Encoding.vand Encoding.vor Encoding.vxor Encoding.vshl Encoding.vshr Encoding.vsra Encoding.vabs
    Encoding.vneg Encoding.vcnt Encoding.vdot4 Encoding.vsel Encoding.vcmpeq Encoding.vcmpne Encoding.vcmplt
    Encoding.vcmple
    -- VFP group
    Encoding.vfadd Encoding.vfsub Encoding.vfmul Encoding.vfdiv Encoding.vfma Encoding.vfms Encoding.vfnma
    Encoding.vfsqrt Encoding.vfround Encoding.vfmin Encoding.vfmax Encoding.vfabs Encoding.vfneg Encoding.vfrcp
    Encoding.vfrsq Encoding.vfexp2 Encoding.vflog2 Encoding.vfcvt Encoding.vfcvti Encoding.vicvtf Encoding.vfcmpeq
    Encoding.vfcmplt Encoding.vfcmple Encoding.vfcmpun
    -- VPERM group
    Encoding.vsplat Encoding.vextr Encoding.vinsr Encoding.vperm Encoding.vperm2 Encoding.vrot Encoding.vcompr
    Encoding.vexpnd Encoding.viota Encoding.vredadd Encoding.vredmin Encoding.vredmax Encoding.vfredadd
    Encoding.vfredmax Encoding.vfredmin Encoding.kand Encoding.kor Encoding.kxor Encoding.knot Encoding.kpop
    Encoding.kfirst Encoding.kmov Encoding.kmovg
    -- SYNC group
    Encoding.ldw Encoding.ldc Encoding.stf Encoding.ste Encoding.feset Encoding.feget Encoding.waitv
    -- ATOM group
    Encoding.aadd Encoding.aand Encoding.aor Encoding.axor Encoding.amin Encoding.amax Encoding.aminn Encoding.amaxn
    Encoding.aswp Encoding.acas Encoding.afadd
    -- GATHER group
    Encoding.gld Encoding.gst Encoding.gadd Encoding.gfadd Encoding.gldw
    -- FENCE group
    Encoding.fence
    -- RULE group
    Encoding.split Encoding.jdone Encoding.stamp Encoding.boxrd Encoding.budrd Encoding.launch Encoding.rgnq
    -- MSG group
    Encoding.send Encoding.sendr Encoding.chset Encoding.chget Encoding.migrate Encoding.syscall
    -- MATRIX group
    Encoding.mma Encoding.bload Encoding.brot Encoding.brel Encoding.mcommit Encoding.mwait Encoding.mzero
    Encoding.mfill Encoding.mdrain Encoding.qrow
    -- RANK group
    Encoding.rlset Encoding.rlins Encoding.rlmergeTile Encoding.rlmergeImage Encoding.rlthr Encoding.rldrain
    Encoding.rlclr
    -- COPY group
    Encoding.copy Encoding.copy2 Encoding.cwait Encoding.cwaitPtr Encoding.barinit Encoding.bararr
    Encoding.bararrCount Encoding.barwait
    -- CONV group
    Encoding.cvtn Encoding.cvtw Encoding.qmx Encoding.dqmx Encoding.plane Encoding.unplane
    -- SYS group
    Encoding.srd Encoding.swr Encoding.statusWrite Encoding.partitionWrite Encoding.atollWrite
    Encoding.channelEntryWrite Encoding.scrub Encoding.errlogClear Encoding.thrd Encoding.thwr
    Encoding.discardQueueImage Encoding.debugHold Encoding.thres Encoding.thkill Encoding.spill Encoding.reghold
    Encoding.regrel Encoding.rcbrd Encoding.capq Encoding.brk Encoding.wakep Encoding.tlbinv
    -- without operands
    Encoding.nop Encoding.endT Encoding.yield Encoding.ifence Encoding.prune Encoding.leaf Encoding.defer
    -- events
    Encoding.threadRetire Encoding.pauseExpiry Encoding.decisionTakesEffect Encoding.unitMigration
    Encoding.messageArrival Encoding.bufferedMessageStart Encoding.pageWake Encoding.trapMessage
    Encoding.migrationArrival Encoding.forwardedReply Encoding.forwardingEntryExpiry Encoding.depositLanding
    Encoding.accessAcknowledgement Encoding.relaxedCompletion Encoding.relaxedErrorResponse Encoding.bankAccess
    Encoding.refusalRetry Encoding.becomeOldest Encoding.dispatch Encoding.evaluate Encoding.leafDispatch
    Encoding.joinDispatch Encoding.regionCompletion Encoding.cycleBudgetExhausted Encoding.engineOpStart
    Encoding.engineOpComplete Encoding.brotArrival Encoding.enginePageFault Encoding.engineFailure Encoding.copyLine
    Encoding.copyComplete Encoding.copyCancel Encoding.pageFault Encoding.mmuRewalk Encoding.tlbinvComplete
    Encoding.collapse Encoding.collapseAck Encoding.uncorrectableError Encoding.hold Encoding.spillWrite
    Encoding.contextRestore Encoding.throttleEvent Encoding.powerLimitWrite Encoding.inboundDoorbell
    Encoding.mbxtgtWrite Encoding.outboundDoorbell Encoding.devstatWrite Encoding.hostirq Encoding.msixUnmask
    Encoding.hostBar2Access Encoding.hostConfigRequest Encoding.functionLevelReset Encoding.fmsend
    Encoding.fabricMessageArrival Encoding.fmdropClear Encoding.peerAccessArrival Encoding.fabricTimeout
    Encoding.mgmtTransmit Encoding.mgmtReceive Encoding.powerOnReset Encoding.notAnInstruction Encoding.syscallReply
    Encoding.pageMigration Encoding.straitWithdrawal Encoding.hostBlockAccess Encoding.linkUpChange
    Encoding.bootFabricStore i

/-- Settles O2: by the round trip of each constructor. -/
theorem encodedInstructionDecodes : Obligations.EncodedInstructionDecodes := by
  unfold Obligations.EncodedInstructionDecodes
  exact fun i w hwf hw => decode_encode i hwf w hw

/-- Settles O1: the decoder, run on each word. -/
theorem writtenWordsDecode : Obligations.WrittenWordsDecode := by
  unfold Obligations.WrittenWordsDecode
  and_intros <;> rfl

end Sys2Proof.Machine
end

section
/-! PROOF. Statements of the encoding: writes of special registers. -/

namespace Sys2Proof.Machine

/-! ## SWR: what its checks answer -/

/-- The check of a register's contents, where the register holds a value (R23, R35). -/
theorem valueX_holds {s : State} {t : Thread} {r : RegNum} {x : Reg} (ok : Reg → Bool) (h : t.holds r x) :
    valueX s t r ok = need (ok x) (ill s) := by
  cases hok : ok x <;> simp [valueX, need, h.inside, h.entry, hok]

/-- The index of a thread register is known (R19). -/
theorem idxKnown_thread {i : Nat} (h : i < 0x20) : idxKnown i = true := by simp [idxKnown, h]

/-- Only the format registers refuse values (R32). -/
theorem fmtRegOk_of_other {i : Nat} (v : Word) (h : i < 0x16 ∨ 0x18 < i) : fmtRegOk i v = true := by
  have h16 : i ≠ 0x16 := by omega
  have h17 : i ≠ 0x17 := by omega
  have h18 : i ≠ 0x18 := by omega
  simp [fmtRegOk, h16, h17, h18]

/-- The reserved rounding codes (R20, R31). -/
theorem rndBad_iff {r : BitVec 3} : rndBad r = true ↔ r = 0 ∨ r = 6 ∨ r = 7 := by
  simp [rndBad, or_assoc]

/-- The system registers that SWR writes by the row of SWR itself (R309). -/
def PlainSystemIdx (i : Nat) : Prop := i = 0x102 ∨ (0x106 ≤ i ∧ i ≤ 0x109)

theorem PlainSystemIdx.lower {i : Nat} (h : PlainSystemIdx i) : 0x100 ≤ i := by unfold PlainSystemIdx at h; omega

theorem PlainSystemIdx.upper {i : Nat} (h : PlainSystemIdx i) : i ≤ 0x110 := by unfold PlainSystemIdx at h; omega

/-- These are the system registers that the test of SWR's row names (R309). -/
theorem PlainSystemIdx.tested {i : Nat} (h : PlainSystemIdx i) : (i = 0x102 || inRange i 0x106 4) = true := by
  simp only [inRange, Bool.or_eq_true, Bool.and_eq_true, decide_eq_true_eq]
  unfold PlainSystemIdx at h
  omega

theorem PlainSystemIdx.accepts {i : Nat} (h : PlainSystemIdx i) (v : Word) : fmtRegOk i v = true :=
  fmtRegOk_of_other v (.inr (lt_of_lt_of_le (by decide) h.lower))

section
variable {s : State} {t : Thread} {a b : RegNum} {idx : BitVec 12} {x : Reg} (hI : Issues s t) (ha : t.holds a x)
include hI ha

section
variable (hlow : idx.toNat < 0x20)
include hlow

/-- SWR of a format word that its register refuses traps ILL (R32). -/
theorem exec_swr_refused (hv : fmtRegOk idx.toNat (scalar x) = false) :
    exec (.swr idx a b) s = .next (takeTrap s t (.plain 0x01 s.word)) := by
  show execSwr idx a b s = _
  exact runT_error hI (st := ill s)
    (by simp only [need_true (idxKnown_thread hlow), okb, valueX_holds _ ha, need_false hv, erb])

section
variable (hv : fmtRegOk idx.toNat (scalar x) = true)
include hv

/-- SWR of a thread register that the level allows writes it (R18, R19). -/
theorem exec_swr_thread (hw : (userWrites idx.toNat || (idx.toNat = 0x04 && decide (1 ≤ t.level))) = true) :
    exec (.swr idx a b) s = .next (s.commit (t.setSpecial idx.toNat (scalar x)).adv) := by
  have hthread : idx.toNat < 0x100 := by omega
  show execSwr idx a b s = _
  exact runT_ok hI (by
    simp only [need_true (idxKnown_thread hlow), okb, valueX_holds _ ha, need_true hv, if_pos hthread, need_true hw,
      win1 ha.inside, readX_holds ha, prb])

/-- SWR of a thread register that the level does not allow traps PRIV (R18, R19). -/
theorem exec_swr_thread_denied (hw : (userWrites idx.toNat || (idx.toNat = 0x04 && decide (1 ≤ t.level))) = false) :
    exec (.swr idx a b) s = .next (takeTrap s t (.plain 0x02 s.word)) := by
  have hthread : idx.toNat < 0x100 := by omega
  show execSwr idx a b s = _
  exact runT_error hI (st := priv s) (by
    simp only [need_true (idxKnown_thread hlow), okb, valueX_holds _ ha, need_true hv, if_pos hthread,
      need_false hw, erb])

end

end

section
variable (hidx : PlainSystemIdx idx.toNat)
include hidx

/-- SWR of a system register below level 2 traps PRIV (R18). -/
theorem exec_swr_system_denied (hl : t.level ≠ 2) :
    exec (.swr idx a b) s = .next (takeTrap s t (.plain 0x02 s.word)) := by
  show execSwr idx a b s = _
  exact runT_error hI (st := priv s) (by
    simp only [need_true (idxKnown_system hidx.lower hidx.upper), okb, valueX_holds _ ha, need_true (hidx.accepts _),
      if_neg (Nat.not_lt.mpr hidx.lower), decide_eq_false hl, Bool.false_and, need_false (c := false) rfl, erb])

/-- SWR of a system register at level 2 writes the element that its selector names (R309). -/
theorem exec_swr_system {y : Reg} (hb : t.holds b y) (hl : t.level = 2) :
    exec (.swr idx a b) s = .next ((s.writeSysReg idx.toNat (scalar y) (scalar x)).commit t.adv) := by
  show execSwr idx a b s = _
  exact runT_ok hI (by
    simp only [need_true (idxKnown_system hidx.lower hidx.upper), okb, valueX_holds _ ha, need_true (hidx.accepts _),
      if_neg (Nat.not_lt.mpr hidx.lower), decide_eq_true hl, hidx.tested, Bool.true_and, need_true,
      win2 ha.inside hb.inside, readX_holds ha, readX_holds hb, prb])

end

/-- SWR of %status refuses a reserved rounding code, then a higher level, and else keeps the low eight bits (R17,
R20). -/
theorem exec_statusWrite :
    let rnd := (scalar x).extractLsb' 2 3
    exec (.statusWrite a) s = if rnd = 0 ∨ rnd = 6 ∨ rnd = 7 then .next (takeTrap s t (.plain 0x01 s.word))
    else if t.level < ((scalar x).extractLsb' 0 2).toNat then .next (takeTrap s t (.plain 0x02 s.word))
    else .next (s.commit { t with sp := { t.sp with status := scalar x &&& 0xFF } }.adv) := by
  intro rnd
  show execStatusWrite a s = _
  by_cases hbad : rnd = 0 ∨ rnd = 6 ∨ rnd = 7
  · have hr : rndBad rnd = true := rndBad_iff.mpr hbad
    rw [if_pos hbad]
    exact runT_error hI (st := ill s) (by simp only [valueX_holds _ ha, rnd, hr, Bool.not_true, need_false, erb])
  · have hr : rndBad rnd = false := Bool.eq_false_iff.mpr (mt rndBad_iff.mp hbad)
    rw [if_neg hbad]
    by_cases hl : t.level < ((scalar x).extractLsb' 0 2).toNat
    · rw [if_pos hl]
      exact runT_error hI (st := priv s) (by
        simp only [valueX_holds _ ha, rnd, hr, Bool.not_false, need_true, okb, Thread.peek_holds ha, Option.map_some,
          Option.all_some, decide_eq_false (Nat.not_le.mpr hl), need_false, erb])
    · rw [if_neg hl]
      exact runT_ok hI (by
        simp only [valueX_holds _ ha, rnd, hr, Bool.not_false, need_true, okb, Thread.peek_holds ha, Option.map_some,
          Option.all_some, decide_eq_true (Nat.not_lt.mp hl), win1 ha.inside, readX_holds ha, prb])

end

/-! ## What a write leaves -/

/-- %bound0 to %bound5 are written by their place (R19). -/
theorem Thread.setSpecial_bound (t : Thread) {j : Nat} (hj : j < 6) (v : Word) :
    t.setSpecial (6 + j) v = { t with sp := { t.sp with bounds := t.sp.bounds.set j v } } := by
  have h4 : 6 + j ≠ 4 := by omega
  have h5 : 6 + j ≠ 5 := by omega
  have hlt : 6 + j < 0x0C := by omega
  simp only [Thread.setSpecial, if_neg h4, if_neg h5, if_pos hlt, Nat.add_sub_cancel_left]

/-- While EN is set, page-service requests go out as messages, in their order (R309). -/
theorem State.foldl_pageRequest (l : List Reg) : ∀ {s : State}, s.sys.pagesvc.getLsbD 63 = true →
    (l.foldl State.pageRequest s).sys = s.sys ∧ (l.foldl State.pageRequest s).pageReqs = s.pageReqs ∧
      (l.foldl State.pageRequest s).mesh.map (·.body) = s.mesh.map (·.body) ++ l.map .device := by
  induction l with
  | nil => intro s _; simp
  | cons g l ih =>
    intro s h
    have hpost : s.pageRequest g =
        s.post (s.sys.pagesvc.extractLsb' 0 11) (s.sys.pagesvc.extractLsb' 16 5) none 0 (.device g) := if_pos h
    obtain ⟨hsys, hreqs, hmesh⟩ := ih (s := s.pageRequest g) (by rw [hpost]; exact h)
    rw [List.foldl_cons, hsys, hreqs, hmesh, hpost]
    simp [State.post]

/-- Sending the kept requests changes no system register, and none is kept while EN is set (R309). -/
theorem State.sendPageReqs_spec (s : State) : s.sendPageReqs.sys = s.sys ∧
    if s.sys.pagesvc.getLsbD 63 then
      s.sendPageReqs.pageReqs = [] ∧ s.sendPageReqs.mesh.map (·.body) = s.mesh.map (·.body) ++ s.pageReqs.map .device
    else s.sendPageReqs.pageReqs = s.pageReqs ∧ s.sendPageReqs.mesh = s.mesh := by
  unfold State.sendPageReqs
  cases h : s.sys.pagesvc.getLsbD 63 with
  | true => exact State.foldl_pageRequest s.pageReqs (s := { s with pageReqs := [] }) h
  | false => exact ⟨rfl, rfl, rfl⟩

/-- EN is a bit that %pagesvc has. -/
theorem enable_targetMask (v : Word) : (v &&& targetMask).getLsbD 63 = v.getLsbD 63 := by
  rw [BitVec.getLsbD_and, show targetMask.getLsbD 63 = true from rfl, Bool.and_true]

/-- A word 0 with reserved bits set is refused (R311). -/
theorem State.writeDomain_reserved {s : State} {n : Nat} {v : Word} (hn : n % 4 = 0) (hv : v.extractLsb' 21 43 ≠ 0) :
    s.writeDomain n v = s :=
  if_pos (by rw [Bool.and_eq_true]; exact ⟨decide_eq_true hn, bne_iff_ne.mpr hv⟩)

/-- What a domain table holds of a word written to it (R311). -/
def domainField (i : Nat) (v : Word) : Word :=
  if i = 1 then v &&& 0x000F_FFFF_FFFF_F000 else if i = 3 then v &&& 0xFFFF_FFFF else v

/-- An entry of the domain table after a write of its word k (R311). -/
def domainEntry (k : Nat) (v : Word) (old : List Word) : List Word :=
  (List.range 4).map fun i => if i = k then domainField k v else old.getD i 0

theorem getD_domainEntry {k i : Nat} (v : Word) (old : List Word) (hi : i < 4) :
    (domainEntry k v old).getD i 0 = if i = k then domainField k v else old.getD i 0 := by
  simp [domainEntry, List.getD, hi]

/-- Any other write puts its word into the entry of its place (R311). -/
theorem State.writeDomain_valid {s : State} {n : Nat} {v : Word} (hv : n % 4 = 0 → v.extractLsb' 21 43 = 0) :
    let entry := domainEntry (n % 4) v ((tabGet (n / 4) s.sys.domains).getD [])
    s.writeDomain n v = { s with sys := { s.sys with domains := tabPut (n / 4) entry s.sys.domains } } := by
  have hok : ¬ (n % 4 = 0 && v.extractLsb' 21 43 != 0) = true := by simpa using hv
  simp only [State.writeDomain, if_neg hok, domainEntry, domainField]

/-- The words of the domain table after a write that is not refused (R311). -/
theorem State.domWord_writeDomain {s : State} {n i : Nat} {v : Word} {e : BitVec 32}
    (hv : n % 4 = 0 → v.extractLsb' 21 43 = 0) (he : e.toNat < 4096) (hi : i < 4) :
    (s.writeDomain n v).domWord e i = if 4 * e.toNat + i = n then domainField i v else s.domWord e i := by
  rw [State.writeDomain_valid hv]
  simp only [State.domWord, if_pos he, tabGet_tabPut]
  by_cases hent : e.toNat = n / 4
  · rw [if_pos hent, Option.getD_some, getD_domainEntry _ _ hi]
    by_cases hword : i = n % 4
    · have hplace : 4 * e.toNat + i = n := by omega
      rw [if_pos hword, if_pos hplace, hword]
    · have hplace : ¬ 4 * e.toNat + i = n := by omega
      rw [if_neg hword, if_neg hplace, hent]
  · have hplace : ¬ 4 * e.toNat + i = n := by omega
    rw [if_neg hent, if_neg hplace]

/-- Completing an instruction leaves the domain table. -/
theorem State.domWord_commit (s : State) (t : Thread) (e : BitVec 32) (i : Nat) :
    (s.commit t).domWord e i = s.domWord e i := by
  simp only [State.domWord, State.commit_sys]

/-! ## The statement -/

/-- A write of the domain table within its size (R311). -/
theorem State.writeSysReg_domain (s : State) {sel : Word} (v : Word) (h : sel.toNat < 16384) :
    s.writeSysReg 0x106 sel v = s.writeDomain sel.toNat v := if_pos h

/-- A write of an element of %shares (R309). -/
theorem State.writeSysReg_shares (s : State) (sel v : Word) : s.writeSysReg 0x107 sel v = if sel.toNat < 24 then
    { s with sys := { s.sys with shares := s.sys.shares.set sel.toNat (v &&& 0xFF) } } else s := rfl

/-- A write of an element of %spillarena (R309). -/
theorem State.writeSysReg_spillarena (s : State) (sel v : Word) : s.writeSysReg 0x108 sel v =
    if sel.toNat = 0 ∧ v.extractLsb' 0 6 = 0 then { s with sys := { s.sys with spillBase := v } }
    else if sel.toNat = 1 then { s with sys := { s.sys with spillLimit := v } } else s := by
  show (if sel.toNat = 0 then if v.extractLsb' 0 6 = 0 then _ else s else if sel.toNat = 1 then _ else s) = _
  by_cases h0 : sel.toNat = 0
  · simp only [h0, true_and, if_true, if_neg (show (0 : Nat) ≠ 1 by decide)]
  · simp only [h0, false_and, if_false]

/-- The thread registers that no level may write with SWR, besides those with rows of their own (R19). -/
theorem readOnly_not_writable : ∀ j ∈ ([0x001, 0x002, 0x003, 0x00C, 0x00D, 0x00E, 0x010, 0x014, 0x015, 0x01C, 0x01D,
    0x01E, 0x01F] : List (BitVec 12)), j.toNat < 0x20 ∧ (j.toNat < 0x16 ∨ 0x18 < j.toNat) ∧ userWrites j.toNat = false ∧
      j.toNat ≠ 0x04 := by
  simp [userWrites, inRange]

section
variable {s : State} {t : Thread} {a b : RegNum} {x : Reg} (hI : Issues s t) (ha : t.holds a x)
include hI ha

/-- SWR of %pagesvc at level 2: its bits, and the kept requests once EN is set (R309). -/
theorem exec_swr_pagesvc {y : Reg} (hb : t.holds b y) (hl : t.level = 2) :
    ∃ s2, exec (.swr 0x102 a b) s = .next s2 ∧ s2.sys = { s.sys with pagesvc := scalar x &&& targetMask } ∧
      if (scalar x).getLsbD 63 then
        s2.pageReqs = [] ∧ s2.mesh.map (·.body) = s.mesh.map (·.body) ++ s.pageReqs.map .device
      else s2.pageReqs = s.pageReqs ∧ s2.mesh = s.mesh := by
  let s1 : State := { s with sys := { s.sys with pagesvc := scalar x &&& targetMask } }
  obtain ⟨hsys, hsent⟩ := s1.sendPageReqs_spec
  rw [show s1.sys.pagesvc.getLsbD 63 = (scalar x).getLsbD 63 from enable_targetMask _] at hsent
  refine ⟨s1.sendPageReqs.commit t.adv, exec_swr_system hI ha (.inl rfl) hb hl, ?_, ?_⟩
  · rw [State.commit_sys, hsys]
  · rw [State.commit_pageReqs, State.commit_mesh]
    exact hsent

/-- SWR of a register that every level may write. -/
theorem exec_swr_open {idx : BitVec 12} (hlow : idx.toNat < 0x20) (hv : fmtRegOk idx.toNat (scalar x) = true)
    (hw : userWrites idx.toNat = true) :
    exec (.swr idx a b) s = .next (s.commit (t.setSpecial idx.toNat (scalar x)).adv) :=
  exec_swr_thread hI ha hlow hv (by rw [hw, Bool.true_or])

/-- SWR of %bound0 to %bound5 (R19). -/
theorem exec_swr_bound {j : BitVec 12} (hj : j.toNat < 6) :
    exec (.swr (6 + j) a b) s =
      .next (s.commit { t with sp := { t.sp with bounds := t.sp.bounds.set j.toNat (scalar x) } }.adv) := by
  have hplace : (6 + j).toNat = 6 + j.toNat := by
    rw [BitVec.toNat_add]
    exact Nat.mod_eq_of_lt (show 6 + j.toNat < 4096 by omega)
  have hwrites : userWrites (6 + j.toNat) = true := by
    simp only [userWrites, inRange, Bool.or_eq_true, Bool.and_eq_true, decide_eq_true_eq]
    omega
  rw [exec_swr_open hI ha (by omega) (fmtRegOk_of_other _ (.inl (by omega))) (hplace ▸ hwrites), hplace,
    Thread.setSpecial_bound t hj]

/-- SWR of %febudget needs level 1 (R19). -/
theorem exec_swr_febudget :
    exec (.swr 0x004 a b) s = if t.level = 0 then .next (takeTrap s t (.plain 0x02 s.word))
      else .next (s.commit { t with sp := { t.sp with febudget := scalar x } }.adv) := by
  by_cases hl : t.level = 0
  · rw [if_pos hl]
    exact exec_swr_thread_denied hI ha (by decide) rfl (by rw [hl]; rfl)
  · rw [if_neg hl]
    have hpos : decide (1 ≤ t.level) = true := decide_eq_true (Nat.pos_of_ne_zero hl)
    exact exec_swr_thread hI ha (by decide) rfl (by rw [hpos]; rfl)

end

/-- Settles O43: each register by its own equation. -/
theorem specialRegisterWrites : Obligations.SpecialRegisterWrites := by
  unfold Obligations.SpecialRegisterWrites
  intro s t a b idx x y p v sets traps hI ha
  refine ⟨exec_swr_open hI ha (by decide) rfl rfl, fun j hj => exec_swr_bound hI ha hj,
    fun hv => ⟨exec_swr_open hI ha (by decide) hv rfl, exec_swr_open hI ha (by decide) hv rfl⟩,
    fun hv => ⟨exec_swr_refused hI ha (by decide) hv, exec_swr_refused hI ha (by decide) hv⟩,
    fun hv => exec_swr_open hI ha (by decide) hv rfl, fun hv => exec_swr_refused hI ha (by decide) hv,
    exec_swr_open hI ha (by decide) rfl rfl, exec_swr_open hI ha (by decide) rfl rfl,
    exec_swr_open hI ha (by decide) rfl rfl, exec_swr_febudget hI ha, fun j hj => ?_,
    fun hidx _ hl => exec_swr_system_denied hI ha hidx hl, fun hb hl => ?_, ?_⟩
  · obtain ⟨hlow, hfmt, huser, hfe⟩ := readOnly_not_writable j hj
    exact exec_swr_thread_denied hI ha hlow (fmtRegOk_of_other _ hfmt) (by simp [huser, hfe])
  · intro n low sys same
    let commits (u : State) : Host.Outcome State Fault Refusal := .next (u.commit t.adv)
    have write (j : BitVec 12) (i : Nat) (hi : j.toNat = i) (h : PlainSystemIdx i) :
        exec (.swr j a b) s = commits (s.writeSysReg i (scalar y) (scalar x)) := by
      subst hi
      exact exec_swr_system hI ha h hb hl
    have hdomain (hn : n < 16384) : exec (.swr 0x106 a b) s = commits (s.writeDomain n v) := by
      rw [write 0x106 0x106 rfl (.inr (by decide))]
      exact congrArg commits (State.writeSysReg_domain s v hn)
    refine ⟨exec_swr_pagesvc hI ha hb hl, fun hn hz hr => ?_, fun hn hv => ⟨_, hdomain hn, ?_, fun e i he hi => ?_⟩,
      ?_, ?_, write 0x109 0x109 rfl (.inr (by decide))⟩
    · rw [hdomain hn, State.writeDomain_reserved hz hr]
    · rw [State.commit_mem, State.writeDomain_valid hv]
    · rw [State.domWord_commit]
      exact State.domWord_writeDomain hv he hi
    · rw [write 0x107 0x107 rfl (.inr (by decide)), State.writeSysReg_shares, apply_ite commits]
      rfl
    · rw [write 0x108 0x108 rfl (.inr (by decide)), State.writeSysReg_spillarena, apply_ite commits, apply_ite commits]
      rfl
  · exact exec_statusWrite hI ha

end Sys2Proof.Machine
end

section
/-! PROOF. Every step keeps memory canonical (O58). -/
namespace Sys2Proof.Machine

/-- The state in which an instruction parks, where it has changed beside the thread, is canonical. -/
def Stop.memOk : Stop → Prop
  | .parkIn s _ => s.memOk
  | _ => True

/-- A computation answers with what it should, or stops in canonical memory. -/
inductive MemOkX {α : Type} (p : α → Prop) : X α → Prop
  | ok {a : α} (h : p a) : MemOkX p (.ok a)
  | error {st : Stop} (h : st.memOk) : MemOkX p (.error st)

theorem memOkX_ok {α : Type} {p : α → Prop} {a : α} : MemOkX p (.ok a) ↔ p a :=
  ⟨fun | .ok h => h, .ok⟩

theorem memOkX_error {α : Type} {p : α → Prop} {st : Stop} : MemOkX p (.error st) ↔ st.memOk :=
  ⟨fun | .error h => h, .error⟩

/-- A computation that stops where it is not to park beside a changed state. -/
theorem MemOkX.trap {α : Type} {p : α → Prop} {i : TrapInfo} : MemOkX p (.error (.trap i)) := .error trivial

/-- What may happen, where it happens, leads to canonical memory. -/
inductive MemOkO : Option State → Prop
  | none : MemOkO none
  | some {s : State} (h : s.memOk) : MemOkO (some s)

theorem memOkO_some {s : State} : MemOkO (some s) ↔ s.memOk := ⟨fun | .some h => h, .some⟩

theorem MemOkO.of_eq {o : Option State} {s : State} (h : MemOkO o) (e : o = Option.some s) : s.memOk :=
  memOkO_some.mp (e ▸ h)

theorem MemOkO.ite {c : Prop} [Decidable c] {a b : Option State} (ha : MemOkO a) (hb : MemOkO b) :
    MemOkO (if c then a else b) := by
  split
  · exact ha
  · exact hb

theorem MemOkO.map {α : Type} {o : Option α} {f : α → State} (hf : ∀ a, o = Option.some a → (f a).memOk) :
    MemOkO (o.map f) := by
  cases o with
  | none => exact .none
  | some a => exact .some (hf a rfl)

theorem MemOkO.bind {α : Type} {o : Option α} {f : α → Option State} (hf : ∀ a, MemOkO (f a)) :
    MemOkO (o.bind f) := by
  cases o with
  | none => exact .none
  | some a => exact hf a

theorem MemOkO.findSome? {α : Type} {f : α → Option State} (hf : ∀ a, MemOkO (f a)) {l : List α} :
    MemOkO (l.findSome? f) := by
  cases e : l.findSome? f with
  | none => exact .none
  | some v =>
    obtain ⟨a, -, ha⟩ := List.exists_of_findSome?_eq_some e
    exact .some ((hf a).of_eq ha)

theorem MemOkO.getD {o : Option State} {s : State} (ho : MemOkO o) (h : s.memOk) : (o.getD s).memOk := by
  cases ho with
  | none => exact h
  | some h => exact h

/-- A step that leads on leads to canonical memory. -/
def MemOkNext (r : Host.Outcome State Fault Refusal) : Prop := ∀ s, r = .next s → s.memOk

theorem MemOkNext.next {s : State} (h : s.memOk) : MemOkNext (.next s) := by
  rintro _ ⟨⟩
  exact h

theorem MemOkNext.ite {c : Prop} [Decidable c] {a b} (ha : MemOkNext a) (hb : MemOkNext b) :
    MemOkNext (if c then a else b) := by
  split
  · exact ha
  · exact hb

/-- Where a computation answers with what the next one needs, the two one after the other end as the second does. -/
theorem MemOkX.bind {α β : Type} {p : α → Prop} {q : β → Prop} {x : X α} {f : α → X β} (hx : MemOkX p x)
    (hf : ∀ a, p a → MemOkX q (f a)) : MemOkX q (x >>= f) := by
  cases hx with
  | ok h => exact hf _ h
  | error h => exact .error h

theorem MemOkX.ite {α : Type} {p : α → Prop} {c : Prop} [Decidable c] {x y : X α} (hx : MemOkX p x)
    (hy : MemOkX p y) : MemOkX p (if c then x else y) := by
  split
  · exact hx
  · exact hy

/-- A check that is made in some cases only. -/
theorem MemOkX.guard {α : Type} {p : α → Prop} {c : Prop} [Decidable c] {x : X Unit} {f : Unit → X α}
    (hx : MemOkX (fun _ => True) x) (hf : ∀ u, MemOkX p (f u)) : MemOkX p (if c then x >>= f else f ()) :=
  .ite (hx.bind fun u _ => hf u) (hf ())

namespace State.memOk
variable {s : State}

/-- A list of changes, each of which keeps memory canonical, keeps it so. -/
theorem foldl {α : Type} {f : State → α → State} (hf : ∀ {s}, s.memOk → ∀ a, (f s a).memOk) {l : List α}
    (h : s.memOk) : (l.foldl f s).memOk := by
  induction l generalizing s with
  | nil => exact h
  | cons a l ih => exact ih (hf h a)

theorem ite {c : Prop} [Decidable c] {a b : State} (ha : a.memOk) (hb : b.memOk) : (if c then a else b).memOk := by
  split
  · exact ha
  · exact hb

/-- The state of a pair whose parts are known. -/
theorem fst {α : Type} {p : State × α} {a : α} (h : p.1.memOk) (e : p = (s, a)) : s.memOk := by
  rw [e] at h
  exact h

theorem snd {α : Type} {p : α × State} {a : α} (h : p.2.memOk) (e : p = (a, s)) : s.memOk := by
  rw [e] at h
  exact h

theorem ite_fst {α : Type} {c : Prop} [Decidable c] {a b : State × α} (ha : a.1.memOk) (hb : b.1.memOk) :
    (if c then a else b).1.memOk := by
  split
  · exact ha
  · exact hb

theorem with_serial {n} (h : s.memOk) : ({ s with serial := n } : State).memOk := h

/-! ### Reset -/

theorem reset : State.reset.memOk := rfl

/-! ### The memory of a state -/

theorem write {k n v} (h : s.memOk) : (s.write k n v).memOk := s.memWf_write k n v h

theorem writeBytes {k l} (h : s.memOk) : (s.writeBytes k l).memOk := s.memWf_writeBytes k l h

theorem setFull {k b} (h : s.memOk) : (s.setFull k b).memOk := h

theorem fillBits {k n} (h : s.memOk) : (s.fillBits k n).memOk := by
  unfold State.fillBits
  exact foldl (fun h _ => h.setFull) h

theorem scrubbed {k n} (h : s.memOk) : (s.scrubbed k n).memOk := s.memWf_scrubbed k n h

theorem zeroed {k n} (h : s.memOk) : (s.zeroed k n).memOk := s.memWf_zeroed k n h

/-! ### Threads, cores, regions -/

theorem setThread {t} (h : s.memOk) : (s.setThread t).memOk := h

theorem setCore {c k} (h : s.memOk) : (s.setCore c k).memOk := h

theorem freeThread {t} (h : s.memOk) : (s.freeThread t).memOk := .ite h.setCore h

theorem setRegion {r} (h : s.memOk) : (s.setRegion r).memOk := h

theorem fresh (h : s.memOk) : (s.fresh).2.memOk := h

theorem choose (h : s.memOk) : (s.choose).2.memOk := h

theorem unknown (h : s.memOk) : (s.unknown).2.memOk := h

/-! ### Stops of an instruction -/

theorem trapX {α : Type} {p : α → Prop} {code info} : MemOkX p (Machine.trapX code info) := .trap

theorem parkX {α : Type} {p : α → Prop} {w} : MemOkX p (Machine.parkX w) := .error trivial

theorem need {c st} (hst : st.memOk) : MemOkX (fun _ => True) (Machine.need c st) := by
  cases c with
  | false => exact .error hst
  | true => exact .ok trivial

/-! ### Registers -/

theorem needTrap {c i} : MemOkX (fun _ => True) (Machine.need c (.trap i)) := need trivial

theorem needPark {c w} : MemOkX (fun _ => True) (Machine.need c (.park w)) := need trivial

theorem windowX {t l} : MemOkX (fun _ => True) (Machine.windowX t l) := by
  induction l with
  | nil => exact .ok trivial
  | cons r l ih =>
    unfold Machine.windowX
    split
    · exact ih
    · exact .trap

theorem presentX {t r} : MemOkX (fun _ => True) (Machine.presentX t r) := .ite parkX (.ok trivial)

theorem cleanX {t r} : MemOkX (fun _ => True) (Machine.cleanX t r) := .ite trapX (.ok trivial)

theorem cleansX {t l} : MemOkX (fun _ => True) (Machine.cleansX t l) := by
  induction l with
  | nil => exact .ok trivial
  | cons r l ih => exact cleanX.bind fun _ _ => ih

theorem readX {t r} : MemOkX (fun _ => True) (Machine.readX t r) :=
  presentX.bind fun _ _ => cleanX.bind fun _ _ => .ok trivial

theorem readsX {t l} : MemOkX (fun _ => True) (Machine.readsX t l) := by
  induction l with
  | nil => exact .ok trivial
  | cons r l ih => exact readX.bind fun _ _ => ih.bind fun _ _ => .ok trivial

theorem destX {t r} : MemOkX (fun _ => True) (Machine.destX t r) := .ite parkX (.ok trivial)

theorem destsX {t l} : MemOkX (fun _ => True) (Machine.destsX t l) := by
  induction l with
  | nil => exact .ok trivial
  | cons r l ih => exact destX.bind fun _ _ => ih

theorem runX {t r n} : MemOkX (fun _ => True) (Machine.runX t r n) := .ite (.ok trivial) trapX

/-! ### The region's instruction count (R104) -/

theorem countInstr {t} (h : s.memOk) : (s.countInstr t).memOk := by
  unfold State.countInstr
  split
  · exact h
  · exact h.setRegion

/-! ### Taking a trap (R21 to R24, R275 to R277) -/

theorem post {core chan src domain body} (h : s.memOk) : (s.post core chan src domain body).memOk := h

theorem unqueue {t} (h : s.memOk) : (s.unqueue t).1.memOk := by
  unfold State.unqueue
  dsimp only
  split
  · exact h
  · exact h.setCore

theorem requeue {t} (h : s.memOk) : (s.requeue t).1.memOk := by
  unfold State.requeue
  dsimp only
  split
  · exact h
  · split
    · exact h.setCore
    · exact h

theorem unkill {u} (h : s.memOk) : (s.unkill u).memOk := by
  unfold State.unkill
  split
  · exact h
  · refine .ite ?_ (setThread (.ite h h.setCore))
    split
    next e => exact (State.memOk.fst (requeue (.ite h h.setCore)) e).setThread

theorem unhold {r} (h : s.memOk) : (s.unhold r).memOk := by
  unfold State.unhold
  split
  · exact h.setRegion
  · exact h

theorem copiesBack {t} (h : s.memOk) : (s.copiesBack t).memOk := by
  unfold State.copiesBack
  split
  · exact .ite h.setCore h
  · exact h

theorem dropJob {j} (h : s.memOk) : (s.dropJob j).memOk := scrubbed h

theorem cancelJob {t} (h : s.memOk) : (s.cancelJob t).memOk := by
  unfold State.cancelJob
  split
  · exact h.dropJob
  · exact h

theorem undone {t} (h : s.memOk) : (s.undone t).memOk := by
  unfold State.undone
  refine foldl (fun h _ => h.unkill) ?_
  split
  · exact h
  · exact h
  · exact h.unhold
  · exact h.cancelJob
  · exact h

theorem takeTrap {t i} (h : s.memOk) : (Machine.takeTrap s t i).memOk := (h.undone.copiesBack.unqueue).setThread.post

theorem resumeTrap {t} (h : s.memOk) : (Machine.resumeTrap s t).memOk := setThread (ite_fst h h.requeue)

/-! ### The frame of an instruction -/

theorem commit {t} (h : s.memOk) : (s.commit t).memOk := h.setThread.countInstr

theorem stopped {t st} (h : s.memOk) (hst : st.memOk) : (Machine.stopped s t st).memOk := by
  cases st with
  | park w => exact h
  | parkIn s' t' => exact hst
  | trap i => exact h.takeTrap

theorem spentStop_memOk {b t} {x : X (State × Thread)} : (Machine.spentStop b t x).memOk := by
  unfold Machine.spentStop
  split
  · split
    · trivial
    · trivial
  · trivial

theorem runWith {b f} (h : s.memOk) (hf : ∀ t, MemOkX (fun r => r.1.memOk) (f s t)) :
    MemOkNext (Machine.runWith b s f) := by
  intro s' hs
  rcases runWith_cases b s f with ⟨-, e⟩ | ⟨t, -, ⟨-, e⟩ | ⟨-, ⟨u, t', hu, e⟩ | ⟨st, hst, e⟩⟩⟩
  · rw [e] at hs
    cases hs
  · rw [e] at hs
    cases hs
    exact h.stopped spentStop_memOk
  · rw [e] at hs
    cases hs
    exact (memOkX_ok.mp (hu ▸ hf t)).commit
  · rw [e] at hs
    cases hs
    exact h.stopped (memOkX_error.mp (hst ▸ hf t))

theorem runT {f} (h : s.memOk) (hf : ∀ t, MemOkX (fun r => r.1.memOk) (f s t)) : MemOkNext (Machine.runT s f) :=
  h.runWith hf

theorem runReg {f} (h : s.memOk) (hf : ∀ t, MemOkX (fun _ => True) (f t)) : MemOkNext (Machine.runReg s f) :=
  h.runT fun t => (hf t).bind fun _ _ => .ok h

theorem done {t d v} (h : s.memOk) : MemOkX (fun r => r.1.memOk) (Machine.done s t d v) := .ok h

/-! ### The checks of R11 -/

theorem accTrap {α : Type} {p : α → Prop} {code info g wr miss} :
    MemOkX p (Machine.accTrap code info g wr miss) := .trap

theorem checkX {t g e n align rights wr} : MemOkX (fun _ => True) (Machine.checkX s t g e n align rights wr) :=
  .ite accTrap (.ite accTrap (.ite accTrap (.ite accTrap (.ok trivial))))

theorem causeOf_memOk {α : Type} {x : X α} {c : Nat × Stop} (h : causeOf x = some c) : c.2.memOk := by
  unfold causeOf at h
  split at h
  · cases h
    trivial
  · cases h

theorem firstCauseX {α : Type} {l : List (X α)} : MemOkX (fun _ => True) (Machine.firstCauseX l) := by
  have hl : ∀ c ∈ l.filterMap causeOf, c.2.memOk := fun c hc => by
    obtain ⟨x, -, hx⟩ := List.mem_filterMap.mp hc
    exact causeOf_memOk hx
  unfold Machine.firstCauseX
  split
  · next c hc =>
    have hbest : ∀ b ∈ some c, b.2.memOk := by
      rw [← hc]
      refine List.foldlRecOn (motive := fun o : Option (Nat × Stop) => ∀ b ∈ o, b.2.memOk) _ _ (by simp)
        fun o ho c hc => ?_
      cases o with
      | none => exact fun b hb => Option.some.inj hb ▸ hl c hc
      | some b =>
        dsimp only
        split
        · exact fun b hb => Option.some.inj hb ▸ hl c hc
        · exact ho
    exact .error (hbest c rfl)
  · exact .ok trivial

theorem targetX {target} : MemOkX (fun _ => True) (Machine.targetX target) := .ite (.ok trivial) trapX

theorem valueX {t r ok} : MemOkX (fun _ => True) (Machine.valueX s t r ok) := by
  unfold Machine.valueX
  dsimp only
  split
  · exact .error trivial
  · exact .ok trivial

/-! ### Unit checks (R304) -/

theorem unitX {t bit} : MemOkX (fun _ => True) (Machine.unitX s t bit) := .ite (.ok trivial) (.ite parkX trapX)

theorem withBase {b} (h : s.memOk) : (s.withBase b).memOk := h

theorem emit {o} (h : s.memOk) : (s.emit o).memOk := h

/-! ### Interrupts (R335, R336) -/

theorem raise {v} (h : s.memOk) : (s.raise v).memOk := by
  unfold State.raise
  split
  · exact h
  · exact .ite h.emit h.withBase

theorem sendPending {v} (h : s.memOk) : (s.sendPending v).memOk := by
  unfold State.sendPending
  split
  · exact h
  · exact .ite h.withBase.emit h

/-! ### Targets (R336) -/

theorem sendTarget {v g0} (h : s.memOk) : (s.sendTarget v g0).memOk := .ite h.post h

theorem inboundDoorbell {v} (h : s.memOk) : (s.inboundDoorbell v).memOk :=
  .ite h.withBase.sendTarget h.withBase.withBase

theorem writeMbxtgt {v} (h : s.memOk) : (s.writeMbxtgt v).memOk := by
  unfold State.writeMbxtgt
  dsimp only
  split
  · exact .ite h.withBase.withBase.sendTarget h.withBase
  · exact h.withBase

theorem writeOutdb {v} (h : s.memOk) : (s.writeOutdb v).memOk := h.withBase.raise

theorem writeDevstat {v} (h : s.memOk) : (s.writeDevstat v).memOk := .ite h.withBase.raise h.withBase

theorem writeHostirq {v} (h : s.memOk) : (s.writeHostirq v).memOk := .ite h.raise h

theorem writePlimit {v} (h : s.memOk) : (s.writePlimit v).memOk := h.withBase

/-! ### The fabric (R339 to R341) -/

theorem dropFabric (h : s.memOk) : s.dropFabric.memOk := h.withBase

theorem fmsend {v} (h : s.memOk) : (s.fmsend v).memOk := .ite h.emit h.dropFabric

theorem clearFmdrop (h : s.memOk) : s.clearFmdrop.memOk := h.withBase

/-! ### Register reads and writes by the device -/

theorem writeBaseWord {o v} (h : s.memOk) : (s.writeBaseWord o v).memOk := by
  unfold State.writeBaseWord
  exact .ite h <| .ite h.write <| .ite h.withBase <| .ite h.writeOutdb <| .ite h.writeMbxtgt <| .ite h.writeHostirq <|
    .ite h.writeDevstat <| .ite h.withBase <| .ite h
      (.ite (.ite h.withBase <| .ite h.withBase <| .ite h.clearFmdrop <| .ite h.withBase <| .ite h.withBase <|
        .ite h.withBase <| .ite h.withBase h) <|
      .ite (.ite h.withBase h) <| .ite h.writePlimit h)

theorem writeBase {o n x} (h : s.memOk) : (s.writeBase o n x).memOk := by
  unfold State.writeBase
  split
  · split
    · exact h.fmsend
    · exact foldl (fun h _ => h.writeBaseWord) h
  · exact h.writeBaseWord

/-! ### One bank step -/

theorem setBits {k n b} (h : s.memOk) : (s.setBits k n b).memOk := foldl (fun h _ => h.setFull) h

theorem setBitsFrom {k n v} (h : s.memOk) : (s.setBitsFrom k n v).memOk := foldl (fun h _ => h.setFull) h

theorem writeBar {k b} (h : s.memOk) : (s.writeBar k b).memOk := h.write.write.fillBits

theorem act {k f} (h : s.memOk) : (Machine.act s k f).1.memOk := by
  cases f with
  | load | feget => exact h
  | store => exact h.write.fillBits
  | ldw => exact ite_fst h h
  | ldc => exact ite_fst h.setBits h
  | stf => exact ite_fst h.write.setBits h
  | ste => exact h.write.setBits
  | feset => exact h.setBitsFrom
  | waitv => exact ite_fst h h
  | atom => exact h.write.fillBits
  | barinit => exact h.writeBar
  | bararr => exact h.writeBar
  | barwait => exact ite_fst h h
  | barcount => exact h.writeBar

/-! ### Settling Skerries (R155) -/

theorem setAccess {a} (h : s.memOk) : (s.setAccess a).memOk := h

theorem refill {a} (h : s.memOk) : (s.refill a).memOk := by
  unfold State.refill
  split
  · split
    · exact h.setThread
    · exact h
  · exact h

theorem completeSkerry {a} (h : s.memOk) : (Machine.completeSkerry s a).1.memOk := by
  unfold Machine.completeSkerry
  split
  · exact h
  · split
    next e =>
      split
      · exact (h.act.fst e).setAccess.refill
      · exact h

theorem settleOne {w} (h : s.memOk) : ∀ r, Machine.settleOne s w = some r → r.1.memOk := by
  have hmap (o : Option Access) : ∀ r, o.map (Machine.completeSkerry s) = some r → r.1.memOk := fun r e => by
    obtain ⟨a, -, rfl⟩ := Option.map_eq_some_iff.mp e
    exact h.completeSkerry
  intro r e
  unfold Machine.settleOne at e
  split at e
  · cases e
    exact h.setAccess.refill
  · split at e
    · split at e
      · cases e
        exact h.completeSkerry
      · exact hmap _ r e
    · exact hmap _ r e

theorem settleWords {fuel l} (h : s.memOk) : (Machine.settleWords fuel l s).memOk := by
  induction fuel generalizing s l with
  | zero => exact h
  | succ fuel ih =>
    cases l with
    | nil => exact h
    | cons w ws =>
      unfold Machine.settleWords
      split
      · exact ih h
      · next e => exact ih (h.settleOne _ e)

theorem settle {k n} (h : s.memOk) : (s.settle k n).memOk := .ite h h.settleWords

theorem settleIn {k n} (h : s.memOk) : (s.settleIn k n).memOk := h.settleWords

theorem cleared {k n} (h : s.memOk) : (s.cleared k n).memOk := h.zeroed.settleIn

theorem wakeBarrier {k} (h : s.memOk) : (s.wakeBarrier k).memOk := foldl (fun h _ => h.setAccess.refill) h

/-! ### An access at its bank -/

theorem bankStep {k f} (h : s.memOk) : (Machine.bankStep s k f).1.memOk := by
  unfold Machine.bankStep
  split
  · split
    · exact h
    · exact h.writeBase
    · exact h
  · split
    · exact h
    · have hact := h.act (k := k) (f := f)
      have hset : (if f.writes then (Machine.act s k f).1.settle k f.bytes else (Machine.act s k f).1).memOk :=
        .ite hact.settle hact
      dsimp only
      split
      · exact .ite hset.wakeBarrier hset
      · exact hact

theorem beginWait {a} (h : s.memOk) : (s.beginWait a).memOk := by
  unfold State.beginWait
  split
  · exact .ite h.setThread h
  · exact h

theorem keepWaiting {a} (h : s.memOk) : (s.keepWaiting a).memOk := by
  unfold State.keepWaiting
  split
  · exact h
  · refine .ite (refill h.beginWait) ?_
    split
    · exact refill h.beginWait.setAccess.refill
    · exact h.beginWait.setAccess

/-! ### Combined atomics (R159, R172) -/

theorem riderSum {n fuel l} (h : s.memOk) : (Machine.riderSum n fuel l s).2.memOk := by
  induction fuel generalizing s l with
  | zero => exact h
  | succ fuel ih =>
    unfold Machine.riderSum
    split
    · exact h
    · exact ih (s := { s with free := s.free + 1 }) h

theorem combinedVals {op n old xs} (h : s.memOk) : (Machine.combinedVals op n old xs s).2.2.memOk := by
  unfold Machine.combinedVals
  split
  · refine riderSum (List.foldlRecOn (motive := fun p : List Nat × State => p.2.memOk) _ _ h ?_)
    exact fun p hp i _ => riderSum hp
  · exact h

theorem stageAcc {n g} (h : s.memOk) : (s.stageAcc n g).memOk := by
  unfold State.stageAcc
  split
  · exact h.setAccess
  · exact h

theorem combinedArrive {a k op n x} (h : s.memOk) : (s.combinedArrive a k op n x).memOk := by
  unfold State.combinedArrive
  dsimp only
  split
  · exact foldl (fun h _ => h.stageAcc) h
  · exact foldl (fun h _ => h.stageAcc) h.combinedVals.write.fillBits.settle

theorem bankArrive {a} (h : s.memOk) : (s.bankArrive a).memOk := by
  unfold State.bankArrive
  split
  · exact h
  · split
    · exact h.combinedArrive
    · split
      next e =>
        split
        · exact .ite ((h.bankStep.fst e).setAccess.refill) ((h.bankStep.fst e).setAccess)
        · exact (h.bankStep.fst e).keepWaiting
        · exact (h.bankStep.fst e).setAccess

/-! ### Room on a core -/

theorem placed (h : s.memOk) : s.placed.memOk := h

/-! ### A starting thread -/

theorem clearTiles {c first n} (h : s.memOk) : (s.clearTiles c first n).memOk := h.setCore.zeroed

theorem clearPool {c pool} (h : s.memOk) : (s.clearPool c pool).memOk := by
  cases pool with
  | none => exact h
  | some p => exact h.cleared

theorem oldestX {t} : MemOkX (fun _ => True) (Machine.oldestX t) := .ite parkX (.ok trivial)

/-! ### Rollback (R94) -/

theorem dropLoads {t} (h : s.memOk) : (s.dropLoads t).memOk := h

theorem owe {t w} (h : s.memOk) : (s.owe t w).memOk := .ite h h

theorem rollback {t} (h : s.memOk) : (s.rollback t).memOk := h.dropLoads.clearPool.clearTiles.setThread.owe

theorem rollbackAll {t} (h : s.memOk) : (s.rollbackAll t).memOk := foldl (fun h _ => h.rollback) h

theorem stampedStored {t words} (h : s.memOk) : (s.stampedStored t words).memOk := foldl (fun h _ => h.rollback) h

theorem storedBy {t k n} (h : s.memOk) : (s.storedBy t k n).memOk := by
  unfold State.storedBy
  split
  · exact h.stampedStored
  · exact h

theorem stampedStore {t b} (h : s.memOk) : (s.stampedStore t b).memOk := h.setThread.stampedStored

/-! ### The arrival of an access -/

theorem bufferArrive {t a k} (h : s.memOk) : (s.bufferArrive t a k).memOk := by
  unfold State.bufferArrive
  split
  · exact h.setAccess
  · split
    · split
      exact h.setThread.setAccess
    · exact h.setAccess.stampedStore
    · exact h.bankArrive

theorem notedWrite {n} (h : s.memOk) : (s.notedWrite n).memOk := by
  unfold State.notedWrite
  split
  · split
    · exact h.storedBy
    · exact h.storedBy
    · exact h
  · exact h

theorem bankDone {a} (h : s.memOk) : (s.bankDone a).memOk := by
  unfold State.bankDone
  dsimp only
  split
  · exact foldl (fun h _ => h.notedWrite) h.bankArrive
  · exact h.bankArrive

theorem arrive {a} (h : s.memOk) : (s.arrive a).memOk := by
  unfold State.arrive
  split
  · exact .ite h.bufferArrive h.bankDone
  · exact h.bankDone

theorem arriveInTurn {a} (h : s.memOk) : (s.arriveInTurn a).memOk := .ite h.arrive h.setAccess

/-! ### The translation cache (R281, DESIGN CHOICE, log 9) -/

theorem lookup {cl d dva} (h : s.memOk) : (s.lookup cl d dva).1.memOk := by
  unfold State.lookup
  dsimp only
  split
  · exact h
  · split
    · split
      · exact h
      · exact h.choose
    · exact h.choose

theorem orEntry {pte bits} (h : s.memOk) : (s.orEntry pte bits).memOk := .ite h h.bankStep

theorem useLeaf {cl d dva l wr} (h : s.memOk) : (s.useLeaf cl d dva l wr).memOk := by
  refine .ite (orEntry ?_) ?_
  · split
    · exact h
    · exact h.orEntry
  · split
    · exact h
    · exact h.orEntry

/-! ### Where an address leads -/

theorem route {cl d a wr sync} (h : s.memOk) : (s.route cl d a wr sync).1.memOk := by
  unfold State.route
  dsimp only
  split
  · exact h
  · split
    · exact h
    · split
      · next e => exact (h.lookup.fst e)
      · next e =>
          split
          · exact (h.lookup.fst e).useLeaf
          · split
            · split
              · exact (h.lookup.fst e).useLeaf
              · split
                · exact (h.lookup.fst e).useLeaf
                · split
                  · exact (h.lookup.fst e).useLeaf
                  · exact (h.lookup.fst e).useLeaf
            · split
              · exact (h.lookup.fst e).useLeaf
              · exact (h.lookup.fst e).useLeaf

/-! ### Page-fault requests (R282) -/

theorem pageRequest {g0} (h : s.memOk) : (s.pageRequest g0).memOk := .ite h.post h

theorem faultX {α : Type} {p : α → Prop} {t kind a wr m} (h : s.memOk) : MemOkX p (Machine.faultX s t kind a wr m) :=
  .error h.pageRequest

/-! ### Collapse (R288) -/

theorem performCopies {p} (h : s.memOk) : (s.performCopies p).memOk := foldl (fun h _ => h.arrive) h

theorem opsHome {p} (h : s.memOk) : (s.opsHome p).memOk := h

theorem dropHome {p die} (h : s.memOk) : (s.dropHome p die).memOk := h

theorem endCollapse {p} (h : s.memOk) : (s.endCollapse p).memOk := by
  unfold State.endCollapse
  refine foldl (fun {s} h a => ?_) (opsHome (dropHome (.ite (bankStep h) h)))
  split
  · exact h.arriveInTurn
  · exact h

theorem collapseNow {key d a} (h : s.memOk) : (s.collapseNow key d a).memOk := h.performCopies.endCollapse

/-! ### Agents that are not threads -/

theorem reachAt {cl who region d a wr} (h : s.memOk) : (s.reachAt cl who region d a wr).1.memOk := by
  unfold State.reachAt
  split
  · exact h
  · split
    · next e => exact h.route.fst e
    · next e => exact (h.route.fst e).collapseNow
    · next e => exact h.route.fst e
    · next e => exact h.route.fst e
    · next e =>
      have h1 := h.route.fst e
      exact pageRequest h1

theorem agentReach {who region d a wr} (h : s.memOk) : (s.agentReach who region d a wr).1.memOk := h.reachAt

theorem agentKey {who region d a wr} (h : s.memOk) : (s.agentKey who region d a wr).1.memOk := by
  unfold State.agentKey
  split
  · next e => exact (h.agentReach.fst e)
  · next e => exact (h.agentReach.fst e)

/-! ### Agents' stores -/

theorem put {k n v} (h : s.memOk) : (s.put k n v).memOk := h.bankStep

/-! ### Fields of an RCB at a key (R96) -/

theorem setRcbState {k v} (h : s.memOk) : (s.setRcbState k v).memOk := h.put

theorem orRcbFlags {k v} (h : s.memOk) : (s.orRcbFlags k v).memOk := h.put

theorem putRcb {k r} (h : s.memOk) : (s.putRcb k r).memOk := h.put.put

/-! ### Rule table entries (R81) -/

theorem rcbKey {hd r a wr} (h : s.memOk) : (s.rcbKey hd r a wr).1.memOk := h.agentKey

/-! ### Writes into RCBs that wait for a page (R96) -/

theorem payAt {k w} (h : s.memOk) : (s.payAt k w).memOk := by
  cases w with
  | flag => exact h.orRcbFlags
  | state => exact h.setRcbState
  | turn => exact .ite h.setRcbState h

theorem payOwed (h : s.memOk) : s.payOwed.memOk := by
  unfold State.payOwed
  refine foldl (fun {s} h o => ?_) h
  dsimp only
  split
  · next e =>
    have h1 := h.agentKey.fst e
    exact h1.payAt
  · next e => exact h.agentKey.fst e

theorem settled {t} (h : s.memOk) : (s.settled t).memOk := h

/-! ### The commit buffer's write-out (R93, R282) -/

theorem writeOne {t b} (h : s.memOk) : (s.writeOne t b).1.memOk := by
  unfold State.writeOne
  split
  · split
    · exact h
    · exact h
  · split
    · next e => exact (h.agentReach.fst e).bankStep
    · next e =>
      have h1 := h.agentReach.fst e
      exact h1
    · next e => exact h.agentReach.fst e

theorem gate {r k} (hr : r.1.memOk) (hk : (k r.1).memOk) : MemOkO (Machine.gate s r k) :=
  .ite (.some hk) (.ite .none (.some hr))

theorem writeOut {t} (h : s.memOk) : MemOkO (s.writeOut t) := by
  unfold State.writeOut
  split
  · exact .none
  · refine gate h.setThread.writeOne ?_
    split
    · exact h.setThread.writeOne.setThread
    · exact h.setThread.writeOne

theorem goDirect {t} (h : s.memOk) : (s.goDirect t).memOk := h.setThread.owe.payOwed

/-! ### Outstanding accesses -/

theorem sameWordX {t a n} : MemOkX (fun _ => True) (Machine.sameWordX s t a n) := .ite (.ok trivial) parkX

theorem sameKeyX {t k n} : MemOkX (fun _ => True) (Machine.sameKeyX s t k n) := .ite (.ok trivial) parkX

/-! ### The peer window -/

theorem cacheImport {slot} (h : s.memOk) : (s.cacheImport slot).memOk := h

/-! ### Records -/

theorem addAccess {a} (h : s.memOk) : (s.addAccess a).memOk := h

theorem awaitAccess {t a} (h : s.memOk) : MemOkX (fun r => r.1.memOk) (Machine.awaitAccess s t a) :=
  .error h.addAccess

theorem issueRelaxed {t a} (h : s.memOk) : MemOkX (fun r => r.1.memOk) (Machine.issueRelaxed s t a) := .ok h.addAccess

theorem performX {t a k} (h : s.memOk) : MemOkX (fun r => r.1.memOk) (Machine.performX s t a k) := by
  unfold Machine.performX
  split
  · next e => exact .ok (h.bankStep.fst e)
  · next e => exact .error ((h.bankStep.fst e).setThread.addAccess.keepWaiting)
  · exact .trap

theorem arriveX {t a} (h : s.memOk) : MemOkX (fun r => r.1.memOk) (Machine.arriveX s t a) := by
  unfold Machine.arriveX
  dsimp only
  split
  · exact .ok h.setThread.addAccess.arrive
  · exact .trap
  · exact .error h.setThread.addAccess.arrive

theorem reachX {t a k} : MemOkX (fun _ => True) (Machine.reachX s t a k) :=
  needTrap.bind fun _ _ => needTrap.bind fun _ _ => sameKeyX

theorem roomX {t a} : MemOkX (fun _ => True) (Machine.roomX s t a) := needPark

theorem placeX {t a k} (h : s.memOk) : MemOkX (fun r => r.1.memOk) (Machine.placeX s t a k) :=
  roomX.bind fun _ _ => .ite h.issueRelaxed (.ite h.awaitAccess (.ite h.arriveX h.performX))

theorem bankX {t a k data} (h : s.memOk) : MemOkX (fun r => r.1.memOk) (Machine.bankX s t a k data) :=
  reachX.bind fun _ _ => cleansX.bind fun _ _ => h.placeX

theorem peerX {t a k data} (h : s.memOk) : MemOkX (fun r => r.1.memOk) (Machine.peerX s t a k data) := by
  refine needTrap.bind fun _ _ => needTrap.bind fun _ _ => ?_
  dsimp only
  split
  · exact sameKeyX.bind fun _ _ => cleansX.bind fun _ _ => .ite h.placeX (.ite h.issueRelaxed h.awaitAccess)
  · exact .ite .trap (.ite (cleansX.bind fun _ _ => h.issueRelaxed) .trap)

theorem collapseX {t a k data} (h : s.memOk) : MemOkX (fun r => r.1.memOk) (Machine.collapseX s t a k data) :=
  reachX.bind fun _ _ => cleansX.bind fun _ _ => roomX.bind fun _ _ => .ite h.issueRelaxed h.awaitAccess

theorem parkInX {α : Type} {p : α → Prop} {t w} (h : s.memOk) : MemOkX p (Machine.parkInX s t w) := .error h

theorem accessX {t g e f align rel d data} (h : s.memOk) :
    MemOkX (fun r => r.1.memOk) (Machine.accessX s t g e f align rel d data) := by
  refine checkX.bind fun a _ => .guard oldestX fun _ => sameWordX.bind fun _ _ => .guard needPark fun _ => ?_
  split
  · next e => exact (h.route.fst e).bankX
  · next e => exact (h.route.fst e).peerX
  · next e => exact (h.route.fst e).collapseX
  · next e =>
    have h1 := h.route.fst e
    exact cleansX.bind fun _ _ => .ite (roomX.bind fun _ _ => h1.pageRequest.issueRelaxed) h1.faultX
  · next e =>
    have h1 := h.route.fst e
    exact cleansX.bind fun _ _ => .ite (roomX.bind fun _ _ => h1.issueRelaxed) h1.parkInX

/-! ### Reads that an instruction makes beside its own access -/

theorem localReadX {t g off a k n} (h : s.memOk) :
    MemOkX (fun r => r.1.memOk) (Machine.localReadX s t g off a k n) := by
  refine sameKeyX.bind fun _ _ => needTrap.bind fun _ _ => ?_
  split
  · exact .trap
  · exact .ok h

theorem ownReadX {t g p off a n} (h : s.memOk) : MemOkX (fun r => r.1.memOk) (Machine.ownReadX s t g p off a n) := by
  refine sameWordX.bind fun _ _ => ?_
  split
  · next e => exact (h.route.fst e).localReadX
  · next e => exact (h.route.fst e).parkInX
  · next e => exact (h.route.fst e).parkInX
  · next e => exact (h.route.fst e).faultX
  · next e =>
    refine needTrap.bind fun _ _ => sameKeyX.bind fun _ _ => ?_
    split
    · exact .trap
    · exact .ok (h.route.fst e).unknown

/-! ### Engine operations and copies of a thread -/

theorem closeX {t} : MemOkX (fun _ => True) (Machine.closeX s t) :=
  .ite (.ok trivial) (needPark.bind fun _ _ => .ok trivial)

/-! ### The end of an access -/

theorem dropGroup {g} (h : s.memOk) : (s.dropGroup g).memOk := h

theorem trapNow {t i} (h : s.memOk) : (s.trapNow t i).memOk := .ite h.setThread (.ite h.setThread h.takeTrap)

theorem skerriesStored {t l} (h : s.memOk) : (s.skerriesStored t l).memOk := by
  unfold State.skerriesStored
  refine foldl (fun {s} h a => ?_) h
  split
  · exact h.storedBy
  · exact h

theorem finishOrdinary {t g l} (h : s.memOk) : (s.finishOrdinary t g l).memOk := by
  unfold State.finishOrdinary
  dsimp only
  split
  · exact h.dropGroup.skerriesStored.trapNow
  · exact h.dropGroup.skerriesStored.commit

theorem finishLeft {t g l} (h : s.memOk) : (s.finishLeft t g l).memOk := by
  unfold State.finishLeft
  split
  · exact h.dropGroup.trapNow
  · exact h.dropGroup

/-! ### Traps that arrive from outside an instruction -/

theorem withdrawSkerries {t} (h : s.memOk) : (s.withdrawSkerries t).memOk := h

theorem dropOrdinary {t} (h : s.memOk) : (s.dropOrdinary t).memOk := h

theorem trapParked {t i} (h : s.memOk) : MemOkO (s.trapParked t i) :=
  .ite .none (.ite (.some h.takeTrap) (.ite (.some h.dropOrdinary.takeTrap) .none))

theorem deliverTrap {t i} (h : s.memOk) : (s.deliverTrap t i).memOk := by
  unfold State.deliverTrap
  dsimp only
  split
  · exact h.trapParked.getD h.setThread
  · exact h.setThread

/-! ### When a wait is over -/

theorem atomOp {d base g off dbl op} (h : s.memOk) : MemOkNext (Machine.atomOp s d base g off dbl op) :=
  h.runT fun _ => windowX.bind fun _ _ => presentX.bind fun _ _ => readX.bind fun _ _ => h.accessX

theorem execAadd {d base seg off dbl} (h : s.memOk) : MemOkNext (Machine.execAadd d base seg off dbl s) := h.atomOp

theorem execAand {d base seg off dbl} (h : s.memOk) : MemOkNext (Machine.execAand d base seg off dbl s) := h.atomOp

theorem execAor {d base seg off dbl} (h : s.memOk) : MemOkNext (Machine.execAor d base seg off dbl s) := h.atomOp

theorem execAxor {d base seg off dbl} (h : s.memOk) : MemOkNext (Machine.execAxor d base seg off dbl s) := h.atomOp

theorem execAmin {d base seg off dbl} (h : s.memOk) : MemOkNext (Machine.execAmin d base seg off dbl s) := h.atomOp

theorem execAmax {d base seg off dbl} (h : s.memOk) : MemOkNext (Machine.execAmax d base seg off dbl s) := h.atomOp

theorem execAminn {d base seg off dbl} (h : s.memOk) : MemOkNext (Machine.execAminn d base seg off dbl s) := h.atomOp

theorem execAmaxn {d base seg off dbl} (h : s.memOk) : MemOkNext (Machine.execAmaxn d base seg off dbl s) := h.atomOp

theorem execAswp {d base seg off dbl} (h : s.memOk) : MemOkNext (Machine.execAswp d base seg off dbl s) := h.atomOp

theorem execAfadd {d base seg off dbl} (h : s.memOk) : MemOkNext (Machine.execAfadd d base seg off dbl s) := h.atomOp

theorem execAcas {d base new seg off dbl} (h : s.memOk) : MemOkNext (Machine.execAcas d base new seg off dbl s) :=
  h.runT fun _ => windowX.bind fun _ _ => presentX.bind fun _ _ => readX.bind fun _ _ => presentX.bind fun _ _ =>
    h.accessX

theorem barAccess {t m base f d data} (h : s.memOk) :
    MemOkX (fun r => r.1.memOk) (Machine.barAccess s t m base f d data) :=
  h.accessX

theorem execBarinit {b m} (h : s.memOk) : MemOkNext (Machine.execBarinit b m s) :=
  h.runT fun _ => valueX.bind fun _ _ => windowX.bind fun _ _ => readX.bind fun _ _ => presentX.bind fun _ _ =>
    h.barAccess

theorem execBararr {c m} (h : s.memOk) : MemOkNext (Machine.execBararr c m s) :=
  h.runT fun _ => windowX.bind fun _ _ => readX.bind fun _ _ => destX.bind fun _ _ => h.barAccess

theorem execBararrCount {b c out m} (h : s.memOk) : MemOkNext (Machine.execBararrCount b c out m s) :=
  h.runT fun _ => windowX.bind fun _ _ => readX.bind fun _ _ => presentX.bind fun _ _ => destX.bind fun _ _ =>
    h.barAccess

theorem execBarwait {b m} (h : s.memOk) : MemOkNext (Machine.execBarwait b m s) :=
  h.runT fun _ => windowX.bind fun _ _ => readX.bind fun _ _ => presentX.bind fun _ _ => h.barAccess

theorem branch2 {a b disp taken} (h : s.memOk) : MemOkNext (Machine.branch2 s a b disp taken) :=
  h.runT fun _ => windowX.bind fun _ _ => readX.bind fun _ _ => readX.bind fun _ _ => .ok h

theorem branch1 {a disp taken} (h : s.memOk) : MemOkNext (Machine.branch1 s a disp taken) :=
  h.runT fun _ => windowX.bind fun _ _ => readX.bind fun _ _ => .ok h

theorem execBr {_hint disp} (h : s.memOk) : MemOkNext (Machine.execBr _hint disp s) := h.runT fun _ => .ok h

theorem execBeq {a b _hint disp} (h : s.memOk) : MemOkNext (Machine.execBeq a b _hint disp s) := h.branch2

theorem execBne {a b _hint disp} (h : s.memOk) : MemOkNext (Machine.execBne a b _hint disp s) := h.branch2

theorem execBlt {a b _hint disp} (h : s.memOk) : MemOkNext (Machine.execBlt a b _hint disp s) := h.branch2

theorem execBge {a b _hint disp} (h : s.memOk) : MemOkNext (Machine.execBge a b _hint disp s) := h.branch2

theorem execBltn {a b _hint disp} (h : s.memOk) : MemOkNext (Machine.execBltn a b _hint disp s) := h.branch2

theorem execBgen {a b _hint disp} (h : s.memOk) : MemOkNext (Machine.execBgen a b _hint disp s) := h.branch2

theorem execBz {a _hint disp} (h : s.memOk) : MemOkNext (Machine.execBz a _hint disp s) := h.branch1

theorem execBnz {a _hint disp} (h : s.memOk) : MemOkNext (Machine.execBnz a _hint disp s) := h.branch1

theorem execDbnz {a _hint disp} (h : s.memOk) : MemOkNext (Machine.execDbnz a _hint disp s) :=
  h.runT fun _ => windowX.bind fun _ _ => readX.bind fun _ _ => .ok h

theorem execCall {lnk _hint disp} (h : s.memOk) : MemOkNext (Machine.execCall lnk _hint disp s) :=
  h.runT fun _ => windowX.bind fun _ _ => destX.bind fun _ _ => .ok h

theorem execJmp {a _hint disp} (h : s.memOk) : MemOkNext (Machine.execJmp a _hint disp s) :=
  h.runT fun _ => windowX.bind fun _ _ => readX.bind fun _ _ => targetX.bind fun _ _ => .ok h

theorem execCallr {lnk a _hint disp} (h : s.memOk) : MemOkNext (Machine.execCallr lnk a _hint disp s) :=
  h.runT fun _ => windowX.bind fun _ _ => readX.bind fun _ _ => targetX.bind fun _ _ => destX.bind fun _ _ => .ok h

/-! ### The masked loop (R108, R109) -/

theorem vecOp {l f} (h : s.memOk) (hf : ∀ t, MemOkX (fun r => r.1.memOk) (f s t)) : MemOkNext (Machine.vecOp s l f) :=
  h.runT fun t => windowX.bind fun _ _ => unitX.bind fun _ _ => hf t

theorem oldX {t d k z} : MemOkX (fun _ => True) (Machine.oldX t d k z) :=
  .ite readX (destX.bind fun _ _ => .ok trivial)

theorem vint2 {d a b ty k z f} (h : s.memOk) : MemOkNext (Machine.vint2 s d a b ty k z f) :=
  h.vecOp fun _ => readX.bind fun _ _ => readX.bind fun _ _ => oldX.bind fun _ _ => h.done

theorem vint1 {d a ty k z f} (h : s.memOk) : MemOkNext (Machine.vint1 s d a ty k z f) :=
  h.vecOp fun _ => readX.bind fun _ _ => oldX.bind fun _ _ => h.done

theorem srcX {t src} : MemOkX (fun _ => True) (Machine.srcX t src) := by
  cases src with
  | reg b => exact readX
  | imm v => exact .ok trivial

theorem vshift {d a src ty k z signed f} (h : s.memOk) : MemOkNext (Machine.vshift s d a src ty k z signed f) :=
  h.vecOp fun _ => readX.bind fun _ _ => srcX.bind fun _ _ => oldX.bind fun _ _ => .ok h

theorem vcmp {d a b ty k z f} (h : s.memOk) : MemOkNext (Machine.vcmp s d a b ty k z f) :=
  h.vecOp fun _ => readX.bind fun _ _ => readX.bind fun _ _ => .ok h

/-! ### VINT -/

theorem execVadd {d a b ty k z} (h : s.memOk) : MemOkNext (Machine.execVadd d a b ty k z s) := h.vint2

theorem execVsub {d a b ty k z} (h : s.memOk) : MemOkNext (Machine.execVsub d a b ty k z s) := h.vint2

theorem execVmul {d a b ty k z} (h : s.memOk) : MemOkNext (Machine.execVmul d a b ty k z s) := h.vint2

theorem execVmulh {d a b ty k z} (h : s.memOk) : MemOkNext (Machine.execVmulh d a b ty k z s) := h.vint2

theorem execVmin {d a b ty k z} (h : s.memOk) : MemOkNext (Machine.execVmin d a b ty k z s) := h.vint2

theorem execVmax {d a b ty k z} (h : s.memOk) : MemOkNext (Machine.execVmax d a b ty k z s) := h.vint2

theorem execVadds {d a b ty k z} (h : s.memOk) : MemOkNext (Machine.execVadds d a b ty k z s) := h.vint2

theorem execVsubs {d a b ty k z} (h : s.memOk) : MemOkNext (Machine.execVsubs d a b ty k z s) := h.vint2

theorem execVand {d a b ty k z} (h : s.memOk) : MemOkNext (Machine.execVand d a b ty k z s) := h.vint2

theorem execVor {d a b ty k z} (h : s.memOk) : MemOkNext (Machine.execVor d a b ty k z s) := h.vint2

theorem execVxor {d a b ty k z} (h : s.memOk) : MemOkNext (Machine.execVxor d a b ty k z s) := h.vint2

theorem execVshl {d a src ty k z} (h : s.memOk) : MemOkNext (Machine.execVshl d a src ty k z s) := h.vshift

theorem execVshr {d a src ty k z} (h : s.memOk) : MemOkNext (Machine.execVshr d a src ty k z s) := h.vshift

theorem execVsra {d a src ty k z} (h : s.memOk) : MemOkNext (Machine.execVsra d a src ty k z s) := h.vshift

theorem execVabs {d a ty k z} (h : s.memOk) : MemOkNext (Machine.execVabs d a ty k z s) := h.vint1

theorem execVneg {d a ty k z} (h : s.memOk) : MemOkNext (Machine.execVneg d a ty k z s) := h.vint1

theorem execVcnt {d a ty k z} (h : s.memOk) : MemOkNext (Machine.execVcnt d a ty k z s) := h.vint1

theorem execVdot4 {d a b c ty k z} (h : s.memOk) : MemOkNext (Machine.execVdot4 d a b c ty k z s) :=
  h.vecOp fun _ => readX.bind fun _ _ => readX.bind fun _ _ => readX.bind fun _ _ => oldX.bind fun _ _ => h.done

theorem execVsel {d a b ty k} (h : s.memOk) : MemOkNext (Machine.execVsel d a b ty k s) :=
  h.vecOp fun _ => readX.bind fun _ _ => readX.bind fun _ _ => destX.bind fun _ _ => h.done

theorem execVcmpeq {d a b ty k z} (h : s.memOk) : MemOkNext (Machine.execVcmpeq d a b ty k z s) := h.vcmp

theorem execVcmpne {d a b ty k z} (h : s.memOk) : MemOkNext (Machine.execVcmpne d a b ty k z s) := h.vcmp

theorem execVcmplt {d a b ty k z} (h : s.memOk) : MemOkNext (Machine.execVcmplt d a b ty k z s) := h.vcmp

theorem execVcmple {d a b ty k z} (h : s.memOk) : MemOkNext (Machine.execVcmple d a b ty k z s) := h.vcmp

/-! ### Floating elements -/

theorem vfloat {t d w n k z sl put res} (h : s.memOk) :
    MemOkX (fun r => r.1.memOk) (Machine.vfloat s t d w n k z sl put res) :=
  oldX.bind fun _ _ => h.done

theorem vf2 {d a b ty k z sl f} (h : s.memOk) : MemOkNext (Machine.vf2 s d a b ty k z sl f) :=
  h.vecOp fun _ => readX.bind fun _ _ => readX.bind fun _ _ => h.vfloat

theorem vf3 {d a b c ty k z sl f} (h : s.memOk) : MemOkNext (Machine.vf3 s d a b c ty k z sl f) :=
  h.vecOp fun _ => readX.bind fun _ _ => readX.bind fun _ _ => readX.bind fun _ _ => h.vfloat

theorem vf1 {d a ty k z sl f} (h : s.memOk) : MemOkNext (Machine.vf1 s d a ty k z sl f) :=
  h.vecOp fun _ => readX.bind fun _ _ => h.vfloat

theorem vapprox {d a ty k z sl f} (h : s.memOk) : MemOkNext (Machine.vapprox s d a ty k z sl f) :=
  h.vecOp fun _ => readX.bind fun _ _ => vfloat h

theorem vfcmp {d a b ty k z sl quiet f} (h : s.memOk) : MemOkNext (Machine.vfcmp s d a b ty k z sl quiet f) :=
  h.vecOp fun _ => readX.bind fun _ _ => readX.bind fun _ _ => .ok h

/-! ### VFP -/

theorem execVfadd {d a b ty k z sl rnd} (h : s.memOk) : MemOkNext (Machine.execVfadd d a b ty k z sl rnd s) := h.vf2

theorem execVfsub {d a b ty k z sl rnd} (h : s.memOk) : MemOkNext (Machine.execVfsub d a b ty k z sl rnd s) := h.vf2

theorem execVfmul {d a b ty k z sl rnd} (h : s.memOk) : MemOkNext (Machine.execVfmul d a b ty k z sl rnd s) := h.vf2

theorem execVfdiv {d a b ty k z sl rnd} (h : s.memOk) : MemOkNext (Machine.execVfdiv d a b ty k z sl rnd s) := h.vf2

theorem execVfma {d a b c ty k z sl rnd} (h : s.memOk) : MemOkNext (Machine.execVfma d a b c ty k z sl rnd s) := h.vf3

theorem execVfms {d a b c ty k z sl rnd} (h : s.memOk) : MemOkNext (Machine.execVfms d a b c ty k z sl rnd s) := h.vf3

theorem execVfnma {d a b c ty k z sl rnd} (h : s.memOk) : MemOkNext (Machine.execVfnma d a b c ty k z sl rnd s) :=
  h.vf3

theorem execVfsqrt {d a ty k z sl rnd} (h : s.memOk) : MemOkNext (Machine.execVfsqrt d a ty k z sl rnd s) := h.vf1

theorem execVfround {d a ty k z sl rnd} (h : s.memOk) : MemOkNext (Machine.execVfround d a ty k z sl rnd s) := h.vf1

theorem execVfmin {d a b ty k z sl} (h : s.memOk) : MemOkNext (Machine.execVfmin d a b ty k z sl s) := h.vf2

theorem execVfmax {d a b ty k z sl} (h : s.memOk) : MemOkNext (Machine.execVfmax d a b ty k z sl s) := h.vf2

theorem execVfabs {d a ty k z sl} (h : s.memOk) : MemOkNext (Machine.execVfabs d a ty k z sl s) := h.vf1

theorem execVfneg {d a ty k z sl} (h : s.memOk) : MemOkNext (Machine.execVfneg d a ty k z sl s) := h.vf1

theorem execVfrcp {d a ty k z sl} (h : s.memOk) : MemOkNext (Machine.execVfrcp d a ty k z sl s) := h.vapprox

theorem execVfrsq {d a ty k z sl} (h : s.memOk) : MemOkNext (Machine.execVfrsq d a ty k z sl s) := h.vapprox

theorem execVfexp2 {d a ty k z sl} (h : s.memOk) : MemOkNext (Machine.execVfexp2 d a ty k z sl s) := h.vapprox

theorem execVflog2 {d a ty k z sl} (h : s.memOk) : MemOkNext (Machine.execVflog2 d a ty k z sl s) := h.vapprox

theorem execVfcvt {d a ty ty2 k z sl rnd satc} (h : s.memOk) :
    MemOkNext (Machine.execVfcvt d a ty ty2 k z sl rnd satc s) :=
  h.vecOp fun _ => readX.bind fun _ _ => h.vfloat

theorem execVfcvti {d a ty ty2 k z sl rnd} (h : s.memOk) : MemOkNext (Machine.execVfcvti d a ty ty2 k z sl rnd s) :=
  h.vecOp fun _ => readX.bind fun _ _ => h.vfloat

theorem execVicvtf {d a ty ty2 k z sl rnd} (h : s.memOk) : MemOkNext (Machine.execVicvtf d a ty ty2 k z sl rnd s) :=
  h.vecOp fun _ => readX.bind fun _ _ => h.vfloat

theorem execVfcmpeq {d a b ty k z sl} (h : s.memOk) : MemOkNext (Machine.execVfcmpeq d a b ty k z sl s) := h.vfcmp

theorem execVfcmplt {d a b ty k z sl} (h : s.memOk) : MemOkNext (Machine.execVfcmplt d a b ty k z sl s) := h.vfcmp

theorem execVfcmple {d a b ty k z sl} (h : s.memOk) : MemOkNext (Machine.execVfcmple d a b ty k z sl s) := h.vfcmp

theorem execVfcmpun {d a b ty k z sl} (h : s.memOk) : MemOkNext (Machine.execVfcmpun d a b ty k z sl s) := h.vfcmp

theorem convOp {d nd a na f} (h : s.memOk) (hf : ∀ t, MemOkX (fun r => r.1.memOk) (f s t)) :
    MemOkNext (Machine.convOp s d nd a na f) :=
  h.runT fun t => runX.bind fun _ _ => runX.bind fun _ _ => unitX.bind fun _ _ => hf t

theorem oldsX {t k l} : MemOkX (fun _ => True) (Machine.oldsX t k l) := by
  induction l with
  | nil => exact .ok trivial
  | cons r l ih => exact oldX.bind fun _ _ => ih.bind fun _ _ => .ok trivial

theorem convRun {d nd a na ty ty2 k rnd satc} (h : s.memOk) :
    MemOkNext (Machine.convRun s d nd a na ty ty2 k rnd satc) :=
  convOp h fun _ => readsX.bind fun _ _ => oldsX.bind fun _ _ => .ok h

theorem execCvtn {d a ty ty2 k rnd satc} (h : s.memOk) : MemOkNext (Machine.execCvtn d a ty ty2 k rnd satc s) :=
  h.convRun

theorem execCvtw {d a ty ty2 k rnd satc} (h : s.memOk) : MemOkNext (Machine.execCvtw d a ty ty2 k rnd satc s) :=
  h.convRun

theorem execQmx {d a ty ty2} (h : s.memOk) : MemOkNext (Machine.execQmx d a ty ty2 s) :=
  convOp h fun _ => readsX.bind fun _ _ => destX.bind fun _ _ => .ok h

theorem execDqmx {d a ty ty2 rnd satc} (h : s.memOk) : MemOkNext (Machine.execDqmx d a ty ty2 rnd satc s) :=
  h.convOp fun _ => readX.bind fun _ _ => destsX.bind fun _ _ => .ok h

theorem execPlane {d a ty} (h : s.memOk) : MemOkNext (Machine.execPlane d a ty s) :=
  convOp h fun _ => readsX.bind fun _ _ => destsX.bind fun _ _ => .ok h

theorem execUnplane {d a ty} (h : s.memOk) : MemOkNext (Machine.execUnplane d a ty s) :=
  h.convOp fun _ => readsX.bind fun _ _ => destsX.bind fun _ _ => .ok h

theorem pickWord {now l} (h : s.memOk) : (State.pickWord now l s).1.memOk := by
  induction l generalizing s with
  | nil => exact h
  | cons w l ih =>
    unfold State.pickWord
    split
    · exact ih h
    · dsimp only
      split
      · exact h
      · exact ih h.choose

theorem fetchWord {t k} (h : s.memOk) : (s.fetchWord t k).1.memOk := h.pickWord

theorem fetchX {t} (h : s.memOk) : MemOkX (fun r => r.1.memOk) (Machine.fetchX s t) := by
  refine needTrap.bind fun _ _ => needTrap.bind fun _ _ => needTrap.bind fun _ _ => ?_
  split
  · next e =>
    split
    · exact .trap
    · exact .ok (h.route.fst e).fetchWord
  · next e => exact (h.route.fst e).parkInX
  · next e => exact (h.route.fst e).parkInX
  · next e =>
    refine needTrap.bind fun _ _ => ?_
    split
    · exact .trap
    · exact .ok (h.route.fst e).unknown
  · next e => exact (h.route.fst e).faultX

theorem prefetched {c k} (h : s.memOk) : (s.prefetched c k).memOk := h.setCore

theorem noteIssue {t} (h : s.memOk) : (s.noteIssue t).memOk := h.setCore

theorem combined {a b} (h : s.memOk) : (s.combined a b).memOk := by
  unfold State.combined
  split
  · split
    · exact .ite h.setAccess.setAccess h
    · exact h
  · exact h

theorem duplicated {home bits die frame pte} (h : s.memOk) : (s.duplicated home bits die frame pte).memOk := by
  unfold State.duplicated
  split
  · exact h
  · exact h

/-! ### Checks at issue -/

theorem engineTrap {α : Type} {p : α → Prop} {t kind slot} (h : s.memOk) :
    MemOkX p (Machine.engineTrap s t kind slot) :=
  .error h.takeTrap

theorem setTile {c i x} (h : s.memOk) : (s.setTile c i x).memOk := h.setCore

theorem slotX {t named l} (h : s.memOk) : MemOkX (fun _ => True) (Machine.slotX s t named l) :=
  .ite (.ok trivial) h.engineTrap

theorem plainX {t i} (h : s.memOk) : MemOkX (fun _ => True) (Machine.plainX s t i) := .ite (.ok trivial) h.engineTrap

theorem rankedX {t i} (h : s.memOk) : MemOkX (fun _ => True) (Machine.rankedX s t i) := by
  unfold Machine.rankedX
  split
  · exact .ok trivial
  · exact h.engineTrap

theorem peerRightX {t g e a n wr} : MemOkX (fun _ => True) (Machine.peerRightX s t g e a n wr) :=
  .ite accTrap (.ok trivial)

theorem unlessBad {t l c} (hc : MemOkX (fun _ => True) c) : MemOkX (fun _ => True) (Machine.unlessBad t l c) :=
  .ite (.ok trivial) hc

theorem memX {t m base n wr} : MemOkX (fun _ => True) (Machine.memX s t m base n wr) :=
  checkX.bind fun _ _ => peerRightX.bind fun _ _ => .ok trivial

/-! ### Enqueueing -/

theorem enqueue {t o} (h : s.memOk) : MemOkX (fun r => r.1.memOk) (Machine.enqueue s t o) :=
  oldestX.bind fun _ _ => needPark.bind fun _ _ => needPark.bind fun _ _ => .ok h

/-! ### Translation at the start (R221, R224) -/

theorem mapPages {cl d wr l} (h : s.memOk) : (s.mapPages cl d wr l).1.memOk := by
  induction l generalizing s with
  | nil => exact h
  | cons p l ih =>
    unfold State.mapPages
    dsimp only
    have hgo {u : State} (hu : u.memOk) (a k : Nat) : (match u.mapPages cl d wr l with
      | (s, .ok l) => (s, .ok ((p.1, k - a % 2 ^ 17) :: l))
      | (s, .error e) => (s, Except.error e) : State × Except (Nat × Miss) (List (Nat × Nat))).1.memOk := by
      split
      · next e => exact (ih hu).fst e
      · next e => exact (ih hu).fst e
    split
    · next e => exact hgo (h.route.fst e) _ _
    · next e => exact hgo (h.route.fst e) _ _
    · next e => exact hgo (h.route.fst e).collapseNow _ _
    · next e => exact h.route.fst e
    · next e => exact h.route.fst e

theorem mapOp {o} (h : s.memOk) : (s.mapOp o).1.memOk := by
  unfold State.mapOp
  dsimp only
  split
  · next e => exact h.mapPages.fst e
  · next e =>
      split
      · next e' => exact (h.mapPages.fst e).mapPages.fst e'
      · next e' => exact (h.mapPages.fst e).mapPages.fst e'

theorem storeLine {o x} (h : s.memOk) : (s.storeLine o x).memOk := by
  unfold State.storeLine
  split
  · exact h
  · exact .ite h.storedBy h.bankStep.storedBy

/-! ### Removal (R224, R225) -/

theorem dropOp {c n} (h : s.memOk) : (s.dropOp c n).memOk := h.setCore

theorem removeOps {c o kind} (h : s.memOk) : (s.removeOps c o kind).memOk := by
  unfold State.removeOps
  split
  · exact h.dropOp
  · exact h.setCore.setThread

/-! ### Checks at issue (R235, R240, R244) -/

theorem barX {t f x} : MemOkX (fun _ => True) (Machine.barX s t f x) := by
  unfold Machine.barX
  split
  · exact .ok trivial
  · exact checkX.bind fun _ _ => .ok trivial

theorem copyOp {f two} (h : s.memOk) : MemOkNext (Machine.copyOp s f two) := by
  refine h.runT fun t => windowX.bind fun _ _ => presentX.bind fun _ _ => presentX.bind fun _ _ =>
    presentX.bind fun _ _ => ?_
  dsimp only
  split
  on_goal 1 => refine presentX.bind fun _ _ => ?_
  on_goal 2 => refine MemOkX.bind (p := fun _ => True) (.ok trivial) fun _ _ => ?_
  all_goals
    split
    · exact .trap
    · split
      · exact .trap
      · exact barX.bind fun _ _ => oldestX.bind fun _ _ => needPark.bind fun _ _ => .ok h

theorem execCopy {f} (h : s.memOk) : MemOkNext (Machine.execCopy f s) := h.copyOp

theorem execCopy2 {f} (h : s.memOk) : MemOkNext (Machine.execCopy2 f s) := h.copyOp

theorem execCwait {ch} (h : s.memOk) : MemOkNext (Machine.execCwait ch s) :=
  h.runT fun _ => needPark.bind fun _ _ => .ok h

theorem execCwaitPtr {ch a} (h : s.memOk) : MemOkNext (Machine.execCwaitPtr ch a s) :=
  h.runT fun _ => windowX.bind fun _ _ => readX.bind fun _ _ => needPark.bind fun _ _ => .ok h

/-! ### Delivery (R236 to R238, R240) -/

theorem setCopy {c ch o} (h : s.memOk) : (s.setCopy c ch o).memOk := h.setCore

theorem setCwp {o ch v} (h : s.memOk) : (s.setCwp o ch v).memOk := by
  refine .ite ?_ h
  split
  · exact h.setThread
  · exact h

theorem copyKeys {cl d wr l} (h : s.memOk) : (s.copyKeys cl d wr l).1.memOk := by
  induction l generalizing s with
  | nil => exact h
  | cons p l ih =>
    unfold State.copyKeys
    dsimp only
    have hgo {u : State} (hu : u.memOk) (k : Nat) : (match u.copyKeys cl d wr l with
      | (s, .ok l) => (s, .ok ((k, p.2) :: l))
      | (s, .error e) => (s, Except.error e) : State × Except CopyHalt (List (Nat × Nat))).1.memOk := by
      split
      · next e => exact (ih hu).fst e
      · next e => exact (ih hu).fst e
    split
    · next e => exact hgo (h.route.fst e) _
    · next e => exact hgo (h.route.fst e) _
    · next e => exact hgo (h.route.fst e).collapseNow _
    · next e => exact h.route.fst e
    · next e => exact h.route.fst e

theorem copyStore {t keys data bits} (h : s.memOk) : (s.copyStore t keys data bits).memOk := by
  unfold State.copyStore
  split
  · exact (foldl (fun h _ => h.setFull) h.writeBytes).settle.storedBy
  · exact h

theorem landCopy {c ch o n} (h : s.memOk) : (s.landCopy c ch o n).memOk := h.setCopy.setCwp

theorem copyPlain {c ch o ks kd} (h : s.memOk) : (s.copyPlain c ch o ks kd).memOk := by
  unfold State.copyPlain
  dsimp only
  split
  · exact .ite h.addAccess.setCopy h.setCopy
  · exact .ite h.addAccess.setCopy (State.memOk.copyStore h).landCopy
  · exact h.landCopy

theorem dropAccess {n} (h : s.memOk) : (s.dropAccess n).memOk := h

theorem copyTry {a} (h : s.memOk) : (s.copyTry a).1.memOk := by
  unfold State.copyTry
  dsimp only
  split
  · exact h.addAccess.arrive.dropAccess
  · exact h.addAccess.arrive

theorem copyConsume {c ch o ks kd} (h : s.memOk) : (s.copyConsume c ch o ks kd).memOk := by
  unfold State.copyConsume
  dsimp only
  split
  · refine .ite ?_ h.setCopy
    split
    · next e => exact (h.copyTry.fst e).setCopy
    · next e => exact (h.copyTry.fst e).setCopy
  · exact (State.memOk.copyStore h).landCopy

theorem copyFillwait {c ch o ks kd} (h : s.memOk) : (s.copyFillwait c ch o ks kd).memOk := by
  unfold State.copyFillwait
  dsimp only
  split
  · exact h.setCopy
  · refine .ite ?_ h.writeBytes.settle.storedBy.landCopy
    split
    · next e => exact (h.copyTry.fst e).landCopy
    · next e => exact (h.copyTry.fst e).setCopy
  · exact h.landCopy

theorem copyResume {o} (h : s.memOk) : (s.copyResume o).1.memOk := by
  unfold State.copyResume
  split
  · exact h
  · next a _ =>
    split
    · exact h
    · have hs : (match a.form.writes, a.key with
          | true, some k => (s.dropAccess a.n).storedBy o.t k a.form.bytes
          | _, _ => s.dropAccess a.n).memOk := by
        split
        · exact h.dropAccess.storedBy
        · exact h.dropAccess
      dsimp only
      split
      · exact hs
      · exact hs
      · exact hs
      · exact hs

theorem copyMiss {c ch o a wr m} (h : s.memOk) : (s.copyMiss c ch o a wr m).memOk := pageRequest h

/-- The states that a look at a copy's next part leads to. -/
theorem copyView_miss {c o u a wr m} (h : s.memOk) (e : s.copyView c o = .miss u a wr m) : u.memOk := by
  unfold State.copyView at e
  dsimp only at e
  split at e
  · next e1 =>
    cases e
    exact h.copyKeys.fst e1
  · cases e
  · next e1 =>
    split at e
    · next e2 =>
      cases e
      exact (h.copyKeys.fst e1).copyKeys.fst e2
    · cases e
    · split at e
      · cases e
      · split at e
        · cases e
        · cases e

theorem copyView_ready {c o u src dst} (h : s.memOk) (e : s.copyView c o = .ready u src dst) : u.memOk := by
  unfold State.copyView at e
  dsimp only at e
  split at e
  · cases e
  · cases e
  · next e1 =>
    split at e
    · cases e
    · cases e
    · next e2 =>
      split at e
      · cases e
      · split at e
        · cases e
        · cases e
          exact (h.copyKeys.fst e1).copyKeys.fst e2

theorem copyLine {c ch} (h : s.memOk) : MemOkO (s.copyLine c ch) := by
  unfold State.copyLine
  split
  · exact .none
  · split
    · exact .none
    · split
      next u o e =>
      have hu {v} : (u.setCwp o ch v).memOk := (h.copyResume.fst e).setCwp
      split
      · exact .some hu.setCopy
      · cases e : (u.setCwp o ch o.landed).copyView c o with
        | bad code a dest => simp only [e]; exact .none
        | held => simp only [e]; exact .none
        | miss v a wr m =>
          simp only [e]
          exact .some (hu.copyView_miss e).setCopy.copyMiss
        | ready v ks kd =>
          have hv := hu.copyView_ready e
          simp only [e]
          refine .some ?_
          split
          · exact hv.copyPlain
          · exact hv.copyPlain
          · exact hv.copyConsume
          · exact hv.copyFillwait

theorem dropCopy {c ch n} (h : s.memOk) : (s.dropCopy c ch n).memOk := h.setCore

theorem cancelCopies {c ch t} (h : s.memOk) : (s.cancelCopies c ch t).memOk := h

theorem countDown {t k out} (h : s.memOk) : MemOkO (s.countDown t k out) := by
  unfold State.countDown
  split
  · next e => exact .some ((h.bankStep.fst e).storedBy)
  · exact .none

theorem copyDone {c ch} (h : s.memOk) : MemOkO (s.copyDone c ch) := by
  unfold State.copyDone
  split
  · exact .none
  · split
    · exact .none
    · dsimp only
      split
      · exact .some h.setCwp.dropCopy
      · have hfin {u : State} {n t k out} (hu : u.memOk) :
            MemOkO ((u.countDown t k out).map (fun s => (s.setCwp n ch n.total).dropCopy c ch n.n)) :=
          .map fun v hv => (hu.countDown.of_eq hv).setCwp.dropCopy
        split
        · next e =>
          exact .some (h.route.fst e).copyMiss
        · exact .none
        · exact .none
        · next e => exact hfin (h.route.fst e)
        · next e => exact hfin (h.route.fst e).collapseNow

theorem execNop (h : s.memOk) : MemOkNext (Machine.execNop s) := h.runReg fun _ => .ok trivial

theorem endPark {t w} (h : s.memOk) : MemOkX (fun r => r.1.memOk) (Machine.endPark s t w) :=
  closeX.bind fun _ _ => .error h

theorem execEndT (h : s.memOk) : MemOkNext (Machine.execEndT s) := h.runT fun _ => h.endPark

theorem execYield (h : s.memOk) : MemOkNext (Machine.execYield s) := h.runReg fun _ => .ok trivial

theorem execPause {imm} (h : s.memOk) : MemOkNext (Machine.execPause imm s) := h.runT fun _ => .ite (.ok h) (.error h)

theorem execVoid {d} (h : s.memOk) : MemOkNext (Machine.execVoid d s) :=
  h.runReg fun _ => windowX.bind fun _ _ => destX.bind fun _ _ => .ok trivial

/-! ### Keys of RCBs -/

theorem agentKeys {hd r wr l} (h : s.memOk) : (s.agentKeys hd r wr l).1.memOk := by
  induction l generalizing s with
  | nil => exact h
  | cons a l ih =>
    unfold State.agentKeys
    split
    · next e => exact h.rcbKey.fst e
    · next e =>
      split
      · next e2 => exact (ih (h.rcbKey.fst e)).fst e2
      · next e2 => exact (ih (h.rcbKey.fst e)).fst e2

/-! ### Terminal boxes (R98, R99) -/

theorem satAdd {k n} (h : s.memOk) : (s.satAdd k n).memOk := h.put

theorem settleBox {r l code} (h : s.memOk) : (Machine.settleBox r l code s).memOk := by
  induction l generalizing s code with
  | nil => exact h
  | cons p l ih =>
    unfold Machine.settleBox
    split
    · exact h
    · dsimp only
      have h1 {x a k} : ((s.setRegion x).setRcbState a k).memOk := h.setRegion.setRcbState
      split
      · exact h1
      · refine .ite ?_ h1.satAdd.put
        exact .ite h1.satAdd.put.setRcbState (ih h1.satAdd.put)

theorem settleBoxAt {r a code} (h : s.memOk) : (s.settleBoxAt r a code).1.memOk := by
  unfold State.settleBoxAt
  dsimp only
  split
  · next e => exact settleBox (h.agentKeys.fst e)
  · next e => exact h.agentKeys.fst e

theorem trapBox {r a} (h : s.memOk) : (s.trapBox r a).memOk := by
  unfold State.trapBox
  split
  exact h.post

/-! ### Leaves and splits (R84, R86, R97) -/

theorem makeLeaf {r a k flags} (h : s.memOk) : (s.makeLeaf r a k flags).1.memOk := by
  unfold State.makeLeaf
  have hflag {u : State} (hu : u.memOk) : (if flags = 0 then u else u.orRcbFlags k flags).memOk := .ite hu
    hu.orRcbFlags
  dsimp only
  split
  · exact (hflag h).setRcbState
  · split
    · next e => exact (hflag (h.settleBoxAt.fst e)).trapBox
    · next e => exact h.settleBoxAt.fst e

theorem makeSplit {r b k axis m rule prog deferred core} (h : s.memOk) :
    (s.makeSplit r b k axis m rule prog deferred core).1.memOk := by
  unfold State.makeSplit
  extract_lets e kids n js cost rest addrs jbase lines
  split
  · next e => exact h.agentKeys.fst e
  · next u ks e =>
    extract_lets ck s1 s2 s3 s4 s5 s6 s7
    have h2 : s2.memOk := foldl (fun h _ => h.put) (foldl (fun h _ => h.putRcb) (h.agentKeys.fst e))
    have h6 : s6.memOk := .ite h2.put.put.put h2.put.put.put.put
    split
    · exact h6.setRcbState
    · exact h6.setRcbState.setRegion

theorem applyDefer {r b k core} (h : s.memOk) : (s.applyDefer r b k core).1.memOk := by
  unfold State.applyDefer
  dsimp only
  split
  · exact h.makeLeaf
  · split
    · exact h.makeLeaf
    · split
      · exact h.makeLeaf
      · split
        · exact h.makeLeaf
        · split
          · exact h.makeLeaf
          · exact h.makeSplit

theorem applyDecision {r b k core prog d} (h : s.memOk) : (s.applyDecision r b k core prog d).1.memOk := by
  unfold State.applyDecision
  split
  · exact h.settleBoxAt
  · exact h.makeLeaf
  · exact h.applyDefer
  · dsimp only
    split
    · exact h.makeLeaf
    · exact h.makeSplit

/-! ### The launch queue (R102, R103) -/

theorem classX {t l} : MemOkX (fun _ => True) (Machine.classX s t l) := needTrap

theorem regionX {t} : MemOkX (fun _ => True) (Machine.regionX s t) := by
  unfold Machine.regionX
  split
  · exact .ok trivial
  · exact .trap

theorem treeKeyIn {t d a wr} (h : s.memOk) : MemOkX (fun r => r.1.memOk) (Machine.treeKeyIn s t d a wr) := by
  unfold Machine.treeKeyIn
  split
  · next e => exact .ok (h.route.fst e)
  · next e => exact .ite (.ok ((h.route.fst e).collapseNow)) ((h.route.fst e).parkInX)
  · next e => exact .ok (h.route.fst e)
  · next e => exact (h.route.fst e).parkInX
  · next e => exact .error ((h.route.fst e).pageRequest)

theorem treeKeyX {t a wr} (h : s.memOk) : MemOkX (fun r => r.1.memOk) (Machine.treeKeyX s t a wr) := h.treeKeyIn

theorem rcbReadX {t d a off n} (h : s.memOk) : MemOkX (fun r => r.1.memOk) (Machine.rcbReadX s t d a off n) := by
  refine .guard sameWordX fun _ => h.treeKeyIn.bind fun ⟨u, k⟩ hu => sameKeyX.bind fun _ _ => ?_
  split
  · exact .trap
  · exact .ok hu

theorem decideX {t d} (h : s.memOk) : MemOkX (fun r => r.1.memOk) (Machine.decideX s t d) := h.endPark

theorem splitBoxX {t axis pt} (h : s.memOk) : MemOkX (fun r => r.1.memOk) (Machine.splitBoxX s t axis pt) := by
  have hw := windowX (t := t) (l := pt.toList)
  have hr := h.rcbReadX (t := t) (d := t.dom) (a := t.rcb) (off := 0) (n := 128)
  unfold Machine.splitBoxX
  split
  · next ew _ => exact .error (memOkX_error.mp (ew ▸ hw))
  · next ew _ => exact .ite (.error (memOkX_error.mp (ew ▸ hw))) .trap
  · next er => exact .error (memOkX_error.mp (er ▸ hr))
  · next er =>
    rw [er] at hr
    cases hr with
    | ok hu => exact .ite (.ok hu) .trap

theorem splitPointX {t e k a pt} : MemOkX (fun _ => True) (Machine.splitPointX s t e k a pt) :=
  .ite (.ok trivial) (needTrap.bind fun _ _ => readsX.bind fun _ _ => needTrap.bind fun _ _ => .ok trivial)

theorem execSplit {axis pt rule} (h : s.memOk) : MemOkNext (Machine.execSplit axis pt rule s) :=
  h.runT fun _ => classX.bind fun _ _ => regionX.bind fun _ _ => needTrap.bind fun _ _ =>
    h.splitBoxX.bind fun ⟨_, _⟩ hu => splitPointX.bind fun _ _ => hu.decideX

theorem execPrune (h : s.memOk) : MemOkNext (Machine.execPrune s) := h.runT fun _ => classX.bind fun _ _ => h.decideX

theorem execLeaf (h : s.memOk) : MemOkNext (Machine.execLeaf s) := h.runT fun _ => classX.bind fun _ _ => h.decideX

theorem execDefer (h : s.memOk) : MemOkNext (Machine.execDefer s) := h.runT fun _ => classX.bind fun _ _ => h.decideX

theorem joinSlotX {t r} (h : s.memOk) : MemOkX (fun r => r.1.memOk) (Machine.joinSlotX s t r) :=
  h.rcbReadX.bind fun ⟨_, _⟩ hu => .ite (.ok hu) (hu.rcbReadX.bind fun ⟨_, _⟩ hv => .ite (.ok hv) (.ok hv))

theorem joinStoreX {t a v} (h : s.memOk) : MemOkX (fun r => r.memOk) (Machine.joinStoreX s t a v) := by
  refine sameWordX.bind fun _ _ => h.treeKeyX.bind fun ⟨u, k⟩ hu => sameKeyX.bind fun _ _ => ?_
  split
  · next e => exact .ok (hu.bankStep.fst e)
  · exact .ok hu
  · exact .trap

theorem execJdone {src} (h : s.memOk) : MemOkNext (Machine.execJdone src s) := by
  refine h.runT fun t => classX.bind fun _ _ => windowX.bind fun _ _ => readsX.bind fun v _ =>
    regionX.bind fun _ _ => ?_
  split
  · exact h.endPark
  · refine h.joinSlotX.bind fun ⟨u, a⟩ hu => ?_
    cases a with
    | none => exact State.memOk.endPark hu
    | some a => exact closeX.bind fun _ _ => (joinStoreX hu).bind fun _ hv => hv.endPark

theorem execStamp {a b} (h : s.memOk) : MemOkNext (Machine.execStamp a b s) :=
  h.runT fun _ => classX.bind fun _ _ => windowX.bind fun _ _ => readX.bind fun _ _ => readX.bind fun _ _ => .ok h

theorem climbX {t n a} (h : s.memOk) : MemOkX (fun r => r.1.memOk) (Machine.climbX s t n a) := by
  induction n generalizing s a with
  | zero => exact h.rcbReadX
  | succ n ih => exact h.rcbReadX.bind fun ⟨_, _⟩ hu => ih hu

theorem execBoxrd {d up} (h : s.memOk) : MemOkNext (Machine.execBoxrd d up s) :=
  h.runT fun _ => classX.bind fun _ _ => windowX.bind fun _ _ => destX.bind fun _ _ =>
    h.rcbReadX.bind fun ⟨_, _⟩ hu =>
    .ite (.ok hu) ((climbX hu).bind fun ⟨_, _⟩ hv => .ok hv)

theorem lag {t r} (h : s.memOk) : (s.lag t r).2.memOk := by
  unfold State.lag
  split
  next e => exact (h.unknown.snd e)

theorem budrd_lag {c : Prop} [Decidable c] {u : State} {t r} (h : u.memOk) :
    (if c then u.lag t r else (0, u)).2.memOk := by
  split
  · exact lag h
  · exact h

theorem execBudrd {d sel} (h : s.memOk) : MemOkNext (Machine.execBudrd d sel s) := by
  refine h.runT fun t => classX.bind fun _ _ => needTrap.bind fun _ _ => windowX.bind fun _ _ => destX.bind fun _ _ =>
    regionX.bind fun r _ => ?_
  dsimp only
  split
  · exact .ok (budrd_lag h)
  · exact h.rcbReadX.bind fun ⟨_, _⟩ hu => .ok (budrd_lag hu)

/-! ### Reading the record and the rules -/

theorem lineX {t g a} (h : s.memOk) : MemOkX (fun r => r.1.memOk) (Machine.lineX s t g a) := .ite h.ownReadX accTrap

theorem linesX {t g a n} (h : s.memOk) : MemOkX (fun r => r.1.memOk) (Machine.linesX s t g a n) := by
  induction n generalizing s a with
  | zero => exact .ok h
  | succ n ih => exact h.lineX.bind fun ⟨_, _⟩ hu => (ih hu).bind fun ⟨_, _⟩ hv => .ok hv

/-! ### The checks (R82, R133) -/

theorem arenaX {t r} (h : s.memOk) : MemOkX (fun r => r.1.memOk) (Machine.arenaX s t r) :=
  .ite (.ok h) (h.treeKeyX.bind fun ⟨_, _⟩ h1 => .ok h1)

/-! ### Creating the region -/

theorem newRegion (h : s.memOk) : (s.newRegion).2.memOk := by
  unfold State.newRegion
  split
  next e => exact (h.unknown.snd e)

theorem createX {t d r rules} (h : s.memOk) : MemOkX (fun r => r.1.memOk) (Machine.createX s t d r rules) :=
  h.treeKeyIn.bind fun ⟨_, _⟩ h1 => h1.newRegion.putRcb.setRegion.done

theorem refuse {t d code} (h : s.memOk) : MemOkX (fun r => r.1.memOk) (Machine.refuse s t d code) := h.done

theorem execLaunch {d a seg} (h : s.memOk) : MemOkNext (Machine.execLaunch d a seg s) := by
  refine h.runT fun t => windowX.bind fun _ _ => readX.bind fun _ _ => destX.bind fun _ _ => checkX.bind fun _ _ =>
    oldestX.bind fun _ _ => h.linesX.bind fun ⟨u, l⟩ hu => needPark.bind fun _ _ => ?_
  dsimp only
  split
  · exact hu.refuse
  · refine hu.linesX.bind fun ⟨v, rules⟩ hv => ?_
    dsimp only
    split
    · exact hv.refuse
    · refine hv.arenaX.bind fun ⟨w, k⟩ hw => ?_
      dsimp only
      split
      · exact hw.refuse
      · exact hw.createX

/-! ### RGNQ -/

theorem execRgnq {d a sel} (h : s.memOk) : MemOkNext (Machine.execRgnq d a sel s) := by
  refine h.runT fun t => needTrap.bind fun _ _ => windowX.bind fun _ _ => readX.bind fun _ _ =>
    destX.bind fun _ _ => ?_
  dsimp only
  split
  · exact .ok h
  · exact .ite (.ok h) (.ite (h.rcbReadX.bind fun ⟨_, _⟩ hu => .ok hu) (.ite (h.rcbReadX.bind fun ⟨_, _⟩ hu =>
      .ok hu) (.ok h)))

/-! ### Target words and channel entries -/

theorem setChan {c ch e} (h : s.memOk) : (s.setChan c ch e).memOk := h.setCore

theorem userChanX {t a barred} : MemOkX (fun _ => True) (Machine.userChanX s t a barred) := by
  unfold Machine.userChanX
  dsimp only
  split
  · exact .trap
  · exact .ok trivial

/-! ### SEND and SENDR -/

theorem execSend {d a b narrow count} (h : s.memOk) : MemOkNext (Machine.execSend d a b narrow count s) :=
  h.runT fun _ => needTrap.bind fun _ _ => userChanX.bind fun _ _ => windowX.bind fun _ _ => runX.bind fun _ _ =>
    readX.bind fun _ _ => readsX.bind fun _ _ => destX.bind fun _ _ => oldestX.bind fun _ _ =>
    .ite h.done (.ite h.done (.ite h.done (.error h.post)))

theorem execSendr {a reg slot prev} (h : s.memOk) : MemOkNext (Machine.execSendr a reg slot prev s) :=
  h.runT fun _ => windowX.bind fun _ _ => readX.bind fun _ _ => oldestX.bind fun _ _ => needPark.bind fun _ _ =>
    .ok h.setCore

/-! ### CHSET and CHGET -/

theorem execChset {d a bits} (h : s.memOk) : MemOkNext (Machine.execChset d a bits s) :=
  h.runT fun _ => userChanX.bind fun _ _ => windowX.bind fun _ _ => readX.bind fun _ _ => destX.bind fun _ _ =>
    .ite h.done (.ite (.error h.post) h.setChan.done)

theorem execChget {d a} (h : s.memOk) : MemOkNext (Machine.execChget d a s) :=
  h.runT fun _ => windowX.bind fun _ _ => readX.bind fun _ _ => destX.bind fun _ _ => h.done

/-! ### MIGRATE -/

theorem execMigrate {d a b} (h : s.memOk) : MemOkNext (Machine.execMigrate d a b s) :=
  h.runT fun _ => windowX.bind fun _ _ => readX.bind fun _ _ => readX.bind fun _ _ => destX.bind fun _ _ =>
    oldestX.bind fun _ _ => .ite h.done (.ite h.done (.ite h.done (closeX.bind fun _ _ =>
    .ite (.error h) (.error h.post))))

theorem readdress {s0 : State} {old new} (h : s0.memOk) : (s0.readdress old new).memOk := h

theorem forwardNew {s0 : State} {t new} (h : s0.memOk) : (s0.forwardNew t new).memOk := .ite h h

theorem moveThread {t c slot wbase} (h : s.memOk) : (s.moveThread t c slot wbase).1.memOk :=
  h.freeThread.readdress.setThread.forwardNew

theorem leaveSlot {m} (h : s.memOk) : (s.leaveSlot m).1.memOk := by
  unfold State.leaveSlot
  split
  · split
    · exact h
    · split
      next e => exact (h.moveThread.fst e).setThread
  · exact h

/-! ### SYSCALL -/

theorem execSyscall {d a count svc} (h : s.memOk) : MemOkNext (Machine.execSyscall d a count svc s) :=
  h.runT fun _ => needTrap.bind fun _ _ => windowX.bind fun _ _ => runX.bind fun _ _ => readsX.bind fun _ _ =>
    destX.bind fun _ _ => .ite (.ok h.post) h.done

theorem setRankList {c i k j l} (h : s.memOk) : (s.setRankList c i k j l).memOk := h.writeBytes.setTile

theorem offerTo {c i log2k i32 j ps} (h : s.memOk) : (s.offerTo c i log2k i32 j ps).memOk :=
  .ite h h.setRankList.setTile

/-! ### Images (R233) -/

theorem mergeInto {c i log2k i32 lists nans skips} (h : s.memOk) :
    (s.mergeInto c i log2k i32 lists nans skips).memOk :=
  setTile (foldl (fun h _ => h.offerTo) h)

theorem plainSlot {c i} (h : s.memOk) : (s.plainSlot c i).memOk := h.zeroed.setTile

theorem freePair {c i} (h : s.memOk) : (s.freePair c i).memOk := foldl (fun h _ => .ite h h.setTile) h

theorem declareRanked {c i log2k col i32} (h : s.memOk) : (s.declareRanked c i log2k col i32).memOk :=
  .ite (setTile (setTile (foldl (fun h _ => h.freePair) h))) (setTile (foldl (fun h _ => h.freePair) h))

theorem declarePlain {c i} (h : s.memOk) : (s.declarePlain c i).memOk := foldl (fun h _ => h.setTile) h

/-! ### The meanings -/

theorem execRlset {tile log2k col i32} (h : s.memOk) : MemOkNext (Machine.execRlset tile log2k col i32 s) :=
  h.runT fun _ => unitX.bind fun _ _ => h.slotX.bind fun _ _ => oldestX.bind fun _ _ => needPark.bind fun _ _ =>
    .ok h.declareRanked

theorem execRlins {tile a b _list k} (h : s.memOk) : MemOkNext (Machine.execRlins tile a b _list k s) :=
  h.runT fun _ => windowX.bind fun _ _ => presentX.bind fun _ _ => presentX.bind fun _ _ => unitX.bind fun _ _ =>
    h.slotX.bind fun _ _ => h.rankedX.bind fun _ _ => cleansX.bind fun _ _ => h.enqueue

theorem execRlmergeTile {tile src} (h : s.memOk) : MemOkNext (Machine.execRlmergeTile tile src s) :=
  h.runT fun _ => unitX.bind fun _ _ => h.slotX.bind fun _ _ => h.slotX.bind fun _ _ => h.rankedX.bind fun _ _ =>
    h.rankedX.bind fun _ _ => .ite h.enqueue h.engineTrap

theorem mergeFrom {t tile m b a cfg} (h : s.memOk) :
    MemOkX (fun r => r.1.memOk) (Machine.mergeFrom s t tile m b a cfg) := by
  refine .ite (h.slotX.bind fun _ _ => h.engineTrap) ?_
  refine memX.bind fun _ _ => h.slotX.bind fun _ _ => h.rankedX.bind fun _ _ => .ite h.enqueue h.engineTrap

theorem mergeSlotX {t tile} (h : s.memOk) : MemOkX (fun _ => True) (Machine.mergeSlotX s t tile) :=
  h.slotX.bind fun _ _ => h.rankedX.bind fun _ _ => .ok trivial

theorem configX {t tile m b a} (h : s.memOk) : MemOkX (fun r => r.1.memOk) (Machine.configX s t tile m b a) := by
  have hr := h.ownReadX (t := t) (g := m.seg) (p := segP (t.seg m.seg)) (off := offE b m.off) (a := a) (n := 8)
  unfold Machine.configX
  split
  · next e => exact e ▸ hr
  · next e => exact .guard h.mergeSlotX fun _ => e ▸ hr

theorem execRlmergeImage {tile m} (h : s.memOk) : MemOkNext (Machine.execRlmergeImage tile m s) := by
  refine h.runT fun t => windowX.bind fun _ _ => presentX.bind fun _ _ => (unlessBad memX).bind fun _ _ =>
    unitX.bind fun _ _ => ?_
  dsimp only
  split
  · refine h.mergeSlotX.bind fun _ _ => cleanX.bind fun _ _ => ?_
    exact oldestX.bind fun _ _ => h.configX.bind fun ⟨_, _⟩ hu => hu.mergeFrom
  · exact oldestX.bind fun _ _ => h.configX.bind fun ⟨_, _⟩ hu => hu.mergeFrom

theorem execRlthr {a tile list} (h : s.memOk) : MemOkNext (Machine.execRlthr a tile list s) := by
  refine h.runT fun _ => windowX.bind fun _ _ => destX.bind fun _ _ => unitX.bind fun _ _ =>
    h.slotX.bind fun _ _ => h.rankedX.bind fun _ _ => oldestX.bind fun _ _ => needPark.bind fun _ _ =>
    .ite h.engineTrap ?_
  split
  exact h.done

theorem execRldrain {tile m} (h : s.memOk) : MemOkNext (Machine.execRldrain tile m s) := by
  refine h.runT fun t => windowX.bind fun _ _ => presentX.bind fun _ _ => ?_
  dsimp only
  exact (unlessBad memX).bind fun _ _ => unitX.bind fun _ _ => h.slotX.bind fun _ _ => h.rankedX.bind fun _ _ =>
     cleanX.bind fun _ _ => h.enqueue

theorem execRlclr {tile} (h : s.memOk) : MemOkNext (Machine.execRlclr tile s) :=
  h.runT fun _ => unitX.bind fun _ _ => h.slotX.bind fun _ _ => h.rankedX.bind fun _ _ => oldestX.bind fun _ _ =>
    needPark.bind fun _ _ => .ok h.setTile

/-! ### Holds and releases (R227, R295) -/

theorem holdThread {t} (h : s.memOk) : (s.holdThread t).1.memOk := by
  unfold State.holdThread
  split
  · split
    next e => exact (h.unqueue.fst e)
  · exact h

theorem releaseThread {t} (h : s.memOk) : (s.releaseThread t).memOk := by
  unfold State.releaseThread
  refine .ite h.setThread ?_
  split
  · exact h.trapParked.getD h.setThread
  · exact .ite h.setThread h.requeue.setThread

/-! ### The context image (R297, R298) -/

theorem poisonWord {k} (h : s.memOk) : (s.poisonWord k).memOk := h

theorem putLine {src dst} (h : s.memOk) : (s.putLine src dst).memOk := .ite h.put.poisonWord h.put

theorem moveLines {l} (h : s.memOk) : (s.moveLines l).memOk := by
  induction l generalizing s with
  | nil => exact h
  | cons p l ih =>
    unfold State.moveLines
    exact ih (settle (foldl (fun h _ => .ite h.setFull.poisonWord h.setFull) h.writeBytes))

/-! ### Writing a context (R296, R297) -/

theorem withdrawFor {t} (h : s.memOk) : (s.withdrawFor t).1.memOk := by
  unfold State.withdrawFor
  dsimp only
  split
  · split
    · split
      · exact h.dropOrdinary.countInstr
      · exact h.dropOrdinary
    · exact h.dropOrdinary
  · exact h

theorem leafRcb {t code ctx flag} (h : s.memOk) : (s.leafRcb t code ctx flag).1.memOk := by
  unfold State.leafRcb
  split
  · exact h
  · split
    · exact h
    · split
      · next e => exact (h.rcbKey.fst e)
      · next e =>
          exact .ite ((h.rcbKey.fst e).settled.setRcbState.put) ((h.rcbKey.fst e).settled.setRcbState.put.orRcbFlags)

theorem holdRcb {t} (h : s.memOk) : (s.holdRcb t).memOk := by
  refine .ite h ?_
  split
  · next e => exact (h.leafRcb.fst e)
  · next e => exact (h.leafRcb.fst e).owe

theorem spillPrep {t} (h : s.memOk) : (s.spillPrep t).1.memOk := withdrawFor (.ite h.rollbackAll h)

theorem spillAt {t keepSlot a} (h : s.memOk) : (s.spillAt t keepSlot a).memOk := by
  unfold State.spillAt
  extract_lets hb n j s1 s2
  have h2 : s2.memOk := foldl (fun h _ => h.poisonWord) h.writeBytes
  exact setThread (s := { s2.placed with arena := _, jobs := _ }) (placed h2)

theorem spillStart {t keepSlot} (h : s.memOk) : (s.spillStart t keepSlot).1.memOk := by
  unfold State.spillStart
  dsimp only
  split
  · exact h.spillPrep.setThread
  · exact h.spillPrep.spillAt

theorem answerSpill {id a} (h : s.memOk) : (s.answerSpill id a).memOk := by
  unfold State.answerSpill
  split
  · exact h.commit
  · exact h

theorem spilled' {t j} (h : s.memOk) : (s.spilled' t j).memOk :=
  answerSpill (.ite h.dropJob.setThread h.dropJob.freeThread)

theorem setJob {j} (h : s.memOk) : (s.setJob j).memOk := h

theorem spillLine {t j} (h : s.memOk) : MemOkO (s.spillLine t j) := by
  refine .ite (gate h.leafRcb h.leafRcb.spilled') (.ite (.some h.moveLines.setJob) ?_)
  split
  · next e => exact gate (h.agentKey.fst e) (h.agentKey.fst e)
  · next e => exact .some (setJob (.ite ((h.agentKey.fst e).moveLines) ((h.agentKey.fst e).putLine)))

/-! ### Reading a context (R299) -/

theorem loadTile {ks o c i} (h : s.memOk) : (s.loadTile ks o c i).memOk := by
  unfold State.loadTile
  extract_lets u
  have hu : u.memOk := h.writeBytes
  exact hu.setTile

theorem imageOps {t ks o n} (h : s.memOk) : (s.imageOps t ks o n).1.memOk := by
  refine List.foldlRecOn (motive := fun p : State × List EngineOp => p.1.memOk) _ _ h fun p hp i _ => ?_
  dsimp only
  split
  · exact declarePlain (s := { p.1 with serial := _ }) hp
  · exact hp

theorem loadLatch {ks o c lat keep t} (h : s.memOk) : (s.loadLatch ks o c lat keep t).memOk := by
  unfold State.loadLatch
  exact .ite h.setCore (with_serial h.writeBytes.setCore)

theorem placeImage {keep ks c slot wbase po ts} (h : s.memOk) :
    (s.placeImage keep ks c slot wbase po ts).1.memOk := by
  unfold State.placeImage
  extract_lets m t id d1 seg1 stop sp t1 s1 s2 s3
  have h1 : s1.memOk := foldl (fun h _ => h.loadTile) h
  have h2 : s2.memOk := .ite h1.loadLatch h1
  have h3 : s3.memOk := .ite h2.loadLatch h2
  exact h3.imageOps

theorem settleRestored {t} (h : s.memOk) : (s.settleRestored t).memOk := h.releaseThread

theorem restoreOn {s0 : State} {keep a bytes c slot} (h : s0.memOk) : MemOkO (s0.restoreOn keep a bytes c slot) := by
  unfold State.restoreOn
  dsimp only
  split
  · next e => exact gate (k := id) (h.agentKey.fst e) (h.agentKey.fst e)
  · next u k e =>
      split
      · exact .none
      · have hm := (h.agentKey.fst e).moveLines (l := [(k, stageKey a 0)])
        exact .some (setThread (.ite hm.placed.freeThread hm.placed))

theorem restored {t j} (h : s.memOk) : MemOkO (s.restored t j) := by
  refine .ite .none (gate h.leafRcb ?_)
  split
  next e => exact settleRestored ((h.leafRcb.placeImage.fst e).dropJob)

theorem restoreLine {t j} (h : s.memOk) : MemOkO (s.restoreLine t j) := by
  refine .ite h.restored (.ite (.some h.moveLines.setJob) ?_)
  split
  · next e => exact gate (h.agentKey.fst e) (h.agentKey.fst e)
  · next e => exact .some ((h.agentKey.fst e).moveLines.setJob)

theorem jobLine {id restore} (h : s.memOk) : MemOkO (s.jobLine id restore) := by
  unfold State.jobLine
  split
  · exact .ite .none (.ite h.restoreLine h.spillLine)
  · exact .none

/-! ### Levels and peeks -/

theorem systemX {t} : MemOkX (fun _ => True) (Machine.systemX s t) := needTrap

/-! ### System registers (R309) -/

theorem sendPageReqs (h : s.memOk) : s.sendPageReqs.memOk := .ite (foldl (fun h _ => h.pageRequest) h) h

theorem writeDomain {n v} (h : s.memOk) : (s.writeDomain n v).memOk := .ite h h

theorem writeSysReg {idx sel v} (h : s.memOk) : (s.writeSysReg idx sel v).memOk :=
  .ite (sendPageReqs h) (.ite (.ite h.writeDomain h) (.ite (.ite h h) (.ite (.ite (.ite h h) (.ite h h)) (.ite h h))))

theorem execSrd {d idx b} (h : s.memOk) : MemOkNext (Machine.execSrd d idx b s) :=
  h.runT fun _ => needTrap.bind fun _ _ => .ite (windowX.bind fun _ _ => destX.bind fun _ _ => .ok h)
    (needTrap.bind fun _ _ => windowX.bind fun _ _ => readX.bind fun _ _ => destX.bind fun _ _ => .ok h)

theorem execSwr {idx a b} (h : s.memOk) : MemOkNext (Machine.execSwr idx a b s) :=
  h.runT fun _ => needTrap.bind fun _ _ => valueX.bind fun _ _ => .ite
    (needTrap.bind fun _ _ => windowX.bind fun _ _ => readX.bind fun _ _ => .ok h)
    (needTrap.bind fun _ _ => windowX.bind fun _ _ => readX.bind fun _ _ => readX.bind fun _ _ => .ok h.writeSysReg)

/-! ### Writes with rows of their own -/

theorem execStatusWrite {a} (h : s.memOk) : MemOkNext (Machine.execStatusWrite a s) :=
  h.runT fun _ => valueX.bind fun _ _ => needTrap.bind fun _ _ => windowX.bind fun _ _ => readX.bind fun _ _ => .ok h

theorem writePartition {c new} (h : s.memOk) : (s.writePartition c new).memOk := .ite h h.setCore.cleared

theorem execPartitionWrite {a b} (h : s.memOk) : MemOkNext (Machine.execPartitionWrite a b s) :=
  h.runT fun _ => needTrap.bind fun _ _ => systemX.bind fun _ _ => windowX.bind fun _ _ => readX.bind fun _ _ =>
    readX.bind fun _ _ => .ok h.writePartition

theorem settleAtoll {cl} (h : s.memOk) : (s.settleAtoll cl).memOk := by
  unfold State.settleAtoll
  split
  · exact h
  · exact .ite h h

theorem execAtollWrite {a} (h : s.memOk) : MemOkNext (Machine.execAtollWrite a s) :=
  h.runT fun _ => systemX.bind fun _ _ => windowX.bind fun _ _ => readX.bind fun _ _ => .ok (settleAtoll h)

theorem execChannelEntryWrite {a b} (h : s.memOk) : MemOkNext (Machine.execChannelEntryWrite a b s) :=
  h.runT fun _ => systemX.bind fun _ _ => windowX.bind fun _ _ => readX.bind fun _ _ => readX.bind fun _ _ =>
    .ite (.ok h.setChan) (.ok h)

theorem execScrub {a b} (h : s.memOk) : MemOkNext (Machine.execScrub a b s) :=
  h.runT fun _ => systemX.bind fun _ _ => windowX.bind fun _ _ => readX.bind fun _ _ => readX.bind fun _ _ =>
    .ok (.ite h.scrubbed h)

theorem execErrlogClear {a b} (h : s.memOk) : MemOkNext (Machine.execErrlogClear a b s) :=
  h.runT fun _ => systemX.bind fun _ _ => windowX.bind fun _ _ => readX.bind fun _ _ => readX.bind fun _ _ =>
    .ite (.ok h) (.ok h)

/-! ### Readback -/

theorem execRcbrd {d a} (h : s.memOk) : MemOkNext (Machine.execRcbrd d a s) := by
  refine h.runT fun _ => windowX.bind fun _ _ => readX.bind fun _ _ => destsX.bind fun _ _ => ?_
  dsimp only
  split
  · exact .ok h
  · exact h.rcbReadX.bind fun ⟨_, _⟩ h1 => .ok h1

theorem execCapq {d a sel} (h : s.memOk) : MemOkNext (Machine.execCapq d a sel s) :=
  h.runT fun _ => needTrap.bind fun _ _ => windowX.bind fun _ _ => readX.bind fun _ _ => destX.bind fun _ _ => h.done

theorem execBrk {imm} (h : s.memOk) : MemOkNext (Machine.execBrk imm s) := h.runT fun _ => trapX

/-! ### The page service -/

theorem wakeFor {w dva} (h : s.memOk) : (s.wakeFor w dva).memOk := .ite h (.ite h h.post)

theorem execWakep {a b} (h : s.memOk) : MemOkNext (Machine.execWakep a b s) :=
  h.runT fun _ => systemX.bind fun _ _ => windowX.bind fun _ _ => readX.bind fun _ _ => readX.bind fun _ _ =>
    .ok h.wakeFor

theorem dropTlb {lo len scope mine} (h : s.memOk) : (s.dropTlb lo len scope mine).memOk := h

theorem execTlbinv {a b scope} (h : s.memOk) : MemOkNext (Machine.execTlbinv a b scope s) :=
  h.runT fun _ => needTrap.bind fun _ _ => systemX.bind fun _ _ => windowX.bind fun _ _ => readX.bind fun _ _ =>
    readX.bind fun _ _ => .error h.dropTlb

/-! ### Targets -/

theorem rightX {t a} : MemOkX (fun _ => True) (Machine.rightX s t a) := by
  refine needTrap.bind fun _ _ => ?_
  split
  · exact needTrap
  · exact .ok trivial

/-! ### THRD (R312) -/

theorem imageKeysX {t a n} (h : s.memOk) : MemOkX (fun r => r.1.memOk) (Machine.imageKeysX s t a n) := by
  induction n generalizing s a with
  | zero => exact .ok h
  | succ n ih =>
    refine .guard sameWordX fun _ => h.treeKeyIn.bind fun ⟨u, k⟩ hu => ?_
    exact sameKeyX.bind fun _ _ => (ih hu).bind fun ⟨_, _⟩ hv => .ok hv

theorem spilledItemX {t u i} (h : s.memOk) : MemOkX (fun r => r.1.memOk) (Machine.spilledItemX s t u i) := by
  refine h.imageKeysX.bind fun ⟨_, _⟩ h1 => ?_
  dsimp only
  split
  · exact .ok h1
  · exact .ok h1

theorem thrdDone {t d r} (h : s.memOk) : MemOkX (fun r => r.1.memOk) (Machine.thrdDone s t d r) := .ok h

theorem execThrd {d a item} (h : s.memOk) : MemOkNext (Machine.execThrd d a item s) := by
  refine h.runT fun _ => needTrap.bind fun _ _ => rightX.bind fun _ _ => windowX.bind fun _ _ =>
    readX.bind fun _ _ => destsX.bind fun _ _ => ?_
  split
  · exact h.thrdDone
  · exact needPark.bind fun _ _ => .ite h.thrdDone (.ite h.thrdDone (.ite (h.spilledItemX.bind fun ⟨_, _⟩ h1 =>
      h1.thrdDone) h.thrdDone))

/-! ### THWR (R314) -/

theorem redirected {u v} (h : s.memOk) : (s.redirected u v).memOk := .ite h.setThread h.undone.dropOrdinary.setThread

theorem thwrX {t d a b} : MemOkX (fun _ => True) (Machine.thwrX s t d a b) :=
  rightX.bind fun _ _ => windowX.bind fun _ _ => readX.bind fun _ _ => readX.bind fun _ _ => destX.bind fun _ _ =>
    needPark.bind fun _ _ => .ok trivial

theorem execThwr {d a b item} (h : s.memOk) : MemOkNext (Machine.execThwr d a b item s) := by
  unfold Machine.execThwr
  dsimp only
  refine h.runT fun _ => needTrap.bind fun _ _ => thwrX.bind fun _ _ => ?_
  split
  · exact h.done
  · refine .ite h.done (.ite h.done ?_)
    split
    · exact done (.ite h.redirected h.setThread)
    · exact h.done

theorem execDiscardQueueImage {d a b} (h : s.memOk) : MemOkNext (Machine.execDiscardQueueImage d a b s) := by
  unfold Machine.execDiscardQueueImage
  dsimp only
  refine h.runT fun _ => thwrX.bind fun _ _ => ?_
  split
  · exact h.done
  · exact .ite h.done (.ite h.done h.setThread.done)

theorem debugHold {u} (h : s.memOk) : (s.debugHold u).1.memOk := by
  unfold State.debugHold
  split
  · exact h
  · split
    next e => exact (h.holdThread.fst e)

theorem debugFree {u} (h : s.memOk) : (s.debugFree u).memOk := .ite h.setThread (.ite h.releaseThread h)

theorem execDebugHold {d a b} (h : s.memOk) : MemOkNext (Machine.execDebugHold d a b s) := by
  refine h.runT fun _ => thwrX.bind fun _ _ => .ite (.ok ?_) ?_
  · split
    · exact h.debugHold
    · exact h
  · split
    · exact h.done
    · refine .ite h.done (.ite h.done (.ite ?_ h.debugFree.done))
      split
      next e => exact (h.debugHold.fst e).setThread.done

/-! ### THRES and THKILL (R315, R316) -/

theorem resumed {u} (h : s.memOk) : (s.resumed u).memOk := by
  unfold State.resumed
  dsimp only
  split
  · exact .ite h.resumeTrap.holdRcb h.resumeTrap
  · exact h.resumeTrap

theorem debugResumed {u} (h : s.memOk) : (s.debugResumed u).memOk := .ite h.setThread.holdRcb h.releaseThread

theorem execThres {d a} (h : s.memOk) : MemOkNext (Machine.execThres d a s) := by
  refine h.runT fun _ => rightX.bind fun _ _ => windowX.bind fun _ _ => readX.bind fun _ _ => destX.bind fun _ _ => ?_
  split
  · exact h.done
  · exact .ite h.done (.ite h.resumed.done (.ite h.debugResumed.done h.done))

theorem dropUnstarted {id} (h : s.memOk) : (s.dropUnstarted id).memOk := .ite h h.setCore

theorem dropContext {id} (h : s.memOk) : (s.dropContext id).memOk := h

theorem killStart {by' u} (h : s.memOk) : (s.killStart by' u).memOk := .ite h h.unqueue.dropUnstarted.setThread

theorem withdrawnFrom {u l} (h : s.memOk) : (s.withdrawnFrom u l).memOk := by
  unfold State.withdrawnFrom
  extract_lets v
  split
  · exact .ite h.countInstr.setThread h.setThread
  · exact h.setThread

theorem killWithdraw {u} (h : s.memOk) : (s.killWithdraw u).memOk := .ite h h.withdrawSkerries.withdrawnFrom

theorem dropPosted {t} (h : s.memOk) : (s.dropPosted t).memOk := h

theorem killFree {u} (h : s.memOk) : (s.killFree u).memOk :=
  freeThread (.ite h.undone.dropOrdinary.dropPosted.cancelJob.dropContext h.undone.dropOrdinary.dropPosted.cancelJob)

theorem killEnd {u} (h : s.memOk) : (s.killEnd u).1.memOk := by
  unfold State.killEnd
  split
  · exact h.killFree
  · split
    · exact h.killFree
    · split
      · next e => exact (h.settleBoxAt.fst e).killFree
      · next e => exact (h.settleBoxAt.fst e)

theorem killBegin {s0 : State} {by' u} (h : s0.memOk) : (s0.killBegin by' u).memOk := h.killStart.killWithdraw

theorem execThkill {d a} (h : s.memOk) : MemOkNext (Machine.execThkill d a s) := by
  refine h.runT fun t => rightX.bind fun _ _ => windowX.bind fun _ _ => readX.bind fun _ _ => destX.bind fun _ _ =>
    .ite (.ite (.error h.dropUnstarted.unqueue) (.ok h)) ?_
  split
  · exact .ok h
  · refine .ite (.ok h) (.ite (.ok h.freeThread) (.ite (.error h.killBegin) ?_))
    split
    · next e => exact .ok (h.killBegin.killEnd.fst e)
    · next e => exact .error (h.killBegin.killEnd.fst e)

/-! ### SPILL (R317) -/

theorem execSpill {d a} (h : s.memOk) : MemOkNext (Machine.execSpill d a s) := by
  refine h.runT fun _ => systemX.bind fun _ _ => windowX.bind fun _ _ => readX.bind fun _ _ =>
    destX.bind fun _ _ => ?_
  dsimp only
  split
  · exact h.done
  · refine .ite h.done (.ite parkX ?_)
    split
    · next e => exact (h.spillStart.fst e).done
    · next e => exact .error (h.spillStart.fst e)

/-! ### REGHOLD and REGREL (R300, R301, R318) -/

theorem holdLeaf {finish u} (h : s.memOk) : (s.holdLeaf finish u).memOk := by
  unfold State.holdLeaf
  split
  next e => exact .ite ((h.holdThread.fst e).setThread) ((h.holdThread.fst e).setThread.owe)

theorem freeLeaf {s0 : State} {u} (h : s0.memOk) : (s0.freeLeaf u).memOk := .ite h.owe.setThread h.owe.releaseThread

theorem oweSpilled {r held} (h : s.memOk) : (s.oweSpilled r held).memOk := foldl (fun h _ => h.owe) h

theorem markSpilled {r held} (h : s.memOk) : (s.markSpilled r held).memOk := h

theorem holdSpilled {r held} (h : s.memOk) : (s.holdSpilled r held).memOk := h.oweSpilled.markSpilled

theorem holdRegion {r finish} (h : s.memOk) : (s.holdRegion r finish).memOk := by
  have h1 : ((s.markedLeaves r.id finish).foldl (·.holdLeaf finish)
    (s.setRegion { r with hold := if finish then .finish else .hold })).memOk := foldl (fun h _ =>
      h.holdLeaf) h.setRegion
  exact .ite h1.markSpilled h1.holdSpilled.payOwed

theorem freeRegion {r} (h : s.memOk) : (s.freeRegion r).memOk :=
  payOwed (holdSpilled (foldl (fun h _ => h.freeLeaf) h.setRegion))

theorem execReghold {d a finish nowait} (h : s.memOk) : MemOkNext (Machine.execReghold d a finish nowait s) := by
  refine h.runT fun _ => systemX.bind fun _ _ => windowX.bind fun _ _ => readX.bind fun _ _ =>
    destX.bind fun _ _ => ?_
  dsimp only
  split
  · exact h.done
  · exact .ite h.done (.ite h.holdRegion.done (.error h.holdRegion))

theorem execRegrel {d a} (h : s.memOk) : MemOkNext (Machine.execRegrel d a s) := by
  refine h.runT fun _ => systemX.bind fun _ _ => windowX.bind fun _ _ => readX.bind fun _ _ =>
    destX.bind fun _ _ => ?_
  dsimp only
  split
  · exact h.done
  · exact .ite h.done h.freeRegion.done

/-! ### Levels and turns -/

theorem noteDispatch {region level waiting} (h : s.memOk) : (s.noteDispatch region level waiting).memOk := h

theorem happens {o} (h : s.memOk) (ho : MemOkO o) : MemOkNext (Machine.happens s o) := by
  rintro s' e
  cases ho with
  | none => cases e; exact h
  | some h => cases e; exact h

/-! ### Ends and decisions -/

theorem decide' {t d} (h : s.memOk) : (s.decide' t d).1.memOk := by
  unfold State.decide'
  split
  · exact h
  · split
    · next e => exact (h.rcbKey.fst e)
    · next e => exact (h.rcbKey.fst e).applyDecision

theorem endBox {t} (h : s.memOk) : (s.endBox t).1.memOk := by
  unfold State.endBox
  split
  · exact h
  · split
    · exact h.decide'
    · split
      · exact h
      · exact h.settleBoxAt

theorem ended {t} (h : s.memOk) : (s.ended t).memOk := h.countInstr.freeThread

theorem threadRetire {id} (h : s.memOk) : MemOkO (s.threadRetire id) := by
  unfold State.threadRetire
  split
  · exact .none
  · exact .ite (.ite h.writeOut (gate h.endBox h.endBox.ended)) .none

theorem decisionTakesEffect {id} (h : s.memOk) : MemOkO (s.decisionTakesEffect id) := by
  unfold State.decisionTakesEffect
  split
  · exact .none
  · split
    · exact .ite (gate h.decide' h.decide'.ended) .none
    · exact .none

theorem pauseExpiry {id} (h : s.memOk) : MemOkO (s.pauseExpiry id) := by
  unfold State.pauseExpiry
  split
  · exact .none
  · split
    · exact .ite (.some h.commit) .none
    · exact .none

/-! ### Moves to other cores -/

theorem arrived {t} (h : s.memOk) : (s.arrived t).memOk := .ite h.setThread.holdRcb h.setThread

theorem unitMigration {id} (h : s.memOk) : MemOkO (s.unitMigration id) := by
  unfold State.unitMigration
  split
  · exact .none
  · split
    · refine .ite ?_ .none
      extract_lets t l
      split
      · split
        · exact .some (arrived h.moveThread)
        · exact .none
      · exact .some h.takeTrap
    · exact .none

/-! ### Arrivals (R73 to R76, R136, R276) -/

theorem unmesh {n} (h : s.memOk) : (s.unmesh n).memOk := h

theorem startUser {m slot wbase} (h : s.memOk) : (s.startUser m slot wbase).memOk := by
  unfold State.startUser
  have hs : ∀ n, (match m.body with
    | .request _ _ _ _ => { s with free := s.free + n }
    | _ => s).memOk := fun n => by
    split
    · exact h
    · exact h
  dsimp only
  split
  · exact .ite (takeTrap (hs _)) (setThread (hs _))
  · exact setThread (hs _)

theorem startRoutine {m d slot wbase} (h : s.memOk) : (s.startRoutine m d slot wbase).memOk := h.arrived

theorem startContext {m d slot wbase} (h : s.memOk) : (s.startContext m d slot wbase).memOk := by
  unfold State.startContext
  split
  · exact h
  · split
    next e => exact (h.moveThread.fst e).arrived.countInstr

theorem startMsg {m} (h : s.memOk) : (s.startMsg m).memOk := by
  unfold State.startMsg
  split
  · exact h
  · split
    · exact h.startRoutine
    · exact h.startContext
    · exact h.startUser

theorem sendDone {m} (h : s.memOk) : (s.sendDone m).memOk := by
  unfold State.sendDone
  split
  · exact h
  · split
    · exact .ite h.commit h
    · exact h

theorem keepMsg {m} (h : s.memOk) : (s.keepMsg m).memOk := by
  unfold State.keepMsg
  split
  next e => exact (h.leaveSlot.fst e).setCore

theorem buffer {m} (h : s.memOk) : MemOkO (s.buffer m) := .ite (.some h.keepMsg) (.ite (.some h.keepMsg) .none)

theorem wakeThread {t} (h : s.memOk) : (s.wakeThread t).memOk := by
  refine .ite h.setThread (.ite h.setThread (.ite ?_ h))
  split
  next e => exact (h.requeue.fst e).setThread

theorem wakeSlot {c slot} (h : s.memOk) : (s.wakeSlot c slot).memOk := by
  unfold State.wakeSlot
  split
  · exact h.wakeThread
  · exact h

theorem decideArrival {m} (h : s.memOk) : MemOkO (s.decideArrival m) := by
  unfold State.decideArrival
  extract_lets s0 c
  have h0 : s0.memOk := h.unmesh
  refine .ite (.some h0) (.ite ?_ (.ite (.ite .none (.some h0.startMsg.sendDone)) (.map fun v hv => ?_)))
  · exact .some (h0.unknown.wakeSlot.sendDone)
  · exact (h0.buffer.of_eq hv).sendDone

theorem chsetArrival {m bits} (h : s.memOk) : (s.chsetArrival m bits).memOk := by
  unfold State.chsetArrival
  dsimp only
  split
  · exact h.unmesh.setChan
  · split
    · exact .ite h.unmesh.setChan.commit h.unmesh.setChan
    · exact h.unmesh.setChan

theorem messageArrival {n} (h : s.memOk) : MemOkO (s.messageArrival n) := by
  unfold State.messageArrival
  split
  · exact .none
  · split
    · exact h.decideArrival
    · exact h.decideArrival
    · exact h.decideArrival
    · exact h.decideArrival
    · exact .some h.chsetArrival
    · exact .none

theorem trapMessage {n} (h : s.memOk) : MemOkO (s.trapMessage n) := by
  unfold State.trapMessage
  split
  · exact .none
  · split
    · exact h.decideArrival
    · exact .none

theorem migrationArrival {n} (h : s.memOk) : MemOkO (s.migrationArrival n) := by
  unfold State.migrationArrival
  split
  · exact .none
  · split
    · refine .ite ?_ h.decideArrival
      split
      · exact .some h.unmesh
      · exact .some h.unmesh.arrived.countInstr
    · exact .none

theorem bufferedMessageStart {c} (h : s.memOk) : MemOkO (s.bufferedMessageStart c) := by
  unfold State.bufferedMessageStart
  split
  · exact .none
  · exact .some h.setCore.startMsg

theorem pageWake {n} (h : s.memOk) : MemOkO (s.pageWake n) := by
  unfold State.pageWake
  split
  · exact .none
  · split
    · exact .some h.unmesh.wakeSlot
    · exact .none

/-! ### Replies to moved threads, and the kernel's reply -/

theorem forwardingEntryExpiry {n} (h : s.memOk) : MemOkO (s.forwardingEntryExpiry n) := by
  unfold State.forwardingEntryExpiry
  split
  · exact .none
  · exact .ite (.some h) .none

theorem syscallReply {id r v} (h : s.memOk) : MemOkO (s.syscallReply id r v) := by
  unfold State.syscallReply
  split
  · exact .none
  · exact .ite (.some h.setThread) .none

/-! ### Deposits (R77 to R79) -/

theorem popLink {c prev dropped} (h : s.memOk) : (s.popLink c prev dropped).memOk := h.setCore

theorem depositLanding {c prev} (h : s.memOk) : MemOkO (s.depositLanding c prev) := by
  unfold State.depositLanding
  split
  · exact .none
  · dsimp only
    split
    · exact .some h.popLink.settleAtoll
    · exact .ite .none (.ite (.some h.popLink.settleAtoll) (.ite (.some h.popLink.setThread.settleAtoll) .none))

/-! ### Stamped leaves, holds, spills and restores -/

theorem becomeOldest {id} (h : s.memOk) : MemOkO (s.becomeOldest id) := by
  unfold State.becomeOldest
  split
  · exact .none
  · refine .ite (.ite h.writeOut (.some ?_)) .none
    split
    · exact h.goDirect.setThread
    · exact h.goDirect

theorem holdEvent {id dbg} (h : s.memOk) : MemOkO (s.holdEvent id dbg) := by
  unfold State.holdEvent
  split
  · exact .none
  · refine .ite .none ?_
    split
    next e =>
      refine .ite (.some ((h.holdThread.fst e).setThread)) ?_
      split
      · exact .ite (.some ((h.holdThread.fst e).setThread.holdRcb)) .none
      · exact .none

theorem spillShort {t} (h : s.memOk) : MemOkO (s.spillShort t) := by
  refine .ite ?_ .none
  split
  · next e => exact .some (h.spillStart.fst e)
  · exact .none

theorem spillWrite {id} (h : s.memOk) : MemOkO (s.spillWrite id) := .ite h.jobLine (.bind fun _ => h.spillShort)

theorem restoreCtx {x kept c} (h : s.memOk) : MemOkO (s.restoreCtx x kept c) := by
  unfold State.restoreCtx
  refine .ite .none (.ite (gate h.agentKey h.agentKey) (.ite .none ?_))
  exact .map fun v hv => .ite (h.restoreOn.of_eq hv) (h.restoreOn.of_eq hv).noteDispatch

theorem contextRestore {id c} (h : s.memOk) : MemOkO (s.contextRestore id c) :=
  .ite h.jobLine (.findSome? fun _ => h.restoreCtx)

/-! ### The rows -/

theorem execThreadRetire (h : s.memOk) : MemOkNext (Machine.execThreadRetire s) := by
  refine h.happens ?_
  split
  · exact h.threadRetire
  · exact .none

theorem execPauseExpiry (h : s.memOk) : MemOkNext (Machine.execPauseExpiry s) := by
  refine h.happens ?_
  split
  · exact h.pauseExpiry
  · exact .none

theorem execDecisionTakesEffect (h : s.memOk) : MemOkNext (Machine.execDecisionTakesEffect s) := by
  refine h.happens ?_
  split
  · exact h.decisionTakesEffect
  · exact .none

theorem execUnitMigration (h : s.memOk) : MemOkNext (Machine.execUnitMigration s) := by
  refine h.happens ?_
  split
  · exact h.unitMigration
  · exact .none

theorem execMessageArrival (h : s.memOk) : MemOkNext (Machine.execMessageArrival s) := by
  refine h.happens ?_
  split
  · exact h.messageArrival
  · exact .none

theorem execBufferedMessageStart (h : s.memOk) : MemOkNext (Machine.execBufferedMessageStart s) := by
  refine h.happens ?_
  split
  · exact h.bufferedMessageStart
  · exact .none

theorem execPageWake (h : s.memOk) : MemOkNext (Machine.execPageWake s) := by
  refine h.happens ?_
  split
  · exact h.pageWake
  · exact .none

theorem execTrapMessage (h : s.memOk) : MemOkNext (Machine.execTrapMessage s) := by
  refine h.happens ?_
  split
  · exact h.trapMessage
  · exact .none

theorem execMigrationArrival (h : s.memOk) : MemOkNext (Machine.execMigrationArrival s) := by
  refine h.happens ?_
  split
  · exact h.migrationArrival
  · exact .none

theorem execForwardingEntryExpiry (h : s.memOk) : MemOkNext (Machine.execForwardingEntryExpiry s) := by
  refine h.happens ?_
  split
  · exact h.forwardingEntryExpiry
  · exact .none

theorem execSyscallReply (h : s.memOk) : MemOkNext (Machine.execSyscallReply s) := by
  refine h.happens ?_
  split
  · exact h.syscallReply
  · exact .none

theorem execDepositLanding (h : s.memOk) : MemOkNext (Machine.execDepositLanding s) := by
  refine h.happens ?_
  split
  · exact h.depositLanding
  · exact .none

theorem execBecomeOldest (h : s.memOk) : MemOkNext (Machine.execBecomeOldest s) := by
  refine h.happens ?_
  split
  · exact h.becomeOldest
  · exact .none

theorem execHold (h : s.memOk) : MemOkNext (Machine.execHold s) := by
  refine h.happens ?_
  split
  · exact h.holdEvent
  · exact .none

theorem execSpillWrite (h : s.memOk) : MemOkNext (Machine.execSpillWrite s) := by
  refine h.happens ?_
  split
  · exact h.spillWrite
  · exact .none

theorem execContextRestore (h : s.memOk) : MemOkNext (Machine.execContextRestore s) := by
  refine h.happens ?_
  split
  · exact h.contextRestore
  · exact .none

/-! ### Answers from outside the device -/

theorem peerDone {a} (h : s.memOk) : (s.peerDone a).memOk := .ite h.setAccess.notedWrite h.setAccess

theorem peerAnswers {a v} (h : s.memOk) : (s.peerAnswers a v).memOk := by
  unfold State.peerAnswers
  split
  next x u e =>
    have hu : u.memOk := by
      split at e
      · cases e
        exact h
      · have hk := h.unknown
        rw [e] at hk
        exact hk
    split
    · exact .ite hu.setThread.setAccess (peerDone hu)
    · exact peerDone hu

theorem outerAnswer {a p} (h : s.memOk) : MemOkO (s.outerAnswer a p) := by
  refine .ite .none (.some ?_)
  split
  · exact h.stageAcc
  · exact h.peerAnswers
  · exact h.peerAnswers

theorem failOp {n kind} (h : s.memOk) : (s.failOp n kind).memOk := h

theorem opAnswer {n p} (h : s.memOk) : MemOkO (s.opAnswer n p) := by
  unfold State.opAnswer
  split
  · exact .some h.failOp
  · exact .none

/-! ### Arrivals and completions -/

theorem bankAccess {n} (h : s.memOk) : MemOkO (s.bankAccess n) := by
  unfold State.bankAccess
  split
  · exact .none
  · exact .ite (.some h.arrive) .none

theorem accessAcknowledgement {n p} (h : s.memOk) : MemOkO (s.accessAcknowledgement n p) := by
  unfold State.accessAcknowledgement
  split
  · exact h.opAnswer
  · next a _ =>
    extract_lets got s1 l
    have hg : MemOkO got := h.outerAnswer
    have h1 : s1.memOk := hg.getD h
    split
    · exact hg
    · exact hg
    · exact .none
    · refine .ite .none ?_
      split
      · exact .none
      · exact .ite hg (.ite (.some h1.finishOrdinary) (.ite (.some h1.finishLeft) hg))

theorem landRelaxed {a l} (h : s.memOk) : (s.landRelaxed a l).memOk := by
  unfold State.landRelaxed
  dsimp only
  split
  · exact h.dropGroup
  · split
    · exact h.dropGroup.setThread
    · exact h.dropGroup

theorem relaxedLands {n p moved} (h : s.memOk) : MemOkO (s.relaxedLands n p moved) := by
  unfold State.relaxedLands
  split
  · exact .none
  · refine .ite .none ?_
    exact .ite (.some (h.outerAnswer.getD h).landRelaxed) h.outerAnswer

theorem relaxedCompletion {n peer} (h : s.memOk) : MemOkO (s.relaxedCompletion n peer) := h.relaxedLands

theorem forwardedReply {n} (h : s.memOk) : MemOkO (s.forwardedReply n) := h.relaxedLands

theorem relaxedErrorResponse {n p} (h : s.memOk) : MemOkO (s.relaxedErrorResponse n p) := by
  unfold State.relaxedErrorResponse
  split
  · exact .none
  · next a _ =>
    refine .ite .none ?_
    extract_lets got s1 l
    have hg : MemOkO got := by
      subst got
      split
      · exact h.outerAnswer
      · exact .none
    have h1 : s1.memOk := hg.getD h
    split
    · exact hg
    · have h2 : (s1.dropGroup a.group).memOk := h1.dropGroup
      split
      · exact .some h2
      · exact .some h2.setThread.deliverTrap

/-! ### Translation -/

theorem landRoute {a r} (h : s.memOk) : (s.landRoute a r).memOk := by
  unfold State.landRoute
  split
  · exact .ite h.setAccess h.setAccess
  · exact .ite h h.setAccess
  · refine .ite h.setAccess (.ite h.setAccess ?_)
    split
    · exact h.setAccess
    · exact h.setAccess
  · exact h.setAccess
  · exact h.setAccess.pageRequest

theorem setAside {t a m} (h : s.memOk) : (s.setAside t a m).memOk := h.dropOrdinary.pageRequest.setThread

theorem retranslate {a} (h : s.memOk) : (s.retranslate a).memOk := by
  unfold State.retranslate
  split
  · next e _ =>
    have h1 := h.route.fst e
    exact .ite h1.landRoute h1.setAside
  · next e _ => exact (h.route.fst e).landRoute

theorem resumeInval (h : s.memOk) : s.resumeInval.memOk := foldl (fun h _ => h.retranslate) h

/-! ### Refusals -/

theorem copyRetry {c ch a} (h : s.memOk) : MemOkO (s.copyRetry c ch a) := by
  unfold State.copyRetry
  split
  · next e => exact .some ((h.route.fst e).arrive)
  · next e => exact .some ((h.route.fst e).collapseNow.arrive)
  · next e => exact .some ((h.route.fst e).setAccess)
  · exact .none
  · next e =>
      split
      · exact .some ((h.route.fst e).dropAccess.setCopy.copyMiss)
      · exact .some ((h.route.fst e).dropAccess)

theorem completionRetry {r a} (h : s.memOk) : MemOkO (s.completionRetry r a) := by
  unfold State.completionRetry
  split
  · next e => exact .some ((h.agentReach.fst e).arrive)
  · exact .none
  · next e =>
      split
      · exact .some ((h.agentReach.fst e).dropAccess.setRegion)
      · exact .some ((h.agentReach.fst e).dropAccess)

theorem threadRetry {a} (h : s.memOk) : (s.threadRetry a).memOk := .ite h.arrive h.retranslate

theorem refusalRetry {n} (h : s.memOk) : MemOkO (s.refusalRetry n) := by
  unfold State.refusalRetry
  split
  · exact .none
  · split
    · refine .ite .none ?_
      split
      · exact h.copyRetry
      · exact .none
      · exact h.completionRetry
      · split
        · exact .none
        · exact .ite .none (.ite (.some h.dropOrdinary.trapNow) (.some h.setThread.threadRetry))
    · exact .none

theorem fabricTimeout {n} (h : s.memOk) : MemOkO (s.fabricTimeout n) := by
  unfold State.fabricTimeout
  split
  · exact .ite (.some h.setAccess) .none
  · split
    · exact .ite (.some h.failOp) .none
    · exact .none

/-! ### Page faults and wakes -/

theorem pageFault {n} (h : s.memOk) : MemOkO (s.pageFault n) := by
  unfold State.pageFault
  split
  · exact .none
  · refine .ite .none ?_
    split
    · exact .none
    · refine .ite (.some h.retranslate) ?_
      split
      · exact .none
      · exact .ite .none (.some h.setAside)

theorem mmuRewalk {cl dva agent} (h : s.memOk) : MemOkO (s.mmuRewalk cl dva agent) := by
  refine .ite .none (.ite (.some (payOwed ?_)) (.some (foldl (fun h _ => h.retranslate) ?_)))
  · exact h
  · exact h

theorem tlbinvComplete {id} (h : s.memOk) : MemOkO (s.tlbinvComplete id) := by
  unfold State.tlbinvComplete
  split
  · exact .none
  · split
    · exact .ite .none (.some h.dropTlb.commit)
    · exact .none

/-! ### Collapse (R288) -/

theorem collapse {f} (h : s.memOk) : MemOkO (s.collapse f) := .map fun _ _ => h

theorem collapseAck {frame die} (h : s.memOk) : MemOkO (s.collapseAck frame die) := by
  unfold State.collapseAck
  split
  · exact .none
  · next p e =>
    split
    · exact .none
    · have hp := (h.performCopies (p := p)).dropHome (p := p) (die := some die)
      exact .ite .none (.some (.ite (endCollapse hp) hp))

/-! ### Soft errors (R291, R292) -/

theorem logError {array place} (h : s.memOk) : (s.logError array place).memOk := by
  unfold State.logError
  split
  · exact h
  · exact h

theorem failSkerries {k} (h : s.memOk) : (s.failSkerries k).memOk := h

theorem uncorrectableError {site} (h : s.memOk) : MemOkO (s.uncorrectableError site) := by
  cases site with
  | memory k => exact .some h.poisonWord.failSkerries.logError
  | pageTable k => exact .some h.poisonWord.failSkerries.logError
  | register t r =>
    unfold State.uncorrectableError
    dsimp only
    split
    · exact .none
    · exact .ite .none (.some h.setThread.logError)
  | tile c i => exact .ite .none (.some h.setTile.logError)
  | latch c lat => exact .some h.setCore.logError
  | icache c => exact .some h.setCore

/-! ### Page migration and retired Straits (R161, R286, R294) -/

theorem moveAccs {src dst n} (h : s.memOk) : (s.moveAccs src dst n).memOk :=
  foldl (s := { s with accs := _ }) (fun h _ => h.refill) h

theorem moveStamped {src dst n} (h : s.memOk) : (s.moveStamped src dst n).memOk := h

theorem pageMigration {src dst n} (h : s.memOk) : MemOkO (s.pageMigration src dst n) := by
  refine .ite .none (.some (moveStamped (moveAccs ?_)))
  refine foldl (fun {u} h c => ?_) h.zeroed
  exact memWf_memPut _ _ h

theorem poisonPage {k n} (h : s.memOk) : (s.poisonPage k n).memOk := h

theorem straitWithdrawal {die strait stuck} (h : s.memOk) : MemOkO (s.straitWithdrawal die strait stuck) := by
  have h1 : (stuck.foldl (fun s p => s.poisonPage p.1 p.2) s).memOk := foldl (fun h _ => h.poisonPage) h
  exact .ite .none (.some h1)

/-! ### The rows -/

theorem execBankAccess (h : s.memOk) : MemOkNext (Machine.execBankAccess s) := by
  refine h.happens ?_
  split
  · exact h.bankAccess
  · exact .none

theorem execAccessAcknowledgement (h : s.memOk) : MemOkNext (Machine.execAccessAcknowledgement s) := by
  refine h.happens ?_
  split
  · exact h.accessAcknowledgement
  · exact .none

theorem execRelaxedCompletion (h : s.memOk) : MemOkNext (Machine.execRelaxedCompletion s) := by
  refine h.happens ?_
  split
  · exact h.relaxedCompletion
  · exact .none

theorem execForwardedReply (h : s.memOk) : MemOkNext (Machine.execForwardedReply s) := by
  refine h.happens ?_
  split
  · exact h.forwardedReply
  · exact .none

theorem execRelaxedErrorResponse (h : s.memOk) : MemOkNext (Machine.execRelaxedErrorResponse s) := by
  refine h.happens ?_
  split
  · exact h.relaxedErrorResponse
  · exact .none

theorem execRefusalRetry (h : s.memOk) : MemOkNext (Machine.execRefusalRetry s) := by
  refine h.happens ?_
  split
  · exact h.refusalRetry
  · exact .none

theorem execFabricTimeout (h : s.memOk) : MemOkNext (Machine.execFabricTimeout s) := by
  refine h.happens ?_
  split
  · exact h.fabricTimeout
  · exact .none

theorem execPageFault (h : s.memOk) : MemOkNext (Machine.execPageFault s) := by
  refine h.happens ?_
  split
  · exact h.pageFault
  · exact .none

theorem execMmuRewalk (h : s.memOk) : MemOkNext (Machine.execMmuRewalk s) := by
  refine h.happens ?_
  split
  · exact h.mmuRewalk
  · exact .none

theorem execTlbinvComplete (h : s.memOk) : MemOkNext (Machine.execTlbinvComplete s) := by
  refine h.happens ?_
  split
  · exact h.tlbinvComplete
  · exact .none

theorem execCollapse (h : s.memOk) : MemOkNext (Machine.execCollapse s) := by
  refine h.happens ?_
  split
  · exact h.collapse
  · exact .none

theorem execCollapseAck (h : s.memOk) : MemOkNext (Machine.execCollapseAck s) := by
  refine h.happens ?_
  split
  · exact h.collapseAck
  · exact .none

theorem execUncorrectableError (h : s.memOk) : MemOkNext (Machine.execUncorrectableError s) := by
  refine h.happens ?_
  split
  · exact h.uncorrectableError
  · exact .none

theorem execPageMigration (h : s.memOk) : MemOkNext (Machine.execPageMigration s) := by
  refine h.happens ?_
  split
  · exact h.pageMigration
  · exact .none

theorem execStraitWithdrawal (h : s.memOk) : MemOkNext (Machine.execStraitWithdrawal s) := by
  refine h.happens ?_
  split
  · exact h.straitWithdrawal
  · exact .none

/-! ### One MMA -/

theorem noteNv {t nv} (h : s.memOk) : (s.noteNv t nv).memOk := by
  unfold State.noteNv
  split
  · exact h.setThread
  · exact h

theorem emptyLatch {c lat} (h : s.memOk) : (s.emptyLatch c lat).memOk := h.setCore

theorem setLatch {c lat l} (h : s.memOk) : (s.setLatch c lat l).memOk := h.setCore

theorem fillLatch {c lat bytes by'} (h : s.memOk) : (s.fillLatch c lat bytes by').memOk :=
  h.zeroed.writeBytes.fresh.setLatch

theorem mmaPlain {o lat} (h : s.memOk) : (s.mmaPlain o lat).memOk := h.writeBytes.noteNv

theorem mmaRanked {o lat log2k col i32} (h : s.memOk) : (s.mmaRanked o lat log2k col i32).memOk :=
  noteNv (foldl (fun h _ => h.offerTo) h)

theorem runMma {o lat rel skip} (h : s.memOk) : (s.runMma o lat rel skip).memOk := by
  refine .ite (emptyLatch (.ite h ?_)) (.ite h ?_)
  · split
    · exact .ite h.setTile h.mmaRanked
    · exact h.mmaPlain
  · split
    · exact .ite h.setTile h.mmaRanked
    · exact h.mmaPlain

/-! ### The other operations -/

theorem writeLines {o l} (h : s.memOk) : (s.writeLines o l).memOk := foldl (fun h _ => h.storeLine) h

theorem writeRest {o} (h : s.memOk) : (s.writeRest o).memOk := h.writeLines

theorem runMzero {o} (h : s.memOk) : (s.runMzero o).memOk := foldl (fun h _ => h.plainSlot) h

theorem perform {o} (h : s.memOk) : (s.perform o).memOk := by
  unfold State.perform
  dsimp only
  split
  · exact h.runMma
  · exact h.fillLatch
  · exact h.setLatch.emptyLatch
  · exact h.runMzero
  · exact h.writeBytes.setTile
  · exact h.writeRest
  · exact h.writeRest.noteNv
  · split
    · exact h.offerTo
    · exact h
  · split
    · exact h.mergeInto
    · exact h
  · split
    · exact h.mergeInto
    · exact h
  · exact h.writeRest
  · exact h

theorem partial' {o} (h : s.memOk) : (s.partial' o).memOk := .ite h h.writeLines

/-! ### The meanings -/

theorem scalesX {t l} : MemOkX (fun _ => True) (Machine.scalesX s t l) := by
  induction l with
  | nil => exact .ok trivial
  | cons a l ih => exact .ite .trap ih

theorem scalePeersX {t l} : MemOkX (fun _ => True) (Machine.scalePeersX s t l) := by
  induction l with
  | nil => exact .ok trivial
  | cons a l ih => exact .ite .trap ih

theorem scaleAlignX {o} : MemOkX (fun _ => True) (Machine.scaleAlignX o) := by
  refine .ite ?_ (.ok trivial)
  split
  · exact accTrap
  · exact .ok trivial

theorem mmaChecks {t onA onScales e n o} : MemOkX (fun _ => True) (Machine.mmaChecks s t onA onScales e n o) := by
  have hc : MemOkX (fun _ => True) (if onA then Machine.checkX s t 1 e n 64 0b000001 false else .ok 0) :=
    .ite checkX (.ok trivial)
  unfold Machine.mmaChecks
  refine MemOkX.bind (p := fun _ => True) ?_ fun a _ => scalesX.bind fun _ _ =>
    .guard scaleAlignX fun _ => .guard peerRightX fun _ => scalePeersX.bind fun _ _ => .ok trivial
  split
  · exact .ite (scalesX.bind fun _ _ => .trap) .trap
  · next e => rw [e] at hc; exact hc
  · exact .ok trivial

theorem optX {t r} : MemOkX (fun _ => True) (Machine.optX t r) := by
  cases r with
  | none => exact .ok trivial
  | some r => exact presentX.bind fun _ _ => .ok trivial

theorem mmaSlotX {t i sh rank skip} (h : s.memOk) : MemOkX (fun _ => True) (Machine.mmaSlotX s t i sh rank skip) := by
  refine h.slotX.bind fun _ _ => ?_
  split
  · exact .ite h.engineTrap (.ok trivial)
  · exact h.engineTrap
  · exact .ite h.engineTrap (.ite h.engineTrap (.ok trivial))

theorem mmaEngineX {t i sh rank skip onA dva} (h : s.memOk) :
    MemOkX (fun _ => True) (Machine.mmaEngineX s t i sh rank skip onA dva) :=
  .ite h.engineTrap h.mmaSlotX

theorem execMma {tile a lat edge aux rel bnd rank skip} (h : s.memOk) :
    MemOkNext (Machine.execMma tile a lat edge aux rel bnd rank skip s) := by
  refine h.runWith fun t => needTrap.bind fun _ _ => windowX.bind fun _ _ => unitX.bind fun _ _ => ?_
  extract_lets i
  split
  · exact h.engineTrap
  · exact .ite h.engineTrap (presentX.bind fun _ _ => optX.bind fun _ _ => optX.bind fun _ _ =>
      mmaChecks.bind fun _ _ =>
      h.mmaEngineX.bind fun _ _ => cleansX.bind fun _ _ => h.enqueue)

theorem execBload {_lat m} (h : s.memOk) : MemOkNext (Machine.execBload _lat m s) := by
  refine h.runWith fun _ => needTrap.bind fun _ _ => windowX.bind fun _ _ => unitX.bind fun _ _ => ?_
  split
  · exact h.engineTrap
  · exact readX.bind fun _ _ => memX.bind fun _ _ => h.enqueue

theorem execBrot {_lat _dl} (h : s.memOk) : MemOkNext (Machine.execBrot _lat _dl s) :=
  h.runT fun _ => unitX.bind fun _ _ => h.enqueue

theorem execBrel {_lat} (h : s.memOk) : MemOkNext (Machine.execBrel _lat s) :=
  h.runT fun _ => unitX.bind fun _ _ => h.enqueue

theorem execMcommit {a} (h : s.memOk) : MemOkNext (Machine.execMcommit a s) :=
  h.runT fun _ => windowX.bind fun _ _ => destX.bind fun _ _ => unitX.bind fun _ _ => oldestX.bind fun _ _ =>
    needPark.bind fun _ _ => h.done

theorem execMwait {n} (h : s.memOk) : MemOkNext (Machine.execMwait n s) :=
  h.runT fun _ => unitX.bind fun _ _ => needPark.bind fun _ _ => .ok h

theorem execMzero {tile} (h : s.memOk) : MemOkNext (Machine.execMzero tile s) :=
  h.runT fun _ => unitX.bind fun _ _ => h.slotX.bind fun _ _ => h.enqueue.bind fun ⟨_, _⟩ h1 => .ok h1.declarePlain

theorem execMfill {tile m} (h : s.memOk) : MemOkNext (Machine.execMfill tile m s) :=
  h.runT fun _ => windowX.bind fun _ _ => presentX.bind fun _ _ => (unlessBad memX).bind fun _ _ =>
    unitX.bind fun _ _ =>
    h.slotX.bind fun _ _ => h.plainX.bind fun _ _ => cleanX.bind fun _ _ => h.enqueue

theorem execMdrain {tile m} (h : s.memOk) : MemOkNext (Machine.execMdrain tile m s) :=
  h.runT fun _ => windowX.bind fun _ _ => presentX.bind fun _ _ => (unlessBad memX).bind fun _ _ =>
    unitX.bind fun _ _ =>
    h.slotX.bind fun _ _ => h.plainX.bind fun _ _ => cleanX.bind fun _ _ => h.enqueue

theorem peersX {t l} (hl : ∀ x ∈ l, MemOkX (fun _ => True) x.2) : MemOkX (fun _ => True) (Machine.peersX t l) := by
  induction l with
  | nil => exact .ok trivial
  | cons x l ih =>
    exact .guard (hl x (by simp)) fun _ => ih fun y hy => hl y (by simp [hy])

theorem execQrow {b c m} (h : s.memOk) : MemOkNext (Machine.execQrow b c m s) := by
  refine h.runT fun t => valueX.bind fun _ _ => windowX.bind fun _ _ => presentX.bind fun _ _ =>
    presentX.bind fun _ _ =>
    presentX.bind fun _ _ => firstCauseX.bind fun _ _ => (unlessBad checkX).bind fun _ _ =>
      (unlessBad checkX).bind fun _ _ =>
    (unlessBad checkX).bind fun _ _ => unitX.bind fun _ _ => (peersX ?_).bind fun _ _ => cleansX.bind fun _ _ =>
      h.enqueue
  simp [peerRightX]

/-! ### Starting an operation (R221) -/

theorem setOp {c o} (h : s.memOk) : (s.setOp c o).memOk := h.setCore

theorem engineOpStart {c} (h : s.memOk) : MemOkO (s.engineOpStart c) := by
  unfold State.engineOpStart
  split
  · exact .none
  · refine .ite .none ?_
    split
    · exact .none
    · next e => exact .ite .none (.some ((h.mapOp.fst e).setOp))

theorem enginePageFault {c} (h : s.memOk) : MemOkO (s.enginePageFault c) := by
  unfold State.enginePageFault
  split
  · exact .none
  · refine .ite .none ?_
    split
    · exact .none
    · next e =>
        dsimp only
        split
        · exact .some ((h.mapOp.fst e).removeOps.pageRequest)
        · exact .some (.ite ((h.mapOp.fst e).removeOps.pageRequest.setThread) ((h.mapOp.fst e).removeOps.pageRequest))

/-! ### Performing an operation (R220, R225) -/

theorem engineLine {c n pick} (h : s.memOk) : MemOkO (s.engineLine c n pick) := by
  unfold State.engineLine
  split
  · exact .none
  · refine .ite .none ?_
    split
    · exact .some h.setOp
    · exact .ite .none (.some h.storeLine.setOp)
    · exact .none

theorem engineOpComplete {c n} (h : s.memOk) : MemOkO (s.engineOpComplete c n) := by
  unfold State.engineOpComplete
  split
  · exact .none
  · exact .ite .none (.some (dropOp h.perform))

theorem brotArrival {c lat} (h : s.memOk) : MemOkO (s.brotArrival c lat) := by
  unfold State.brotArrival
  split
  · exact .none
  · refine .ite .none ?_
    split
    · refine .some (settleAtoll (dropOp ?_))
      dsimp only [State.memOk]
      exact h.emptyLatch.writeBytes.setLatch
    · exact .none

theorem engineFailure {c n} (h : s.memOk) : MemOkO (s.engineFailure c n) := by
  unfold State.engineFailure
  split
  · exact .none
  · refine .ite .none ?_
    split
    · exact .none
    · dsimp only
      split
      · exact .some h.partial'.removeOps.settleAtoll
      · exact .some h.partial'.removeOps.settleAtoll.deliverTrap

/-! ### Copies -/

theorem copyTrap {t ch i} (h : s.memOk) : (s.copyTrap t ch i).memOk := by
  unfold State.copyTrap
  split
  · exact .ite h.commit.deliverTrap h.deliverTrap
  · exact h.deliverTrap

theorem copyCancel {c ch} (h : s.memOk) : MemOkO (s.copyCancel c ch) := by
  unfold State.copyCancel
  split
  · exact .none
  · dsimp only
    split
    · exact .none
    · split
      · exact .some h.copyResume.setCwp.cancelCopies
      · exact .some h.copyResume.setCwp.cancelCopies.copyTrap

/-! ### The rows -/

theorem execEngineOpStart (h : s.memOk) : MemOkNext (Machine.execEngineOpStart s) := by
  refine h.happens ?_
  split
  · exact h.engineOpStart
  · exact .none

theorem execEngineOpComplete (h : s.memOk) : MemOkNext (Machine.execEngineOpComplete s) := by
  refine h.happens ?_
  split
  · exact h.engineOpComplete
  · exact .none

theorem execBrotArrival (h : s.memOk) : MemOkNext (Machine.execBrotArrival s) := by
  refine h.happens ?_
  split
  · exact h.brotArrival
  · exact .none

theorem execEnginePageFault (h : s.memOk) : MemOkNext (Machine.execEnginePageFault s) := by
  refine h.happens ?_
  split
  · exact h.enginePageFault
  · exact .none

theorem execEngineFailure (h : s.memOk) : MemOkNext (Machine.execEngineFailure s) := by
  refine h.happens ?_
  split
  · exact h.engineFailure
  · exact .none

theorem execCopyLine (h : s.memOk) : MemOkNext (Machine.execCopyLine s) := by
  refine h.happens ?_
  split
  · exact h.copyLine
  · exact .none

theorem execCopyComplete (h : s.memOk) : MemOkNext (Machine.execCopyComplete s) := by
  refine h.happens ?_
  split
  · exact h.copyDone
  · exact .none

theorem execCopyCancel (h : s.memOk) : MemOkNext (Machine.execCopyCancel s) := by
  refine h.happens ?_
  split
  · exact h.copyCancel
  · exact .none

/-! ### Physical accesses of agents without a translation -/

theorem plainPage {k} (h : s.memOk) : (s.plainPage k).memOk := by
  unfold State.plainPage
  split
  · exact h.performCopies.endCollapse
  · exact h

theorem lineStore {k d} (h : s.memOk) : (s.lineStore k d).memOk :=
  settle (foldl (fun h _ => .ite h h.setFull) (foldl (fun h _ => .ite h h.writeBytes) h.plainPage))

theorem portStore {k d} (h : s.memOk) : (s.portStore k d).memOk := by
  refine foldl (fun {u} h l => ?_) h
  exact settle (foldl (fun h _ => .ite h.setFull h) h.plainPage.writeBytes)

/-! ### Power (R332, R333) -/

theorem throttleEvent {col w} (h : s.memOk) : MemOkO (s.throttleEvent col w) := by
  refine .ite .none ?_
  dsimp only
  split
  · exact .some (setCore h)
  · exact .some (post h)

/-! ### The host port (R334 to R338, R343) -/

theorem writeMsix {o data} (h : s.memOk) : (s.writeMsix o data).memOk := by
  unfold State.writeMsix
  dsimp only
  split
  · exact h
  · exact h.withBase.sendPending

theorem hostWrite {o data} (h : s.memOk) : (s.hostWrite o data).memOk :=
  .ite h.writeBytes (.ite h.inboundDoorbell (.ite h.withBase (.ite h.writeMsix h)))

theorem unmaskVector {v} (h : s.memOk) : (s.unmaskVector v).memOk := by
  unfold State.unmaskVector
  split
  · exact h
  · exact h.withBase.sendPending

theorem hostStore {kind k d} (h : s.memOk) : (s.hostStore kind k d).memOk := by
  cases kind with
  | memory => exact h.lineStore
  | block => exact h.hostWrite
  | doorbell v => exact h.inboundDoorbell
  | unmask v => exact h.unmaskVector

theorem bar2Line {r} (h : s.memOk) : (s.bar2Line r).1.memOk := by
  unfold State.bar2Line
  split
  · exact h
  · split
    · exact h.hostStore
    · exact h

theorem bar2Step {before r after} (h : s.memOk) : (s.bar2Step before r after).memOk := by
  unfold State.bar2Step
  split
  next e => exact .ite ((h.bar2Line.fst e).withBase.emit) ((h.bar2Line.fst e).withBase)

theorem hostAsks {r} (h : s.memOk) : (s.hostAsks r).memOk := .ite h.withBase h.bar2Step

theorem hostBlockAccess {write o len data} (h : s.memOk) : MemOkO (s.hostBlockAccess write o len data) :=
  .ite (.some h.emit) (.some h.hostAsks)

theorem hostDoorbell {v} (h : s.memOk) : (s.hostDoorbell v).memOk := h.hostAsks

theorem msixUnmask {v} (h : s.memOk) : MemOkO (s.msixUnmask v) := .ite (.some h.hostAsks) .none

theorem hostBar2Access {write o len data} (h : s.memOk) : MemOkO (s.hostBar2Access write o len data) :=
  .ite (.some h.emit) (.some h.hostAsks)

theorem hostBar2Line {i} (h : s.memOk) : MemOkO (s.hostBar2Line i) := by
  unfold State.hostBar2Line
  split
  · exact .none
  · exact .ite .none (.some h.bar2Step)

theorem hostConfigRequest (h : s.memOk) : s.hostConfigRequest.memOk := h.emit

theorem deviceReset (_ : s.memOk) : s.deviceReset.memOk := reset

/-! ### The boot ROM (R343, R344) -/

theorem stage {ver code st} (h : s.memOk) : (s.stage ver code st).memOk := h.writeDevstat

theorem startFirmware {image} (h : s.memOk) : (s.startFirmware image).memOk := h.writeBytes.setThread

theorem bootWith {f} (h : s.memOk) : (s.bootWith f).memOk := by
  unfold State.bootWith
  refine .ite ?_ h.stage
  dsimp only
  refine stage (startFirmware (image := f.image) ?_)
  dsimp only [State.memOk]
  exact h.stage

theorem powerOnReset {src} (h : s.memOk) : (s.powerOnReset src).memOk := by
  have h1 : ((s.deviceReset).stage 0 0 1).memOk := h.deviceReset.stage
  cases src with
  | management f => exact h1.bootWith
  | fabric => exact foldl (fun h _ => h.emit) h1
  | nothing => exact h1.stage

theorem bootFabricStore {port pa d} (h : s.memOk) : MemOkO (s.bootFabricStore port pa d) :=
  .ite (.some (foldl (fun h _ => h.lineStore) h.withBase)) .none

/-! ### The fabric (R339 to R342) -/

theorem linkUpChange {port up atom lanes} (h : s.memOk) : MemOkO (s.linkUpChange port up atom lanes) :=
  .ite .none (.some (.ite h.withBase.emit h.withBase))

theorem fabricMessageArrival {port src v} (h : s.memOk) : (s.fabricMessageArrival port src v).memOk := by
  refine .ite ?_ (.ite h.sendTarget h.dropFabric)
  dsimp only
  split
  · exact h.withBase.bootWith
  · exact h.withBase.stage

theorem peerAccessArrival {src pa op} (h : s.memOk) : MemOkO (s.peerAccessArrival src pa op) := by
  refine .ite .none (.ite (.some h.emit) ?_)
  split
  · next e => exact .some ((State.memOk.fst (bankStep (.ite h.plainPage h)) e).emit)
  · next e => exact .some ((State.memOk.fst (bankStep (.ite h.plainPage h)) e).emit)
  · exact .none

/-! ### The management port (R346) -/

theorem ringDone {rx k hi} (h : s.memOk) : (s.ringDone rx k hi).memOk := by
  unfold State.ringDone
  split
  exact h.portStore.withBase

theorem setFrame {rx f} (h : s.memOk) : (s.setFrame rx f).memOk := h.withBase

theorem startFrame {rx desc a n hi data} (h : s.memOk) : MemOkO (s.startFrame rx desc a n hi data) :=
  .ite .none (.some h.setFrame)

theorem mgmtTransmit (h : s.memOk) : MemOkO (s.mgmtTransmit) := by
  unfold State.mgmtTransmit
  split
  · exact .none
  · exact .ite h.startFrame .none

theorem mgmtReceive {frame err} (h : s.memOk) : MemOkO (s.mgmtReceive frame err) := by
  unfold State.mgmtReceive
  split
  · exact .none
  · exact .ite .none (.ite h.startFrame (.ite h.startFrame .none))

theorem mgmtLine {rx} (h : s.memOk) : MemOkO (s.mgmtLine rx) := by
  unfold State.mgmtLine
  split
  · exact .none
  · split
    · exact .ite .none (.ite (.some h.portStore.setFrame) (.some h.setFrame))
    · exact .some (ringDone (.ite h.setFrame h.setFrame.emit))

/-! ### The rows -/

theorem execThrottleEvent (h : s.memOk) : MemOkNext (Machine.execThrottleEvent s) := by
  refine h.happens ?_
  split
  · exact h.throttleEvent
  · exact .none

theorem execPowerLimitWrite (h : s.memOk) : MemOkNext (Machine.execPowerLimitWrite s) := by
  refine h.happens ?_
  split
  · exact .some h.writePlimit
  · exact .none

theorem execInboundDoorbell (h : s.memOk) : MemOkNext (Machine.execInboundDoorbell s) := by
  refine h.happens ?_
  split
  · exact .some h.hostDoorbell
  · exact .none

theorem execMbxtgtWrite (h : s.memOk) : MemOkNext (Machine.execMbxtgtWrite s) := by
  refine h.happens ?_
  split
  · exact .some h.writeMbxtgt
  · exact .none

theorem execOutboundDoorbell (h : s.memOk) : MemOkNext (Machine.execOutboundDoorbell s) := by
  refine h.happens ?_
  split
  · exact .some h.writeOutdb
  · exact .none

theorem execDevstatWrite (h : s.memOk) : MemOkNext (Machine.execDevstatWrite s) := by
  refine h.happens ?_
  split
  · exact .some h.writeDevstat
  · exact .none

theorem execHostirq (h : s.memOk) : MemOkNext (Machine.execHostirq s) := by
  refine h.happens ?_
  split
  · exact .some h.writeHostirq
  · exact .none

theorem execMsixUnmask (h : s.memOk) : MemOkNext (Machine.execMsixUnmask s) := by
  refine h.happens ?_
  split
  · exact h.msixUnmask
  · exact .none

theorem execHostBar2Access (h : s.memOk) : MemOkNext (Machine.execHostBar2Access s) := by
  refine h.happens ?_
  split
  · exact h.hostBar2Access
  · exact h.hostBar2Line
  · exact .none

theorem execHostConfigRequest (h : s.memOk) : MemOkNext (Machine.execHostConfigRequest s) := by
  refine h.happens ?_
  split
  · exact .some h.hostConfigRequest
  · exact .none

theorem execFunctionLevelReset (h : s.memOk) : MemOkNext (Machine.execFunctionLevelReset s) := by
  refine h.happens ?_
  split
  · exact .some h.deviceReset
  · exact .none

theorem execFmsend (h : s.memOk) : MemOkNext (Machine.execFmsend s) := by
  refine h.happens ?_
  split
  · exact .some h.fmsend
  · exact .none

theorem execFabricMessageArrival (h : s.memOk) : MemOkNext (Machine.execFabricMessageArrival s) := by
  refine h.happens ?_
  split
  · exact .some h.fabricMessageArrival
  · exact .none

theorem execFmdropClear (h : s.memOk) : MemOkNext (Machine.execFmdropClear s) := by
  refine h.happens ?_
  split
  · exact .some h.clearFmdrop
  · exact .none

theorem execPeerAccessArrival (h : s.memOk) : MemOkNext (Machine.execPeerAccessArrival s) := by
  refine h.happens ?_
  split
  · exact h.peerAccessArrival
  · exact .none

theorem execMgmtTransmit (h : s.memOk) : MemOkNext (Machine.execMgmtTransmit s) := by
  refine h.happens ?_
  split
  · exact h.mgmtTransmit
  · exact h.mgmtLine
  · exact .none

theorem execMgmtReceive (h : s.memOk) : MemOkNext (Machine.execMgmtReceive s) := by
  refine h.happens ?_
  split
  · exact h.mgmtReceive
  · exact h.mgmtLine
  · exact .none

theorem execPowerOnReset (h : s.memOk) : MemOkNext (Machine.execPowerOnReset s) := by
  refine h.happens ?_
  split
  · exact .some h.powerOnReset
  · exact .none

theorem execHostBlockAccess (h : s.memOk) : MemOkNext (Machine.execHostBlockAccess s) := by
  refine h.happens ?_
  split
  · exact h.hostBlockAccess
  · exact .none

theorem execLinkUpChange (h : s.memOk) : MemOkNext (Machine.execLinkUpChange s) := by
  refine h.happens ?_
  split
  · exact h.linkUpChange
  · exact .none

theorem execBootFabricStore (h : s.memOk) : MemOkNext (Machine.execBootFabricStore s) := by
  refine h.happens ?_
  split
  · exact h.bootFabricStore
  · exact .none

theorem execNotAnInstruction (h : s.memOk) : MemOkNext (Machine.execNotAnInstruction s) := h.runT fun _ => .trap

theorem sendRoutine {c ch d} (h : s.memOk) : (s.sendRoutine c ch d).memOk := h.post

theorem setNote {r b} (h : s.memOk) : (s.setNote r b).memOk := by
  unfold State.setNote
  split
  · exact h.setRegion
  · exact h

theorem evaluateBox {r b k c} (h : s.memOk) : (s.evaluateBox r b k c).1.memOk := by
  unfold State.evaluateBox
  dsimp only
  split
  · exact h.applyDefer
  · split
    · exact h.settleBoxAt
    · split
      · exact h.setRcbState.setNote.sendRoutine
      · exact h.setRcbState.setNote.applyDefer

theorem dispatchLeaf {r b k c} (h : s.memOk) : (s.dispatchLeaf r b k c).1.memOk := by
  unfold State.dispatchLeaf
  extract_lets e n
  split
  · split
    · next e => exact (h.settleBoxAt.fst e).trapBox
    · next e => exact h.settleBoxAt.fst e
  · split
    · exact h.settleBoxAt
    · split
      · extract_lets pool s1 s2
        exact sendRoutine (setNote (setRcbState (clearTiles (clearPool h.placed))))
      · exact h

theorem dispatchJoin {r b k c} (h : s.memOk) : (s.dispatchJoin r b k c).1.memOk := h.sendRoutine

theorem dispatchBox {region rcb c kind} (h : s.memOk) : MemOkO (s.dispatchBox region rcb c kind) := by
  unfold State.dispatchBox
  split
  · exact .none
  · split
    · exact .none
    · extract_lets level
      refine .ite .none ?_
      split
      · next e => exact gate (h.rcbKey.fst e) (h.rcbKey.fst e)
      · next e =>
        have h1 := h.rcbKey.fst e
        cases kind with
        | evaluate => exact gate h1.evaluateBox (.ite h1.evaluateBox.noteDispatch h1.evaluateBox)
        | leaf => exact gate h1.dispatchLeaf (.ite h1.dispatchLeaf.noteDispatch h1.dispatchLeaf)
        | join => exact gate h1.dispatchJoin (.ite h1.dispatchJoin.noteDispatch h1.dispatchJoin)

theorem evaluate {region rcb c} (h : s.memOk) : MemOkO (s.evaluate region rcb c) := h.dispatchBox

theorem leafDispatch {region rcb c} (h : s.memOk) : MemOkO (s.leafDispatch region rcb c) := h.dispatchBox

theorem joinDispatch {region rcb c} (h : s.memOk) : MemOkO (s.joinDispatch region rcb c) := h.dispatchBox

theorem askPage {r b} (h : s.memOk) : MemOkO (s.askPage r b) := .ite (gate h.rcbKey h.rcbKey) .none

theorem dispatch {c} (h : s.memOk) : MemOkO (s.dispatch c) := by
  refine .findSome? fun p => .ite .none (.findSome? fun b => ?_)
  split
  · exact h.dispatchBox
  · exact h.askPage

theorem cycleBudgetExhausted {region} (h : s.memOk) : MemOkO (s.cycleBudgetExhausted region) := by
  unfold State.cycleBudgetExhausted
  split
  · exact .none
  · exact .ite (.some h.setRegion) .none

/-! ### Completion (R106) -/

theorem dropRegion {r} (h : s.memOk) : (s.dropRegion r).memOk := h

theorem regionCompletion {region} (h : s.memOk) : MemOkO (s.regionCompletion region) := by
  unfold State.regionCompletion
  split
  · exact .none
  · split
    · split
      · exact .some h.dropRegion
      · split
        · exact .some h.dropAccess.dropRegion
        · exact .some h.dropAccess.dropRegion
        · exact .none
    · refine .ite .none ?_
      split
      · next e => exact gate (h.agentKey.fst e) (h.agentKey.fst e)
      · next k e =>
        extract_lets a s2
        have h2 : s2.memOk := (h.agentKey.fst e).setRegion.addAccess.arrive
        split
        · split
          · exact .some h2.dropAccess.dropRegion
          · exact .some h2.dropAccess.dropRegion
          · exact .some h2
        · exact .some h2

/-! ### The rows -/

theorem execDispatch (h : s.memOk) : MemOkNext (Machine.execDispatch s) := by
  refine h.happens ?_
  split
  · exact h.dispatch
  · exact .none

theorem execEvaluate (h : s.memOk) : MemOkNext (Machine.execEvaluate s) := by
  refine h.happens ?_
  split
  · exact h.evaluate
  · exact .none

theorem execLeafDispatch (h : s.memOk) : MemOkNext (Machine.execLeafDispatch s) := by
  refine h.happens ?_
  split
  · exact h.leafDispatch
  · exact .none

theorem execJoinDispatch (h : s.memOk) : MemOkNext (Machine.execJoinDispatch s) := by
  refine h.happens ?_
  split
  · exact h.joinDispatch
  · exact .none

theorem execRegionCompletion (h : s.memOk) : MemOkNext (Machine.execRegionCompletion s) := by
  refine h.happens ?_
  split
  · exact h.regionCompletion
  · exact .none

theorem execCycleBudgetExhausted (h : s.memOk) : MemOkNext (Machine.execCycleBudgetExhausted s) := by
  refine h.happens ?_
  split
  · exact h.cycleBudgetExhausted
  · exact .none

theorem execFence {scope eng} (h : s.memOk) : MemOkNext (Machine.execFence scope eng s) :=
  h.runT fun _ => needPark.bind fun _ _ => .ok h

theorem ifenced {c} (h : s.memOk) : (s.ifenced c).memOk := h

theorem execIfence (h : s.memOk) : MemOkNext (Machine.execIfence s) :=
  h.runT fun _ => needPark.bind fun _ _ => .ok h.ifenced

theorem gatherChecks {t g base idx f l} : MemOkX (fun _ => True) (Machine.gatherChecks s t g base idx f l) :=
  firstCauseX.bind fun _ _ => .ok trivial

theorem gatherRoutes {t wr sync l} (h : s.memOk) : (Machine.gatherRoutes s t wr sync l).1.memOk := by
  induction l generalizing s with
  | nil => exact h
  | cons x l ih => exact ih h.route

theorem elemWaits {t wr l} (h : s.memOk) : MemOkX (fun _ => True) (Machine.elemWaits s t wr l) := by
  induction l with
  | nil => exact .ok trivial
  | cons x l ih =>
    unfold Machine.elemWaits
    split
    · exact h.faultX
    · exact h.parkInX
    · exact ih

theorem elemChecks {t g f l} : MemOkX (fun _ => True) (Machine.elemChecks s t g f l) := firstCauseX

theorem elemKeysX {t n l} : MemOkX (fun _ => True) (Machine.elemKeysX s t n l) := needPark

theorem elemRoomX {t l} : MemOkX (fun _ => True) (Machine.elemRoomX s t l) := by
  unfold Machine.elemRoomX
  split
  · exact .ok trivial
  · exact needPark

theorem performElems {l} (h : s.memOk) : (s.performElems l).memOk := foldl (fun h _ => .ite h.arrive h) h

theorem issueGather {t g base l} (h : s.memOk) : MemOkX (fun r => r.1.memOk) (Machine.issueGather s t g base l) := by
  refine .ite (.ok h) (.ite (.error h) (.ite ?_ (.error (performElems (setThread h)))))
  split
  · exact .error (takeTrap (dropGroup (performElems (setThread h))))
  · exact .ok (dropGroup (performElems (setThread h)))

theorem emptyGather {t g op base} (h : s.memOk) : MemOkX (fun r => r.1.memOk) (Machine.emptyGather s t g op base) :=
  .ok h

theorem gatherData {t g op} : MemOkX (fun _ => True) (Machine.gatherData t g op) :=
  .ite (presentX.bind fun _ _ => .ok trivial) (destX.bind fun _ _ => .ok trivial)

theorem gatherOp {g op} (h : s.memOk) : MemOkNext (Machine.gatherOp s g op) := by
  refine h.runT fun t => windowX.bind fun _ _ => gatherData.bind fun ⟨_, _⟩ _ => readX.bind fun _ _ =>
    readX.bind fun _ _ =>
    gatherChecks.bind fun _ _ => .guard oldestX fun _ => needPark.bind fun _ _ => .guard needPark fun _ => ?_
  refine .ite (cleansX.bind fun _ _ => h.emptyGather) ?_
  split
  next s1 elems e =>
    have h1 := h.gatherRoutes.fst e
    exact .guard cleansX fun _ => h1.elemWaits.bind fun _ _ => elemChecks.bind fun _ _ => elemKeysX.bind fun _ _ =>
      cleansX.bind fun _ _ => elemRoomX.bind fun _ _ => h1.issueGather

theorem execGld {g} (h : s.memOk) : MemOkNext (Machine.execGld g s) := h.gatherOp

theorem execGst {g} (h : s.memOk) : MemOkNext (Machine.execGst g s) := h.gatherOp

theorem execGadd {g} (h : s.memOk) : MemOkNext (Machine.execGadd g s) := h.gatherOp

theorem execGfadd {g} (h : s.memOk) : MemOkNext (Machine.execGfadd g s) := h.gatherOp

theorem execGldw {g} (h : s.memOk) : MemOkNext (Machine.execGldw g s) := h.gatherOp

/-! ### Plain loads and stores -/

theorem plainLoad {d base g rel off n sx} (h : s.memOk) : MemOkNext (Machine.plainLoad s d base g rel off n sx) :=
  h.runT fun _ => windowX.bind fun _ _ => readX.bind fun _ _ => destX.bind fun _ _ => h.accessX

theorem execLd {d base seg rel off size} (h : s.memOk) : MemOkNext (Machine.execLd d base seg rel off size s) :=
  h.plainLoad

theorem execLds {d base seg rel off size} (h : s.memOk) : MemOkNext (Machine.execLds d base seg rel off size s) :=
  h.plainLoad

theorem execSt {d base seg rel off size} (h : s.memOk) : MemOkNext (Machine.execSt d base seg rel off size s) :=
  h.runT fun _ => windowX.bind fun _ _ => presentX.bind fun _ _ => readX.bind fun _ _ => h.accessX

theorem execLea {d base seg off} (h : s.memOk) : MemOkNext (Machine.execLea d base seg off s) :=
  h.runT fun _ => windowX.bind fun _ _ => readX.bind fun _ _ => .ite accTrap (destX.bind fun _ _ => h.done)

/-! ### Segments -/

theorem descEntry {t i} (h : s.memOk) : MemOkX (fun r => r.1.memOk) (Machine.descEntry s t i) :=
  h.ownReadX.bind fun ⟨_, _⟩ h1 => .ok h1

theorem execSegld {d a imm} (h : s.memOk) : MemOkNext (Machine.execSegld d a imm s) :=
  h.runT fun _ => needTrap.bind fun _ _ => windowX.bind fun _ _ => readX.bind fun _ _ => needTrap.bind fun _ _ =>
    h.descEntry.bind fun ⟨_, _⟩ h1 => needTrap.bind fun _ _ => .ok h1

theorem execSegnar {d a b rights} (h : s.memOk) : MemOkNext (Machine.execSegnar d a b rights s) :=
  h.runT fun _ => needTrap.bind fun _ _ => windowX.bind fun _ _ => readX.bind fun _ _ => needTrap.bind fun _ _ =>
    needTrap.bind fun _ _ => needTrap.bind fun _ _ => .ok h

theorem execSegrd {d a} (h : s.memOk) : MemOkNext (Machine.execSegrd d a s) :=
  h.runReg fun _ => windowX.bind fun _ _ => destX.bind fun _ _ => .ok trivial

/-! ### Shared operations -/

theorem int1 {d a f} (h : s.memOk) : MemOkNext (Machine.int1 s d a f) :=
  h.runReg fun _ => windowX.bind fun _ _ => readX.bind fun _ _ => destX.bind fun _ _ => .ok trivial

theorem int2 {d a b f} (h : s.memOk) : MemOkNext (Machine.int2 s d a b f) :=
  h.runReg fun _ => windowX.bind fun _ _ => readX.bind fun _ _ => readX.bind fun _ _ => destX.bind fun _ _ =>
    .ok trivial

theorem int3 {d a b c f} (h : s.memOk) : MemOkNext (Machine.int3 s d a b c f) :=
  h.runReg fun _ => windowX.bind fun _ _ => readX.bind fun _ _ => readX.bind fun _ _ => readX.bind fun _ _ =>
    destX.bind fun _ _ => .ok trivial

/-! ### INT and IMM -/

theorem execMovi {d ty imm} (h : s.memOk) : MemOkNext (Machine.execMovi d ty imm s) :=
  h.runReg fun _ => windowX.bind fun _ _ => destX.bind fun _ _ => .ok trivial

theorem syncLoad {d base g off v f} (h : s.memOk) : MemOkNext (Machine.syncLoad s d base g off v f) :=
  h.runT fun _ => windowX.bind fun _ _ => readX.bind fun _ _ => destX.bind fun _ _ => h.accessX

theorem syncStore {d base g off v f} (h : s.memOk) : MemOkNext (Machine.syncStore s d base g off v f) :=
  h.runT fun _ => windowX.bind fun _ _ => presentX.bind fun _ _ => readX.bind fun _ _ => h.accessX

theorem execLdw {d base seg off v} (h : s.memOk) : MemOkNext (Machine.execLdw d base seg off v s) := h.syncLoad

theorem execLdc {d base seg off v} (h : s.memOk) : MemOkNext (Machine.execLdc d base seg off v s) := h.syncLoad

theorem execStf {d base seg off v} (h : s.memOk) : MemOkNext (Machine.execStf d base seg off v s) := h.syncStore

theorem execSte {d base seg off v} (h : s.memOk) : MemOkNext (Machine.execSte d base seg off v s) := h.syncStore

theorem execFeset {d base seg off v} (h : s.memOk) : MemOkNext (Machine.execFeset d base seg off v s) := h.syncStore

theorem execFeget {d base seg off v} (h : s.memOk) : MemOkNext (Machine.execFeget d base seg off v s) := h.syncLoad

theorem execWaitv {d base seg off v} (h : s.memOk) : MemOkNext (Machine.execWaitv d base seg off v s) := h.syncStore

/-! ### Elements as VPERM moves them -/

theorem vmove {t d ty k z f} (h : s.memOk) : MemOkX (fun r => r.1.memOk) (Machine.vmove s t d ty k z f) :=
  oldX.bind fun _ _ => h.done

theorem keepX {t d z} : MemOkX (fun _ => True) (Machine.keepX t d z) := .ite (destX.bind fun _ _ => .ok trivial) readX

theorem vreduce {d a ty k f} (h : s.memOk) : MemOkNext (Machine.vreduce s d a ty k f) := by
  refine h.vecOp fun _ => readX.bind fun _ _ => destX.bind fun _ _ => ?_
  split
  exact h.done

/-! ### VPERM -/

theorem execVsplat {d a ty k z} (h : s.memOk) : MemOkNext (Machine.execVsplat d a ty k z s) :=
  h.vecOp fun _ => readX.bind fun _ _ => h.vmove

theorem execVextr {d a src ty} (h : s.memOk) : MemOkNext (Machine.execVextr d a src ty s) :=
  h.vecOp fun _ => readX.bind fun _ _ => srcX.bind fun _ _ => destX.bind fun _ _ => h.done

theorem execVinsr {d a src ty} (h : s.memOk) : MemOkNext (Machine.execVinsr d a src ty s) :=
  h.vecOp fun _ => readX.bind fun _ _ => srcX.bind fun _ _ => readX.bind fun _ _ => h.done

theorem execVperm {d a b ty k z} (h : s.memOk) : MemOkNext (Machine.execVperm d a b ty k z s) :=
  h.vecOp fun _ => readX.bind fun _ _ => readX.bind fun _ _ => h.vmove

theorem execVperm2 {d a b c ty k z} (h : s.memOk) : MemOkNext (Machine.execVperm2 d a b c ty k z s) :=
  h.vecOp fun _ => readX.bind fun _ _ => readX.bind fun _ _ => readX.bind fun _ _ => h.vmove

theorem execVrot {d a src ty k z} (h : s.memOk) : MemOkNext (Machine.execVrot d a src ty k z s) :=
  h.vecOp fun _ => readX.bind fun _ _ => srcX.bind fun _ _ => h.vmove

theorem execVcompr {d a ty k z} (h : s.memOk) : MemOkNext (Machine.execVcompr d a ty k z s) :=
  h.vecOp fun _ => readX.bind fun _ _ => keepX.bind fun _ _ => h.done

theorem execVexpnd {d a ty k z} (h : s.memOk) : MemOkNext (Machine.execVexpnd d a ty k z s) :=
  h.vecOp fun _ => readX.bind fun _ _ => keepX.bind fun _ _ => h.done

theorem execViota {d ty k} (h : s.memOk) : MemOkNext (Machine.execViota d ty k s) :=
  h.vecOp fun _ => destX.bind fun _ _ => h.done

theorem execVredadd {d a ty k} (h : s.memOk) : MemOkNext (Machine.execVredadd d a ty k s) := h.vreduce

theorem execVredmin {d a ty k} (h : s.memOk) : MemOkNext (Machine.execVredmin d a ty k s) := h.vreduce

theorem execVredmax {d a ty k} (h : s.memOk) : MemOkNext (Machine.execVredmax d a ty k s) := h.vreduce

theorem execVfredadd {d a ty k} (h : s.memOk) : MemOkNext (Machine.execVfredadd d a ty k s) := h.vreduce

theorem execVfredmax {d a ty k} (h : s.memOk) : MemOkNext (Machine.execVfredmax d a ty k s) := h.vreduce

theorem execVfredmin {d a ty k} (h : s.memOk) : MemOkNext (Machine.execVfredmin d a ty k s) := h.vreduce

/-! ### Masks (R122) -/

theorem maskOp {d f} (h : s.memOk) : MemOkNext (Machine.maskOp s d f) := h.vecOp fun _ => .ok h

theorem maskRead {d f} (h : s.memOk) : MemOkNext (Machine.maskRead s d f) :=
  h.vecOp fun _ => destX.bind fun _ _ => h.done

theorem execKand {d a b} (h : s.memOk) : MemOkNext (Machine.execKand d a b s) := h.maskOp

theorem execKor {d a b} (h : s.memOk) : MemOkNext (Machine.execKor d a b s) := h.maskOp

theorem execKxor {d a b} (h : s.memOk) : MemOkNext (Machine.execKxor d a b s) := h.maskOp

theorem execKnot {d a} (h : s.memOk) : MemOkNext (Machine.execKnot d a s) := h.maskOp

theorem execKpop {d a} (h : s.memOk) : MemOkNext (Machine.execKpop d a s) := h.maskRead

theorem execKfirst {d a} (h : s.memOk) : MemOkNext (Machine.execKfirst d a s) := h.maskRead

theorem execKmov {d a} (h : s.memOk) : MemOkNext (Machine.execKmov d a s) :=
  h.vecOp fun _ => readX.bind fun _ _ => .ok h

theorem execKmovg {d a} (h : s.memOk) : MemOkNext (Machine.execKmovg d a s) := h.maskRead

theorem fetchStop_memOk {t st} (hst : st.memOk) : (Machine.fetchStop s t st).memOk := by
  unfold Machine.fetchStop
  split
  · exact spentStop_memOk
  · exact hst

theorem exec {i} (h : s.memOk) : MemOkNext (Machine.exec i s) := by
  cases i with
  | add | sub | mul | mulh | mulhn => exact h.int2
  | madd => exact h.int3
  | div | divn | rem | remn | min | max | minn | maxn => exact h.int2
  | sel => exact h.int3
  | and | or | xor | andn | orn | shl | shr | sra | rol | ror => exact h.int2
  | clz | ctz | pop | bswap => exact h.int1
  | seq | sne | slt | sle | sltn | slen => exact h.int2
  | ext => exact h.int1
  | ins => exact h.int2
  | sxt8 | sxt16 | sxt32 | zxt8 | zxt16 | zxt32 | addi | muli | andi | ori | xori | shli | shri | srai | slti
    | sltni | seqi => exact h.int1
  | movi => exact h.execMovi
  | movhi => exact h.int1
  | br hint disp => exact execBr (_hint := hint) h
  | beq a b hint disp => exact execBeq (_hint := hint) h
  | bne a b hint disp => exact execBne (_hint := hint) h
  | blt a b hint disp => exact execBlt (_hint := hint) h
  | bge a b hint disp => exact execBge (_hint := hint) h
  | bltn a b hint disp => exact execBltn (_hint := hint) h
  | bgen a b hint disp => exact execBgen (_hint := hint) h
  | bz a hint disp => exact execBz (_hint := hint) h
  | bnz a hint disp => exact execBnz (_hint := hint) h
  | dbnz a hint disp => exact execDbnz (_hint := hint) h
  | call lnk hint disp => exact execCall (_hint := hint) h
  | jmp a hint disp => exact execJmp (_hint := hint) h
  | callr lnk a hint disp => exact execCallr (_hint := hint) h
  | pause => exact h.execPause
  | void => exact h.execVoid
  | ld => exact h.execLd
  | lds => exact h.execLds
  | st => exact h.execSt
  | lea => exact h.execLea
  | segld => exact h.execSegld
  | segnar => exact h.execSegnar
  | segrd => exact h.execSegrd
  | vadd => exact h.execVadd
  | vsub => exact h.execVsub
  | vmul => exact h.execVmul
  | vmulh => exact h.execVmulh
  | vmin => exact h.execVmin
  | vmax => exact h.execVmax
  | vadds => exact h.execVadds
  | vsubs => exact h.execVsubs
  | vand => exact h.execVand
  | vor => exact h.execVor
  | vxor => exact h.execVxor
  | vshl => exact h.execVshl
  | vshr => exact h.execVshr
  | vsra => exact h.execVsra
  | vabs => exact h.execVabs
  | vneg => exact h.execVneg
  | vcnt => exact h.execVcnt
  | vdot4 => exact h.execVdot4
  | vsel => exact h.execVsel
  | vcmpeq => exact h.execVcmpeq
  | vcmpne => exact h.execVcmpne
  | vcmplt => exact h.execVcmplt
  | vcmple => exact h.execVcmple
  | vfadd => exact h.execVfadd
  | vfsub => exact h.execVfsub
  | vfmul => exact h.execVfmul
  | vfdiv => exact h.execVfdiv
  | vfma => exact h.execVfma
  | vfms => exact h.execVfms
  | vfnma => exact h.execVfnma
  | vfsqrt => exact h.execVfsqrt
  | vfround => exact h.execVfround
  | vfmin => exact h.execVfmin
  | vfmax => exact h.execVfmax
  | vfabs => exact h.execVfabs
  | vfneg => exact h.execVfneg
  | vfrcp => exact h.execVfrcp
  | vfrsq => exact h.execVfrsq
  | vfexp2 => exact h.execVfexp2
  | vflog2 => exact h.execVflog2
  | vfcvt => exact h.execVfcvt
  | vfcvti => exact h.execVfcvti
  | vicvtf => exact h.execVicvtf
  | vfcmpeq => exact h.execVfcmpeq
  | vfcmplt => exact h.execVfcmplt
  | vfcmple => exact h.execVfcmple
  | vfcmpun => exact h.execVfcmpun
  | vsplat => exact h.execVsplat
  | vextr => exact h.execVextr
  | vinsr => exact h.execVinsr
  | vperm => exact h.execVperm
  | vperm2 => exact h.execVperm2
  | vrot => exact h.execVrot
  | vcompr => exact h.execVcompr
  | vexpnd => exact h.execVexpnd
  | viota => exact h.execViota
  | vredadd => exact h.execVredadd
  | vredmin => exact h.execVredmin
  | vredmax => exact h.execVredmax
  | vfredadd => exact h.execVfredadd
  | vfredmax => exact h.execVfredmax
  | vfredmin => exact h.execVfredmin
  | kand => exact h.execKand
  | kor => exact h.execKor
  | kxor => exact h.execKxor
  | knot => exact h.execKnot
  | kpop => exact h.execKpop
  | kfirst => exact h.execKfirst
  | kmov => exact h.execKmov
  | kmovg => exact h.execKmovg
  | ldw => exact h.execLdw
  | ldc => exact h.execLdc
  | stf => exact h.execStf
  | ste => exact h.execSte
  | feset => exact h.execFeset
  | feget => exact h.execFeget
  | waitv => exact h.execWaitv
  | aadd => exact h.execAadd
  | aand => exact h.execAand
  | aor => exact h.execAor
  | axor => exact h.execAxor
  | amin => exact h.execAmin
  | amax => exact h.execAmax
  | aminn => exact h.execAminn
  | amaxn => exact h.execAmaxn
  | aswp => exact h.execAswp
  | acas => exact h.execAcas
  | afadd => exact h.execAfadd
  | gld => exact h.execGld
  | gst => exact h.execGst
  | gadd => exact h.execGadd
  | gfadd => exact h.execGfadd
  | gldw => exact h.execGldw
  | fence => exact h.execFence
  | split => exact h.execSplit
  | jdone => exact h.execJdone
  | stamp => exact h.execStamp
  | boxrd => exact h.execBoxrd
  | budrd => exact h.execBudrd
  | launch => exact h.execLaunch
  | rgnq => exact h.execRgnq
  | send => exact h.execSend
  | sendr => exact h.execSendr
  | chset => exact h.execChset
  | chget => exact h.execChget
  | migrate => exact h.execMigrate
  | syscall => exact h.execSyscall
  | mma tile a lat edge aux rel bnd rank skip => exact execMma (lat := lat) (rel := rel) (bnd := bnd) h
  | bload lat m => exact execBload (_lat := lat) h
  | brot lat dl => exact execBrot (_lat := lat) (_dl := dl) h
  | brel lat => exact execBrel (_lat := lat) h
  | mcommit => exact h.execMcommit
  | mwait => exact h.execMwait
  | mzero => exact h.execMzero
  | mfill => exact h.execMfill
  | mdrain => exact h.execMdrain
  | qrow => exact h.execQrow
  | rlset => exact h.execRlset
  | rlins tile a b list k => exact execRlins (_list := list) h
  | rlmergeTile => exact h.execRlmergeTile
  | rlmergeImage => exact h.execRlmergeImage
  | rlthr => exact h.execRlthr
  | rldrain => exact h.execRldrain
  | rlclr => exact h.execRlclr
  | copy => exact h.execCopy
  | copy2 => exact h.execCopy2
  | cwait => exact h.execCwait
  | cwaitPtr => exact h.execCwaitPtr
  | barinit => exact h.execBarinit
  | bararr => exact h.execBararr
  | bararrCount => exact h.execBararrCount
  | barwait => exact h.execBarwait
  | cvtn => exact h.execCvtn
  | cvtw => exact h.execCvtw
  | qmx => exact h.execQmx
  | dqmx => exact h.execDqmx
  | plane => exact h.execPlane
  | unplane => exact h.execUnplane
  | srd => exact h.execSrd
  | swr => exact h.execSwr
  | statusWrite => exact h.execStatusWrite
  | partitionWrite => exact h.execPartitionWrite
  | atollWrite => exact h.execAtollWrite
  | channelEntryWrite => exact h.execChannelEntryWrite
  | scrub => exact h.execScrub
  | errlogClear => exact h.execErrlogClear
  | thrd => exact h.execThrd
  | thwr => exact h.execThwr
  | discardQueueImage => exact h.execDiscardQueueImage
  | debugHold => exact h.execDebugHold
  | thres => exact h.execThres
  | thkill => exact h.execThkill
  | spill => exact h.execSpill
  | reghold => exact h.execReghold
  | regrel => exact h.execRegrel
  | rcbrd => exact h.execRcbrd
  | capq => exact h.execCapq
  | brk => exact h.execBrk
  | wakep => exact h.execWakep
  | tlbinv => exact h.execTlbinv
  | nop => exact h.execNop
  | endT => exact h.execEndT
  | yield => exact h.execYield
  | ifence => exact h.execIfence
  | prune => exact h.execPrune
  | leaf => exact h.execLeaf
  | defer => exact h.execDefer
  | threadRetire => exact h.execThreadRetire
  | pauseExpiry => exact h.execPauseExpiry
  | decisionTakesEffect => exact h.execDecisionTakesEffect
  | unitMigration => exact h.execUnitMigration
  | messageArrival => exact h.execMessageArrival
  | bufferedMessageStart => exact h.execBufferedMessageStart
  | pageWake => exact h.execPageWake
  | trapMessage => exact h.execTrapMessage
  | migrationArrival => exact h.execMigrationArrival
  | forwardedReply => exact h.execForwardedReply
  | forwardingEntryExpiry => exact h.execForwardingEntryExpiry
  | depositLanding => exact h.execDepositLanding
  | accessAcknowledgement => exact h.execAccessAcknowledgement
  | relaxedCompletion => exact h.execRelaxedCompletion
  | relaxedErrorResponse => exact h.execRelaxedErrorResponse
  | bankAccess => exact h.execBankAccess
  | refusalRetry => exact h.execRefusalRetry
  | becomeOldest => exact h.execBecomeOldest
  | dispatch => exact h.execDispatch
  | evaluate => exact h.execEvaluate
  | leafDispatch => exact h.execLeafDispatch
  | joinDispatch => exact h.execJoinDispatch
  | regionCompletion => exact h.execRegionCompletion
  | cycleBudgetExhausted => exact h.execCycleBudgetExhausted
  | engineOpStart => exact h.execEngineOpStart
  | engineOpComplete => exact h.execEngineOpComplete
  | brotArrival => exact h.execBrotArrival
  | enginePageFault => exact h.execEnginePageFault
  | engineFailure => exact h.execEngineFailure
  | copyLine => exact h.execCopyLine
  | copyComplete => exact h.execCopyComplete
  | copyCancel => exact h.execCopyCancel
  | pageFault => exact h.execPageFault
  | mmuRewalk => exact h.execMmuRewalk
  | tlbinvComplete => exact h.execTlbinvComplete
  | collapse => exact h.execCollapse
  | collapseAck => exact h.execCollapseAck
  | uncorrectableError => exact h.execUncorrectableError
  | hold => exact h.execHold
  | spillWrite => exact h.execSpillWrite
  | contextRestore => exact h.execContextRestore
  | throttleEvent => exact h.execThrottleEvent
  | powerLimitWrite => exact h.execPowerLimitWrite
  | inboundDoorbell => exact h.execInboundDoorbell
  | mbxtgtWrite => exact h.execMbxtgtWrite
  | outboundDoorbell => exact h.execOutboundDoorbell
  | devstatWrite => exact h.execDevstatWrite
  | hostirq => exact h.execHostirq
  | msixUnmask => exact h.execMsixUnmask
  | hostBar2Access => exact h.execHostBar2Access
  | hostConfigRequest => exact h.execHostConfigRequest
  | functionLevelReset => exact h.execFunctionLevelReset
  | fmsend => exact h.execFmsend
  | fabricMessageArrival => exact h.execFabricMessageArrival
  | fmdropClear => exact h.execFmdropClear
  | peerAccessArrival => exact h.execPeerAccessArrival
  | fabricTimeout => exact h.execFabricTimeout
  | mgmtTransmit => exact h.execMgmtTransmit
  | mgmtReceive => exact h.execMgmtReceive
  | powerOnReset => exact h.execPowerOnReset
  | notAnInstruction => exact h.execNotAnInstruction
  | syscallReply => exact h.execSyscallReply
  | pageMigration => exact h.execPageMigration
  | straitWithdrawal => exact h.execStraitWithdrawal
  | hostBlockAccess => exact h.execHostBlockAccess
  | linkUpChange => exact h.execLinkUpChange
  | bootFabricStore => exact h.execBootFabricStore

/-! ### A cycle -/

theorem swallow (h : s.memOk) : s.swallow.memOk := h

theorem wake {t} (h : s.memOk) : (s.wake t).memOk := by
  unfold State.wake
  refine .ite h ?_
  split
  · exact h.trapParked.getD h
  · split
    · exact .ite h.commit h
    · exact .ite h.setThread h

theorem wakeAll (h : s.memOk) : s.wakeAll.memOk := by
  refine foldl (fun {u} h p => ?_) h
  split
  · exact h.wake
  · exact h

theorem settleRings (h : s.memOk) : s.settleRings.memOk := foldl (fun h _ => h.settleAtoll) h

theorem refill' {t} (h : s.memOk) : (s.refill' t).memOk := by
  refine .ite ?_ h
  split
  next e => exact (h.requeue.fst e).setThread

theorem refillAll (h : s.memOk) : s.refillAll.memOk := by
  refine foldl (fun {u} h p => ?_) h
  split
  · exact h.refill'
  · exact h

theorem lapse {t} (h : s.memOk) : (s.lapse t).memOk := .ite (setThread (.ite h.owe h)) (releaseThread (.ite h.owe h))

theorem lapseAll (h : s.memOk) : s.lapseAll.memOk := by
  have h1 : (s.threads.foldl (fun s p => if p.2.regionHeld && s.unheld p.2.regionId then s.lapse p.2 else s)
    s).memOk :=
    foldl (fun h _ => .ite h.lapse h) h
  exact h1

theorem parkLate {t} (h : s.memOk) : (s.parkLate t).memOk := .ite h.setThread h

theorem parkAllLate {l} (h : s.memOk) : (s.parkAllLate l).memOk := foldl (fun h _ => .ite h.parkLate h) h

theorem withdrawKilled (h : s.memOk) : s.withdrawKilled.memOk := foldl (fun h _ => .ite h.killWithdraw h) h

theorem tick (h : s.memOk) : s.tick.memOk := by
  dsimp only [State.tick, State.memOk]
  have h1 : (State.swallow { s with cyc := s.cyc + 1 }).memOk := swallow h
  exact h1.lapseAll.withdrawKilled.wakeAll.refillAll.settleRings.resumeInval.payOwed.parkAllLate

theorem issue {t} (h : s.memOk) : MemOkNext (Machine.issue s t) := by
  unfold Machine.issue
  split
  · exact .next h.takeTrap
  · split
    · next e =>
      have hf := h.fetchX (t := t)
      rw [e] at hf
      cases hf with
      | ok h1 => exact exec (s := { State.noteIssue _ t with cur := _, word := _ }) (noteIssue (t := t) h1)
    · next e =>
      have hf := h.fetchX (t := t)
      rw [e] at hf
      cases hf with
      | error h1 => exact .next (h.stopped (fetchStop_memOk h1))

theorem ownMove (h : s.memOk) : MemOkNext (Machine.ownMove s) := by
  unfold Machine.ownMove
  split
  · split
    · exact .ite (issue (s := { s with due := _ }) h) (.next h)
    · exact .next h
  · split
    · exact exec (s := { s with ev := _ }) h
    · exact .next h.tick

/-- Every step keeps memory canonical. -/
theorem step (h : s.memOk) : MemOkNext (Machine.step s) := by
  have hs {l b} : { s with agenda := l, slow := b }.memOk := h
  have ha {l} : { s with agenda := l }.memOk := h
  have he {l e} : { s with agenda := l, ev := e }.memOk := h
  unfold Machine.step
  split
  · exact ownMove (s := { s with slow := _ }) h
  · exact hs.ownMove
  · exact hs.ownMove
  · exact he.exec
  · exact .next ha.prefetched
  · exact .next ha.combined
  · exact .next ha.duplicated
  · exact .ite (.next ha.tick) hs.ownMove
  · exact .next (ha.engineLine.getD ha)
  · exact .next ha.cacheImport
  · exact .next h

end State.memOk

/-- Settles O58, by one lemma for each operation that a step is made of. -/
theorem stepKeepsMemoryCanonical : Obligations.StepKeepsMemoryCanonical := by
  unfold Obligations.StepKeepsMemoryCanonical
  intro s s' h e
  exact h.step s' e

end Sys2Proof.Machine
end

section
/-! PROOF. Integer and immediate instructions, branches, jumps and thread control (O5 to O11). -/
namespace Sys2Proof.Machine

/-! ### Widths, patterns and Put -/

theorem width_le (ty : Ty) : ty.width ≤ 64 := by cases ty <;> decide

theorem width_pos (ty : Ty) : 0 < ty.width := by cases ty <;> decide

/-- Every width is a number of bytes. -/
theorem width_bytes (ty : Ty) : 8 * (ty.width / 8) = ty.width := by cases ty <;> rfl

theorem wrap_cast (w : Nat) (v : Int) : (wrap w v : Int) = v % 2 ^ w :=
  Int.toNat_of_nonneg (Int.emod_nonneg v (by positivity))

theorem wrap_lt (w : Nat) (v : Int) : wrap w v < 2 ^ w := by
  have h := Int.emod_lt_of_pos v (b := 2 ^ w) (by positivity)
  rw [← wrap_cast] at h
  exact_mod_cast h

/-- A pattern and its signed value agree modulo 2^w. -/
theorem sgn_emod (w x : Nat) : sgn w x % 2 ^ w = x % 2 ^ w := by
  unfold sgn
  split
  · rfl
  · exact Int.sub_emod_right _ _

theorem sgn_bounds {w x : Nat} (hw : 0 < w) (hx : x < 2 ^ w) :
    -(2 : Int) ^ (w - 1) ≤ sgn w x ∧ sgn w x < 2 ^ (w - 1) := by
  have hpow : 2 ^ w = 2 * 2 ^ (w - 1) := by rw [← pow_succ', Nat.sub_add_cancel hw]
  have hint : (2 : Int) ^ w = 2 * 2 ^ (w - 1) := by exact_mod_cast hpow
  rw [hpow] at hx
  unfold sgn
  rw [hint]
  have hcast : ((2 ^ (w - 1) : Nat) : Int) = 2 ^ (w - 1) := by push_cast; rfl
  split <;> omega

/-- The signed value of a register's low pattern is that of its low bits. -/
theorem sgn_lane_zero {n : Nat} (hn : 0 < n) (x : Reg) : sgn n (lane x n 0) = (x.extractLsb' 0 n).toInt := by
  have hpow : 2 ^ n = 2 * 2 ^ (n - 1) := by rw [← pow_succ', Nat.sub_add_cancel hn]
  rw [lane_zero, BitVec.toInt_eq_toNat_cond]
  simp only [sgn, BitVec.extractLsb'_toNat, Nat.shiftRight_zero]
  have hiff : x.toNat % 2 ^ n < 2 ^ (n - 1) ↔ 2 * (x.toNat % 2 ^ n) < 2 ^ n := by omega
  simp only [hiff]
  push_cast
  rfl

/-- The complement's low pattern. -/
theorem lane_not_zero {w : Nat} (hw : w ≤ 512) (y : Reg) : lane (~~~y) w 0 = 2 ^ w - 1 - y.toNat % 2 ^ w := by
  rw [lane_zero]
  have h : (~~~y).setWidth w = ~~~(y.setWidth w) := BitVec.setWidth_not hw
  have hnat := congrArg BitVec.toNat h
  rwa [BitVec.toNat_not, BitVec.toNat_setWidth, BitVec.toNat_setWidth] at hnat

theorem opnd_unsigned (w : Nat) (x : Reg) : opnd w false x = ((x.toNat % 2 ^ w : Nat) : Int) := by
  simp [opnd, lane_zero]

/-- The pattern that Put leaves is that of its value (R37). -/
theorem putTy_lane (ty : Ty) (v : Int) : ((lane (putTy ty v) ty.width 0 : Nat) : Int) = v % 2 ^ ty.width := by
  have hdvd : (2 : Int) ^ ty.width ∣ 2 ^ 64 := pow_dvd_pow 2 (width_le ty)
  have hput : ∀ u : Int, ((lane (ofScalar (BitVec.ofInt 64 u)) ty.width 0 : Nat) : Int) = u % 2 ^ ty.width := by
    intro u
    have hnat : (ofScalar (BitVec.ofInt 64 u)).toNat = wrap 64 u := by
      rw [ofScalar, BitVec.zeroExtend_eq_setWidth, BitVec.toNat_setWidth_of_le (by norm_num), BitVec.toNat_ofInt]
      rfl
    rw [lane_zero, hnat, Int.natCast_mod, wrap_cast]
    exact Int.emod_emod_of_dvd u hdvd
  unfold putTy
  rw [hput]
  split
  · rw [sgn_emod, wrap_cast, Int.emod_emod]
  · rw [wrap_cast, Int.emod_emod]

theorem scalar_ofScalar (u : Word) : scalar (ofScalar u) = u := by
  ext i hi
  simp only [scalar, ofScalar, BitVec.zeroExtend_eq_setWidth, BitVec.getElem_extractLsb', BitVec.getLsbD_setWidth]
  simp [hi, show i < 512 by omega]

theorem ofScalar_high (u : Word) : (ofScalar u).extractLsb' 64 448 = 0 := by
  ext i hi
  simp [ofScalar]

/-- Put of an unsigned type extends with zeros (R37). -/
theorem putTy_unsigned {ty : Ty} (h : ty.isSigned = false) (v : Int) :
    ((scalar (putTy ty v)).toNat : Int) = v % 2 ^ ty.width := by
  have hlt : wrap ty.width v < 2 ^ 64 := lt_of_lt_of_le (wrap_lt _ _) (Nat.pow_le_pow_right (by norm_num) (width_le ty))
  rw [← wrap_cast]
  simp only [putTy, h, scalar_ofScalar, Bool.false_eq_true, if_false, BitVec.ofInt_natCast, BitVec.toNat_ofNat,
    Nat.mod_eq_of_lt hlt]

/-- Put of a signed type extends with the sign (R37). -/
theorem putTy_signed {ty : Ty} (h : ty.isSigned = true) (v : Int) :
    (scalar (putTy ty v)).toInt = sgn ty.width (wrap ty.width v) := by
  obtain ⟨hlo, hhi⟩ := sgn_bounds (width_pos ty) (wrap_lt ty.width v)
  have hle : (2 : Int) ^ (ty.width - 1) ≤ 2 ^ 63 := pow_le_pow_right₀ (by norm_num) (by have := (width_le ty); omega)
  simp only [putTy, h, scalar_ofScalar, if_true]
  exact BitVec.toInt_ofInt_eq_self (by norm_num) (by omega) (by omega)

/-- Settles O5, by the rule for instructions of two and three sources and what Put leaves. -/
theorem integerArithmeticCompletes : Obligations.IntegerArithmeticCompletes := by
  unfold Obligations.IntegerArithmeticCompletes
  refine ⟨?_, ?_⟩
  · intro s t d a b c ty x y z hI ha hb hc hd
    refine ⟨int2_ok hI ha hb hd, int2_ok hI ha hb hd, int2_ok hI ha hb hd, int2_ok hI ha hb hd, int2_ok hI ha hb hd,
      int3_ok hI ha hb hc hd, int2_ok hI ha hb hd, int2_ok hI ha hb hd, int2_ok hI ha hb hd, int2_ok hI ha hb hd, ?_⟩
    refine (int3_ok hI ha hb hc hd).trans ?_
    rw [apply_ite (opnd ty.width ty.isSigned)]
  · intro ty v _
    refine ⟨ofScalar_high _, putTy_lane ty v, fun h => putTy_unsigned h v, fun h => ?_⟩
    obtain ⟨hlo, hhi⟩ := sgn_bounds (width_pos ty) (wrap_lt ty.width v)
    rw [putTy_signed h]
    exact ⟨hlo, hhi, by rw [sgn_emod, wrap_cast, Int.emod_emod]⟩

theorem divR_eq (n m : Int) : divR n m = if m = 0 then n else n - divQ n m * m := by
  unfold divR divQ
  split
  · rfl
  · rw [Int.tmod_def, mul_comm]

/-- Settles O6: a remainder is what the truncated quotient leaves. -/
theorem divisionCompletes : Obligations.DivisionCompletes := by
  unfold Obligations.DivisionCompletes
  intro s t d a b ty x y hI ha hb hd
  refine ⟨int2_ok hI ha hb hd, int2_ok hI ha hb hd, ?_, ?_⟩
  · exact (int2_ok hI ha hb hd).trans (by rw [divR_eq]; rfl)
  · exact (int2_ok hI ha hb hd).trans (by rw [divR_eq]; rfl)

/-! ### Bits and bytes of patterns -/

theorem popBelow_eq (x n : Nat) : popBelow x n = ((List.range n).filter x.testBit).length := by
  induction n with
  | zero => rfl
  | succ n ih =>
    rw [popBelow, ih, List.range_succ, List.filter_append, List.length_append]
    cases h : x.testBit n <;> simp [h]

/-- What the search for the lowest one bit finds. -/
theorem lowBitFrom_spec (x : Nat) : ∀ fuel i, lowBitFrom x i fuel ≤ i + fuel ∧
    (∀ j, i ≤ j → j < lowBitFrom x i fuel → x.testBit j = false) ∧
    (lowBitFrom x i fuel < i + fuel → x.testBit (lowBitFrom x i fuel) = true)
  | 0, i => ⟨le_rfl, fun j h1 h2 => absurd h2 (Nat.not_lt.mpr h1), fun h => absurd h (Nat.lt_irrefl _)⟩
  | fuel + 1, i => by
    obtain ⟨hle, hlow, hbit⟩ := lowBitFrom_spec x fuel (i + 1)
    unfold lowBitFrom
    split
    · next h => exact ⟨by omega, fun j h1 h2 => absurd h2 (Nat.not_lt.mpr h1), fun _ => h⟩
    · next h =>
      refine ⟨by omega, fun j h1 h2 => ?_, fun hlt => hbit (by omega)⟩
      obtain rfl | h1 := Nat.eq_or_lt_of_le h1
      · simpa using h
      · exact hlow j h1 h2

/-- A number whose n low bits are zero is a multiple of 2^n. -/
theorem pow_dvd_of_testBit {x n : Nat} (h : ∀ j < n, x.testBit j = false) : 2 ^ n ∣ x := by
  refine Nat.dvd_of_mod_eq_zero (Nat.eq_of_testBit_eq fun j => ?_)
  rw [Nat.testBit_mod_two_pow, Nat.zero_testBit]
  by_cases hj : j < n
  · simp [h j hj]
  · simp [hj]

/-- The leading zeros of a pattern: as many as its width where it is zero, else down to its highest one bit. -/
theorem leadingZeros_spec {w p : Nat} (hp : p < 2 ^ w) :
    leadingZeros w p ≤ w ∧ p < 2 ^ (w - leadingZeros w p) ∧
    (leadingZeros w p < w → 2 ^ (w - leadingZeros w p - 1) ≤ p) := by
  unfold leadingZeros
  split
  · next h => exact ⟨le_rfl, by simp [h], fun h => absurd h (Nat.lt_irrefl _)⟩
  · next h =>
    have hlog : p.log2 < w := (Nat.log2_lt h).mpr hp
    have e : w - (w - 1 - p.log2) = p.log2 + 1 := by omega
    rw [e]
    exact ⟨by omega, Nat.lt_log2_self, fun _ => Nat.log2_self_le h⟩

/-- The number that n bytes spell is below 256^n. -/
theorem bytesNat_lt (l : List Byte) : bytesNat l < 256 ^ l.length := by
  induction l with
  | nil => exact Nat.one_pos
  | cons b l ih =>
    have hb := b.isLt
    rw [List.length_cons, pow_succ']
    simp only [bytesNat, List.foldr_cons] at ih ⊢
    omega

/-- Byte i of the number that bytes spell. -/
theorem bytesNat_byte (l : List Byte) : ∀ i, bytesNat l / 256 ^ i % 256 = (l.getD i 0).toNat := by
  induction l with
  | nil => simp [bytesNat]
  | cons b l ih =>
    have hb := b.isLt
    have hcons : bytesNat (b :: l) = b.toNat + 256 * bytesNat l := rfl
    intro i
    cases i with
    | zero => rw [hcons, pow_zero, Nat.div_one, List.getD_cons_zero]; omega
    | succ i =>
      rw [List.getD_cons_succ, ← ih i, hcons, pow_succ', ← Nat.div_div_eq_div_mul]
      congr 2
      omega

/-- The bytes of a number in the other order. -/
theorem bswap_spec (m p : Nat) : bytesNat (natBytes m p).reverse < 2 ^ (8 * m) ∧
    ∀ i < m, bytesNat (natBytes m p).reverse / 256 ^ i % 256 = p / 256 ^ (m - 1 - i) % 256 := by
  refine ⟨?_, fun i hi => ?_⟩
  · have h := bytesNat_lt (natBytes m p).reverse
    rwa [List.length_reverse, natBytes_length, show 256 = 2 ^ 8 from rfl, ← pow_mul] at h
  · rw [bytesNat_byte, List.getD_eq_getElem _ _ (by simpa [natBytes_length] using hi), List.getElem_reverse]
    simp [natBytes]

/-! ### Rotations -/

theorem putTy_rotl (ty : Ty) (p c : Nat) :
    putTy ty (rotl ty.width p c : Nat) = putTy ty (p * 2 ^ c + p / 2 ^ (ty.width - c) : Nat) := by
  refine putTy_congr ?_
  rw [rotl]
  push_cast
  exact Int.emod_emod _ _

theorem putTy_rotr (ty : Ty) (p : Nat) {c : Nat} (hc : c ≤ ty.width) :
    putTy ty (rotl ty.width p (ty.width - c) : Nat) = putTy ty (p / 2 ^ c + p * 2 ^ (ty.width - c) : Nat) := by
  rw [putTy_rotl, Nat.sub_sub_self hc, Nat.add_comm]

theorem shiftCount_lt (ty : Ty) (y : Reg) : shiftCount ty y < ty.width := Nat.mod_lt _ (width_pos ty)

/-- Settles O7, by the values that the searches, counts and rotations of the model have. -/
theorem bitwiseAndComparisonsComplete : Obligations.BitwiseAndComparisonsComplete := by
  unfold Obligations.BitwiseAndComparisonsComplete
  refine ⟨?_, ?_⟩
  · intro s t d a b ty x y _ hI ha hb hd
    have hw : ty.width ≤ 512 := (width_le ty).trans (by norm_num)
    have h2 {f} := int2_ok (f := f) hI ha hb hd
    refine ⟨h2.trans ?_, h2.trans ?_, h2.trans ?_, h2.trans ?_, h2.trans ?_, h2, h2.trans ?_, h2, h2.trans ?_, h2.trans ?_⟩
    · rw [lane_zero, lane_zero]
    · rw [lane_zero, lane_zero]
    · rw [lane_zero, lane_zero]
    · rw [lane_zero, lane_not_zero hw]
    · rw [lane_zero, lane_not_zero hw]
    · rw [opnd_unsigned]
      push_cast
      rfl
    · rw [lane_zero, putTy_rotl]
      rfl
    · rw [lane_zero, putTy_rotr ty _ (shiftCount_lt ty y).le]
      rfl
  · intro s t d a b ty x y _ hI ha hb hd
    have hp : lane x ty.width 0 < 2 ^ ty.width := Nat.mod_lt _ (by positivity)
    have h1 {f} := int1_ok (f := f) hI ha hd
    have h2 {f} := int2_ok (f := f) hI ha hb hd
    refine ⟨⟨_, h1, ?_⟩, ⟨_, h1, ?_⟩, h1.trans ?_, ⟨_, h1, ?_⟩, h2, h2, h2, h2, h2, h2⟩
    · rw [← lane_zero]
      exact leadingZeros_spec hp
    · obtain ⟨hle, hlow, hbit⟩ := lowBitFrom_spec (lane x ty.width 0) ty.width 0
      rw [Nat.zero_add] at hle hbit
      rw [← lane_zero]
      exact ⟨hle, pow_dvd_of_testBit fun j => hlow j (Nat.zero_le j), hbit⟩
    · rw [popBelow_eq]
      have hfilter : (List.range ty.width).filter (lane x ty.width 0).testBit =
          (List.range ty.width).filter fun i => x.getLsbD i := by
        refine List.filter_congr fun i hi => ?_
        rw [lane_zero, Nat.testBit_mod_two_pow, decide_eq_true (List.mem_range.mp hi), Bool.true_and]
        rfl
      rw [hfilter]
    · have h := bswap_spec (ty.width / 8) (lane x ty.width 0)
      rw [width_bytes] at h
      rwa [← lane_zero]

/-! ### Bit fields and extensions -/

/-- A field of n bits put into a pattern at a position. -/
theorem insert_spec {w pos n t f : Nat} (hfit : pos + n ≤ w) (ht : t < 2 ^ w) :
    t / 2 ^ (pos + n) * 2 ^ (pos + n) + f % 2 ^ n * 2 ^ pos + t % 2 ^ pos < 2 ^ w ∧
    ∀ i, (t / 2 ^ (pos + n) * 2 ^ (pos + n) + f % 2 ^ n * 2 ^ pos + t % 2 ^ pos).testBit i =
      if pos ≤ i ∧ i < pos + n then f.testBit (i - pos) else t.testBit i := by
  have hform : t / 2 ^ (pos + n) * 2 ^ (pos + n) + f % 2 ^ n * 2 ^ pos + t % 2 ^ pos =
      2 ^ pos * (2 ^ n * (t / 2 ^ (pos + n)) + f % 2 ^ n) + t % 2 ^ pos := by ring
  have hbit : ∀ i, (t / 2 ^ (pos + n) * 2 ^ (pos + n) + f % 2 ^ n * 2 ^ pos + t % 2 ^ pos).testBit i =
      if pos ≤ i ∧ i < pos + n then f.testBit (i - pos) else t.testBit i := by
    intro i
    rw [hform, Nat.testBit_two_pow_mul_add _ (Nat.mod_lt _ (by positivity)),
      Nat.testBit_two_pow_mul_add _ (Nat.mod_lt _ (by positivity))]
    by_cases hlow : i < pos
    · simp [hlow, Nat.not_le.mpr hlow]
    · by_cases hin : i < pos + n
      · simp [hlow, hin, Nat.le_of_not_lt hlow, show i - pos < n by omega]
      · simp [hlow, hin, show ¬ i - pos < n by omega, Nat.testBit_div_two_pow, show i - pos - n + (pos + n) = i by omega]
  refine ⟨Nat.lt_pow_two_of_testBit _ fun i hi => ?_, hbit⟩
  rw [hbit, if_neg (by omega)]
  exact Nat.testBit_lt_two_pow (lt_of_lt_of_le ht (Nat.pow_le_pow_right (by norm_num) hi))

theorem ofScalar_sgn_lane {n : Nat} (hn : 0 < n) (x : Reg) :
    ofScalar (BitVec.ofInt 64 (sgn n (lane x n 0))) = ((x.extractLsb' 0 n).signExtend 64).zeroExtend 512 := by
  rw [sgn_lane_zero hn]
  rfl

theorem ofScalar_lane (n : Nat) (x : Reg) :
    ofScalar (BitVec.ofNat 64 (lane x n 0)) = ((x.extractLsb' 0 n).zeroExtend 64).zeroExtend 512 := by
  have h : BitVec.ofNat 64 (lane x n 0) = (x.extractLsb' 0 n).zeroExtend 64 :=
    BitVec.eq_of_toNat_eq (by simp [lane_zero])
  rw [ofScalar, h]

/-- An immediate's pattern of a width is that of its 64-bit extension. -/
theorem wrap_toInt {w : Nat} (hw : w ≤ 64) (imm : BitVec 32) :
    wrap w imm.toInt = (imm.signExtend 64).toNat % 2 ^ w := by
  have hdvd : (2 : Int) ^ w ∣ 2 ^ 64 := pow_dvd_pow 2 hw
  have h : (imm.signExtend 64).toNat = wrap 64 imm.toInt := BitVec.toNat_ofInt ..
  rw [h]
  refine Int.natCast_inj.mp ?_
  rw [Int.natCast_mod, wrap_cast, wrap_cast]
  exact (Int.emod_emod_of_dvd _ hdvd).symm

/-- MOVI, which reads no register, completes. -/
theorem execMovi_ok {s t d ty imm} (hI : Issues s t) (hd : t.takes d) :
    execMovi d ty imm s = .next (s.commit (t.setReg d (putTy ty imm.toInt)).adv) := by
  unfold execMovi
  exact runT_ok hI (by simp only [win1 hd.inside, destX_takes hd, okb, prb])

/-- Settles O8, by the bits of an inserted field and the extensions of immediates. -/
theorem fieldsAndImmediatesComplete : Obligations.FieldsAndImmediatesComplete := by
  unfold Obligations.FieldsAndImmediatesComplete
  refine ⟨?_, ?_⟩
  · intro s t d a b ty pos len x y _ hfit hI ha hb hd
    have h1 {f} := int1_ok (f := f) hI ha hd
    have hins := insert_spec (f := x.toNat) (of_decide_eq_true hfit)
      (Nat.mod_lt y.toNat (by positivity : 0 < 2 ^ ty.width))
    refine ⟨h1, ⟨_, int2_ok hI ha hb hd, ?_⟩, h1.trans ?_, h1.trans ?_, h1.trans ?_, h1.trans ?_, h1.trans ?_, h1.trans ?_⟩
    · rw [lane_zero]
      refine ⟨hins.1, fun i hi => (hins.2 i).trans ?_⟩
      rw [Nat.testBit_mod_two_pow, decide_eq_true hi, Bool.true_and]
      rfl
    · rw [ofScalar_sgn_lane (by norm_num)]
    · rw [ofScalar_sgn_lane (by norm_num)]
    · rw [ofScalar_sgn_lane (by norm_num)]
    · rw [ofScalar_lane]
    · rw [ofScalar_lane]
    · rw [ofScalar_lane]
  · intro s t d a ty imm cnt x _ hI ha hd
    have h1 {f} := int1_ok (f := f) hI ha hd
    refine ⟨h1, h1, h1.trans ?_, h1.trans ?_, h1.trans ?_, h1, h1.trans ?_, h1, h1, h1.trans ?_, h1.trans ?_,
      execMovi_ok hI hd, h1⟩
    · rw [lane_zero]
    · rw [lane_zero]
    · rw [lane_zero]
    · rw [opnd_unsigned]
      push_cast
      rfl
    · rw [opnd_unsigned]
      simp only [Int.ofNat_lt]
    · rw [lane_zero, wrap_toInt (width_le ty)]
      simp only [eq_comm]

/-! ### Branches and jumps -/

/-- A branch goes where its condition says (R44). -/
theorem branch_decide (t : Thread) (c : Prop) [Decidable c] (disp : BitVec 29) :
    t.branch (decide c) disp = { t with pc := if c then t.pc + 8 * disp.signExtend 64 else t.pc + 8 } := by
  simp only [Thread.branch, dispBytes, sext, decide_eq_true_eq]

section
variable {s : State} {t : Thread} {a b l : RegNum} {disp : BitVec 29} {x y : Reg} (hint : Hint)

theorem branch1_ok {f : Word → Prop} [∀ v, Decidable (f v)] (hI : Issues s t) (ha : t.holds a x) :
    branch1 s a disp (fun v => decide (f v)) =
      .next (s.commit { t with pc := if f (scalar x) then t.pc + 8 * disp.signExtend 64 else t.pc + 8 }) := by
  unfold branch1
  refine runT_ok hI ?_
  simp only [win1 ha.inside, readX_holds ha, okb, prb, branch_decide]

theorem branch2_ok {f : Word → Word → Prop} [∀ v u, Decidable (f v u)] (hI : Issues s t) (ha : t.holds a x)
    (hb : t.holds b y) : branch2 s a b disp (fun v u => decide (f v u)) =
      .next (s.commit { t with pc := if f (scalar x) (scalar y) then t.pc + 8 * disp.signExtend 64 else t.pc + 8 }) := by
  unfold branch2
  refine runT_ok hI ?_
  simp only [win2 ha.inside hb.inside, readX_holds ha, readX_holds hb, okb, prb, branch_decide]

theorem execBr_ok (hI : Issues s t) : execBr hint disp s = .next (s.commit (t.branch true disp)) := by
  unfold execBr
  exact runT_ok hI rfl

theorem execDbnz_ok (hI : Issues s t) (ha : t.holds a x) : execDbnz a hint disp s =
    .next (s.commit ((t.setReg a (ofScalar (scalar x - 1))).branch (decide (scalar x - 1 ≠ 0)) disp)) := by
  unfold execDbnz
  exact runT_ok hI (by simp only [win1 ha.inside, readX_holds ha, okb, prb])

theorem execCall_ok (hI : Issues s t) (hl : t.takes l) : execCall l hint disp s =
    .next (s.commit ((t.setReg l (ofScalar (t.pc + 8))).branch true disp)) := by
  unfold execCall
  exact runT_ok hI (by simp only [win1 hl.inside, destX_takes hl, okb, prb])

end

/-- Settles O9, by the rules for branches of no, one and two registers. -/
theorem branchesComplete : Obligations.BranchesComplete := by
  unfold Obligations.BranchesComplete
  intro s t a b l hint disp x y hI ha hb hl
  refine ⟨execBr_ok hint hI, branch2_ok (f := fun v u => v = u) hI ha hb, branch2_ok (f := fun v u => v ≠ u) hI ha hb,
    branch2_ok (f := fun v u => v.toInt < u.toInt) hI ha hb, branch2_ok (f := fun v u => u.toInt ≤ v.toInt) hI ha hb,
    branch2_ok (f := fun v u => v.toNat < u.toNat) hI ha hb, branch2_ok (f := fun v u => u.toNat ≤ v.toNat) hI ha hb,
    branch1_ok (f := fun v => v = 0) hI ha, branch1_ok (f := fun v => v ≠ 0) hI ha, (execDbnz_ok hint hI ha).trans ?_,
    execCall_ok hint hI hl⟩
  rw [branch_decide]
  rfl

theorem targetX_aligned {v : Word} (h : v.extractLsb' 0 3 = 0) : targetX v = .ok v := if_pos h

theorem targetX_odd {v : Word} (h : v.extractLsb' 0 3 ≠ 0) : targetX v = .error (.trap (.plain 0x06 v)) := if_neg h

section
variable {s : State} {t : Thread} {a l : RegNum} {disp : BitVec 29} {x : Reg} (hint : Hint)

theorem execJmp_aligned (hI : Issues s t) (ha : t.holds a x) (h : (scalar x + dispBytes disp).extractLsb' 0 3 = 0) :
    execJmp a hint disp s = .next (s.commit { t with pc := scalar x + dispBytes disp }) := by
  unfold execJmp
  exact runT_ok hI (by simp only [win1 ha.inside, readX_holds ha, targetX_aligned h, okb, prb])

theorem execJmp_odd (hI : Issues s t) (ha : t.holds a x) (h : (scalar x + dispBytes disp).extractLsb' 0 3 ≠ 0) :
    execJmp a hint disp s = .next (takeTrap s t (.plain 0x06 (scalar x + dispBytes disp))) := by
  unfold execJmp
  exact runT_error hI (st := .trap _) (by simp only [win1 ha.inside, readX_holds ha, targetX_odd h, okb, erb])

theorem execCallr_aligned (hI : Issues s t) (ha : t.holds a x) (hl : t.takes l)
    (h : (scalar x + dispBytes disp).extractLsb' 0 3 = 0) : execCallr l a hint disp s =
      .next (s.commit { t.setReg l (ofScalar (t.pc + 8)) with pc := scalar x + dispBytes disp }) := by
  unfold execCallr
  exact runT_ok hI (by
    simp only [win2 ha.inside hl.inside, readX_holds ha, targetX_aligned h, destX_takes hl, okb, prb])

theorem execCallr_odd (hI : Issues s t) (ha : t.holds a x) (hl : t.takes l)
    (h : (scalar x + dispBytes disp).extractLsb' 0 3 ≠ 0) :
    execCallr l a hint disp s = .next (takeTrap s t (.plain 0x06 (scalar x + dispBytes disp))) := by
  unfold execCallr
  exact runT_error hI (st := .trap _) (by
    simp only [win2 ha.inside hl.inside, readX_holds ha, targetX_odd h, okb, erb])

end

/-- Settles O10, by the two cases of a jump's target. -/
theorem jumpsCompleteOrTrapAlign : Obligations.JumpsCompleteOrTrapAlign := by
  unfold Obligations.JumpsCompleteOrTrapAlign
  intro s t a l hint disp x hI ha hl
  exact ⟨fun h => ⟨execJmp_aligned hint hI ha h, execCallr_aligned hint hI ha hl h⟩,
    fun h => ⟨execJmp_odd hint hI ha h, execCallr_odd hint hI ha hl h⟩⟩

/-! ### Turns and the open batch -/

/-- A slot's next own turn is one of the coming sixteen (R63). -/
theorem nextTurn_spec (c slot : Nat) (hs : slot / 4 < 16) :
    c < nextTurn c slot ∧ nextTurn c slot ≤ c + 16 ∧ nextTurn c slot % 16 = slot / 4 := by
  unfold nextTurn
  omega

theorem foldl_max_le (l : List Nat) : ∀ a b, l.foldl max a ≤ b ↔ a ≤ b ∧ ∀ x ∈ l, x ≤ b := by
  induction l with
  | nil => simp
  | cons x l ih =>
    intro a b
    simp only [List.foldl_cons, ih, List.forall_mem_cons, max_le_iff, and_assoc]

/-- The oldest batch of operations is that of each of them at most. -/
theorem oldestBatch_le {n : BitVec 16} {l : List EngineOp} {b : Nat} :
    oldestBatch n l ≤ b ↔ ∀ o ∈ l, (n - o.batch).toNat ≤ b := by
  simp [oldestBatch, foldl_max_le]

theorem closeX_empty {s : State} {t : Thread} (h : t.batchOps = 0) : closeX s t = .ok t := if_pos h

theorem closeX_room {s : State} {t : Thread} (h : t.batchOps ≠ 0) (hl : ∀ o ∈ s.opsOf t, (t.nextBatch + 1 - o.batch).toNat ≤ 8) :
    closeX s t = .ok { t with nextBatch := t.nextBatch + 1, batchOps := 0, reopen := t.batchOps } := by
  simp only [closeX, if_neg h, need_true (decide_eq_true (oldestBatch_le.mpr hl)), okb, prb, Thread.closeOpen,
    Thread.closeBatch]

theorem closeX_full {s : State} {t : Thread} (h : t.batchOps ≠ 0) (hl : ∃ o ∈ s.opsOf t, 8 < (t.nextBatch + 1 - o.batch).toNat) :
    closeX s t = .error (.park .commitFull) := by
  obtain ⟨o, ho, hlt⟩ := hl
  have hfull : ¬ oldestBatch (t.nextBatch + 1) (s.opsOf t) ≤ 8 := fun hle =>
    absurd (oldestBatch_le.mp hle o ho) (Nat.not_le.mpr hlt)
  simp only [closeX, if_neg h, need_false (decide_eq_false hfull), erb]

/-- A thread that closes its open batch parks on what it waits for. -/
theorem endPark_closed {s : State} {t u : Thread} {w : Wait} (h : closeX s t = .ok u) :
    endPark s t w = .error (.parkIn s { u with state := .parked, wait := w }) := by
  simp only [endPark, h, okb]

theorem endPark_full {s : State} {t : Thread} {w : Wait} (h : closeX s t = .error (.park .commitFull)) :
    endPark s t w = .error (.park .commitFull) := by
  simp only [endPark, h, erb]

section
variable {s : State} {t : Thread}

theorem execNop_ok (hI : Issues s t) : execNop s = .next (s.commit t.adv) := by
  unfold execNop
  exact runT_ok hI rfl

theorem execYield_ok (hI : Issues s t) : execYield s = .next (s.commit
    { t with yielded := some (nextTurn (s.runCount t.id.core.toNat) t.id.slot) }.adv) := by
  unfold execYield
  exact runT_ok hI rfl

theorem execPause_zero (hI : Issues s t) : execPause 0 s = .next (s.commit t.adv) := by
  unfold execPause
  exact runT_ok hI rfl

theorem execPause_parks (hI : Issues s t) {imm : BitVec 27} (h : imm ≠ 0) : execPause imm s =
    .next (s.setThread { t with state := .parked, wait := .pause (s.cyc + imm.toNat) }) := by
  unfold execPause
  exact runT_error hI (st := .parkIn _ _) (if_neg h)

theorem execVoid_ok (hI : Issues s t) {d : RegNum} (hd : t.takes d) :
    execVoid d s = .next (s.commit (t.voided s.cyc d).adv) := by
  unfold execVoid
  exact runT_ok hI (by simp only [win1 hd.inside, destX_takes hd, okb, prb])

theorem execEndT_closed (hI : Issues s t) {u : Thread} (h : closeX s t = .ok u) :
    execEndT s = .next (s.setThread { u with state := .parked, wait := .endDrain }) := by
  unfold execEndT
  exact runT_error hI (f := fun s t => endPark s t .endDrain) (endPark_closed h)

theorem execEndT_full (hI : Issues s t) (h : closeX s t = .error (.park .commitFull)) :
    execEndT s = .next (s.setThread { t with state := .parked, wait := .commitFull }) := by
  unfold execEndT
  exact runT_error hI (f := fun s t => endPark s t .endDrain) (endPark_full h)

end

/-- Settles O11: one rule for each instruction, END by the cases of its open batch. -/
theorem threadControlCompletes : Obligations.ThreadControlCompletes := by
  unfold Obligations.ThreadControlCompletes
  intro s t d imm hI hd
  have hslot : t.id.slot / 4 < 16 := by
    have := (t.id.extractLsb' 0 6).isLt
    simp only [Ident.slot]
    omega
  refine ⟨execNop_ok hI, ⟨_, execYield_ok hI, nextTurn_spec _ _ hslot⟩, execPause_zero hI, execPause_parks hI,
    fun h => (execVoid_ok hI hd).trans ?_, fun h => ⟨t.voids.filter fun v => v.1 = s.cyc, (execVoid_ok hI hd).trans ?_⟩,
    fun h => execEndT_closed hI (closeX_empty h), fun h hl => execEndT_closed hI (closeX_room h hl),
    fun h hl => execEndT_full hI (closeX_full h hl)⟩
  · rw [Thread.voided, if_pos h]
  · rw [Thread.voided, if_neg h]

end Sys2Proof.Machine
end

section
/-! PROOF. Segment instructions (O27). -/
namespace Sys2Proof.Machine

/-! ### Reads of an instruction's own -/

section
variable {s s1 : State} {t : Thread}

theorem sameKeyX_alone {k n : Nat} (h : s.relaxedOf t.id = []) : sameKeyX s t k n = .ok () := by
  simp [sameKeyX, State.sharedKeys, h]

/-- A load of an instruction's own from sound memory. -/
theorem localReadX_sound {g : SegReg} {off a : Word} {k n : Nat} (h : s.relaxedOf t.id = []) (hk : s.sound k n) :
    localReadX s t g off a k n = .ok (s, BitVec.ofNat 512 (s.read k n)) := by
  have hdie : (Form.load n false).dieSize k = true := by
    unfold Form.dieSize
    rcases hk.memory with hm | hm <;> simp [hm]
  simp only [localReadX, sameKeyX_alone h, need_true hdie, okb, hk.good, State.plainBytes_memory hk.memory]
  rfl

theorem ownReadX_bank {g : SegReg} {p : Bool} {off a : Word} {k n : Nat} (hs : s.relaxedOf t.id = [])
    (h1 : s1.relaxedOf t.id = []) (hr : s.route (clusterOf t.id.core.toNat) t.dom a false false = (s1, .bank k))
    (hk : s1.sound k n) : ownReadX s t g p off a n = .ok (s1, BitVec.ofNat 512 (s1.read k n)) := by
  simp only [ownReadX, sameWordX_alone hs, okb, hr, localReadX_sound h1 hk]

end

/-! ### Segment instructions -/

section
variable {s s1 : State} {t : Thread} {d base : RegNum} {g h : SegReg} {b : Reg}

theorem execLea_ok {off : BitVec 32} (hI : Issues s t) (hb : t.holds base b) (hd : t.takes d)
    (hlim : (offM b off).toNat ≤ segLimit (t.seg g)) (hmap : (segBase (t.seg g) + offM b off).toNat < 2 ^ 53)
    (hok : (offM b off).toNat < segLimit (t.seg g) → s.dvaOk (segBase (t.seg g) + offM b off) 1 = true) :
    execLea d base g off s = .next (s.commit (t.setReg d (ofScalar (segBase (t.seg g) + offM b off))).adv) := by
  have hpass : (decide (segLimit (t.seg g) < (offM b off).toNat) ||
      decide (2 ^ 53 ≤ (segBase (t.seg g) + offM b off).toNat) ||
      (decide ((offM b off).toNat < segLimit (t.seg g)) && !s.dvaOk (segBase (t.seg g) + offM b off) 1)) = false := by
    rw [decide_eq_false (Nat.not_lt.mpr hlim), decide_eq_false (Nat.not_le.mpr hmap)]
    by_cases hlt : (offM b off).toNat < segLimit (t.seg g)
    · simp [hok hlt]
    · simp [hlt]
  unfold execLea
  refine runT_ok hI ?_
  simp only [win2 hd.inside hb.inside, readX_holds hb, okb, hpass, Bool.false_eq_true, if_false, destX_takes hd, done]

theorem execSegrd_ok (hI : Issues s t) (hd : t.takes d) :
    execSegrd d g s = .next (s.commit (t.setReg d ((t.seg g).zeroExtend 512)).adv) := by
  unfold execSegrd
  exact runT_ok hI (by simp only [win1 hd.inside, destX_takes hd, okb, prb])

/-- Segment 0 is written at level 2 alone (R18). -/
theorem seg0_allowed (hh : h ≠ 0 ∨ t.level = 2) : (decide (h ≠ 0) || t.level == 2) = true := by simpa using hh

theorem seg0_barred (hl : t.level ≠ 2) : (decide ((0 : SegReg) ≠ 0) || t.level == 2) = false := by simpa using hl

theorem high_zero {a : Word} (ha : a.toNat < 2 ^ 53) : a.extractLsb' 53 11 = 0 := by
  refine BitVec.eq_of_toNat_eq ?_
  rw [BitVec.extractLsb'_toNat, Nat.shiftRight_eq_div_pow, Nat.div_eq_of_lt ha]
  rfl

theorem lane64_low (x : Reg) : (lane64 x 0).extractLsb' 0 6 = x.extractLsb' 0 6 := by
  ext i hi
  simp [lane64]

theorem ofNat_lane64 (x : Reg) : BitVec.ofNat 49 (lane64 x 1).toNat = x.extractLsb' 64 49 := by
  refine BitVec.eq_of_toNat_eq ?_
  rw [BitVec.toNat_ofNat, lane64, BitVec.extractLsb'_toNat, BitVec.extractLsb'_toNat]
  exact Nat.mod_mod_of_dvd _ (pow_dvd_pow 2 (by norm_num))

theorem execSegnar_ok {rights : BitVec 6} (hI : Issues s t) (hb : t.holds base b) (hh : h ≠ 0 ∨ t.level = 2)
    (hlim : (lane64 b 0).toNat + (lane64 b 1).toNat ≤ segLimit (t.seg g))
    (hmap : (segBase (t.seg g) + lane64 b 0).toNat < 2 ^ 53) (halign : (lane64 b 0).extractLsb' 0 6 = 0) :
    execSegnar h g base rights s = .next (s.commit (t.setSeg h
      (mkSeg (segBase (t.seg g) + lane64 b 0) (lane64 b 1).toNat (segRights (t.seg g) &&& rights))).adv) := by
  unfold execSegnar
  refine runT_ok hI ?_
  simp only [need_true (seg0_allowed hh), win1 hb.inside, readX_holds hb, okb, need_true (decide_eq_true hlim),
    need_true (decide_eq_true (high_zero hmap)), need_true (decide_eq_true halign), prb]

theorem execSegnar_priv {rights : BitVec 6} (hI : Issues s t) (hl : t.level ≠ 2) :
    execSegnar 0 g base rights s = .next (takeTrap s t (.plain 0x02 s.word)) := by
  unfold execSegnar
  exact runT_error hI (st := priv s) (by simp only [need_false (seg0_barred hl), erb])

theorem execSegld_priv {imm : BitVec 27} (hI : Issues s t) (hl : t.level ≠ 2) :
    execSegld 0 base imm s = .next (takeTrap s t (.plain 0x02 s.word)) := by
  unfold execSegld
  exact runT_error hI (st := priv s) (by simp only [need_false (seg0_barred hl), erb])

/-- A descriptor of the table of the thread's domain, in sound memory (R60). -/
theorem descEntry_bank {i : Word} {k : Nat} (hs : s.relaxedOf t.id = []) (h1 : s1.relaxedOf t.id = [])
    (hr : s.route (clusterOf t.id.core.toNat) t.dom (s.domWord t.dom 2 + 16 * i) false false = (s1, .bank k))
    (hk : s1.sound k 16) : descEntry s t i = .ok (s1, BitVec.ofNat 128 (s1.read k 16)) := by
  have hlow : (BitVec.ofNat 512 (s1.read k 16)).extractLsb' 0 128 = BitVec.ofNat 128 (s1.read k 16) := by
    refine BitVec.eq_of_toNat_eq ?_
    rw [BitVec.extractLsb'_toNat, BitVec.toNat_ofNat, BitVec.toNat_ofNat, Nat.shiftRight_zero]
    exact Nat.mod_mod_of_dvd _ (pow_dvd_pow 2 (by norm_num))
  simp only [descEntry, ownReadX_bank hs h1 hr hk, okb, prb, hlow]

theorem execSegld_ok {imm : BitVec 27} {k : Nat} (hI : Issues s t) (hb : t.holds base b) (hh : h ≠ 0 ∨ t.level = 2)
    (hi : (scalar b + sext 27 imm).toNat < ((s.domWord t.dom 3).extractLsb' 0 32).toNat)
    (hs : s.relaxedOf t.id = []) (h1 : s1.relaxedOf t.id = [])
    (hr : s.route (clusterOf t.id.core.toNat) t.dom (s.domWord t.dom 2 + 16 * (scalar b + sext 27 imm)) false false =
      (s1, .bank k)) (hk : s1.sound k 16) (hv : segValid (BitVec.ofNat 128 (s1.read k 16)) = true) :
    execSegld h base imm s = .next (s1.commit (t.setSeg h (BitVec.ofNat 128 (s1.read k 16))).adv) := by
  unfold execSegld
  refine runT_ok hI ?_
  simp only [need_true (seg0_allowed hh), win1 hb.inside, readX_holds hb, okb, need_true (decide_eq_true hi),
    descEntry_bank hs h1 hr hk, need_true hv, prb]

end

/-- Settles O27: one rule for each instruction, with its conditions. -/
theorem segmentInstructionsComplete : Obligations.SegmentInstructionsComplete := by
  unfold Obligations.SegmentInstructionsComplete
  refine ⟨?_, ?_⟩
  · intro s t d base g h off rights b hI hb
    refine ⟨fun hd hlim hmap hok => execLea_ok hI hb hd hlim hmap hok, fun hd => execSegrd_ok hI hd, ?_,
      fun hl => ⟨execSegnar_priv hI hl, execSegld_priv hI hl⟩⟩
    intro hh hlim hmap halign
    refine (execSegnar_ok hI hb hh hlim hmap (by rw [lane64_low, halign])).trans ?_
    rw [mkSeg, ofNat_lane64]
    rfl
  · intro s s1 t d a imm x k i hI hb hh hi hs h1 hr hk hv
    exact execSegld_ok hI hb hh hi hs h1 hr hk hv

end Sys2Proof.Machine
end

section
/-! PROOF. JDONE where a ninth batch is outstanding (O34). -/
namespace Sys2Proof.Machine

/-- A join routine of region 1, whose RCB lies at the page that `lateJoinState` maps, and whose open batch would be the
101st after one that is still outstanding. -/
def lateJoin : Thread :=
  { fetchThread with
    cls := .join, rcb := 0x400_0000, sp := { fetchThread.sp with region := 1 }, nextBatch := 100, batchOps := 1,
    image := [newOp State.reset fetchThread []] }

/-- A region without rules whose budget is not spent. -/
def plainRegion : Region :=
  { LaunchRec.region { dva := 0, bits := 0 } fetchThread 0 [] 1 with budget := BitVec.allOnes 64, spent := false }

/-- The thread issues in its region; a table at 0 names itself and a leaf page, marked accessed, whose translation
nothing has cached. -/
def lateJoinState : State :=
  { State.reset with
    threads := [(0, lateJoin)], cur := 0, regions := [(1, plainRegion)], mem := [(0, 1), (8, 7)] }

/-- How many translations are cached after an instruction. -/
def cachedAfter : Host.Outcome State Fault Refusal → Option Nat
  | .next s => some s.tlb.length
  | _ => none

/-- Refutes O34: JDONE whose box has no parent reads the RCB, which caches its page's translation; where a ninth batch is
outstanding the thread then parks, and the instruction, to be issued again, has had no effect at all, the cached
translation included. -/
theorem not_joinsAndReadsComplete : ¬ Obligations.JoinsAndReadsComplete := by
  unfold Obligations.JoinsAndReadsComplete
  rintro ⟨h, -⟩
  let s1 := (lateJoinState.route 0 lateJoin.dom lateJoin.rcb false false).1
  have hroute : lateJoinState.route 0 lateJoin.dom lateJoin.rcb false false = (s1, .bank 0) :=
    Prod.ext rfl (by decide +kernel)
  have hissues : Issues lateJoinState lateJoin := ⟨by decide +kernel, by decide +kernel⟩
  have ha : lateJoin.holds 1 0 := ⟨by decide +kernel, by decide +kernel⟩
  have hb : lateJoin.holds 2 0 := ⟨by decide +kernel, by decide +kernel⟩
  obtain ⟨-, hjoin⟩ := h lateJoinState s1 s1 s1 lateJoin plainRegion 0 0 0 1 2 0 0 hissues ha hb
    (by decide +kernel) (by decide +kernel)
  obtain ⟨-, hstore⟩ := hjoin (by decide +kernel) (by decide +kernel)
  obtain ⟨hroot, -⟩ := hstore hroute (by decide +kernel)
  have hends := hroot (by decide +kernel)
  have hcached : cachedAfter (exec (.jdone (some 1)) lateJoinState) = some 0 := by decide +kernel
  rw [hends] at hcached
  exact absurd hcached (by decide +kernel)

end Sys2Proof.Machine
end

section
/-! PROOF. Events of accesses (O51). -/
namespace Sys2Proof.Machine

/-! ### What the answers of a lone access give -/

section
variable {s : State} {t : Thread} {a : Access}

theorem happens_some (s s' : State) : happens s (some s') = .next s' := rfl

/-- A store of a thread that is no stamped leaf rolls nobody back, however many of its accesses have been kept. -/
theorem State.skerriesStored_plain (h : s.thread? t.id = some t) (hs : t.spec = none) (l : List Access) :
    s.skerriesStored t l = s := by
  unfold State.skerriesStored
  induction l.filter fun a => a.form.mayWait && a.form.writes && (groupFailure [a]).isNone with
  | nil => rfl
  | cons a l ih =>
    rw [List.foldl_cons]
    cases a.key with
    | none => exact ih
    | some k => simpa only [State.storedBy_plain h hs] using ih

/-- An access that has been answered stands at no peer. -/
theorem outside_answered (h : a.answered = true) : s.outside a = false := by
  unfold Access.answered at h
  split at h
  · next e => simp [State.outside, Access.atPeer, e]
  · next e => simp [State.outside, Access.atPeer, e]
  · cases h

theorem outerAnswer_answered (h : a.answered = true) (p : Option PeerAnswer) : s.outerAnswer a p = none := by
  simp [State.outerAnswer, outside_answered h]

theorem answered_done {v : Reg} (h : a.stage = .done v) : a.answered = true := by simp [Access.answered, h]

theorem answered_failed {c : BitVec 8} (h : a.stage = .failed c) : a.answered = true := by simp [Access.answered, h]

theorem groupFailure_done {v : Reg} (h : a.stage = .done v) : groupFailure [a] = none := by
  simp [groupFailure, Access.failure, h]

theorem groupFailure_failed {c : BitVec 8} (h : a.stage = .failed c) : groupFailure [a] = some (c, a) := by
  simp [groupFailure, Access.failure, h]

theorem groupValue_done {v : Reg} (h : a.stage = .done v) (hl : a.lane = none) (base : Reg) : groupValue base [a] = v := by
  simp [groupValue, h, hl]

theorem groupOver_one (h : a.answered = true) : groupOver [a] = true := by simp [groupOver, h]

/-- A trap reaches a thread that neither is HELD nor has a THKILL under way at once. -/
theorem trapNow_takes (hk : t.killed = none) (hh : t.state ≠ .held) (i : TrapInfo) : s.trapNow t i = takeTrap s t i := by
  simp [State.trapNow, Thread.condemned, hk, hh]

end

section
variable {s : State} {a : Access} {t : Thread} {n : Nat} {v : Reg} {code : BitVec 8} {r : RegNum} {at' : Nat}
variable (hacc : s.acc? n = some a) (ht : s.thread? a.t = some t) (hagent : a.agent = .thread)
include hacc

theorem bankAccess_arrives (hs : a.stage = .inFlight) (hk : a.key.isSome = true) (hp : a.atPeer = false)
    (ho : s.inOrder a = true) : s.bankAccess n = some (s.arrive a) := by
  simp [State.bankAccess, hacc, hs, hk, hp, ho]

theorem fabricTimeout_fails (hout : s.outside a = true) (hlate : a.issued + 2 ^ 24 ≤ s.cyc) :
    s.fabricTimeout n = some (s.setAccess { a with stage := .failed 0x0D }) := by
  simp only [State.fabricTimeout, hacc, hout, State.accLate, decide_eq_true hlate, Bool.and_self, if_true]

include ht hagent

/-- The answers of an ordinary access end its instruction (R55). -/
theorem accessAcknowledgement_ends (hrel : a.rel = false) (hw : t.wait = .access (some r) 0) (hg : s.group a.group = [a])
    (hans : a.answered = true) : s.accessAcknowledgement n none = some (s.finishOrdinary t a.group [a]) := by
  have hon : t.onAccess = true := by simp [Thread.onAccess, hw]
  simp only [State.accessAcknowledgement, hacc, outerAnswer_answered hans, Option.getD_none, hagent, hrel, hg, ht,
    groupOver_one hans, hon, Bool.not_true, Bool.false_eq_true, if_false, if_true]

theorem relaxedLands_done (hrel : a.rel = true) (hd : a.d = some r) (hg : s.group a.group = [a]) (hl : a.lane = none)
    (hs : a.stage = .done v) {moved : Bool} (hm : (a.t != a.home) = moved) :
    s.relaxedLands n none moved = some ((s.dropGroup a.group).setThread (t.setReg r v)) := by
  have ht' : (s.dropGroup a.group).thread? a.t = some t := ht
  simp only [State.relaxedLands, hacc, hrel, hagent, hm, bne_self_eq_false, Bool.not_true, Bool.or_self,
    Bool.false_eq_true, if_false, outerAnswer_answered (answered_done hs), Option.map_none, Option.getD_none, hg,
    groupOver_one (answered_done hs), groupFailure_done hs, Option.isNone_none, Bool.and_self, if_true,
    State.landRelaxed, ht', hd, groupValue_done hs hl]

theorem relaxedErrorResponse_fails (hrel : a.rel = true) (hd : a.d = some r) (hg : s.group a.group = [a])
    (hl : a.lane = none) (hs : a.stage = .failed code) (hready : t.state = .ready) (hp : t.pending = []) :
    s.relaxedErrorResponse n none = some (((s.dropGroup a.group).setThread (t.setReg r 0)).setThread
      { t.setReg r 0 with pending := [a.trapOf code] }) := by
  have ht' : (s.dropGroup a.group).thread? a.t = some t := ht
  simp [State.relaxedErrorResponse, hacc, hrel, hagent, hg, groupOver_one (answered_failed hs), groupFailure_failed hs,
    ht', Access.unloaded, hd, hl, State.deliverTrap, hready, Thread.recordTrap, hp]

theorem refusalRetry_again (hs : a.stage = .refused at') (hle : at' ≤ s.cyc) (hk : t.killed = none)
    (hb : t.sp.febudget ≠ 0) : s.refusalRetry n =
      some ((s.setThread { t with sp := { t.sp with febudget := t.sp.febudget - 1 } }).threadRetry a) := by
  simp only [State.refusalRetry, hacc, hs, if_neg (Nat.not_lt.mpr hle), hagent, ht, hk, Option.isSome_none,
    Bool.false_eq_true, if_false, if_neg hb]

theorem refusalRetry_spent (hs : a.stage = .refused at') (hle : at' ≤ s.cyc) (hk : t.killed = none)
    (hb : t.sp.febudget = 0) (hh : t.state ≠ .held) :
    s.refusalRetry n = some (takeTrap (s.dropOrdinary t.id) t (budgetOut a)) := by
  simp [State.refusalRetry, hacc, hs, Nat.not_lt.mpr hle, hagent, ht, hk, hb, trapNow_takes hk hh]

end

/-- An ordinary access that is answered completes its instruction. -/
theorem finishOrdinary_done {s : State} {a : Access} {t : Thread} {v : Reg} {r : RegNum} (ht : s.thread? t.id = some t)
    (hspec : t.spec = none) (hst : t.state = .parked ∨ t.state = .ready) (himg : t.image = [])
    (hw : t.wait = .access (some r) 0) (hl : a.lane = none) (hs : a.stage = .done v) :
    s.finishOrdinary t a.group [a] = (s.dropGroup a.group).commit { t.setReg r v with
      pc := t.pc + 8, wait := .none, state := .ready } := by
  have ht' : (s.dropGroup a.group).thread? t.id = some t := ht
  have hst' : ((t.setReg r v).adv.state = .parked || (t.setReg r v).adv.state = .ready) = true := by
    rcases hst with h | h <;> simp [Thread.adv, Thread.setReg, h]
  have himg' : (t.setReg r v).adv.image.isEmpty = true := by simp [Thread.adv, Thread.setReg, himg]
  simp only [State.finishOrdinary, State.skerriesStored_plain ht' hspec, groupFailure_done hs, hw, groupValue_done hs hl,
    Thread.completes, Thread.woken, hst', himg', if_true]
  rfl

/-- An ordinary access that has failed traps. -/
theorem finishOrdinary_failed {s : State} {a : Access} {t : Thread} {code : BitVec 8} (ht : s.thread? t.id = some t)
    (hspec : t.spec = none) (hst : t.state = .parked ∨ t.state = .ready) (hk : t.killed = none)
    (hs : a.stage = .failed code) :
    s.finishOrdinary t a.group [a] = takeTrap (s.dropGroup a.group) t (a.trapOf code) := by
  have ht' : (s.dropGroup a.group).thread? t.id = some t := ht
  have hh : t.state ≠ .held := by rcases hst with h | h <;> simp [h]
  simp only [State.finishOrdinary, State.skerriesStored_plain ht' hspec, groupFailure_failed hs, trapNow_takes hk hh]

/-- Settles O51: one rule for each event of an access. -/
theorem accessEvents : Obligations.AccessEvents := by
  unfold Obligations.AccessEvents
  intro s a t n v code r at' rest hacc ht hagent
  refine ⟨?_, ?_, ?_, ?_, ?_⟩
  · intro hev hs hk hp ho
    simp only [exec, execBankAccess, hev, bankAccess_arrives hacc hs hk hp ho, happens_some]
  · intro hev hout hlate
    simp only [exec, execFabricTimeout, hev, fabricTimeout_fails hacc hout hlate, happens_some]
  · intro hev hrel hst hk himg hw hg hl hid hspec
    have ht' : s.thread? t.id = some t := hid ▸ ht
    refine ⟨fun hs => ?_, fun hs => ?_⟩
    · simp only [exec, execAccessAcknowledgement, hev,
        accessAcknowledgement_ends hacc ht hagent hrel hw hg (answered_done hs), happens_some,
        finishOrdinary_done ht' hspec hst himg hw hl hs, rest]
    · simp only [exec, execAccessAcknowledgement, hev,
        accessAcknowledgement_ends hacc ht hagent hrel hw hg (answered_failed hs), happens_some,
        finishOrdinary_failed ht' hspec hst hk hs, rest]
  · intro hrel hd hg hl
    refine ⟨fun hs hm hev => ?_, fun hs hm hev => ?_, fun hs hev hready hp => ?_⟩
    · simp only [exec, execRelaxedCompletion, hev, State.relaxedCompletion,
        relaxedLands_done hacc ht hagent hrel hd hg hl hs (bne_eq_false_iff_eq.mpr hm), happens_some, rest]
    · simp only [exec, execForwardedReply, hev, State.forwardedReply,
        relaxedLands_done hacc ht hagent hrel hd hg hl hs (bne_iff_ne.mpr hm), happens_some, rest]
    · simp only [exec, execRelaxedErrorResponse, hev,
        relaxedErrorResponse_fails hacc ht hagent hrel hd hg hl hs hready hp, happens_some, rest]
  · intro hev hs hle hk
    refine ⟨fun hb => ?_, fun hb hst => ?_⟩
    · simp only [exec, execRefusalRetry, hev, refusalRetry_again hacc ht hagent hs hle hk hb, happens_some]
    · have hh : t.state ≠ .held := by simp [hst]
      simp only [exec, execRefusalRetry, hev, refusalRetry_spent hacc ht hagent hs hle hk hb hh, happens_some, budgetOut]

end Sys2Proof.Machine
end

section
/-! PROOF. Events of threads (O49). -/
namespace Sys2Proof.Machine

/-- What an agent that has got through does. -/
theorem gate_through {s s1 : State} (k : State → State) : gate s (s1, true) k = some (k s1) := rfl

/-! ### The end of a thread, and of what it waits for -/

section
variable {s s1 : State} {t : Thread} {id : Ident}

theorem draining_parked (h : t.state = .parked) : t.draining = true := by simp [Thread.draining, h]

theorem speculative_plain (h : t.spec = none) : t.speculative = false := by simp [Thread.speculative, h]

/-- A thread whose instruction completes out of its wait goes on behind it. -/
theorem adv_woken (hst : t.state = .parked) (himg : t.image = []) :
    t.adv.woken = { t with pc := t.pc + 8, wait := .none, state := .ready } := by
  simp [Thread.woken, Thread.adv, hst, himg]

/-- A thread that may leave its core has no operation left, so that its open batch closes. -/
theorem closeX_migrateClear (h : s.migrateClear t = true) : closeX s t = .ok t.closeOpen := by
  have hops : s.opsOf t = [] := by
    simp only [State.migrateClear, Bool.and_eq_true, List.isEmpty_iff] at h
    exact h.1.2
  by_cases hb : t.batchOps = 0
  · rw [closeX_empty hb, Thread.closeOpen, if_pos hb]
  · rw [closeX_room hb (by simp [hops]), Thread.closeOpen, if_neg hb, Thread.closeBatch]

/-- The cores that a thread which lacks a unit may move to (R304). -/
def State.unitCores (s : State) (id : Ident) (bit : Nat) : List Nat :=
  ((moveOrder id.core.toNat).filter fun c => (s.cap c).getLsbD bit).take 16

theorem closeOpen_win (t : Thread) : t.closeOpen.win = t.win := by
  unfold Thread.closeOpen
  split <;> rfl

theorem ready_or_parked (h : t.state = .ready ∨ t.state = .parked) :
    (t.state != .ready && t.state != .parked) = false := by
  rcases h with h | h <;> simp [h]

theorem holdThread_held {u : Thread} (hst : t.state = .ready ∨ t.state = .parked) (hh : s.holdThread t = (s1, u)) :
    u.state = .held := by
  have hcond : (decide (t.state = .ready) || decide (t.state = .parked)) = true := by simpa using hst
  rw [State.holdThread, if_pos hcond] at hh
  exact (congrArg (fun p => p.2.state) hh).symm

/-- A core with a free slot that lacks a run of entries. -/
theorem shortOf_run {c : Nat} {w : List (Bool × Nat)} (hslot : (s.freeSlot c).isSome = true)
    (hrun : ∃ n ∈ w, s.freeRun c n.2 = none) : s.shortOf c w = (false, true) := by
  have hany : (w.any fun n => (s.freeRun c n.2).isNone) = true := by
    obtain ⟨n, hn, hfree⟩ := hrun
    exact List.any_eq_true.mpr ⟨n, hn, by rw [hfree, Option.isNone_none]⟩
  rw [State.shortOf, hany, ← Option.not_isSome, hslot, Bool.not_true, Bool.false_and]

/-- A core without a slot for something that needs one. -/
theorem shortOf_slot {c : Nat} {w : List (Bool × Nat)} (hslot : s.freeSlot c = none) (hlack : ∃ n ∈ w, n.1 = true) :
    s.shortOf c w = (true, w.any fun n => (s.freeRun c n.2).isNone) := by
  have hany : w.any (·.1) = true := List.any_eq_true.mpr hlack
  rw [State.shortOf, hany, hslot, Option.isNone_none, Bool.and_self]

variable (ht : s.thread? id = some t)
include ht

/-- A drained thread that is no stamped leaf ends once its box is settled (R48). -/
theorem threadRetire_ends (hst : t.state = .parked) (hw : t.wait = .endDrain) (hp : t.pending = [])
    (hd : s.drained t = true) (hspec : t.spec = none) (hbox : s.endBox t = (s1, true)) :
    s.threadRetire id = some (s1.ended t) := by
  simp only [State.threadRetire, ht, hw, draining_parked hst, hp, hd, speculative_plain hspec, hbox, gate_through,
    List.isEmpty_nil, decide_true, Bool.and_self, Bool.not_false, Bool.true_or, Bool.false_and, Bool.false_eq_true,
    if_true, if_false]

theorem decisionTakesEffect_ends {d : Decision} (hst : t.state = .parked) (hw : t.wait = .decision d)
    (hp : t.pending = []) (hd : s.drained t = true) (hdec : s.decide' t d = (s1, true)) :
    s.decisionTakesEffect id = some (s1.ended t) := by
  simp only [State.decisionTakesEffect, ht, hw, draining_parked hst, hp, hd, hdec, gate_through, List.isEmpty_nil,
    Bool.and_self, if_true]

theorem pauseExpiry_ends {stop : Nat} (hst : t.state = .parked) (himg : t.image = []) (hw : t.wait = .pause stop)
    (hcyc : stop ≤ s.cyc + 1) (hturn : (s.runCount id.core.toNat + 1) % 16 = id.slot / 4) :
    s.pauseExpiry id = some (s.commit { t with pc := t.pc + 8, wait := .none, state := .ready }) := by
  simp only [State.pauseExpiry, ht, hw, decide_eq_true hcyc, decide_eq_true hturn, Bool.and_self, if_true,
    adv_woken hst himg]

theorem tlbinvComplete_ends {lo len : Word} {scope : BitVec 2} (hst : t.state = .parked) (himg : t.image = [])
    (hw : t.wait = .tlbinv lo len scope) (hops : s.opsMapped lo len scope (clusterOf id.core.toNat) = false)
    (haccs : s.accsMapped lo len scope (clusterOf id.core.toNat) = false) :
    s.tlbinvComplete id = some ((s.dropTlb lo len scope (clusterOf id.core.toNat)).commit
      { t with pc := t.pc + 8, wait := .none, state := .ready }) := by
  simp only [State.tlbinvComplete, ht, hw, hops, haccs, Bool.or_self, Bool.false_eq_true, if_false, adv_woken hst himg]

/-! ### Moves of a thread -/

theorem unitMigration_none {bit : Nat} (hw : t.wait = .unit bit) (hst : t.state = .parked)
    (hclear : s.migrateClear t = true) (hfind : (s.unitCores id bit).find? (fun c => s.accepts c t.win) = none) :
    s.unitMigration id = some (takeTrap s t.closeOpen (.plain 0x0A (BitVec.ofNat 64 bit))) := by
  rw [State.unitCores] at hfind
  simp only [State.unitMigration, ht, hw, hst, hclear, decide_true, Bool.and_self, if_true,
    closeX_migrateClear hclear, closeOpen_win, hfind]

theorem unitMigration_moves {bit c i b : Nat} {u : Thread} (hw : t.wait = .unit bit) (hst : t.state = .parked)
    (hclear : s.migrateClear t = true) (hfind : (s.unitCores id bit).find? (fun c => s.accepts c t.win) = some c)
    (hplace : s.place c t.win = some (i, b)) (hmove : s.moveThread t.closeOpen c i b = (s1, u)) :
    s.unitMigration id = some (s1.arrived (s1.fromNextTurn u)) := by
  rw [State.unitCores] at hfind
  simp only [State.unitMigration, ht, hw, hst, hclear, decide_true, Bool.and_self, if_true,
    closeX_migrateClear hclear, closeOpen_win, hfind, hplace, hmove]

theorem becomeOldest_direct {u : Thread} (hw : t.wait = .oldest) (hspec : t.speculative = true)
    (hold : s.isOldest t = true) (hover : s.issuedOver id = true) (hbuf : t.buffered = [])
    (hu : (s.goDirect t).thread? id = some u) (hst : u.state = .parked) (himg : u.image = []) :
    s.becomeOldest id = some ((s.goDirect t).setThread { u with wait := .none, state := .ready }) := by
  have hwoken : u.woken = { u with wait := .none, state := .ready } := by simp [Thread.woken, hst, himg]
  simp only [State.becomeOldest, ht, hw, hspec, hold, hover, hbuf, hu, hwoken, decide_true, Bool.and_self, if_true,
    List.isEmpty_nil, Bool.not_true, Bool.false_eq_true, if_false]

theorem becomeOldest_writes {u : Thread} {st : Buffered} {more : List Buffered} (hw : t.wait = .oldest)
    (hspec : t.speculative = true) (hold : s.isOldest t = true) (hover : s.issuedOver id = true) (hid : t.id = id)
    (hbuf : t.buffered = st :: more) (hone : (s.setThread t.commits).writeOne t st = (s1, true))
    (hu : s1.thread? id = some u) : s.becomeOldest id = some (s1.setThread (u.withStores more)) := by
  simp only [State.becomeOldest, ht, hw, hspec, hold, hover, hbuf, State.writeOut, hone, hid, hu, gate_through,
    decide_true, Bool.and_self, if_true, List.isEmpty_cons, Bool.not_false]

theorem holdEvent_debug {u : Thread} (hst : t.state = .ready ∨ t.state = .parked) (hh : s.holdThread t = (s1, u)) :
    s.holdEvent id true = some (s1.setThread { u with dbg := true }) := by
  simp only [State.holdEvent, ht, ready_or_parked hst, hh, Bool.false_eq_true, if_false, if_true]

theorem holdEvent_region {u : Thread} {r : Region} (hst : t.state = .ready ∨ t.state = .parked)
    (hh : s.holdThread t = (s1, u)) (hr : s.region? t.regionId = some r) (hhold : r.hold = .hold) (hc : t.cls = .leaf) :
    s.holdEvent id false = some ((s1.setThread { u with regionHeld := true }).holdRcb u) := by
  simp only [State.holdEvent, ht, ready_or_parked hst, hh, hr, hhold, hc, beq_self_eq_true, Bool.and_self, Bool.false_eq_true,
    if_false, if_true]

/-! ### The spill engine -/

theorem spillWrite_starts {w : Word} (hid : t.id = id) (hjob : s.jobOf id = none) (hjobs : ∀ y ∈ s.jobs, y.restore = true)
    (hst : t.state = .held) (hready : s.spillReady t = true) (hhelps : s.helps t (s.wants id.core.toNat) = true)
    {slot entries : Bool} (hshort : s.shortOf id.core.toNat (s.wants id.core.toNat) = (slot, entries))
    (hany : (slot || entries) = true) (hstart : s.spillStart t (!slot) = (s1, some w)) : s.spillWrite id = some s1 := by
  have hfree : (s.jobs.all fun j => j.restore || j.t.core != t.id.core) = true := by
    simp only [List.all_eq_true, Bool.or_eq_true]
    exact fun j hj => .inl (hjobs j hj)
  simp only [State.spillWrite, hjob, Option.isSome_none, Bool.false_eq_true, if_false, ht, Option.bind_some,
    State.spillShort, hst, hready, hid ▸ hfree, hid, hshort, hany, hhelps, hstart, decide_true, Bool.and_self,
    Bool.true_or, if_true]

theorem spillWrite_line {j : CtxJob} (hjob : s.jobOf id = some j) (hk : t.killed = none) (hr : j.restore = false) :
    s.spillWrite id = s.spillLine t j := by
  simp [State.spillWrite, State.jobLine, hjob, ht, hk, hr]

theorem contextRestore_line {j : CtxJob} (hjob : s.jobOf id = some j) (hk : t.killed = none) (hr : j.restore = true) :
    s.contextRestore id id.core.toNat = s.restoreLine t j := by
  simp [State.contextRestore, State.jobLine, hjob, ht, hk, hr]

end

section
variable {s s1 : State} {t : Thread} {j : CtxJob} {k : Nat} (hdone : j.done < j.lines)
include hdone

theorem spillLine_head (hhead : j.done < j.head) (hread : j.read = false)
    (hkey : s.agentKey .spill 0 0 (j.addr + BitVec.ofNat 64 (64 * j.done)) true = (s1, some k)) :
    s.spillLine t j = some ((s1.putLine (stageKey j.addr j.done) k).setJob { j with done := j.done + 1, read := false }) := by
  simp only [State.spillLine, if_neg (Nat.not_le.mpr hdone), hread, decide_eq_false (Nat.not_le.mpr hhead), Bool.and_false,
    Bool.false_eq_true, if_false, hkey]

theorem spillLine_reads (hhead : j.head ≤ j.done) (hread : j.read = false) :
    s.spillLine t j = some ((s.moveLines [(t.poolLine j, stageKey j.addr j.done)]).setJob { j with read := true }) := by
  simp only [State.spillLine, if_neg (Nat.not_le.mpr hdone), hread, decide_eq_true hhead, Bool.not_false, Bool.and_self,
    if_true]

theorem spillLine_writes (hread : j.read = true)
    (hkey : s.agentKey .spill 0 0 (j.addr + BitVec.ofNat 64 (64 * j.done)) true = (s1, some k)) :
    s.spillLine t j = some ((s1.moveLines [(stageKey j.addr j.done, k)]).setJob { j with done := j.done + 1, read := false }) := by
  simp only [State.spillLine, if_neg (Nat.not_le.mpr hdone), hread, Bool.not_true, Bool.false_and, Bool.false_eq_true,
    if_false, if_true, hkey]

theorem restoreLine_reads (hread : j.read = false)
    (hkey : s.agentKey .spill 0 0 (j.addr + BitVec.ofNat 64 (64 * j.done)) false = (s1, some k)) :
    s.restoreLine t j = some ((s1.moveLines [(k, stageKey j.addr j.done)]).setJob
      (if j.head ≤ j.done ∧ 64 * (j.done - j.head) < (t.pool.getD (0, 0)).2 then { j with read := true }
        else { j with done := j.done + 1, read := false })) := by
  simp only [State.restoreLine, if_neg (Nat.not_le.mpr hdone), hread, Bool.false_eq_true, if_false, hkey,
    Bool.and_eq_true, decide_eq_true_eq]

theorem restoreLine_writes (hread : j.read = true) :
    s.restoreLine t j =
      some ((s.moveLines [(stageKey j.addr j.done, t.poolLine j)]).setJob { j with done := j.done + 1, read := false }) := by
  simp only [State.restoreLine, if_neg (Nat.not_le.mpr hdone), hread, if_true]

end

section
variable {s s1 : State} {x : SpilledCtx} {kept : Bool} {c : Nat}

theorem restoreCtx_barred (h : s.ctxMay x kept c = false) : s.restoreCtx x kept c = none := by
  simp only [State.restoreCtx, h, Bool.not_false, if_true]

/-- A context that may return, whose page is present and whose region's turn it is, begins to be restored (R295, R299). -/
theorem restoreCtx_begins (hmay : s.ctxMay x kept c = true) (hpeek : (s.peek 0 x.addr).isSome = true)
    (hturn : x.keep.rcb ≠ 0 → s.turnOf x.keep.regionId x.keep.prio = true)
    (hon : s.restoreOn x.keep x.addr x.bytes c (x.slotOn kept c) = some s1) (hjobs : s1.jobs.length ≠ s.jobs.length) :
    s.restoreCtx x kept c = some (if x.keep.rcb = 0 then s1
      else s1.noteDispatch x.keep.regionId x.keep.prio s.waitingLevels) := by
  have hpage : (s.peek 0 x.addr).isNone = false := by rw [← Option.not_isSome, hpeek, Bool.not_true]
  have hmine : (x.keep.rcb != 0 && !s.turnOf x.keep.regionId x.keep.prio) = false := by
    by_cases h : x.keep.rcb = 0
    · simp [h]
    · simp [hturn h]
  simp only [State.restoreCtx, hmay, hpage, hmine, hon, Option.map_some, decide_eq_false hjobs, Bool.not_true, Bool.or_false,
    Bool.false_eq_true, if_false, decide_eq_true_eq]

/-- The first context of an identity that may return is the one restored. -/
theorem contextRestore_first {id : Ident} {l l2 : List (SpilledCtx × Bool)} (hjob : s.jobOf id = none)
    (hl : s.contexts.filter (fun y => y.1.keep.id = id) = l ++ (x, kept) :: l2)
    (hbar : ∀ y ∈ l, s.ctxMay y.1 y.2 c = false) (hx : s.restoreCtx x kept c = some s1) :
    s.contextRestore id c = some s1 := by
  have hnone : l.findSome? (fun x => s.restoreCtx x.1 x.2 c) = none :=
    List.findSome?_eq_none_iff.mpr fun y hy => restoreCtx_barred (hbar y hy)
  simp only [State.contextRestore, hjob, Option.any_none, Bool.false_and, Bool.false_eq_true, if_false, hl,
    List.findSome?_append, hnone, Option.none_or, List.findSome?_cons, hx]

end

/-- Settles O49: one rule for each event of a thread. -/
theorem threadEvents : Obligations.ThreadEvents := by
  unfold Obligations.ThreadEvents
  refine ⟨?_, ?_⟩
  · intro s s1 s2 t id r d k stop lo len scope ended woken ht hst himg
    refine ⟨?_, ?_, ?_, ?_⟩
    · intro hev hw hp hd hspec
      have hret {q : State} (hbox : s.endBox t = (q, true)) : exec .threadRetire s = ended q := by
        simp only [exec, execThreadRetire, hev, threadRetire_ends ht hst hw hp hd hspec hbox, happens_some, State.ended, ended]
      refine ⟨fun hrcb => hret ?_, fun hrcb hc hr hbox => hret ?_⟩
      · simp only [State.endBox, hrcb, if_true]
      · simp only [State.endBox, if_neg hrcb, beq_eq_false_iff_ne.mpr hc, Bool.false_eq_true, if_false, hr, hbox]
    · intro hev hw hp hd hr hkey happly
      have hdec : s.decide' t d = (s2, true) := by simp only [State.decide', hr, hkey, happly]
      simp only [exec, execDecisionTakesEffect, hev, decisionTakesEffect_ends ht hst hw hp hd hdec, happens_some,
        State.ended, ended]
    · intro hev hw hcyc hturn
      simp only [exec, execPauseExpiry, hev, pauseExpiry_ends ht hst himg hw hcyc hturn, happens_some, woken]
    · intro hev hw hops haccs
      simp only [exec, execTlbinvComplete, hev, tlbinvComplete_ends ht hst himg hw hops haccs, happens_some, woken]
  · intro s s1 t u id r bit c i b k w x kept core l l2 j
    refine ⟨fun ht => ⟨?_, ?_, ?_, ?_, ?_⟩, ?_⟩
    · intro cores v hev hw hst hclear
      refine ⟨fun hfind => ?_, fun hfind hplace hmove => ?_⟩
      · simp only [exec, execUnitMigration, hev, unitMigration_none ht hw hst hclear hfind, happens_some, v]
      · simp only [exec, execUnitMigration, hev, unitMigration_moves ht hw hst hclear hfind hplace hmove, happens_some]
    · intro hev hw hspec hold hover
      refine ⟨fun hbuf hu hst himg => ?_, fun st more hid hbuf hone hu => ?_⟩
      · simp only [exec, execBecomeOldest, hev, becomeOldest_direct ht hw hspec hold hover hbuf hu hst himg, happens_some]
      · simp only [exec, execBecomeOldest, hev, becomeOldest_writes ht hw hspec hold hover hid hbuf hone hu, happens_some]
    · intro hst hh
      refine ⟨fun hev => ⟨holdThread_held hst hh, ?_⟩, fun hev hr hhold hc => ?_⟩
      · simp only [exec, execHold, hev, holdEvent_debug ht hst hh, happens_some]
      · simp only [exec, execHold, hev, holdEvent_region ht hst hh hr hhold hc, happens_some]
    · intro hev hid hjob hjobs hst hready hhelps
      have hstarts := @spillWrite_starts s s1 t id ht w hid hjob hjobs hst hready hhelps
      refine ⟨fun hslot hrun hstart => ?_, fun hslot hlack hstart => ?_⟩
      · simp only [exec, execSpillWrite, hev, hstarts (shortOf_run hslot hrun) rfl hstart, happens_some]
      · simp only [exec, execSpillWrite, hev, hstarts (shortOf_slot hslot hlack) rfl hstart, happens_some]
    · intro hjob hk hdone key pool at' next
      refine ⟨fun hev hr => ?_, fun hev hr => ?_⟩
      · have hline : exec .spillWrite s = happens s (s.spillLine t j) := by
          simp only [exec, execSpillWrite, hev, spillWrite_line ht hjob hk hr]
        refine ⟨fun hhead hread hkey => hline.trans ?_, fun hhead hread => hline.trans ?_, fun hread hkey => hline.trans ?_⟩
        · rw [spillLine_head hdone hhead hread hkey, happens_some]
        · rw [spillLine_reads hdone hhead hread, happens_some]
          rfl
        · rw [spillLine_writes hdone hread hkey, happens_some]
      · have hline : exec .contextRestore s = happens s (s.restoreLine t j) := by
          simp only [exec, execContextRestore, hev, contextRestore_line ht hjob hk hr]
        refine ⟨fun hread hkey => hline.trans ?_, fun hread => hline.trans ?_⟩
        · rw [restoreLine_reads hdone hread hkey, happens_some]
        · rw [restoreLine_writes hdone hread, happens_some]
          rfl
    · intro hev hjob hl hbar hmay hpeek hturn hon hjobs
      simp only [exec, execContextRestore, hev,
        contextRestore_first hjob hl hbar (restoreCtx_begins hmay hpeek hturn hon hjobs), happens_some]

end Sys2Proof.Machine
end

section
/-! PROOF. Writes of system level (O44). -/
namespace Sys2Proof.Machine

/-! ### A range of memory cleared -/

/-- What is left of memory where entries are removed by their keys. -/
theorem memByte_filter (q : Nat → Bool) (j : Nat) {m : List Host.Cell} {lo : Nat} (hm : memSorted lo m = true) :
    memByte j (m.filter fun c => q c.1) = if q j then memByte j m else 0 := by
  induction m generalizing lo with
  | nil => simp [memByte]
  | cons c m ih =>
    obtain ⟨i, b⟩ := c
    simp only [memSorted, Bool.and_eq_true, decide_eq_true_eq] at hm
    obtain ⟨-, hrest⟩ := hm
    have hbelow (h : j < i + 1) : memByte j (m.filter fun c => q c.1) = 0 :=
      memByte_below (memSorted_filter _ m _ hrest) h
    have hlist := ih hrest
    by_cases hij : i = j
    · subst hij
      cases hq : q i <;> simp [hq, memByte, hbelow]
    · by_cases hji : j < i
      · cases hq : q i <;> simp [hq, memByte, hij, hji, hbelow (Nat.lt_succ_of_lt hji)]
      · cases hq : q i <;> simp [hq, memByte, hij, hji, hlist]

section
variable {s : State} {k n j : Nat}

/-- A scrub zeroes its range and nothing else (R293). -/
theorem State.memByte_scrubbed (hm : s.memOk) :
    memByte j (s.scrubbed k n).mem = if k ≤ j ∧ j < k + n then 0 else memByte j s.mem := by
  have h := memByte_filter (fun i => !(decide (k ≤ i) && decide (i < k + n))) j hm
  rw [State.scrubbed, h]
  by_cases hin : k ≤ j ∧ j < k + n <;> simp [hin]

/-- No word of a range is left in a list of words from which the range is removed. -/
theorem contains_outside (l : List Nat) (hlo : k ≤ j) (hhi : j < k + n) :
    (l.filter fun w => !(decide (k / 8 ≤ w) && decide (8 * w < k + n))).contains (j / 8) = false := by
  have hw : k / 8 ≤ j / 8 := Nat.div_le_div_right hlo
  have hend : 8 * (j / 8) < k + n := by omega
  simp [List.mem_filter, hw, hend]

theorem State.full_scrubbed (hlo : k ≤ j) (hhi : j < k + n) : (s.scrubbed k n).full j = true := by
  simp only [State.full, State.scrubbed, contains_outside _ hlo hhi, Bool.not_false]

theorem State.bad_scrubbed (hlo : k ≤ j) (hhi : j < k + n) : (s.scrubbed k n).bad j = false := by
  simp only [State.bad, State.scrubbed, contains_outside _ hlo hhi]

theorem State.settleIn_nil (h : s.accs = []) : s.settleIn k n = s := by
  simp [State.settleIn, State.waitedWords, settleWords, h]

theorem State.memByte_cleared (hm : s.memOk) (ha : s.accs = []) :
    memByte j (s.cleared k n).mem = if k ≤ j ∧ j < k + n then 0 else memByte j s.mem := by
  rw [State.cleared, State.settleIn_nil (by simpa using ha)]
  exact State.memByte_scrubbed hm

end

/-! ### Cores are no concern of a bank -/

theorem cores_foldl {α : Type} {f : State → α → State} (hf : ∀ s a, (f s a).cores = s.cores) (l : List α)
    (s : State) : (l.foldl f s).cores = s.cores := by
  induction l generalizing s with
  | nil => rfl
  | cons a l ih => rw [List.foldl_cons, ih, hf]

section
variable (s : State) (k n : Nat)

@[simp] theorem State.fillBits_cores : (s.fillBits k n).cores = s.cores :=
  cores_foldl (f := fun s w => s.setFull w true) (fun _ _ => rfl) _ s

@[simp] theorem State.setBits_cores (b : Bool) : (s.setBits k n b).cores = s.cores :=
  cores_foldl (f := fun s w => s.setFull w b) (fun _ _ => rfl) _ s

@[simp] theorem State.setBitsFrom_cores (v : Nat) : (s.setBitsFrom k n v).cores = s.cores :=
  cores_foldl (f := fun s j => s.setFull (k + 8 * j) (v.testBit j)) (fun _ _ => rfl) _ s

@[simp] theorem State.writeBar_cores (b : BarObj) : (s.writeBar k b).cores = s.cores := by
  simp [State.writeBar]

@[simp] theorem State.setAccess_cores (a : Access) : (s.setAccess a).cores = s.cores := rfl

@[simp] theorem State.refill_cores (a : Access) : (s.refill a).cores = s.cores := by
  unfold State.refill
  split
  · split <;> rfl
  · rfl

@[simp] theorem act_cores (f : Form) : (act s k f).1.cores = s.cores := by
  cases f with
  | load | feget => rfl
  | store | atom => simp [act]
  | ldw | waitv | barwait =>
    simp only [act, apply_ite Prod.fst, ite_self]
  | ldc | stf =>
    simp only [act, apply_ite Prod.fst, apply_ite State.cores, State.setBits_cores, State.write_cores, ite_self]
  | ste | feset | barinit | bararr | barcount => simp [act]

@[simp] theorem completeSkerry_cores (a : Access) : (completeSkerry s a).1.cores = s.cores := by
  unfold completeSkerry
  split
  · rfl
  · split
    next e =>
      split
      · rw [State.refill_cores, State.setAccess_cores]
        exact (congrArg (·.1.cores) e).symm.trans (act_cores ..)
      · rfl

theorem settleOne_cores {s : State} {w : Nat} {p : State × List Nat} (h : settleOne s w = some p) :
    p.1.cores = s.cores := by
  have hmap {o : Option Access} (e : o.map (completeSkerry s) = some p) : p.1.cores = s.cores := by
    obtain ⟨a, -, rfl⟩ := Option.map_eq_some_iff.mp e
    exact completeSkerry_cores s a
  unfold settleOne at h
  split at h
  · cases h
    simp
  · split at h
    · split at h
      · cases h
        exact completeSkerry_cores s _
      · exact hmap h
    · exact hmap h

theorem settleWords_cores (fuel : Nat) (l : List Nat) : (settleWords fuel l s).cores = s.cores := by
  induction fuel generalizing l s with
  | zero => rfl
  | succ fuel ih =>
    cases l with
    | nil => rfl
    | cons w ws =>
      unfold settleWords
      split
      · exact ih ..
      · next e => exact (ih ..).trans (settleOne_cores e)

@[simp] theorem State.cleared_cores : (s.cleared k n).cores = s.cores := settleWords_cores ..

end

/-! ### Instructions of system level -/

section
variable {s : State} {t : Thread}

theorem systemX_system (hl : t.level = 2) : systemX s t = .ok () := need_true (decide_eq_true hl)

theorem systemX_denied (hl : t.level ≠ 2) : systemX s t = .error (priv s) := need_false (decide_eq_false hl)

/-- The low bits of a register's scalar part are its own. -/
theorem scalar_low {n : Nat} (hn : n ≤ 64) (x : Reg) : (scalar x).extractLsb' 0 n = x.extractLsb' 0 n := by
  ext i hi
  simp [scalar, show i < 64 by omega]

/-- A compute core takes 1 to 16 as its partition; what names no compute core traps nothing (R142). -/
def PartitionValid (c n : Nat) : Prop := 0x400 ≤ c ∨ (1 ≤ n ∧ n ≤ 16)

theorem partition_refused {c n : Nat} (h : ¬ PartitionValid c n) : (decide (c < 0x400) && !inRange n 1 16) = true := by
  simp only [PartitionValid, inRange, Bool.and_eq_true, Bool.not_eq_true', Bool.and_eq_false_iff, decide_eq_true_eq,
    decide_eq_false_iff_not] at h ⊢
  omega

theorem partition_accepted {c n : Nat} (h : PartitionValid c n) : (decide (c < 0x400) && !inRange n 1 16) = false := by
  simp only [PartitionValid, inRange, Bool.and_eq_false_iff, Bool.not_eq_false', Bool.and_eq_true, decide_eq_true_eq,
    decide_eq_false_iff_not] at h ⊢
  omega

variable (hI : Issues s t) {a b : RegNum} {x y : Reg}
include hI

section
variable (hl : t.level ≠ 2)
include hl

theorem exec_atollWrite_denied : exec (.atollWrite a) s = .next (takeTrap s t (.plain 0x02 s.word)) := by
  show execAtollWrite a s = _
  exact runT_error hI (st := priv s) (by simp only [systemX_denied hl, erb])

theorem exec_channelEntryWrite_denied :
    exec (.channelEntryWrite a b) s = .next (takeTrap s t (.plain 0x02 s.word)) := by
  show execChannelEntryWrite a b s = _
  exact runT_error hI (st := priv s) (by simp only [systemX_denied hl, erb])

theorem exec_scrub_denied : exec (.scrub a b) s = .next (takeTrap s t (.plain 0x02 s.word)) := by
  show execScrub a b s = _
  exact runT_error hI (st := priv s) (by simp only [systemX_denied hl, erb])

theorem exec_errlogClear_denied : exec (.errlogClear a b) s = .next (takeTrap s t (.plain 0x02 s.word)) := by
  show execErrlogClear a b s = _
  exact runT_error hI (st := priv s) (by simp only [systemX_denied hl, erb])

end

variable (ha : t.holds a x)
include ha

theorem exec_atollWrite_ok (hl : t.level = 2) :
    let cl := clusterOf t.id.core.toNat
    let next := tabPut cl ((scalar x).extractLsb' 0 2) s.sys.atollNext
    exec (.atollWrite a) s =
      .next ((State.settleAtoll { s with sys := { s.sys with atollNext := next } } cl).commit t.adv) := by
  show execAtollWrite a s = _
  exact runT_ok hI (by simp only [systemX_system hl, win1 ha.inside, readX_holds ha, okb, prb])

variable (hb : t.holds b y)
include hb

theorem exec_partitionWrite_ill (hbad : ¬ PartitionValid (scalar y).toNat ((scalar x).extractLsb' 0 5).toNat) :
    exec (.partitionWrite a b) s = .next (takeTrap s t (.plain 0x01 s.word)) := by
  show execPartitionWrite a b s = _
  exact runT_error hI (st := ill s) (by
    simp only [Thread.peek_holds ha, Thread.peek_holds hb, partition_refused hbad, Bool.not_true, need_false, erb])

theorem exec_partitionWrite_priv (hok : PartitionValid (scalar y).toNat ((scalar x).extractLsb' 0 5).toNat)
    (hl : t.level ≠ 2) : exec (.partitionWrite a b) s = .next (takeTrap s t (.plain 0x02 s.word)) := by
  show execPartitionWrite a b s = _
  exact runT_error hI (st := priv s) (by
    simp only [Thread.peek_holds ha, Thread.peek_holds hb, partition_accepted hok, Bool.not_false, need_true, okb,
      systemX_denied hl, erb])

variable (hl : t.level = 2)
include hl

theorem exec_partitionWrite_ok (hok : PartitionValid (scalar y).toNat ((scalar x).extractLsb' 0 5).toNat) :
    exec (.partitionWrite a b) s =
      .next ((s.writePartition (scalar y).toNat ((scalar x).extractLsb' 0 5).toNat).commit t.adv) := by
  show execPartitionWrite a b s = _
  exact runT_ok hI (by
    simp only [Thread.peek_holds ha, Thread.peek_holds hb, partition_accepted hok, Bool.not_false, need_true, okb,
      systemX_system hl, win2 ha.inside hb.inside, readX_holds ha, readX_holds hb, prb])

theorem exec_channelEntryWrite_ok :
    let c := targetCore (scalar y)
    let ch := targetChan (scalar y)
    exec (.channelEntryWrite a b) s = .next (State.commit
      (if s.reachable c && chanWordOk (scalar x) ch (s.chan c ch).cls then s.setChan c ch (Chan.ofWord (scalar x))
        else s) t.adv) := by
  intro c ch
  show execChannelEntryWrite a b s = _
  refine runT_ok hI ?_
  simp only [systemX_system hl, win2 ha.inside hb.inside, readX_holds ha, readX_holds hb, okb]
  split <;> rfl

theorem exec_scrub_ok :
    let k := (scalar x).toNat / 2 ^ 17 * 2 ^ 17
    exec (.scrub a b) s = .next (State.commit (if paSpace k < 5 then s.scrubbed k (2 ^ 17) else s) t.adv) := by
  show execScrub a b s = _
  exact runT_ok hI (by
    simp only [systemX_system hl, win2 ha.inside hb.inside, readX_holds ha, readX_holds hb, okb, prb])

theorem exec_errlogClear_ok :
    exec (.errlogClear a b) s = .next (State.commit (if scalar x = 0 ∧ (scalar y).toNat < 256 then
      { s with sys := { s.sys with errlog := s.sys.errlog.set (scalar y).toNat 0 } } else s) t.adv) := by
  show execErrlogClear a b s = _
  refine runT_ok hI ?_
  simp only [systemX_system hl, win2 ha.inside hb.inside, readX_holds ha, readX_holds hb, okb, Bool.and_eq_true,
    decide_eq_true_eq]
  split <;> rfl

end

/-! ### What takes effect -/

/-- A sub-ring change is in effect at once where the rings of the cluster are empty (R217). -/
theorem State.atollGs_settleAtoll {s : State} {cl : Nat} (g : BitVec 2) (h : s.ringBusy cl = false) :
    State.atollGs (State.settleAtoll
      { s with sys := { s.sys with atollNext := tabPut cl g s.sys.atollNext } } cl) cl = g := by
  have hring : State.ringBusy { s with sys := { s.sys with atollNext := tabPut cl g s.sys.atollNext } } cl = false := h
  simp only [State.settleAtoll, State.atollGs, tabGet_tabPut, if_true, hring, Bool.false_eq_true, if_false,
    Option.getD_some]

theorem State.atollGs_commit (s : State) (t : Thread) (cl : Nat) : (s.commit t).atollGs cl = s.atollGs cl := by
  simp only [State.atollGs, State.commit_sys]

/-- A partition that no use of the core forbids takes effect, and the bytes that change sides are cleared (R142). -/
theorem State.writePartition_changes {s : State} {c n : Nat} (hc : c < 0x400) (hr : s.reachable c = true)
    (hne : (s.core c).acc ≠ n) (hq : (s.core c).engq = [])
    (hpool : ∀ r ∈ s.poolUse c, apart (poolBytes - 0x1_0000 * max (s.core c).acc n)
      (0x1_0000 * (max (s.core c).acc n - min (s.core c).acc n)) r.1 r.2 = true)
    (htile : ∀ r ∈ s.tileUse c, r.2 = 0) :
    s.writePartition c n = (s.setCore c { s.core c with
      acc := n, tiles := shiftTiles (s.core c).acc n (s.core c).tiles }).cleared
        (poolKey c (poolBytes - 0x1_0000 * max (s.core c).acc n))
        (0x1_0000 * (max (s.core c).acc n - min (s.core c).acc n)) := by
  have hp : ((s.poolUse c).any fun r => !apart (poolBytes - 0x1_0000 * max (s.core c).acc n)
      (0x1_0000 * (max (s.core c).acc n - min (s.core c).acc n)) r.1 r.2) = false :=
    List.any_eq_false.mpr fun r hr => by simp [hpool r hr]
  have ht : ((s.tileUse c).any fun r => r.2 != 0) = false :=
    List.any_eq_false.mpr fun r hr => by simp [htile r hr]
  simp only [State.writePartition, decide_eq_false (Nat.not_le.mpr hc), hr, decide_eq_false hne, hq, hp, ht,
    List.isEmpty_nil, Bool.not_true, Bool.or_self, Bool.false_eq_true, if_false]

/-- Settles O44: one rule for each write, and what the writes of the partition, of %atoll and of %scrub change. -/
theorem systemWritesComplete : Obligations.SystemWritesComplete := by
  unfold Obligations.SystemWritesComplete
  refine ⟨?_, ?_⟩
  · intro s t a b x y v w hI hl ha hb
    refine ⟨?_, ?_, exec_channelEntryWrite_ok hI ha hb hl, ?_, exec_errlogClear_ok hI ha hb hl⟩
    · intro c n hc hlo hhi
      have hexec : exec (.partitionWrite a b) s = .next ((s.writePartition c n).commit t.adv) :=
        exec_partitionWrite_ok hI ha hb hl (.inr ⟨hlo, hhi⟩)
      refine ⟨hexec, fun hr hne hq hpool htile => ⟨_, hexec, ?_, fun hm hacc j => ?_⟩⟩
      · rw [State.core_commit, State.writePartition_changes hc hr hne hq hpool htile, State.core, State.cleared_cores]
        exact congrArg Core.acc ((State.core_setCore ..).trans (if_pos rfl))
      · rw [State.commit_mem, State.writePartition_changes hc hr hne hq hpool htile]
        exact State.memByte_cleared hm hacc
    · intro cl next
      have hexec := exec_atollWrite_ok hI ha hl
      exact ⟨hexec, fun hring => ⟨_, hexec, (State.atollGs_commit ..).trans (State.atollGs_settleAtoll _ hring)⟩⟩
    · intro k
      exact ⟨exec_scrub_ok hI ha hb hl, fun hm j =>
        ⟨State.memByte_scrubbed hm, fun hlo hhi => ⟨State.full_scrubbed hlo hhi, State.bad_scrubbed hlo hhi⟩⟩⟩
  · intro s t a b hI
    refine ⟨fun hl => ⟨exec_atollWrite_denied hI hl, exec_channelEntryWrite_denied hI hl, exec_scrub_denied hI hl,
      exec_errlogClear_denied hI hl⟩, ?_⟩
    intro x y ha hb
    rw [← scalar_low (by norm_num) x]
    exact ⟨exec_partitionWrite_ill hI ha hb, exec_partitionWrite_priv hI ha hb⟩

end Sys2Proof.Machine
end

section
/-! PROOF. Events of messages, replies and deposits (O50). -/
namespace Sys2Proof.Machine

/-! ### The decision of a core on a message (R73, R75) -/

/-- The kept entries of the buffer that are taken at a message's core (R75). -/
def State.keptAt (s : State) (m : Msg) : Nat := ((s.core m.core.toNat).inbuf.filter (·.kept)).length

/-- A message of a channel for which entries are kept (R75). -/
def Msg.OfKeptChannel (m : Msg) : Prop := m.chan = 0 ∨ m.chan = 1 ∨ m.chan = 3

section
variable {s : State} {m : Msg}

/-- Whether a message takes a kept entry (R75). -/
theorem takesKept_iff : ((m.chan = 0 || m.chan = 1 || m.chan = 3) && decide (s.keptAt m < 4)) = true ↔
    m.OfKeptChannel ∧ s.keptAt m < 4 := by
  simp only [Msg.OfKeptChannel, Bool.and_eq_true, Bool.or_eq_true, decide_eq_true_eq, or_assoc]

theorem buffer_kept (hmine : m.OfKeptChannel) (hroom : s.keptAt m < 4) :
    s.buffer m = some (s.keepMsg { m with kept := true }) :=
  if_pos (takesKept_iff.mpr ⟨hmine, hroom⟩)

section
variable (h : ¬ m.OfKeptChannel ∨ 4 ≤ s.keptAt m)
include h

theorem not_takesKept : ¬ ((m.chan = 0 || m.chan = 1 || m.chan = 3) && decide (s.keptAt m < 4)) = true :=
  fun htake => by
    obtain ⟨hmine, hroom⟩ := takesKept_iff.mp htake
    exact h.elim (· hmine) fun hfull => absurd hroom (Nat.not_lt.mpr hfull)

theorem buffer_other (hroom : (s.core m.core.toNat).inbuf.length - s.keptAt m < 60) :
    s.buffer m = some (s.keepMsg m) :=
  (if_neg (not_takesKept h)).trans (if_pos hroom)

theorem buffer_full (hfull : 60 ≤ (s.core m.core.toNat).inbuf.length - s.keptAt m) : s.buffer m = none :=
  (if_neg (not_takesKept h)).trans (if_neg (Nat.not_lt.mpr hfull))

end

theorem decideArrival_discards (h : s.reachable m.core.toNat = false ∨ (m.chan = 2 ∧ m.core.toNat < 0x400)) :
    s.decideArrival m = some (s.unmesh m.n) := by
  have hout : (!s.reachable m.core.toNat || (m.chan = 2 && decide (m.core.toNat < 0x400))) = true := by
    simpa using h
  simp only [State.decideArrival, hout, if_true]

section
variable (hr : s.reachable m.core.toNat = true) (hopen : m.chan ≠ 2 ∨ 0x400 ≤ m.core.toNat)
include hr hopen

theorem arrival_open : (!s.reachable m.core.toNat || (m.chan = 2 && decide (m.core.toNat < 0x400))) = false := by
  simpa [hr, ← imp_iff_not_or] using hopen

theorem decideArrival_wakes (hcls : ((s.unmesh m.n).chan m.core.toNat m.chan).cls = .wake) :
    s.decideArrival m = some (((s.unmesh m.n).unknown.2.wakeSlot m.core
      ((s.unmesh m.n).unknown.1.toNat % 64)).sendDone m) := by
  simp only [State.decideArrival, arrival_open hr hopen, hcls, beq_self_eq_true, Bool.false_eq_true, if_false, if_true]

variable (hcls : ((s.unmesh m.n).chan m.core.toNat m.chan).cls ≠ .wake)
include hcls

/-- A message that may start does so unless a buffered one starts first (R75). -/
theorem decideArrival_starts (hst : (s.unmesh m.n).startable m = true)
    (hfirst : ∀ x ∈ ((s.unmesh m.n).core m.core.toNat).inbuf, x.chan ≠ m.chan) :
    s.decideArrival m = if ((s.unmesh m.n).nextBuffered m.core.toNat).isSome then none
      else some (((s.unmesh m.n).startMsg m).sendDone m) := by
  have hnone : (((s.unmesh m.n).core m.core.toNat).inbuf.any fun x => x.chan = m.chan) = false :=
    List.any_eq_false.mpr fun x hx => by simpa using hfirst x hx
  simp only [State.decideArrival, arrival_open hr hopen, beq_eq_false_iff_ne.mpr hcls, hst, hnone, Bool.not_false,
    Bool.and_self, Bool.false_eq_true, if_false, if_true]

theorem decideArrival_buffers (hwait : (s.unmesh m.n).startable m = false ∨
    ∃ x ∈ ((s.unmesh m.n).core m.core.toNat).inbuf, x.chan = m.chan) :
    s.decideArrival m = ((s.unmesh m.n).buffer m).map fun s => s.sendDone m := by
  have hlater : ((s.unmesh m.n).startable m &&
      !(((s.unmesh m.n).core m.core.toNat).inbuf.any fun x => x.chan = m.chan)) = false := by
    rcases hwait with h | ⟨x, hx, hchan⟩
    · rw [h, Bool.false_and]
    · have hany : (((s.unmesh m.n).core m.core.toNat).inbuf.any fun x => x.chan = m.chan) = true :=
        List.any_eq_true.mpr ⟨x, hx, decide_eq_true hchan⟩
      rw [hany, Bool.not_true, Bool.and_false]
  simp only [State.decideArrival, arrival_open hr hopen, beq_eq_false_iff_ne.mpr hcls, hlater, Bool.false_eq_true,
    if_false]

end

/-! ### The events that bring a message to its decision -/

variable {n : Nat} (harr : s.arriving n = some m)
include harr

theorem messageArrival_decides (hbody : (∃ l x, m.body = .user l x) ∨ (∃ l x y z, m.body = .request l x y z) ∨
    (∃ g, m.body = .device g) ∨ ∃ d, m.body = .routine d) : s.messageArrival n = s.decideArrival m := by
  rcases hbody with ⟨l, x, h⟩ | ⟨l, x, y, z, h⟩ | ⟨g, h⟩ | ⟨d, h⟩
  all_goals simp only [State.messageArrival, harr, h]

theorem trapMessage_decides {g : Reg} (hbody : m.body = .trap g) : s.trapMessage n = s.decideArrival m := by
  simp only [State.trapMessage, harr, hbody]

theorem migrationArrival_decides {x : Thread} {d : Option RegNum} {deadline : Word}
    (hbody : m.body = .context x d deadline) (hp : s.passed deadline = false) :
    s.migrationArrival n = s.decideArrival m := by
  simp only [State.migrationArrival, harr, hbody, hp, Bool.false_eq_true, if_false]

end

/-! ### A context that leaves its slot for a buffer (R139) -/

theorem mkIdent_core_slot (id : Ident) : mkIdent (BitVec.ofNat 11 id.core.toNat) id.slot = id := by
  have hcore : BitVec.ofNat 11 id.core.toNat = id.core := BitVec.ofNat_toNat ..
  have hslot : BitVec.ofNat 6 id.slot = id.extractLsb' 0 6 := BitVec.ofNat_toNat ..
  rw [mkIdent, hcore, hslot]
  refine BitVec.eq_of_getLsbD_eq fun i hi => ?_
  rw [BitVec.getLsbD_append, BitVec.getLsbD_extractLsb', BitVec.getLsbD_extractLsb']
  split
  next hlow => rw [decide_eq_true hlow, Bool.true_and, Nat.zero_add]
  next hlow => rw [decide_eq_true (by omega), Bool.true_and, Nat.add_sub_cancel' (Nat.not_lt.mp hlow)]

theorem tabGet_map {α β : Type} (f : α → β) (k : Nat) (l : Tab α) :
    tabGet k (l.map fun p => (p.1, f p.2)) = (tabGet k l).map f := by
  induction l with
  | nil => rfl
  | cons p l ih =>
    simp only [List.map_cons, tabGet, ih]
    split <;> rfl

/-- A thread after one from which it may have loaded has moved. -/
def Thread.readdressed (t : Thread) (old new : Ident) : Thread :=
  { t with spec := t.spec.map fun sp => { sp with fwd := sp.fwd.map fun i => if i = old then new else i } }

section
variable {s : State}

/-- The identity that a search finds is no thread's. -/
theorem State.freeIdent_free {fuel n : Nat} {id : Ident} (h : s.freeIdent fuel n = some id) : s.thread? id = none := by
  induction fuel generalizing n with
  | zero => exact absurd h (by simp [State.freeIdent])
  | succ fuel ih =>
    unfold State.freeIdent at h
    split at h
    next hn =>
      cases h
      exact Option.isNone_iff_eq_none.mp hn
    next => exact ih h

theorem State.thread?_readdress (old new q : Ident) :
    (s.readdress old new).thread? q = (s.thread? q).map (·.readdressed old new) :=
  tabGet_map (fun u : Thread => u.readdressed old new) q.toNat s.threads

theorem State.forwardNew_threads (t : Thread) (new : Ident) : (s.forwardNew t new).threads = s.threads := by
  unfold State.forwardNew
  dsimp only
  split <;> rfl

theorem State.forwardNew_cores (t : Thread) (new : Ident) : (s.forwardNew t new).cores = s.cores := by
  unfold State.forwardNew
  dsimp only
  split <;> rfl

theorem State.inbuf_freeThread (t : Ident) (c : Nat) : ((s.freeThread t).core c).inbuf = (s.core c).inbuf := by
  unfold State.freeThread
  dsimp only
  split
  · refine (congrArg Core.inbuf (State.core_setCore ..)).trans ?_
    split
    next h => rw [h]
    next => rfl
  · rfl

variable {t : Thread} {id : Ident}

/-- A thread that moves is gone from its old identity. -/
theorem State.moveThread_gone (b : Nat) (h : t.id ≠ id) :
    (s.moveThread t id.core.toNat id.slot b).1.thread? t.id = none := by
  simp only [State.moveThread, mkIdent_core_slot, State.thread?, State.forwardNew_threads]
  refine (State.thread?_setThread ..).trans ?_
  rw [if_neg h, State.thread?_readdress, State.thread?_freeThread, if_pos rfl, Option.map_none]

theorem State.inbuf_moveThread (b c : Nat) :
    ((s.moveThread t id.core.toNat id.slot b).1.core c).inbuf = (s.core c).inbuf := by
  simp only [State.moveThread, State.core, State.forwardNew_cores]
  exact State.inbuf_freeThread ..

end

/-- Where a thread is kept whose context is in a buffer: under another identity, MIGRATING, with the wait that it
had. -/
def State.evicted (s : State) (t : Thread) (id : Ident) : State :=
  (s.moveThread t id.core.toNat id.slot 0).1.setThread { (s.moveThread t id.core.toNat id.slot 0).2 with
    state := .migrating, wait := t.wait, reopen := t.reopen }

section
variable {s : State} {t : Thread} {id : Ident}

theorem State.evicted_gone (h : t.id ≠ id) : (s.evicted t id).thread? t.id = none := by
  rw [State.evicted, State.thread?_setThread, if_neg fun e => h (e.trans (mkIdent_core_slot id))]
  exact State.moveThread_gone 0 h

theorem State.evicted_kept : (s.evicted t id).thread? id =
    some { t with id := id, wbase := 0, state := .migrating, voids := [], released := false, yielded := none } := by
  rw [State.evicted, State.thread?_setThread]
  simp only [State.moveThread, mkIdent_core_slot, if_true]

end

section
variable {s : State} {m : Msg}

/-- A message without a context changes the buffer alone. -/
theorem keepMsg_plain (h : ∀ x d e, m.body ≠ .context x d e) : s.keepMsg m = s.setCore m.core.toNat
    { s.core m.core.toNat with inbuf := (s.core m.core.toNat).inbuf ++ [m] } := by
  have hstay : s.leaveSlot m = (s, m) := by
    unfold State.leaveSlot
    split
    next hbody _ => exact absurd hbody (h _ _ _)
    next => rfl
  simp only [State.keepMsg, hstay]

variable {t : Thread} {id id' : Ident} {x : Thread} {d : Option RegNum} {e : Word} (hbody : m.body = .context x d e)
  (hsrc : m.src = some id) (ht : s.thread? id = some t) (hfree : s.freeIdent 0xFB00 0x1_0400 = some id')
include hbody hsrc ht hfree

theorem keepMsg_context : s.keepMsg m = (s.evicted t id').setCore m.core.toNat
    { (s.evicted t id').core m.core.toNat with
      inbuf := (s.core m.core.toNat).inbuf ++ [{ m with src := some id' }] } := by
  have hleave : s.leaveSlot m = (s.evicted t id', { m with src := some id' }) := by
    simp only [State.leaveSlot, hbody, hsrc, Option.bind_some, ht, hfree, State.evicted]
  have hbuf : ((s.evicted t id').core m.core.toNat).inbuf = (s.core m.core.toNat).inbuf := State.inbuf_moveThread ..
  simp only [State.keepMsg, hleave, hbuf]

end

/-! ### Answers that end a wait -/

section
variable {s : State} {t : Thread} {m : Msg} {id : Ident} (himg : t.image = [])
include himg

/-- CHSET's change reaches its core, and the acknowledgement its thread (R138). -/
theorem chsetArrival_ends {d : RegNum} (bits : BitVec 4) (hsrc : m.src = some id) (ht : s.thread? id = some t)
    (hw : t.wait = .chset m.n d) (hst : t.state = .parked) :
    s.chsetArrival m bits =
      ((s.unmesh m.n).setChan m.core.toNat m.chan ((s.chan m.core.toNat m.chan).withBits bits)).commit
        { t.setReg d 0 with pc := t.pc + 8, wait := .none, state := .ready } := by
  have hlive : ((s.unmesh m.n).setChan m.core.toNat m.chan
      ((s.chan m.core.toNat m.chan).withBits bits)).thread? id = some t := ht
  have hwoken := adv_woken (t := t.setReg d 0) hst himg
  simp only [State.chsetArrival, hsrc, Option.bind_some, hlive, hw, if_true, Thread.completes, hwoken]
  rfl

/-- A parked thread that waits for a page goes on with its wake (R283). -/
theorem wakeThread_page (hk : t.killed = none) (hst : t.state = .parked) (hw : t.wait = .page) :
    s.wakeThread t = s.setThread { t with wait := .none, state := .ready } := by
  have hcond : t.condemned = false := by simp [Thread.condemned, hk]
  have hrequeue : s.requeue t = (s, t) := by simp [State.requeue, himg]
  have hwoken : t.woken = { t with wait := .none, state := .ready } := by simp [Thread.woken, hst, himg]
  simp [State.wakeThread, hcond, hst, hrequeue, hw, hwoken]

end

/-! ### Replies and deposits -/

section
variable {s : State} {t : Thread} {r : RegNum}

theorem syscallReply_lands {id : Ident} (v : Reg) (hf : s.forwards = []) (ht : s.thread? id = some t)
    (hwin : r.toNat < t.win) (hpres : (t.entry r).pres = .awaiting) (haccs : ∀ a ∈ s.accs, a.t = t.id → a.d ≠ some r) :
    s.syscallReply id r v = some (s.setThread (t.setReg r v)) := by
  have hto : s.forwardTo id r = id := by rw [State.forwardTo, hf, List.foldl_nil]
  have hfree : (s.accs.any fun a => a.t = t.id && a.d = some r) = false :=
    List.any_eq_false.mpr fun a ha => by simpa using haccs a ha
  simp only [State.syscallReply, hto, ht, hwin, hpres, hfree, decide_true, Bool.not_false, Bool.and_self, if_true]

theorem forwardingEntryExpiry_ends {n : Nat} {f : Forward} (hf : s.forwards.find? (fun f => f.n = n) = some f)
    (hstop : f.stop ≤ s.cyc) (hover : ∀ a ∈ s.accs, a.home = f.old → a.t ≠ f.new) :
    s.forwardingEntryExpiry n = some { s with forwards := s.forwards.filter fun g => g.n != n } := by
  have hnone : s.accs.any f.carries = false := List.any_eq_false.mpr fun a ha => by
    have h := hover a ha
    simp only [Forward.carries, Bool.and_eq_true, decide_eq_true_eq]
    tauto
  simp only [State.forwardingEntryExpiry, hf, decide_eq_true hstop, hnone, Bool.not_false, Bool.and_self, if_true]

variable {c : Nat} {prev : Bool} {d : Deposit} {l : List Deposit} (hl : s.link c prev = d :: l)
include hl

/-- A deposit for a core or a slot that is not there is dropped (R79). -/
theorem depositLanding_absent (h : s.reachable (s.ringCore c prev) = false ∨
    s.thread? (mkIdent (BitVec.ofNat 11 (s.ringCore c prev)) d.slot.toNat) = none) :
    s.depositLanding c prev = some ((s.popLink c prev true).settleAtoll (clusterOf c)) := by
  have hnone : (if s.reachable (s.ringCore c prev) then
      s.thread? (mkIdent (BitVec.ofNat 11 (s.ringCore c prev)) d.slot.toNat) else none) = none := by
    rcases h with h | h <;> simp [h]
  simp only [State.depositLanding, hl, hnone]

variable (hr : s.reachable (s.ringCore c prev) = true)
  (ht : s.thread? (mkIdent (BitVec.ofNat 11 (s.ringCore c prev)) d.slot.toNat) = some t) (hst : t.state ≠ .spilled)
include hr ht hst

theorem depositLanding_outside (hwin : t.win ≤ d.reg.toNat) :
    s.depositLanding c prev = some ((s.popLink c prev true).settleAtoll (clusterOf c)) := by
  simp only [State.depositLanding, hl, hr, if_true, ht, if_neg hst, if_pos hwin]

theorem depositLanding_lands (hwin : d.reg.toNat < t.win) (hopen : s.openFor t d.reg = true)
    (hjob : s.jobOf t.id = none) : s.depositLanding c prev =
      some (((s.popLink c prev false).setThread (t.setReg d.reg d.val)).settleAtoll (clusterOf c)) := by
  simp only [State.depositLanding, hl, hr, if_true, ht, if_neg hst, if_neg (Nat.not_le.mpr hwin), hopen, hjob,
    Option.isNone_none, Bool.and_self]

end

/-- A thread in rotation, or parked, is not SPILLED. -/
theorem not_spilled {t : Thread} (h : t.state = .ready ∨ t.state = .parked) : t.state ≠ .spilled := by
  rcases h with h | h <;> simp [h]

/-- Settles O50: one rule for each way that a message, a reply or a deposit may end. -/
theorem messageEvents : Obligations.MessageEvents := by
  unfold Obligations.MessageEvents
  refine ⟨?_, ?_⟩
  · intro s m core t n slot u id id' d v s0 c harr hn
    subst hn
    refine ⟨?_, keepMsg_plain, ?_, ?_, ?_, ?_⟩
    · intro arrives
      have hdecided (i : Instr) (hi : exec i s = happens s (s.decideArrival m)) : arrives i := by
        refine ⟨fun h => ?_, fun hr hopen => ⟨fun hcls => ?_, fun hcls hst hfirst => ?_, fun hcls hwait => ?_⟩⟩
        · rw [hi, decideArrival_discards h, happens_some]
        · rw [hi, decideArrival_wakes hr hopen hcls, happens_some]
        · rw [hi, decideArrival_starts hr hopen hcls hst hfirst]
          refine ⟨fun hnone => ?_, fun hsome => ?_⟩
          · rw [hnone]
            rfl
          · rw [if_pos (Option.isSome_iff_ne_none.mpr hsome)]
            rfl
        · rw [hi, decideArrival_buffers hr hopen hcls hwait]
          intro kept mine
          refine ⟨fun hmine hroom => ?_, fun hother hroom => ?_, fun hother hfull => ?_⟩
          · rw [buffer_kept hmine hroom]
            rfl
          · rw [buffer_other hother hroom]
            rfl
          · rw [buffer_full hother hfull]
            rfl
      refine ⟨fun hbody hev => hdecided _ ?_, fun hbody hev => hdecided _ ?_,
        fun x d deadline hbody hp hev => hdecided _ ?_⟩
      · simp only [exec, execMessageArrival, hev, messageArrival_decides harr hbody]
      · simp only [exec, execTrapMessage, hev, trapMessage_decides harr hbody]
      · simp only [exec, execMigrationArrival, hev, migrationArrival_decides harr hbody hp]
    · intro x d e hbody hsrc ht hid hfree
      have hne : t.id ≠ id' := fun h => by
        rw [hid] at h
        rw [h, State.freeIdent_free hfree] at ht
        cases ht
      rw [keepMsg_context hbody hsrc ht hfree]
      refine ⟨?_, ⟨_, State.evicted_kept, rfl, rfl, rfl⟩, ?_⟩
      · rw [← hid]
        exact State.evicted_gone hne
      · exact congrArg Core.inbuf ((State.core_setCore ..).trans (if_pos rfl))
    · intro hbody hev hsrc ht hw hst himg
      simp only [exec, execMessageArrival, hev, State.messageArrival, harr, hbody,
        chsetArrival_ends himg _ hsrc ht hw hst, happens_some, s0, c]
    · intro hbody hev ht hst himg hw hk
      have hslot : s0.wakeSlot m.core slot = s0.wakeThread t := by simp only [State.wakeSlot, ht]
      simp only [exec, execPageWake, hev, State.pageWake, harr, hbody, happens_some]
      rw [← wakeThread_page himg hk hst hw, ← hslot]
    · intro q hq hev
      simp only [exec, execBufferedMessageStart, hev, State.bufferedMessageStart, hq, happens_some]
  · intro s t id r v f n core prev d l c dst at'
    refine ⟨?_, ?_, ?_⟩
    · intro hev hf ht hwin hpres haccs
      simp only [exec, execSyscallReply, hev, syscallReply_lands v hf ht hwin hpres haccs, happens_some]
    · intro hev hf hstop hover
      simp only [exec, execForwardingEntryExpiry, hev, forwardingEntryExpiry_ends hf hstop hover, happens_some]
    · intro hev hl
      have hexec : exec .depositLanding s = happens s (s.depositLanding c prev) := by
        simp only [exec, execDepositLanding, hev, c]
      refine ⟨fun hr ht hst hwin hopen hjob => ?_, fun h => ?_⟩
      · rw [hexec, depositLanding_lands hl hr ht (not_spilled hst) hwin hopen hjob, happens_some]
      · have hdrop : s.depositLanding c prev = some ((s.popLink c prev true).settleAtoll (clusterOf c)) := by
          cases hr : s.reachable dst with
          | false => exact depositLanding_absent hl (.inl hr)
          | true =>
            rcases h with h | h | ⟨ht, hst, hwin⟩
            · exact absurd hr (by simp [h])
            · exact depositLanding_absent hl (.inr h)
            · exact depositLanding_outside hl hr ht (not_spilled hst) hwin
        rw [hexec, hdrop, happens_some]

end Sys2Proof.Machine
end

section
/-! PROOF. What reset leaves (O57). -/
namespace Sys2Proof.Machine

/-- The classes that channels have at reset (R71, R72). -/
def resetClass (i : Nat) : Cls :=
  if i = 0 then .wake else if i = 1 then .trap else if i = 3 then .migration else .message

theorem Core.chans_reset (c : Nat) : ∀ i < 32, (Core.reset c).chans[i]? = some (Chan.reset (resetClass i))
  | 0, _ | 1, _ | 2, _ | 3, _ => rfl
  | i + 4, h => by
    have hcls : resetClass (i + 4) = .message := by simp [resetClass]
    rw [hcls]
    exact List.getElem?_replicate_of_lt (by omega)

/-- Memory that lists nothing reads zero (R151). -/
theorem memNat_nil (k n : Nat) : memNat [] k n = 0 := by
  unfold memNat
  induction n generalizing k with
  | zero => rfl
  | succ n ih =>
    have hcons : bytesNat (memBytes [] k (n + 1)) = 0 + 256 * bytesNat (memBytes [] (k + 1) n) := rfl
    rw [hcons, ih]

/-- The partition of a compute core at reset (R142). -/
theorem Core.acc_reset {c : Nat} (h : c < 0x400) : (State.reset.core c).acc = 4 := if_pos h

/-- Settles O57: no table of the reset state has an entry, so that each core, channel and byte has its reset value. -/
theorem resetState : Obligations.ResetState := by
  unfold Obligations.ResetState
  refine ⟨fun _ => rfl, rfl, rfl, ?_, fun _ => ⟨rfl, rfl, rfl, rfl, rfl⟩, ?_, fun _ => rfl, rfl, rfl, ?_,
    State.memOk.reset⟩
  · intro c i hi
    exact ⟨_, Core.chans_reset c i hi, rfl, rfl, rfl, rfl, rfl, rfl, rfl, rfl⟩
  · intro c hc
    exact ⟨congrArg (poolBytes - · * 0x1_0000) (Core.acc_reset hc), congrArg (· * 4) (Core.acc_reset hc)⟩
  · intro k n
    exact ⟨memNat_nil k n, rfl, rfl⟩

end Sys2Proof.Machine
end

section
/-! PROOF. The cycle budget (O22). -/
namespace Sys2Proof.Machine

/-! ### Stops that BUDGET comes before -/

/-- An instruction that completes, or stops for no cause above BUDGET in R23's table. -/
inductive NoEarlierCause {α : Type} : X α → Prop
  | ok (a : α) : NoEarlierCause (.ok a)
  | park (w : Wait) : NoEarlierCause (.error (.park w))
  | parkIn (s : State) (t : Thread) : NoEarlierCause (.error (.parkIn s t))
  | trap (i : TrapInfo) : beforeBudget i.code = false → NoEarlierCause (.error (.trap i))

theorem NoEarlierCause.bind {α β : Type} {x : X α} {f : α → X β} (hx : NoEarlierCause x)
    (hf : ∀ a, NoEarlierCause (f a)) : NoEarlierCause (x >>= f) := by
  cases hx with
  | ok a => exact hf a
  | park w => exact .park w
  | parkIn s t => exact .parkIn s t
  | trap i hi => exact .trap i hi

theorem noEarlierCause_readX (t : Thread) (r : RegNum) : NoEarlierCause (readX t r) := by
  obtain ⟨x, -, -, -, h⟩ | ⟨-, h⟩ | ⟨-, -, h⟩ := readX_cases t r
  · exact h ▸ .ok x
  · exact h ▸ .park _
  · exact h ▸ .trap _ rfl

theorem noEarlierCause_destX (t : Thread) (r : RegNum) : NoEarlierCause (destX t r) := by
  unfold destX
  split
  · exact .park _
  · exact .ok ()

/-- BUDGET takes the place of whatever an instruction without an earlier cause would have done (R104). -/
theorem spentStop_budget {t : Thread} {x : X (State × Thread)} (h : NoEarlierCause x) :
    spentStop beforeBudget t x = .trap (budgetTrap t) := by
  cases h with
  | ok a => rfl
  | park w => rfl
  | parkIn s t => rfl
  | trap i hi => simp [spentStop, hi]

section
variable {s : State} {t : Thread} (ht : s.thread? s.cur = some t) (hsp : s.spent t = true)
include ht hsp

theorem runT_spent {f : State → Thread → X (State × Thread)} (h : NoEarlierCause (f s t)) :
    runT s f = .next (takeTrap s t (budgetTrap t)) := by
  simp only [runT, runWith, ht, hsp, if_true, spentStop_budget h, stopped]

theorem runReg_spent {f : Thread → X Thread} (h : NoEarlierCause (f t)) :
    runReg s f = .next (takeTrap s t (budgetTrap t)) :=
  runT_spent ht hsp (h.bind fun _ => .ok _)

theorem int2_spent {d a b : RegNum} (hd : d.toNat < t.win) (ha : a.toNat < t.win) (hb : b.toNat < t.win)
    (f : Reg → Reg → Reg) : int2 s d a b f = .next (takeTrap s t (budgetTrap t)) := by
  refine runReg_spent ht hsp ?_
  rw [win3 hd ha hb, okb]
  exact (noEarlierCause_readX t a).bind fun _ => (noEarlierCause_readX t b).bind fun _ =>
    (noEarlierCause_destX t d).bind fun _ => .ok _

end

/-! ### The count of a region -/

theorem Region.noteSpent_eq (r : Region) : r.noteSpent =
    { r with spent := r.spent || (r.budget != BitVec.allOnes 64 && decide (r.budget.toNat ≤ r.count)) } := by
  unfold Region.noteSpent
  cases r.budget != BitVec.allOnes 64 && decide (r.budget.toNat ≤ r.count) <;> simp

/-- The region of a number after a region is put. -/
theorem State.region?_setRegion (s : State) (r : Region) (q : Nat) :
    (s.setRegion r).region? q = if q = r.id then some r else s.region? q := tabGet_tabPut ..

theorem State.region?_countInstr {s : State} {t : Thread} {r : Region} (h : s.region? t.regionId = some r)
    (hid : r.id = t.regionId) : (s.countInstr t).region? t.regionId = some { r with
      count := r.count + 1,
      recent := (s.cyc, t.id) :: r.recent.filter fun p => s.cyc < p.1 + 64,
      spent := r.spent || (r.budget != BitVec.allOnes 64 && decide (r.budget.toNat ≤ r.count + 1)) } := by
  unfold State.countInstr
  rw [h]
  exact (State.region?_setRegion ..).trans (by simp [Region.noteSpent_eq, hid])

/-- Settles O22: no cause above BUDGET can stop NOP, nor ADD with registers inside the window. -/
theorem spentBudgetTraps : Obligations.SpentBudgetTraps := by
  unfold Obligations.SpentBudgetTraps
  intro s t
  refine ⟨fun ht hsp => ⟨runReg_spent ht hsp (.ok t), fun d a b ty hd ha hb => int2_spent ht hsp hd ha hb _⟩, ?_⟩
  intro hids r hr
  exact State.region?_countInstr (s := s.setThread t) hr (hids _ r hr)

end Sys2Proof.Machine
end

section
/-! PROOF. Events of the region tree (O53). -/
namespace Sys2Proof.Machine

/-! ### The launch queue -/

/-- What the unfolder does for a box of one kind, whose RCB is at a key: the part of a dispatch that depends on the kind
(`State.dispatchBox_runs`). -/
def State.handled (s : State) (r : Region) (b : BoxNote) (k c : Nat) : Ready → State × Bool
  | .evaluate => s.evaluateBox r b k c
  | .leaf => s.dispatchLeaf r b k c
  | .join => s.dispatchJoin r b k c

section
variable {s s1 q : State} {r : Region} {b : BoxNote} {rid rcb k c : Nat} {kind : Ready}
variable (hr : s.region? rid = some r) (hnote : r.note (BitVec.ofNat 64 rcb) = some b) (hopen : r.open' = true)
variable (hturn : s.turnOf rid (s.levelOf r b) = true) (hkey : s.rcbKey b.holder r b.addr true = (s1, some k))
variable (hready : s.readyOn r b c = some kind) (hq : s1.handled r b k c kind = (q, true))
include hr hnote hopen hturn hkey hready hq

/-- A box whose turn it is and that its core can take is handled, and counts as a dispatch if one was delivered
(R102, R103). -/
theorem State.dispatchBox_runs : s.dispatchBox rid rcb c kind =
    some (if s.delivers r k kind then q.noteDispatch rid (s.levelOf r b) s.waitingLevels else q) := by
  have hguard : (s.readyOn r b c != some kind || !r.open' || !s.turnOf rid (s.levelOf r b)) = false := by
    simp [hready, hopen, hturn]
  cases kind <;>
  · simp only [State.handled] at hq
    simp only [State.dispatchBox, hr, hnote, hguard, hkey, hq, gate_through, Bool.false_eq_true, if_false]

theorem State.dispatchBox_delivers (h : s.delivers r k kind = true) : s.dispatchBox rid rcb c kind =
    some (q.noteDispatch rid (s.levelOf r b) s.waitingLevels) := by
  rw [State.dispatchBox_runs hr hnote hopen hturn hkey hready hq, if_pos h]

theorem State.dispatchBox_settles (h : s.delivers r k kind = false) : s.dispatchBox rid rcb c kind = some q := by
  rw [State.dispatchBox_runs hr hnote hopen hturn hkey hready hq, h]
  rfl

end

section
variable {s s2 : State} {r : Region} {b : BoxNote} {k c : Nat}

/-! ### Evaluation -/

theorem State.evaluateBox_expires (hmid : s.midDefer (r.rule (s.rcbRule k)) k = false)
    (hlate : s.passed (s.rcbDeadline k) = true) :
    s.evaluateBox r b k c = s.settleBoxAt r b.addr stExpired := by
  simp only [State.evaluateBox, hmid, hlate, Bool.false_eq_true, if_false, if_true]

/-- The note of a box that core `c` evaluates (R87). -/
def State.evaluated (s : State) (r : Region) (b : BoxNote) (k c : Nat) : BoxNote :=
  { b with holder := (s.evalHolder (r.rule (s.rcbRule k)) b k c).getD b.holder }

/-- The state in which a box is in evaluation, passed to the unfolder that evaluates it (R83, R87). -/
def State.inEvaluation (s : State) (r : Region) (b : BoxNote) (k c : Nat) : State :=
  (s.setRcbState k stEval).setNote r.id (s.evaluated r b k c)

theorem State.evaluateBox_inTime (hmid : s.midDefer (r.rule (s.rcbRule k)) k = false)
    (hlate : s.passed (s.rcbDeadline k) = false) : s.evaluateBox r b k c =
      (let e := r.rule (s.rcbRule k)
       let q := s.inEvaluation r b k c
       let r1 := (q.region? r.id).getD r
       if ruleRpres e then
         (q.sendRoutine c (ruleRch e) (q.routine r1 (s.evaluated r b k c) k .rule (ruleRentry e) none (0, 0)), true)
       else q.applyDefer r1 (s.evaluated r b k c) k c) := by
  simp only [State.evaluateBox, hmid, hlate, Bool.false_eq_true, if_false]
  rfl

/-! ### Leaves -/

theorem any_couldHold {e : BitVec 512} (h : ∃ x ∈ allCores, s.couldHold e k x = true) :
    (!(allCores.any fun x => s.couldHold e k x)) = false := by
  rw [List.any_eq_true.mpr h, Bool.not_true]

theorem State.dispatchLeaf_faults (hnone : ∀ x ∈ allCores, s.couldHold (r.rule (s.rcbRule k)) k x = false)
    (hsettle : s.settleBoxAt r b.addr stFaulted = (s2, true)) :
    s.dispatchLeaf r b k c = (s2.trapBox r b.addr, true) := by
  have hany : (allCores.any fun x => s.couldHold (r.rule (s.rcbRule k)) k x) = false := by
    simpa using hnone
  simp only [State.dispatchLeaf, hany, hsettle, Bool.not_false, if_true]

variable (hsome : ∃ x ∈ allCores, s.couldHold (r.rule (s.rcbRule k)) k x = true)
include hsome

theorem State.dispatchLeaf_expires (hlate : s.passed (s.rcbDeadline k) = true) :
    s.dispatchLeaf r b k c = s.settleBoxAt r b.addr stExpired := by
  simp only [State.dispatchLeaf, any_couldHold hsome, hlate, Bool.false_eq_true, if_false, if_true]

theorem State.dispatchLeaf_placed {o i : Nat} (hlate : s.passed (s.rcbDeadline k) = false)
    (ho : s.poolPlace c (up64 (s.poolNeed (r.rule (s.rcbRule k)) k)) = some o)
    (hi : s.tilePlace c (ruleTiles (r.rule (s.rcbRule k))) = some i) : s.dispatchLeaf r b k c =
      (let e := r.rule (s.rcbRule k)
       let pool := if up64 (s.poolNeed e k) = 0 then none else some (o, up64 (s.poolNeed e k))
       let q := (((s.placed.clearPool c pool).clearTiles c i (ruleTiles e)).setRcbState k stRunning).setNote r.id
         { b with holder := .cluster (clusterOf c) }
       (q.sendRoutine c (ruleLch e) (q.routine r b k .leaf (ruleLentry e) pool (i, ruleTiles e)), true)) := by
  simp only [State.dispatchLeaf, any_couldHold hsome, hlate, ho, hi, Bool.false_eq_true, if_false]

end

/-! ### One region with one box -/

/-- Where one region has one box, the launch queue's next is that box (R102). -/
theorem State.dispatch_only {s q : State} {r : Region} {b : BoxNote} {rid c : Nat} {kind : Ready}
    (hregions : s.regions = [(rid, r)]) (hboxes : r.boxes = [b]) (hopen : r.open' = true)
    (hready : s.readyOn r b c = some kind) (hbox : s.dispatchBox rid b.addr.toNat c kind = some q) :
    s.dispatch c = some q := by
  simp only [State.dispatch, hregions, hboxes, List.findSome?_cons, hopen, hready, hbox, Bool.not_true,
    Bool.false_eq_true, if_false]

/-! ### The end of a region -/

/-- A region whose count has reached its budget is spent (R104). -/
theorem State.cycleBudgetExhausted_spends {s : State} {r : Region} {rid : Nat} (hr : s.region? rid = some r)
    (hsp : r.spent = false) (hbudget : r.budget ≠ BitVec.allOnes 64) (hcount : r.budget.toNat ≤ r.count) :
    s.cycleBudgetExhausted rid = some (s.setRegion { r with spent := true }) := by
  have hnote : r.noteSpent = { r with spent := true } := by
    rw [Region.noteSpent_eq, bne_iff_ne.mpr hbudget, decide_eq_true hcount, Bool.true_and, Bool.or_true]
  simp only [State.cycleBudgetExhausted, hr, hnote, hsp, Bool.not_false, Bool.and_self, if_true]

section
variable {s : State} (hidle : ∀ a ∈ s.accs, a.stage ≠ .skerry)
include hidle

/-- Where no access waits at a bank, a word has none to settle. -/
theorem settleOne_idle (w : Nat) : settleOne s w = none := by
  have hnone (p : Access → Bool) : s.accs.find? (fun a => a.skerryOn w && p a) = none := by
    simp only [List.find?_eq_none, Access.skerryOn]
    intro a ha
    simp [hidle a ha]
  have hready (kind : SkerryKind) : s.firstReady w kind = none := by
    simp only [State.firstReady, Bool.and_assoc]
    exact hnone _
  simp [settleOne, hnone, hready]

theorem settleWords_idle (fuel : Nat) (l : List Nat) : settleWords fuel l s = s := by
  induction fuel generalizing l with
  | zero => rfl
  | succ fuel ih =>
    cases l with
    | nil => rfl
    | cons w l => simp only [settleWords, settleOne_idle hidle, ih]

theorem State.settle_idle (k n : Nat) : s.settle k n = s := by
  simp only [State.settle, settleWords_idle hidle, ite_self]

end

/-- An aligned word is the one word of its eight bytes. -/
theorem wordsOf_word {k : Nat} (h : k % 8 = 0) : wordsOf k 8 = [k] := by
  have hspan : (k + 8 - 1) / 8 - k / 8 + 1 = 1 := by omega
  have hkey : 8 * (k / 8) = k := by omega
  rw [wordsOf, if_neg (by decide), hspan, List.range_one, List.map_singleton, Nat.add_zero, hkey]

/-- The state in which a filling store of a word has been performed. -/
def State.filled (s : State) (k : Nat) (x : Reg) : State := (s.write k 8 x.toNat).setFull k true

theorem State.full_filled (s : State) (k : Nat) (x : Reg) : (s.filled k x).full k = true :=
  (State.full_setFull ..).trans (if_pos rfl)

/-- A number that fits a narrower word keeps its value in a wide one. -/
theorem toNat_ofNat_wide {n w v : Nat} (hn : n ≤ w) (hv : v < 2 ^ n) : (BitVec.ofNat w v).toNat = v :=
  Nat.mod_eq_of_lt (hv.trans_le (Nat.pow_le_pow_right two_pos hn))

theorem State.read_filled {s : State} {k v : Nat} (hm : s.memOk) (hv : v < 2 ^ 64) :
    (s.filled k (BitVec.ofNat 512 v)).read k 8 = v :=
  (State.read_write _ _ _ hm).trans (by rw [toNat_ofNat_wide (by decide) hv, Nat.mod_eq_of_lt hv])

/-- A filling store into an empty word writes and fills it (R182). -/
theorem act_stf_empty {s : State} {k : Nat} (hk : k % 8 = 0) (hempty : s.full k = false) (x : Reg) :
    act s k (.stf false x) = (s.filled k x, .ok 0, false) := by
  simp [act, State.allEmpty, State.setBits, wordsOf_word hk, hempty, State.filled]

/-- A completion store that is alone, and finds its word sound and empty, is performed as it arrives (R106). -/
theorem arrive_complAccess {q s : State} {r : Region} {k : Nat} (haccs : q.accs = [s.complAccess r k])
    (hsound : q.sound k 8) (hk : k % 8 = 0) (hempty : q.full k = false) :
    q.arrive (s.complAccess r k) = { q.filled k (BitVec.ofNat 512 r.complValue) with
      accs := [{ s.complAccess r k with stage := .done 0 }] } := by
  have hsame : (q.filled k (BitVec.ofNat 512 r.complValue)).accs = [s.complAccess r k] := haccs
  have hidle : ∀ y ∈ (q.filled k (BitVec.ofNat 512 r.complValue)).accs, y.stage ≠ .skerry := by
    simp [hsame, State.complAccess]
  have hbank : bankStep q k (.stf false (BitVec.ofNat 512 r.complValue)) =
      (q.filled k (BitVec.ofNat 512 r.complValue), .ok 0) := by
    rw [bankStep_sound (f := .stf false _) hsound, act_stf_empty hk hempty]
    simp [Form.writes, State.settle_idle hidle]
  have harrive : q.bankArrive (s.complAccess r k) = { q.filled k (BitVec.ofNat 512 r.complValue) with
      accs := [{ s.complAccess r k with stage := .done 0 }] } := by
    simp only [State.bankArrive, State.complAccess, hbank, Form.mayWait, State.refill, State.setAccess, hsame, setAcc]
    simp
  simp only [State.arrive, State.bankDone, harrive]
  simp [State.complAccess, Form.writes, State.notedWrite, State.acc?]

/-- The value of a completion word fits one word (R106). -/
theorem Region.complValue_lt (r : Region) : r.complValue < 2 ^ 64 := by
  unfold Region.complValue
  omega

/-- The completion store into an empty word is performed at once, and the region is no longer live (R106). -/
theorem State.regionCompletion_fills {s s1 : State} {r : Region} {rid k : Nat} (hr : s.region? rid = some r)
    (hnot : r.completing = false) (hover : s.regionOver r = true)
    (hkey : s.agentKey .completion r.id r.domain r.complWord true = (s1, some k)) (hsound : s1.sound k 8)
    (haccs : s1.accs = []) (hempty : s1.full k = false) (hk : k % 8 = 0) :
    ∃ s2, s.regionCompletion rid = some s2 ∧ s2.region? rid = none ∧ s2.full k = true ∧ s2.accs = [] ∧
      (s1.memOk → s2.read k 8 = r.complValue) := by
  let q := (s1.setRegion { r with completing := true }).addAccess (s1.complAccess r k)
  let s2 := State.dropRegion { q.filled k (BitVec.ofNat 512 r.complValue) with accs := [] } rid
  have hone : q.accs = [s1.complAccess r k] := congrArg (· ++ _) haccs
  have harrive := arrive_complAccess hone ⟨hsound.memory, hsound.good⟩ hk hempty
  refine ⟨s2, ?_, (tabGet_tabDel ..).trans (if_pos rfl), State.full_filled q k _, rfl, fun hm =>
    State.read_filled (s := q) hm (Region.complValue_lt r)⟩
  simp only [State.regionCompletion, hr, hnot, hover, hkey, Bool.not_true, Bool.false_eq_true, if_false, q] at harrive ⊢
  simp only [harrive]
  simp [State.dropAccess, s2, q]

/-- Settles O53: one rule for each event of the region tree. -/
theorem treeEvents : Obligations.TreeEvents := by
  unfold Obligations.TreeEvents
  refine ⟨?_, ?_⟩
  · intro s s1 s2 r b rid rcb k core c level noted at' e hr hnote hopen hturn hkey
    refine ⟨?_, ?_, ?_, ?_, ?_⟩
    · intro hev hready hmid
      have hexec : exec .evaluate s = happens s (s.dispatchBox rid rcb c .evaluate) := by
        simp only [exec, execEvaluate, hev, State.evaluate, c]
      have hdelivers {q : State} (hq : s1.evaluateBox r b k c = (q, true)) (hdel : s.delivers r k .evaluate = true) :
          exec .evaluate s = noted q := by
        rw [hexec, State.dispatchBox_delivers hr hnote hopen hturn hkey hready hq hdel, happens_some]
      refine ⟨fun hlate hdel hsettle => ?_, fun hlate hdel hrule => ?_, fun hlate hdel hrule => ?_⟩
      · have hq := (State.evaluateBox_expires (b := b) (c := c) hmid hlate).trans hsettle
        rw [hexec, State.dispatchBox_settles hr hnote hopen hturn hkey hready hq hdel, happens_some]
      · exact hdelivers ((State.evaluateBox_inTime hmid hlate).trans (if_pos hrule)) hdel
      · intro q hdefer
        refine hdelivers ((State.evaluateBox_inTime hmid hlate).trans ?_) hdel
        exact (if_neg (Bool.eq_false_iff.mp hrule)).trans hdefer
    · intro hev hready hdel
      have hexec {q : State} (hq : s1.dispatchLeaf r b k c = (q, true)) : exec .leafDispatch s = .next q := by
        simp only [exec, execLeafDispatch, hev, State.leafDispatch]
        rw [State.dispatchBox_settles hr hnote hopen hturn hkey hready hq hdel, happens_some]
      exact ⟨fun hlate hsome hsettle => hexec ((State.dispatchLeaf_expires hsome hlate).trans hsettle),
        fun hnone hsettle => hexec (State.dispatchLeaf_faults hnone hsettle)⟩
    · intro hev hready hlate hdel hsome o i ho hi
      have hq := State.dispatchLeaf_placed (b := b) hsome hlate ho hi
      simp only [exec, execLeafDispatch, hev, State.leafDispatch]
      rw [State.dispatchBox_delivers hr hnote hopen hturn hkey hready hq hdel, happens_some]
    · intro hev hready
      simp only [exec, execJoinDispatch, hev, State.joinDispatch]
      rw [State.dispatchBox_delivers hr hnote hopen hturn hkey hready rfl rfl, happens_some]
    · intro hev hregions hboxes haddr hready
      have hrcb : BitVec.ofNat 64 b.addr.toNat = BitVec.ofNat 64 rcb := by
        rw [BitVec.ofNat_toNat, BitVec.setWidth_eq, haddr]
      have hbox := State.dispatchBox_delivers hr (hrcb ▸ hnote) hopen hturn hkey hready rfl rfl
      simp only [exec, execDispatch, hev]
      rw [State.dispatch_only hregions hboxes hopen hready hbox, happens_some]
  · intro s s1 t r rid k
    refine ⟨?_, ?_, ?_⟩
    · intro hr hev hsp hbudget hcount
      simp only [exec, execCycleBudgetExhausted, hev, State.cycleBudgetExhausted_spends hr hsp hbudget hcount,
        happens_some]
    · intro hr hid hev hnot hover hkey hsound haccs hempty hk
      obtain ⟨q, hq, hrest⟩ := State.regionCompletion_fills hr hnot hover hkey hsound haccs hempty hk
      exact ⟨q, by simp only [exec, execRegionCompletion, hev, hq, happens_some], hrest⟩
    · obtain ⟨-, -, hill⟩ := failedFetchesTrap
      exact hill s t

end Sys2Proof.Machine
end

section
/-! PROOF. Vector instructions: masked results, VINT, VFP conversions and comparisons, VPERM, reductions and masks (O13,
O14, O16 to O18). -/
namespace Sys2Proof.Machine

/-! ### Lanes of a register that is spelt by patterns -/

/-- Digit i of the number that w-bit patterns spell, lowest first. -/
theorem foldr_digit (w : Nat) (l : List Nat) : ∀ i,
    l.foldr (fun x acc => x % 2 ^ w + 2 ^ w * acc) 0 / 2 ^ (w * i) % 2 ^ w = l.getD i 0 % 2 ^ w := by
  induction l with
  | nil => simp
  | cons x l ih =>
    have hx : x % 2 ^ w < 2 ^ w := Nat.mod_lt _ (by positivity)
    intro i
    rw [List.foldr_cons]
    cases i with
    | zero => simp
    | succ i =>
      rw [List.getD_cons_succ, ← ih i, Nat.mul_succ, Nat.add_comm (w * i), pow_add, ← Nat.div_div_eq_div_mul,
        Nat.add_mul_div_left _ _ (by positivity), Nat.div_eq_of_lt hx, Nat.zero_add]

/-- A field inside a bit vector is that of the number that the bit vector was made of. -/
theorem toNat_ofNat_field {a w m : Nat} (h : a + w ≤ m) (x : Nat) :
    (BitVec.ofNat m x).toNat / 2 ^ a % 2 ^ w = x / 2 ^ a % 2 ^ w := by
  obtain ⟨c, rfl⟩ := Nat.exists_eq_add_of_le (Nat.le_of_add_right_le h)
  rw [BitVec.toNat_ofNat, pow_add, Nat.mod_mul_right_div_self, Nat.mod_mod_of_dvd _ (pow_dvd_pow 2 (by omega))]

/-- A lane inside the register is a digit of the number that the register was made of. -/
theorem lane_ofNat {w i : Nat} (h : w * i + w ≤ 512) (x : Nat) :
    lane (BitVec.ofNat 512 x) w i = x / 2 ^ (w * i) % 2 ^ w :=
  toNat_ofNat_field h x

theorem lane_ofLanes {w i : Nat} (h : w * i + w ≤ 512) (l : List Nat) :
    lane (ofLanes w l) w i = l.getD i 0 % 2 ^ w := by
  rw [ofLanes, lane_ofNat h, foldr_digit]

theorem lane_lt (r : Reg) (w i : Nat) : lane r w i < 2 ^ w := Nat.mod_lt _ (by positivity)

/-- An element of a masked result (R108). -/
theorem lane_masked {w n i : Nat} (hfit : w * n ≤ 512) (hi : i < n) (k : Word) (z sl : Bool) (old : Reg)
    (res : Nat → Nat) :
    lane (masked k z sl old w n res) w i =
      if sl = true ∧ i ≠ 0 then 0 else if k.getLsbD i = true then res i % 2 ^ w
      else if z = true then 0 else lane old w i := by
  have hlane : w * i + w ≤ 512 := (Nat.mul_le_mul_left w hi).trans hfit
  have hold : lane old w i % 2 ^ w = lane old w i := Nat.mod_eq_of_lt (lane_lt old w i)
  rw [masked, lane_ofLanes hlane, List.getD_eq_getElem _ _ (by simpa using hi), List.getElem_map, List.getElem_range]
  simp only [apply_ite (· % 2 ^ w), Nat.zero_mod, hold, Bool.and_eq_true, bne_iff_ne]

/-! ### Bits of a mask result -/

/-- The number whose low n bits are given one by one. -/
def bitSum (b : Nat → Bool) (n : Nat) : Nat := ((List.range n).map fun i => if b i then 2 ^ i else 0).sum

theorem bitSum_succ (b : Nat → Bool) (n : Nat) : bitSum b (n + 1) = 2 ^ n * (b n).toNat + bitSum b n := by
  unfold bitSum
  rw [List.range_succ, List.map_append, List.sum_append, Nat.add_comm]
  cases h : b n <;> simp [h]

theorem bitSum_lt (b : Nat → Bool) (n : Nat) : bitSum b n < 2 ^ n := by
  induction n with
  | zero => exact Nat.one_pos
  | succ n ih =>
    rw [bitSum_succ, pow_succ]
    cases b n <;> simp only [Bool.toNat_false, Bool.toNat_true] <;> omega

theorem testBit_bitSum (b : Nat → Bool) (n i : Nat) : (bitSum b n).testBit i = (decide (i < n) && b i) := by
  induction n with
  | zero => simp [bitSum]
  | succ n ih =>
    rw [bitSum_succ, Nat.testBit_two_pow_mul_add _ (bitSum_lt b n), ih, Nat.testBit_bool_toNat]
    rcases Nat.lt_trichotomy i n with hi | rfl | hi
    · simp [hi, Nat.lt_succ_of_lt hi]
    · simp
    · simp [Nat.not_lt.mpr hi.le, show ¬ i < n + 1 by omega, show i - n ≠ 0 by omega]

/-- A bit of a mask result (R109, R119). -/
theorem getLsbD_maskBits {n i : Nat} (hi : i < 64) (k : Word) (z sl : Bool) (old : Word) (bit : Nat → Bool) :
    (maskBits k z sl old n bit).getLsbD i =
      (decide (i < n) && (if sl = true ∧ i ≠ 0 then false else if k.getLsbD i = true then bit i
        else if z = true then false else old.getLsbD i)) := by
  rw [maskBits, BitVec.getLsbD_ofNat, decide_eq_true hi, Bool.true_and]
  refine (testBit_bitSum _ n i).trans ?_
  simp only [Bool.and_eq_true, bne_iff_ne]

/-- Settles O13, by the digits of the number that lanes spell and the bits of a sum of powers. -/
theorem maskedElementsFollowMask : Obligations.MaskedElementsFollowMask := by
  unfold Obligations.MaskedElementsFollowMask
  intro k z sl old w res _
  exact ⟨fun i hi => lane_masked (Nat.mul_div_le 512 w) hi k z sl old res,
    fun oldK bit n i _ hi => getLsbD_maskBits hi k z sl oldK bit⟩

/-! ### Second operands -/

/-- The second operand is an immediate, or a register that holds y. -/
def Thread.holdsSrc (t : Thread) : VSrc → Reg → Prop
  | .reg b, y => t.holds b y
  | .imm _, y => y = 0

theorem srcX_holds {t : Thread} : ∀ {src : VSrc} {y : Reg}, t.holdsSrc src y → srcX t src = .ok y
  | .reg _, _, h => readX_holds h
  | .imm _, _, h => congrArg Except.ok (Eq.symm h)

/-- The registers of an instruction with a second operand lie in the window. -/
theorem srcRegs_inside {t : Thread} {d a : RegNum} (hd : d.toNat < t.win) (ha : a.toNat < t.win) :
    ∀ {src : VSrc} {y : Reg}, t.holdsSrc src y → ∀ r ∈ [d, a] ++ srcRegs src, r.toNat < t.win
  | .reg _, _, h => mem3 hd ha h.inside
  | .imm _, _, _ => mem2 hd ha

/-! ### VINT -/

/-- The pattern of a lane's value is the lane, signed or not. -/
theorem wrap_slane (r : Reg) (w : Nat) (sg : Bool) (i : Nat) : wrap w (slane r w sg i) = lane r w i := by
  have hvalue : slane r w sg i % 2 ^ w = lane r w i % 2 ^ w := by
    cases sg
    · rfl
    · exact sgn_emod w _
  have hlt : (lane r w i : Int) < 2 ^ w := by exact_mod_cast lane_lt r w i
  rw [wrap, hvalue, Int.emod_eq_of_lt (Int.natCast_nonneg _) hlt, Int.toNat_natCast]

/-- The range of an integer type, bound by bound (R111). -/
theorem clampTy_eq (ty : Ty) (v : Int) : clampTy ty v =
    clampInt (if ty.isSigned then -(2 : Int) ^ (ty.width - 1) else 0)
      (if ty.isSigned then (2 : Int) ^ (ty.width - 1) - 1 else (2 : Int) ^ ty.width - 1) v := by
  unfold clampTy
  split <;> rfl

/-- A vector shift completes; the counts are taken modulo the width (R111). -/
theorem vshift_ok {s t d a src ty k z sg f x y old} (hI : Issues s t) (hu : s.has t 0) (ha : t.holds a x)
    (hs : t.holdsSrc src y) (hk : t.keeps d k z old) :
    vshift s d a src ty k z sg f = .next (s.commit (t.setReg d (masked (t.mask k) z false old ty.width
      (count ty.width) fun i => wrap ty.width (f (slane x ty.width sg i) (match src with
        | .reg _ => lane y ty.width i % ty.width
        | .imm v => v.toNat % ty.width)))).adv) := by
  refine vecOp_ok hI hu (srcRegs_inside (keeps_in hk) ha.inside hs) ?_
  simp only [readX_holds ha, srcX_holds hs, oldX_keeps hk, okb, done]
  cases src <;> rfl

/-- VDOT4 completes (R112). -/
theorem execVdot4_ok {s t d a b c ty k z x y v old} (hI : Issues s t) (hu : s.has t 0) (ha : t.holds a x)
    (hb : t.holds b y) (hc : t.holds c v) (hk : t.keeps d k z old) :
    execVdot4 d a b c ty k z s = .next (s.commit (t.setReg d (masked (t.mask k) z false old 32 16 fun i =>
      wrap 32 (slane v 32 ty.isSigned i + ((List.range 4).map fun j =>
        slane x 8 ty.isSigned (4 * i + j) * slane y 8 ty.isSigned (4 * i + j)).sum))).adv) := by
  refine vecOp_ok hI hu (mem4 (keeps_in hk) ha.inside hb.inside hc.inside) ?_
  simp only [readX_holds ha, readX_holds hb, readX_holds hc, oldX_keeps hk, okb, done]

/-- VSEL completes (R112). -/
theorem execVsel_ok {s t d a b ty k x y} (hI : Issues s t) (hu : s.has t 0) (ha : t.holds a x) (hb : t.holds b y)
    (hd : t.takes d) :
    execVsel d a b ty k s = .next (s.commit (t.setReg d (ofLanes ty.width ((List.range (count ty.width)).map fun i =>
      if (t.mask k).getLsbD i then lane x ty.width i else lane y ty.width i))).adv) := by
  refine vecOp_ok hI hu (mem3 hd.inside ha.inside hb.inside) ?_
  simp only [readX_holds ha, readX_holds hb, destX_takes hd, okb, done]

/-- Settles O14, by the rules for two sources, one source, shifts and comparisons. -/
theorem vectorIntegersComplete : Obligations.VectorIntegersComplete := by
  unfold Obligations.VectorIntegersComplete
  refine ⟨?_, ?_⟩
  · intro s t d a b ty k z x y old hI hu ha hb hk w X Y lo hi clamp each
    have h2 (f) : vint2 s d a b ty k z f = each fun i => f (X i) (Y i) := vint2_ok hI hu ha hb hk
    have hclamp : clampTy ty = clamp := funext (clampTy_eq ty)
    have hbits (f : Nat → Nat → Nat) :
        vint2 s d a b ty k z (bitw ty f) = each fun i => (f (lane x w i) (lane y w i) : Nat) :=
      (h2 _).trans (congrArg each (funext fun i => congrArg Nat.cast
        (congrArg₂ f (wrap_slane x w ty.isSigned i) (wrap_slane y w ty.isSigned i))))
    exact ⟨h2 (· + ·), h2 (· - ·), h2 (· * ·), h2 (· * · / 2 ^ w), h2 min, h2 max,
      hclamp ▸ h2 fun p q => clampTy ty (p + q), hclamp ▸ h2 fun p q => clampTy ty (p - q),
      hbits (· &&& ·), hbits (· ||| ·), hbits (· ^^^ ·)⟩
  · intro s t d a b c dk ty imm k z x y v old hI hu ha hb hc hk hd w X Y nb ni each sets
    have h1 (f) : vint1 s d a ty k z f = each fun i => f (X ty.isSigned i) := vint1_ok hI hu ha hk
    have hreg (sg f) : vshift s d a (.reg b) ty k z sg f = each fun i => f (X sg i) (nb i) :=
      vshift_ok (src := .reg b) hI hu ha hb hk
    have himm (sg f) : vshift s d a (.imm imm) ty k z sg f = each fun i => f (X sg i) ni :=
      vshift_ok (src := .imm imm) hI hu ha rfl hk
    have hcmp (f) : vcmp s dk a b ty k z f = sets f := vcmp_ok hI hu ha hb
    have hne : (fun p q : Int => p != q) = fun p q => decide (p ≠ q) :=
      funext₂ fun p q => (decide_not (p := p = q)).symm
    exact ⟨hreg _ fun p n => p * 2 ^ n, himm _ fun p n => p * 2 ^ n, hreg _ fun p n => p / 2 ^ n,
      himm _ fun p n => p / 2 ^ n, hreg _ fun p n => p / 2 ^ n, himm _ fun p n => p / 2 ^ n,
      h1 fun p => if p < 0 then -p else p, h1 (- ·), h1 fun p => (popBelow (wrap w p) w : Nat),
      execVdot4_ok hI hu ha hb hc hk, execVsel_ok hI hu ha hb hd, hcmp (· == ·), hne ▸ hcmp (· != ·),
      hcmp fun p q => decide (p < q), hcmp fun p q => decide (p ≤ q)⟩

/-! ### VFP: the bracket functions, conversions and comparisons -/

theorem Bracket.pick_code (b : Bracket) (n : Nat) : (b.pick n).code = b.lo ∨ (b.pick n).code = b.hi := by
  unfold Bracket.pick
  dsimp only
  split
  · exact .inl rfl
  · split
    · exact .inr rfl
    · exact .inl rfl

theorem Bracket.pick_nv (b : Bracket) (n : Nat) : (b.pick n).nv = b.nv := rfl

/-- An instruction of one source whose results are floating elements of a width of their own completes. -/
theorem vfloat1_ok {s t d a k z sl x old} {w n : Nat} {put : Nat → Nat} {res : Thread → Reg → Nat → FRes}
    (hI : Issues s t) (hu : s.has t 0) (ha : t.holds a x) (hk : t.keeps d k z old) :
    vecOp s [d, a] (fun s t => do
      let x ← readX t a
      vfloat s t d w n k z sl put (res t x)) =
    .next (s.commit (((t.orNv ((List.range n).any fun i => active (t.mask k) sl i && (res t x i).nv)).setReg d
      (masked (t.mask k) z sl old w n fun i => put (res t x i).code)).adv)) := by
  refine vecOp_ok hI hu (mem2 (keeps_in hk) ha.inside) ?_
  simp only [readX_holds ha, vfloat, oldX_keeps hk, okb, done]

/-- An approximate function completes with a value of the bracket for each element (R117). -/
theorem vapprox_ok {s t d a ty k z sl x old} (f : Fmt → FVal → Bracket) (hI : Issues s t) (hu : s.has t 0)
    (ha : t.holds a x) (hk : t.keeps d k z old) :
    let g (j : Nat) : Bracket := f (fmtX t.xs ty) ((fmtX t.xs ty).read (flane ty x j))
    ∃ (s' : State) (r : Nat → Nat), s' = { s with free := s'.free } ∧ (∀ j, r j = (g j).lo ∨ r j = (g j).hi) ∧
      vapprox s d a ty k z sl f = .next (s'.commit (((t.orNv ((List.range (count ty.width)).any fun j =>
        active (t.mask k) sl j && (g j).nv)).setReg d
          (masked (t.mask k) z sl old ty.width (count ty.width) fun j => fput ty (r j))).adv)) := by
  intro g
  refine ⟨{ s with free := s.free + count ty.width }, fun j => ((g j).pick (s.free + j)).code, rfl,
    fun j => Bracket.pick_code _ (s.free + j), vecOp_ok hI hu (mem2 (keeps_in hk) ha.inside) ?_⟩
  simp only [readX_holds ha, vfloat, oldX_keeps hk, okb, done, Bracket.pick_nv, g]

/-- A signaling NaN is a NaN. -/
theorem FVal.isNan_of_isSnan {v : FVal} (h : v.isSnan = true) : v.isNan = true := by
  cases v with
  | nan _ => rfl
  | _ => exact absurd h Bool.false_ne_true

/-- Signaling or not, a NaN is a NaN. -/
theorem FVal.isSnan_or_isNan (u v : FVal) : (u.isSnan || v.isSnan || (u.isNan || v.isNan)) = (u.isNan || v.isNan) := by
  have h : (u.isSnan || v.isSnan) = true → (u.isNan || v.isNan) = true := by
    simp only [Bool.or_eq_true]
    exact Or.imp FVal.isNan_of_isSnan FVal.isNan_of_isSnan
  exact Bool.or_eq_right_iff_imp.mpr h

theorem ordered_eq (f : Fmt) (x y : Nat) : ordered f x y = !((f.read x).isNan || (f.read y).isNan) :=
  (Bool.not_or _ _).symm

/-- A comparison that sets NV on signaling NaNs alone completes (R119). -/
theorem vfcmp_quiet_ok {s t a b ty k z sl f x y} {dk : KReg} (hI : Issues s t) (hu : s.has t 0) (ha : t.holds a x)
    (hb : t.holds b y) : let fm := fmtX t.xs ty
    vfcmp s dk a b ty k z sl true f = .next (s.commit (((t.orNv ((List.range (count ty.width)).any fun i =>
      active (t.mask k) sl i && ((fm.read (flane ty x i)).isSnan || (fm.read (flane ty y i)).isSnan))).setMask dk
        (maskBits (t.mask k) z sl (t.mask dk) (count ty.width) fun i => f fm (flane ty x i) (flane ty y i))).adv)) := by
  refine (vfcmp_ok hI hu ha hb).trans ?_
  simp only [Bool.not_true, Bool.false_and, Bool.or_false]

/-- A comparison that sets NV on every NaN completes (R119). -/
theorem vfcmp_signaling_ok {s t a b ty k z sl f x y} {dk : KReg} (hI : Issues s t) (hu : s.has t 0) (ha : t.holds a x)
    (hb : t.holds b y) : let fm := fmtX t.xs ty
    vfcmp s dk a b ty k z sl false f = .next (s.commit (((t.orNv ((List.range (count ty.width)).any fun i =>
      active (t.mask k) sl i && ((fm.read (flane ty x i)).isNan || (fm.read (flane ty y i)).isNan))).setMask dk
        (maskBits (t.mask k) z sl (t.mask dk) (count ty.width) fun i => f fm (flane ty x i) (flane ty y i))).adv)) := by
  refine (vfcmp_ok hI hu ha hb).trans ?_
  simp only [Bool.not_false, Bool.true_and, FVal.isSnan_or_isNan]

/-- Settles O16, by one rule for floating results of one source and one for each kind of comparison. -/
theorem floatConversionsAndComparisonsComplete : Obligations.FloatConversionsAndComparisonsComplete := by
  unfold Obligations.FloatConversionsAndComparisonsComplete
  refine ⟨?_, ?_⟩
  · intro s t d a ty k z sl x old hI hu ha hk
    exact ⟨vapprox_ok Fmt.rcpV hI hu ha hk, vapprox_ok Fmt.rsqV hI hu ha hk, vapprox_ok Fmt.exp2V hI hu ha hk,
      vapprox_ok Fmt.log2V hI hu ha hk⟩
  · intro s t d a b dk ty ty2 k z sl rnd satc x y old hI hu ha hb hk f rm X Y n each m nan snan sets
    have h1 (w put) (res : Thread → Reg → Nat → FRes) : vecOp s [d, a] (fun s t => do
        let x ← readX t a
        vfloat s t d w n k z sl put (res t x)) = each w put (res t x) := vfloat1_ok hI hu ha hk
    have hquiet (r : Fmt → Nat → Nat → Bool) :
        vfcmp s dk a b ty k z sl true r = sets snan fun i => r f (X i) (Y i) := vfcmp_quiet_ok hI hu ha hb
    have hsignaling (r : Fmt → Nat → Nat → Bool) :
        vfcmp s dk a b ty k z sl false r = sets nan fun i => r f (X i) (Y i) := vfcmp_signaling_ok hI hu ha hb
    have hordered (r : Nat → Nat → Bool) : (fun i => ordered f (X i) (Y i) && r (X i) (Y i)) =
        fun i => !nan i && r (X i) (Y i) := funext fun i => congrArg (· && _) (ordered_eq f (X i) (Y i))
    have hunordered : (fun i => !ordered f (X i) (Y i)) = nan :=
      funext fun i => (congrArg (! ·) (ordered_eq f (X i) (Y i))).trans (Bool.not_not _)
    refine ⟨h1 ty2.width (fput ty2) fun t x i =>
        (fmtX t.xs ty2).convert (t.rounding rnd) (t.saturates satc) ((fmtX t.xs ty).read (flane ty x i)),
      h1 ty2.width id fun t x i => cvtInt ty2 (t.rounding rnd) ((fmtX t.xs ty).read (flane ty x i)),
      h1 ty.width (fput ty) fun t x i =>
        (fmtX t.xs ty).convert (t.rounding rnd) false (intVal (slane x ty2.width ty2.isSigned i)),
      (hquiet fun f x y => ordered f x y && f.key x == f.key y).trans ?_,
      (hsignaling fun f x y => ordered f x y && f.lt x y).trans ?_,
      (hsignaling fun f x y => ordered f x y && decide (f.key x ≤ f.key y)).trans ?_,
      (hquiet fun f x y => !ordered f x y).trans ?_⟩
    · exact congrArg (sets snan) (hordered fun x y => f.key x == f.key y)
    · exact congrArg (sets nan) (hordered f.lt)
    · exact congrArg (sets nan) (hordered fun x y => decide (f.key x ≤ f.key y))
    · exact congrArg (sets snan) hunordered

/-! ### VPERM -/

/-- The bits below an f19 element's own (R107). -/
theorem two_pow_padBits (ty : Ty) : 2 ^ padBits ty = if ty = .f19 then 2 ^ 13 else 1 := by
  unfold padBits
  split <;> rfl

/-- What follows a computation that answers may be run on its own. -/
theorem bind_of_ok {α β : Type} {m : X α} {a : α} {f : α → X β} {r : X β} (h : m = .ok a) (hf : f a = r) :
    (m >>= f) = r := by
  rw [h]
  exact hf

theorem vmove_ok {s t d ty k z f old} (hk : t.keeps d k z old) :
    vmove s t d ty k z f =
      .ok (s, (t.setReg d (masked (t.mask k) z false old ty.width (count ty.width) f)).adv) := by
  simp only [vmove, oldX_keeps hk, okb, done]

/-- The destination of VCOMPR and VEXPND, which is read unless Z (R120). -/
theorem keepX_ok {t : Thread} {d : RegNum} {z : Bool} {old : Reg}
    (h : if z then t.takes d ∧ old = 0 else t.holds d old) : d.toNat < t.win ∧ keepX t d z = .ok old := by
  unfold keepX
  cases z with
  | true =>
    obtain ⟨hd, rfl⟩ := h
    exact ⟨hd.inside, by simp only [if_true, destX_takes hd, okb, prb]⟩
  | false => exact ⟨h.inside, readX_holds h⟩

/-! A rule for each instruction of the group: what it writes where nothing stops it. -/

section
variable {s : State} {t : Thread} {d a : RegNum} {ty : Ty} {k : KReg} {z : Bool} {x y old : Reg} {src : VSrc}
variable (hI : Issues s t) (hu : s.has t 0) (ha : t.holds a x)
include hI hu

theorem execViota_ok (hd : t.takes d) : execViota d ty k s = .next (s.commit (t.setReg d
    (ofLanes ty.width ((List.range (count ty.width)).map fun i =>
      popBelow (t.mask k).toNat i / 2 ^ padBits ty * 2 ^ padBits ty))).adv) := by
  refine vecOp_ok hI hu (fun r hr => List.mem_singleton.mp hr ▸ hd.inside) ?_
  simp only [destX_takes hd, okb, done]

include ha

theorem execVsplat_ok (hk : t.keeps d k z old) : execVsplat d a ty k z s = .next (s.commit (t.setReg d
    (masked (t.mask k) z false old ty.width (count ty.width) fun _ => pattern ty x 0)).adv) := by
  refine vecOp_ok hI hu (mem2 (keeps_in hk) ha.inside) ?_
  simp only [readX_holds ha, okb, vmove_ok hk]

theorem execVrot_ok (hs : t.holdsSrc src y) (hk : t.keeps d k z old) : execVrot d a src ty k z s =
    .next (s.commit (t.setReg d (masked (t.mask k) z false old ty.width (count ty.width) fun i =>
      pattern ty x ((i + amount src y (count ty.width)) % count ty.width))).adv) := by
  refine vecOp_ok hI hu (srcRegs_inside (keeps_in hk) ha.inside hs) ?_
  simp only [readX_holds ha, srcX_holds hs, okb, vmove_ok hk]

theorem execVperm_ok {b : RegNum} (hb : t.holds b y) (hk : t.keeps d k z old) : execVperm d a b ty k z s =
    .next (s.commit (t.setReg d (masked (t.mask k) z false old ty.width (count ty.width) fun i =>
      pattern ty x (lane y ty.width i % count ty.width))).adv) := by
  refine vecOp_ok hI hu (mem3 (keeps_in hk) ha.inside hb.inside) ?_
  simp only [readX_holds ha, readX_holds hb, okb, vmove_ok hk]

theorem execVperm2_ok {b c : RegNum} {v : Reg} (hb : t.holds b y) (hc : t.holds c v) (hk : t.keeps d k z old) :
    execVperm2 d a b c ty k z s = .next (s.commit (t.setReg d (masked (t.mask k) z false old ty.width (count ty.width)
      fun i => let j := lane v ty.width i % (2 * count ty.width)
        if j < count ty.width then pattern ty x j else pattern ty y (j - count ty.width))).adv) := by
  refine vecOp_ok hI hu (mem4 (keeps_in hk) ha.inside hb.inside hc.inside) ?_
  simp only [readX_holds ha, readX_holds hb, readX_holds hc, okb, vmove_ok hk]

theorem execVextr_ok (hs : t.holdsSrc src y) (hd : t.takes d) : execVextr d a src ty s =
    .next (s.commit (t.setReg d (elemScalar ty (pattern ty x (amount src y (count ty.width))))).adv) := by
  refine vecOp_ok hI hu (srcRegs_inside hd.inside ha.inside hs) ?_
  simp only [readX_holds ha, srcX_holds hs, destX_takes hd, okb, done]

theorem execVinsr_ok (hs : t.holdsSrc src y) (hd : t.holds d old) : execVinsr d a src ty s =
    .next (s.commit (t.setReg d (ofLanes ty.width ((List.range (count ty.width)).map fun i =>
      if i = amount src y (count ty.width) then pattern ty x 0 else lane old ty.width i))).adv) := by
  refine vecOp_ok hI hu (srcRegs_inside hd.inside ha.inside hs) ?_
  simp only [readX_holds ha, srcX_holds hs, readX_holds hd, okb, done]

theorem execVcompr_ok (hk : if z then t.takes d ∧ old = 0 else t.holds d old) : execVcompr d a ty k z s =
    .next (s.commit (t.setReg d (ofLanes ty.width ((List.range (count ty.width)).map fun i =>
      match (selected (t.mask k) (count ty.width))[i]? with
      | some j => pattern ty x j
      | none => lane old ty.width i))).adv) := by
  obtain ⟨hin, hkeep⟩ := keepX_ok hk
  refine vecOp_ok hI hu (mem2 hin ha.inside) ?_
  exact bind_of_ok (readX_holds ha) (bind_of_ok hkeep rfl)

theorem execVexpnd_ok (hk : if z then t.takes d ∧ old = 0 else t.holds d old) : execVexpnd d a ty k z s =
    .next (s.commit (t.setReg d (ofLanes ty.width ((List.range (count ty.width)).map fun i =>
      if (t.mask k).getLsbD i then pattern ty x (popBelow (t.mask k).toNat i) else lane old ty.width i))).adv) := by
  obtain ⟨hin, hkeep⟩ := keepX_ok hk
  refine vecOp_ok hI hu (mem2 hin ha.inside) ?_
  simp only [readX_holds ha, hkeep, okb, done]

end

/-- Settles O17: one rule for each move, with the low bits of an element spelt out. -/
theorem permutationsComplete : Obligations.PermutationsComplete := by
  unfold Obligations.PermutationsComplete
  intro s t d a b c ty imm k z x y v old hI hu w n low X Y puts each all one
  have hpat (r : Reg) (i : Nat) : pattern ty r i = lane r w i / low * low := by rw [pattern, two_pow_padBits]
  have hX : pattern ty x = X := funext (hpat x)
  have hY : pattern ty y = Y := funext (hpat y)
  refine ⟨fun ha hk => ⟨?_, ?_, fun hb => ⟨?_, ?_, fun hc => ?_⟩⟩, fun ha hd => ⟨?_, fun hb => ?_⟩,
    fun ha hd => ⟨?_, fun hb => ?_⟩, fun ha hk => ⟨?_, ?_⟩, fun hd => ?_⟩
  · exact (execVsplat_ok hI hu ha hk).trans (by rw [hX]; rfl)
  · exact (execVrot_ok (src := .imm imm) hI hu ha rfl hk).trans (by rw [hX]; rfl)
  · exact (execVrot_ok (src := .reg b) hI hu ha hb hk).trans (by rw [hX]; rfl)
  · exact (execVperm_ok hI hu ha hb hk).trans (by rw [hX]; rfl)
  · exact (execVperm2_ok hI hu ha hb hc hk).trans (by rw [hX, hY]; rfl)
  · exact (execVextr_ok (src := .imm imm) hI hu ha rfl hd).trans (by rw [hX]; rfl)
  · exact (execVextr_ok (src := .reg b) hI hu ha hb hd).trans (by rw [hX]; rfl)
  · exact (execVinsr_ok (src := .imm imm) hI hu ha rfl hd).trans (by rw [hX]; rfl)
  · exact (execVinsr_ok (src := .reg b) hI hu ha hb hd).trans (by rw [hX]; rfl)
  · exact (execVcompr_ok hI hu ha hk).trans (by rw [hX]; rfl)
  · exact (execVexpnd_ok hI hu ha hk).trans (by rw [hX]; rfl)
  · exact (execViota_ok hI hu hd).trans (by rw [two_pow_padBits]; rfl)

/-! ### Reductions and masks -/

/-- A reduction completes with its value and its NV (R121). -/
theorem vreduce_ok {s t d a ty k x} {f : Thread → Reg → List Nat → Reg × Bool} (hI : Issues s t) (hu : s.has t 0)
    (ha : t.holds a x) (hd : t.takes d) :
    let r := f t x (selected (t.mask k) (count ty.width))
    vreduce s d a ty k f = .next (s.commit ((t.orNv r.2).setReg d r.1).adv) := by
  refine vecOp_ok hI hu (mem2 hd.inside ha.inside) ?_
  simp only [readX_holds ha, destX_takes hd, okb, done]

/-- Every mask instruction that writes a mask register completes; a write to k0 is discarded (R9, R122). -/
theorem maskOp_ok {s : State} {t : Thread} (dk : KReg) (f : Thread → Word) (hI : Issues s t) (hu : s.has t 0) :
    maskOp s dk f = .next (s.commit (t.setMask dk (f t)).adv) :=
  vecOp_ok hI hu (fun _ h => nomatch h) rfl

/-- A mask instruction that writes a register completes (R122). -/
theorem maskRead_ok {s t d} {f : Thread → Word} (hI : Issues s t) (hu : s.has t 0) (hd : t.takes d) :
    maskRead s d f = .next (s.commit (t.setReg d (ofScalar (f t))).adv) := by
  refine vecOp_ok hI hu (fun r hr => List.mem_singleton.mp hr ▸ hd.inside) ?_
  simp only [destX_takes hd, okb, done]

/-- KMOV completes (R122). -/
theorem execKmov_ok {s t g x} (dk : KReg) (hI : Issues s t) (hu : s.has t 0) (hg : t.holds g x) :
    execKmov dk g s = .next (s.commit (t.setMask dk (scalar x)).adv) := by
  refine vecOp_ok hI hu (fun r hr => List.mem_singleton.mp hr ▸ hg.inside) ?_
  simp only [readX_holds hg, okb, prb]

/-- Writing a mask changes the list of masks alone, and nothing for k0 (R9). -/
theorem Thread.setMask_eq (t : Thread) (dk : KReg) (v : Word) :
    t.setMask dk v = { t with masks := if dk = 0 then t.masks else t.masks.set (dk.toNat - 1) v } := by
  unfold Thread.setMask
  split <;> rfl

/-- The number of one bits of a word. -/
theorem popBelow_word (m : Word) : popBelow m.toNat 64 = ((List.range 64).filter fun i => m.getLsbD i).length :=
  popBelow_eq m.toNat 64

/-- The lowest one bit of a word, 64 where it has none (R122). -/
theorem lowBitFrom_word (m : Word) : lowBitFrom m.toNat 0 64 ≤ 64 ∧
    (∀ i < lowBitFrom m.toNat 0 64, m.getLsbD i = false) ∧
    (lowBitFrom m.toNat 0 64 < 64 → m.getLsbD (lowBitFrom m.toNat 0 64) = true) := by
  obtain ⟨hle, hlow, hbit⟩ := lowBitFrom_spec m.toNat 64 0
  rw [Nat.zero_add] at hle hbit
  exact ⟨hle, fun i => hlow i (Nat.zero_le i), hbit⟩

/-- Settles O18, by the rules for reductions and for the two kinds of mask instruction. -/
theorem reductionsAndMasksComplete : Obligations.ReductionsAndMasksComplete := by
  unfold Obligations.ReductionsAndMasksComplete
  refine ⟨?_, ?_⟩
  · intro s t d a ty k x hI hu ha hd w n f E F puts fputs
    have hint (r : Thread → Reg → List Nat → Reg) :
        vreduce s d a ty k (fun t x sel => (r t x sel, false)) = puts (r t x (selected (t.mask k) n)) :=
      vreduce_ok hI hu ha hd
    have hfloat (r : Thread → Reg → List Nat → FRes) :
        vreduce s d a ty k (fun t x sel => (BitVec.ofNat 512 (fput ty (r t x sel).code), (r t x sel).nv)) =
          fputs (r t x (selected (t.mask k) n)) :=
      vreduce_ok hI hu ha hd
    exact ⟨hint fun _ x sel => elemScalar ty (wrap ty.width (sel.map fun i => slane x ty.width ty.isSigned i).sum),
      hint fun _ x sel => putTy ty ((sel.map fun i => slane x ty.width ty.isSigned i).foldl min (intRange ty).2),
      hint fun _ x sel => putTy ty ((sel.map fun i => slane x ty.width ty.isSigned i).foldl max (intRange ty).1),
      hfloat fun t x _ => treeSum (fmtX t.xs ty) (t.rounding .dflt) (Nat.log2 (count ty.width))
        ((List.range (count ty.width)).map fun i =>
          if (t.mask k).getLsbD i then flane ty x i else (fmtX t.xs ty).signed true 0),
      hfloat fun t x sel => foldMinmax (fmtX t.xs ty) false (sel.map fun i => flane ty x i),
      hfloat fun t x sel => foldMinmax (fmtX t.xs ty) true (sel.map fun i => flane ty x i)⟩
  · intro s t d g dk a b x hI hu hg hd
    have hop (f) := (maskOp_ok dk f hI hu).trans (by rw [Thread.setMask_eq])
    have hread {f} := maskRead_ok (f := f) hI hu hd
    refine ⟨hop fun t => t.mask a &&& t.mask b, hop fun t => t.mask a ||| t.mask b, hop fun t => t.mask a ^^^ t.mask b,
      hop fun t => ~~~(t.mask a), (execKmov_ok dk hI hu hg).trans (by rw [Thread.setMask_eq]; rfl), hread.trans ?_,
      ⟨_, hread, lowBitFrom_word (t.mask a)⟩, hread⟩
    rw [popBelow_word]
    rfl

end Sys2Proof.Machine
end

section
/-! PROOF. SPLIT where a ninth batch is outstanding (O33). -/
namespace Sys2Proof.Machine

/-- A rule routine of region 1, whose RCB lies in the page that `lateSplitState` maps, beside the table, and whose open
batch would be the 101st after one that is still outstanding. -/
def lateSplit : Thread := { lateJoin with cls := .rule, rcb := 0x400_1000 }

/-- The thread issues in its region; its box has one axis, without extent, so that a SPLIT makes it a leaf. The table at 0
names itself and a leaf page, marked accessed, whose translation nothing has cached. -/
def lateSplitState : State :=
  { State.reset with
    threads := [(0, lateSplit)], cur := 0, regions := [(1, plainRegion)], mem := [(0, 1), (8, 7), (0x1032, 1)] }

/-- Refutes O33: SPLIT reads the RCB, which caches its page's translation; where a ninth batch is outstanding the thread
then parks, and the instruction, to be issued again, has had no effect at all, the cached translation included. -/
theorem not_decisionsPark : ¬ Obligations.DecisionsPark := by
  unfold Obligations.DecisionsPark
  intro h
  let s1 := (lateSplitState.route 0 lateSplit.dom lateSplit.rcb false false).1
  have hroute : lateSplitState.route 0 lateSplit.dom lateSplit.rcb false false = (s1, .bank 0x1000) :=
    Prod.ext rfl (by decide +kernel)
  have hissues : Issues lateSplitState lateSplit := ⟨by decide +kernel, by decide +kernel⟩
  have hshort : s1.grains (plainRegion.rule (s1.rcbRule 0x1000)) 0x1000 0 < 2 := by decide +kernel
  obtain ⟨hrule, -⟩ := h lateSplitState s1 lateSplit plainRegion 0x1000 0 1 0 none hissues
  obtain ⟨-, -, -, hsplit⟩ := hrule (by decide +kernel)
  obtain ⟨hleaf, -⟩ := hsplit (by decide +kernel) (by decide +kernel) (by decide +kernel) hroute (by decide +kernel)
    (by decide +kernel) nofun
  have hparks := hleaf (.inl (.inr hshort))
  have hcached : cachedAfter (exec (.split 0 none none) lateSplitState) = some 0 := by decide +kernel
  rw [hparks] at hcached
  exact absurd hcached (by decide +kernel)

end Sys2Proof.Machine
end

section
/-! PROOF. LAUNCH and RGNQ (O35). -/
namespace Sys2Proof.Machine

/-! ### The identity of a new region -/

theorem tabGet_eq_none {α : Type} {k : Nat} {l : Tab α} : tabGet k l = none ↔ k ∉ l.map (·.1) := by
  induction l with
  | nil => simp [tabGet]
  | cons p l ih =>
    by_cases h : p.1 = k
    · simp [tabGet, h]
    · simp [tabGet, h, Ne.symm h, ih]

/-- The search answers a free number where one lies within its reach. -/
theorem freeId_free {used : List Nat} {fuel n i : Nat} (hi : i ≤ fuel) (h0 : (n + i) % 2 ^ 32 ≠ 0)
    (hu : (n + i) % 2 ^ 32 ∉ used) : freeId used fuel n ≠ 0 ∧ freeId used fuel n ∉ used := by
  induction fuel generalizing n i with
  | zero =>
    obtain rfl : i = 0 := by omega
    exact ⟨h0, hu⟩
  | succ fuel ih =>
    unfold freeId
    split
    next hbad =>
      cases i with
      | zero => exact absurd hbad (by simpa using And.intro h0 hu)
      | succ i =>
        have hnext : n + 1 + i = n + (i + 1) := by omega
        exact ih (i := i) (by omega) (by rwa [hnext]) (by rwa [hnext])
    next hgood => simpa using hgood

theorem freeId_lt (used : List Nat) (fuel n : Nat) : freeId used fuel n < 2 ^ 32 := by
  induction fuel generalizing n with
  | zero => exact Nat.mod_lt _ (by norm_num)
  | succ fuel ih =>
    unfold freeId
    split
    · exact ih _
    · exact Nat.mod_lt _ (by norm_num)

/-- Among more consecutive numbers than there are used ones and 0, one is free. -/
theorem exists_free (used : List Nat) (n : Nat) (h : used.length < 16384) :
    ∃ i ≤ used.length + 1, (n + i) % 2 ^ 32 ≠ 0 ∧ (n + i) % 2 ^ 32 ∉ used := by
  let candidates := (Finset.range (used.length + 2)).image fun i => (n + i) % 2 ^ 32
  let taken := insert 0 used.toFinset
  have hcand : candidates.card = used.length + 2 := by
    rw [Finset.card_image_of_injOn, Finset.card_range]
    intro i hi j hj hij
    simp only [Finset.coe_range, Set.mem_Iio] at hi hj
    simp only at hij
    omega
  have htaken : taken.card ≤ used.length + 1 :=
    (Finset.card_insert_le _ _).trans (Nat.succ_le_succ (List.toFinset_card_le _))
  obtain ⟨v, hv, hfree⟩ := Finset.exists_mem_notMem_of_card_lt_card (s := taken) (t := candidates) (by omega)
  obtain ⟨i, hi, rfl⟩ := Finset.mem_image.mp hv
  have hi := Finset.mem_range.mp hi
  simp only [taken, Finset.mem_insert, List.mem_toFinset, not_or] at hfree
  exact ⟨i, by omega, hfree⟩

/-- A new region's identity is neither 0 nor in use (R96). -/
theorem State.newRegion_fresh {s : State} (h : s.regions.length < 16384) :
    s.newRegion.1 ≠ 0 ∧ s.newRegion.1 < 2 ^ 32 ∧ s.region? s.newRegion.1 = none := by
  obtain ⟨i, hi, h0, hu⟩ := exists_free (s.regions.map (·.1)) (Config.freeReg s.free).toNat (by simpa using h)
  obtain ⟨hne, hnew⟩ := freeId_free (by simpa using hi) h0 hu
  exact ⟨hne, freeId_lt _ _ _, tabGet_eq_none.mpr hnew⟩

/-! ### Reads of the tree -/

section
variable {s s1 s2 s3 s4 : State} {t : Thread}

theorem treeKeyIn_bank {d : BitVec 32} {a : Word} {wr : Bool} {k : Nat}
    (h : s.route (clusterOf t.id.core.toNat) d a wr false = (s1, .bank k)) : treeKeyIn s t d a wr = .ok (s1, k) := by
  simp only [treeKeyIn, h]

/-- An RCB that is read whole where no relaxed access is outstanding. -/
theorem rcbReadX_bank {d : BitVec 32} {a : Word} {off n k : Nat} (hs : s.relaxedOf t.id = []) (h1 : s1.relaxedOf t.id = [])
    (h : s.route (clusterOf t.id.core.toNat) d a false false = (s1, .bank k)) (hk : s1.badAt (k + off) n = none) :
    rcbReadX s t d a off n = .ok (s1, k) := by
  simp only [rcbReadX, sameWordX_alone hs, treeKeyIn_bank h, okb, sameKeyX_alone h1, hk, ite_self, prb]

/-! ### LAUNCH -/

variable {d a : RegNum} {g : SegReg} {x : Reg} {dva : Word} {l rules : List Reg}

/-- The record that its four lines hold (R133). -/
def LaunchRec.ofLines (dva : Word) (l : List Reg) : LaunchRec :=
  { dva := dva, bits := l.foldr (fun v acc => v.toNat + 2 ^ 512 * acc) 0 }

/-- LAUNCH of a record that it can read, by the first check that the record fails (R133). -/
theorem execLaunch_ok {rec' : LaunchRec} {key : Option Nat} {k : Nat} (hI : Issues s t) (ha : t.holds a x) (hd : t.takes d)
    (hs : t.spec = none) (hx : checkX s t g (scalar x) 256 64 0b000001 false = .ok dva)
    (hl : linesX s t g dva 4 = .ok (s1, l)) (hroom : s1.regions.length < 16384) (hrec : rec' = .ofLines dva l) :
    let launches := execLaunch d a g s
    let refuses (q : State) (c : Nat) : Host.Outcome State Fault Refusal :=
      .next (q.commit (t.setReg d (ofScalar (0x8000_0000_0000_0000 ||| BitVec.ofNat 64 c))).adv)
    (∀ c, rec'.early t = some c → launches = refuses s1 c) ∧
    (rec'.early t = none →
      linesX s1 t ((coverSeg t (rec'.word 0).toNat (64 * rec'.count) 0b000001).getD g) (rec'.word 0) rec'.count =
        .ok (s2, rules) →
      (∀ c, rec'.middle s2 t rules = some c → launches = refuses s2 c) ∧
      (rec'.middle s2 t rules = none → arenaX s2 t rec' = .ok (s3, key) →
        (∀ c, rec'.late t key = some c → launches = refuses s3 c) ∧
        (rec'.late t key = none →
          s3.route (clusterOf t.id.core.toNat) rec'.domain (rec'.word 0x68) true false = (s4, .bank k) →
          let id := s4.newRegion.1
          let s5 := s4.newRegion.2
          launches = .next (((s5.putRcb k (rec'.root s5 rules id)).setRegion
            (rec'.region t (s5.codeOf rec'.domain) rules id)).commit
              (t.setReg d (ofScalar (BitVec.ofNat 64 id))).adv)))) := by
  intro launches refuses
  subst hrec
  unfold launches execLaunch
  refine ⟨fun c hearly => runT_ok hI ?_, fun hearly hrules => ⟨fun c hmid => runT_ok hI ?_,
    fun hmid harena => ⟨fun c hlate => runT_ok hI ?_, fun hlate hroute => runT_ok hI ?_⟩⟩⟩
  all_goals
    simp only [win2 hd.inside ha.inside, readX_holds ha, destX_takes hd, hx, oldestX_plain hs, hl,
      need_true (decide_eq_true hroom), okb]
    rw [← LaunchRec.ofLines]
  · simp only [hearly, refuse, done]
  · simp only [hearly, hrules, okb, hmid, refuse, done]
  · simp only [hearly, hrules, okb, hmid, harena, hlate, refuse, done]
  · simp only [hearly, hrules, okb, hmid, harena, hlate, createX, treeKeyIn_bank hroute, done]

/-! ### RGNQ -/

/-- RGNQ of no region, of a field that the model keeps, and of a field of the root's RCB (R134). -/
theorem execRgnq_ok {sel : BitVec 3} {k : Nat} (hI : Issues s t) (ha : t.holds a x) (hd : t.takes d)
    (hs : s.relaxedOf t.id = []) (hsel : sel ≠ 7) {found : Option Region} (hfound : s.region?
      (if ((scalar x).extractLsb' 0 32).toNat = 0 then t.regionId else ((scalar x).extractLsb' 0 32).toNat) = found) :
    let gives (q : State) (v : Word) : Host.Outcome State Fault Refusal :=
      .next (q.commit (t.setReg d (ofScalar v)).adv)
    (found = none → execRgnq d a sel s = gives s (BitVec.allOnes 64)) ∧
    (∀ r, found = some r → r.domain = t.dom → sel ≠ 1 → sel ≠ 2 →
      execRgnq d a sel s = gives s (BitVec.ofNat 64 (s.regionWord r 0 sel.toNat))) ∧
    (∀ r, found = some r → r.domain = t.dom → (sel = 1 ∨ sel = 2) → s1.relaxedOf t.id = [] →
      s.route (clusterOf t.id.core.toNat) r.domain r.root false false = (s1, .bank k) →
      (∀ o n, o < 128 → o + n ≤ 128 → s1.badAt (k + o) n = none) →
      execRgnq d a sel s = gives s1 (BitVec.ofNat 64 (s1.regionWord r k sel.toNat))) := by
  intro gives
  have hown {r : Region} (hr : r.domain = t.dom) : ¬ (r.domain != t.dom && decide (t.level = 0)) = true := by simp [hr]
  unfold execRgnq
  refine ⟨fun hf => runT_ok hI ?_, fun r hf hr h1 h2 => runT_ok hI ?_, fun r hf hr hrcb hstill hroute hgood => runT_ok hI ?_⟩
  all_goals
    simp only [need_true (bne_iff_ne.mpr hsel), win2 hd.inside ha.inside, readX_holds ha, destX_takes hd, okb]
    rw [hfound, hf]
  · rfl
  · simp only [if_neg (hown hr), if_neg h1, if_neg h2, done]
  · simp only [if_neg (hown hr)]
    rcases hrcb with rfl | rfl
    · simp only [if_true, rcbReadX_bank hs hstill hroute (hgood 0x30 8 (by decide) (by decide)), okb, done]
    · rw [if_neg (by decide), if_pos rfl, rcbReadX_bank hs hstill hroute (hgood 0x70 8 (by decide) (by decide))]
      rfl

end

/-- Settles O35: the answers of LAUNCH and of RGNQ, and the search that finds a fresh identity. -/
theorem launchAndRegionQueryComplete : Obligations.LaunchAndRegionQueryComplete := by
  unfold Obligations.LaunchAndRegionQueryComplete
  intro s s1 s2 s3 s4 t d a g x dva l rules key k rec' gives hI ha hd hs halone
  refine ⟨fun hx hl hroom => execLaunch_ok hI ha hd hs hx hl hroom rfl, State.newRegion_fresh, ?_⟩
  intro id found sel hsel
  exact execRgnq_ok hI ha hd halone hsel (by rw [scalar_low (by decide : 32 ≤ 64) x])

end Sys2Proof.Machine
end

section
/-! PROOF. Messages (O36). -/
namespace Sys2Proof.Machine

/-! ### Operands that fill a run of registers -/

theorem readsX_holds {t : Thread} {rs : List RegNum} {xs : List Reg} (h : List.Forall₂ t.holds rs xs) :
    readsX t rs = .ok xs := by
  induction h with
  | nil => rfl
  | cons hx _ ih => simp only [readsX, readX_holds hx, ih, okb, prb]

theorem readsX_run {t : Thread} {a : RegNum} {l : List Reg} (h : t.holdsRun a l) :
    readsX t (regRun a l.length) = .ok l := by
  refine readsX_holds (List.forall₂_iff_get.mpr ⟨by simp [regRun], fun i _ hi => ?_⟩)
  have hreg : (regRun a l.length).get ⟨i, by simpa [regRun] using hi⟩ = a + BitVec.ofNat 7 i := by simp [regRun]
  rw [hreg]
  exact h.each i _ (List.getElem?_eq_getElem hi)

theorem runX_run {t : Thread} {a : RegNum} {l : List Reg} (ha : a.toNat < t.win) (h : t.holdsRun a l) :
    runX t a l.length = .ok () := by
  have hin := h.inside
  exact if_pos (by omega)

/-- A count field holds the length of a list of at most eight (R136, R140). -/
theorem count_toNat {l : List Reg} (h : l.length ≤ 8) : (BitVec.ofNat 4 l.length).toNat = l.length :=
  (BitVec.toNat_ofNat _ _).trans (Nat.mod_eq_of_lt (by omega))

/-! ### Channels that user level may not name -/

theorem userChanX_allowed {s : State} {t : Thread} {a : RegNum} {x : Reg} {barred : BitVec 5 → Bool} (ha : t.holds a x)
    (h : t.level ≠ 0 ∨ barred (targetChan (scalar x)) = false) : userChanX s t a barred = .ok () := by
  refine if_neg ?_
  rcases h with h | h <;> simp [ha.entry, h]

theorem Chan.withBits_eq (e : Chan) (bits : BitVec 4) : e.withBits bits = { e with
    hold := if bits.getLsbD 2 then bits.getLsbD 0 else e.hold,
    ready := if bits.getLsbD 3 then bits.getLsbD 1 else e.ready } := by
  unfold Chan.withBits
  cases bits.getLsbD 2 <;> cases bits.getLsbD 3 <;> rfl

theorem bnot_reachable {s : State} {c : Nat} (h : s.reachable c = false) : (!s.reachable c) = true := by rw [h]; rfl

theorem not_bnot_reachable {s : State} {c : Nat} (h : s.reachable c = true) : ¬ (!s.reachable c) = true := by simp [h]

section
variable {s : State} {t : Thread} {d a b reg : RegNum} {x y : Reg} {l : List Reg}

/-! ### SEND and SENDR -/

/-- SEND's statuses, the lowest first, and the message that it posts where none holds (R136). -/
theorem execSend_ok {narrow : Bool} (hI : Issues s t) (ha : t.holds a x) (hd : t.takes d) (hs : t.spec = none)
    (hb : b.toNat < t.win) (hl : t.holdsRun b l) (h8 : l.length ≤ 8)
    (hch : t.level ≠ 0 ∨ (targetChan (scalar x) ≠ 0 ∧ targetChan (scalar x) ≠ 1 ∧ targetChan (scalar x) ≠ 3)) :
    let c := targetCore (scalar x)
    let ch := targetChan (scalar x)
    let sends := execSend d a b narrow (BitVec.ofNat 4 l.length) s
    (s.reachable c = false → sends = .next (s.commit (t.setReg d (ofScalar 1)).adv)) ∧
    (s.reachable c = true → (s.chan c ch).cls ≠ .message → sends = .next (s.commit (t.setReg d (ofScalar 2)).adv)) ∧
    (s.reachable c = true → (s.chan c ch).cls = .message → ch = 2 → c < 0x400 →
      sends = .next (s.commit (t.setReg d (ofScalar 3)).adv)) ∧
    (s.reachable c = true → (s.chan c ch).cls = .message → (ch ≠ 2 ∨ 0x400 ≤ c) →
      sends = .next ((s.post ((scalar x).extractLsb' 0 11) ch (some t.id) t.dom
        (.user l (if narrow then some t.xs else none))).setThread { t with state := .parked, wait := .send s.serial d })) := by
  intro c ch sends
  have hfree : userChanX s t a (fun ch => ch = 0 || ch = 1 || ch = 3) = .ok () :=
    userChanX_allowed ha (hch.imp_right fun ⟨h0, h1, h3⟩ => by
      rw [decide_eq_false h0, decide_eq_false h1, decide_eq_false h3]; rfl)
  unfold sends execSend
  refine ⟨fun hc => runT_ok hI ?_, fun hc hcls => runT_ok hI ?_, fun hc hcls h2 hlow => runT_ok hI ?_,
    fun hc hcls hok => runT_error hI (st := .parkIn _ _) ?_⟩
  all_goals simp only [count_toNat h8, need_true (decide_eq_true h8), hfree,
    win2 hd.inside ha.inside, runX_run hb hl, readX_holds ha, readsX_run hl, destX_takes hd, oldestX_plain hs, okb, done]
  · rw [if_pos (bnot_reachable hc)]
  · rw [if_neg (not_bnot_reachable hc), if_pos (bne_iff_ne.mpr hcls)]
  · have hlast : (decide (ch = 2) && decide (c < 0x400)) = true := by rw [decide_eq_true h2, decide_eq_true hlow]; rfl
    rw [if_neg (not_bnot_reachable hc), if_neg (fun h => bne_iff_ne.mp h hcls), if_pos hlast]
  · have hpass : (decide (ch = 2) && decide (c < 0x400)) = false := by
      rcases hok with h | h
      · rw [decide_eq_false h, Bool.false_and]
      · rw [decide_eq_false (Nat.not_lt.mpr h), Bool.and_false]
    rw [if_neg (not_bnot_reachable hc), if_neg (fun h => bne_iff_ne.mp h hcls), if_neg (ne_true_of_eq_false hpass)]

/-- SENDR onto a link that has room, and whose sub-ring does not change (R137). -/
theorem execSendr_ok {slot : BitVec 6} {prev : Bool} (hI : Issues s t) (ha : t.holds a x) (hs : t.spec = none)
    (hroom : (s.link t.id.core.toNat prev).length < 4) (hring : s.atollPending (clusterOf t.id.core.toNat) = false) :
    let k := s.core t.id.core.toNat
    let dep : Deposit := { slot := slot, reg := reg, val := x }
    execSendr a reg slot prev s = .next ((s.setCore t.id.core.toNat
      (if prev then { k with prev := k.prev ++ [dep] } else { k with next := k.next ++ [dep] })).commit t.adv) := by
  have hfree : (decide ((s.link t.id.core.toNat prev).length < 4) && !s.atollPending (clusterOf t.id.core.toNat)) =
      true := by rw [decide_eq_true hroom, hring]; rfl
  unfold execSendr
  exact runT_ok hI (by
    simp only [win1 ha.inside, readX_holds ha, oldestX_plain hs, need_true hfree, okb, prb])

/-! ### CHSET and CHGET -/

/-- CHSET: no such core, the entry written at once, or the change on its way as a message (R138). -/
theorem execChset_ok {bits : BitVec 4} (hI : Issues s t) (ha : t.holds a x) (hd : t.takes d)
    (hch : t.level ≠ 0 ∨ 4 ≤ (targetChan (scalar x)).toNat) :
    let c := targetCore (scalar x)
    let ch := targetChan (scalar x)
    (s.reachable c = false → execChset d a bits s = .next (s.commit (t.setReg d (ofScalar 1)).adv)) ∧
    (s.reachable c = true → s.slow = false → execChset d a bits s =
      .next ((s.setChan c ch ((s.chan c ch).withBits bits)).commit (t.setReg d (ofScalar 0)).adv)) ∧
    (s.reachable c = true → s.slow = true → execChset d a bits s =
      .next ((s.post ((scalar x).extractLsb' 0 11) ch (some t.id) t.dom (.chset (bits.zeroExtend 64))).setThread
        { t with state := .parked, wait := .chset s.serial d })) := by
  intro c ch
  have hfree : userChanX s t a (fun ch => decide (ch.toNat < 4)) = .ok () :=
    userChanX_allowed ha (hch.imp_right fun h => decide_eq_false (Nat.not_lt.mpr h))
  unfold execChset
  refine ⟨fun hc => runT_ok hI ?_, fun hc hslow => runT_ok hI ?_,
    fun hc hslow => runT_error hI (st := .parkIn _ _) ?_⟩
  all_goals simp only [hfree, win2 hd.inside ha.inside, readX_holds ha, destX_takes hd, okb, done]
  · rw [if_pos (bnot_reachable hc)]
  · rw [if_neg (not_bnot_reachable hc), if_neg (ne_true_of_eq_false hslow)]
  · rw [if_neg (not_bnot_reachable hc), if_pos hslow]

theorem execChget_ok (hI : Issues s t) (ha : t.holds a x) (hd : t.takes d) :
    execChget d a s = .next (s.commit (t.setReg d (BitVec.zeroExtend 512 (if s.reachable (targetCore (scalar x)) then
      s.chanWord (targetCore (scalar x)) (targetChan (scalar x)) else BitVec.allOnes 128))).adv) := by
  unfold execChget
  exact runT_ok hI (by simp only [win2 hd.inside ha.inside, readX_holds ha, destX_takes hd, okb, done])

/-! ### MIGRATE -/

/-- Whether a thread may leave its core does not depend on its open batch. -/
theorem migrateClear_closeOpen (s : State) (t : Thread) : s.migrateClear t.closeOpen = s.migrateClear t := by
  unfold Thread.closeOpen
  split <;> rfl

theorem closeOpen_id (t : Thread) : t.closeOpen.id = t.id := by
  unfold Thread.closeOpen
  split <;> rfl

theorem closeOpen_dom (t : Thread) : t.closeOpen.dom = t.dom := by
  unfold Thread.closeOpen
  split <;> rfl

/-- MIGRATE's statuses in the model's order, and the departure of the context where nothing is open (R139). -/
theorem execMigrate_ok (hI : Issues s t) (ha : t.holds a x) (hb : t.holds b y) (hd : t.takes d) (hs : t.spec = none) :
    let c := targetCore (scalar x)
    let stays (v : Word) : Host.Outcome State Fault Refusal :=
      .next (s.commit ({ t with reopen := 0 }.setReg d (ofScalar v)).adv)
    (segLimit (t.seg 1) ≠ 0 ∨ t.tiles.2 ≠ 0 → execMigrate d a b s = stays 2) ∧
    (segLimit (t.seg 1) = 0 → t.tiles.2 = 0 →
      (c = t.id.core.toNat → execMigrate d a b s = stays 4) ∧
      (c ≠ t.id.core.toNat → (s.reachable c = false ∨ (s.chan c 3).ready = false) → execMigrate d a b s = stays 3) ∧
      (c ≠ t.id.core.toNat → s.reachable c = true → (s.chan c 3).ready = true → s.migrateClear t.closeOpen = true →
        let u := { t.closeOpen with state := .migrating, wait := .none }
        execMigrate d a b s = .next ((s.post ((scalar x).extractLsb' 0 11) 3 (some t.id) t.dom
          (.context u (some d) (scalar y))).setThread u))) := by
  intro c stays
  have hholds : (segLimit (t.seg 1) != 0 || t.tiles.2 != 0) = true ↔ segLimit (t.seg 1) ≠ 0 ∨ t.tiles.2 ≠ 0 := by
    rw [Bool.or_eq_true, bne_iff_ne, bne_iff_ne]
  have hfree (hpool : segLimit (t.seg 1) = 0) (htiles : t.tiles.2 = 0) :
      ¬ (segLimit (t.seg 1) != 0 || t.tiles.2 != 0) = true := fun h => (hholds.mp h).elim (· hpool) (· htiles)
  unfold execMigrate
  refine ⟨fun hheld => runT_ok hI ?_, fun hpool htiles => ⟨fun hown => runT_ok hI ?_, fun hc hno => runT_ok hI ?_,
    fun hc hthere hready hclear => runT_error hI (st := .parkIn _ _) ?_⟩⟩
  all_goals simp only [win3 hd.inside ha.inside hb.inside, readX_holds ha, readX_holds hb, destX_takes hd,
    oldestX_plain hs, okb, done]
  · rw [if_pos (hholds.mpr hheld)]
  · rw [if_neg (hfree hpool htiles), if_pos hown]
  · have haway : (!s.reachable c || !(s.chan c 3).ready) = true := by
      rcases hno with h | h
      · rw [h]; rfl
      · rw [h]; exact Bool.or_true _
    rw [if_neg (hfree hpool htiles), if_neg hc, if_pos haway]
  · have hopen : (!s.reachable c || !(s.chan c 3).ready) = false := by rw [hthere, hready]; rfl
    have hclosed : closeX s t = .ok t.closeOpen :=
      closeX_migrateClear ((migrateClear_closeOpen s t).symm.trans hclear)
    have hleaves : (!s.migrateClear t.closeOpen) = false := by rw [hclear]; rfl
    rw [if_neg (hfree hpool htiles), if_neg hc, if_neg (ne_true_of_eq_false hopen), hclosed, okb,
      if_neg (ne_true_of_eq_false hleaves), closeOpen_id, closeOpen_dom]

/-! ### SYSCALL -/

/-- SYSCALL: all ones where no channel serves, else the request on its way and the result awaited (R140). -/
theorem execSyscall_ok {svc : BitVec 16} (hI : Issues s t) (hd : t.takes d) (ha : a.toNat < t.win) (hl : t.holdsRun a l)
    (h8 : l.length ≤ 8) :
    let v := s.sys.syscall
    let calls := execSyscall d a (BitVec.ofNat 4 l.length) svc s
    (targetEn v = false ∨ s.targetOk v = false →
      calls = .next (s.commit (t.setReg d (ofScalar (BitVec.allOnes 64))).adv)) ∧
    (targetEn v = true → s.targetOk v = true →
      calls = .next ((s.post (v.extractLsb' 0 11) (targetChan v) (some t.id) t.dom
        (.request l svc t.id t.regionId)).commit (t.setPres d .awaiting).adv)) := by
  intro v calls
  unfold calls execSyscall
  refine ⟨fun hno => runT_ok hI ?_, fun hen hok => runT_ok hI ?_⟩
  all_goals simp only [count_toNat h8, need_true (decide_eq_true h8), win1 hd.inside, runX_run ha hl, readsX_run hl,
    destX_takes hd, okb, prb, done]
  · have hpass : (targetEn v && s.targetOk v) = false := by
      rcases hno with h | h <;> simp [h]
    rw [if_neg (ne_true_of_eq_false hpass)]
  · have hserves : (targetEn v && s.targetOk v) = true := by rw [hen, hok]; rfl
    rw [if_pos hserves]

end

/-- Settles O36: one rule for each instruction, with its statuses in the order in which it tests them. -/
theorem messagesComplete : Obligations.MessagesComplete := by
  unfold Obligations.MessagesComplete
  refine ⟨?_, ?_⟩
  · intro s t d a b reg x l bits slot narrow prev w c ch gives hI ha
    refine ⟨fun hd hs hb hl h8 hch => execSend_ok hI ha hd hs hb hl h8 hch,
      fun hs hroom hring => execSendr_ok hI ha hs hroom hring, fun hd hch => ?_, fun hd => execChget_ok hI ha hd⟩
    obtain ⟨hgone, hnow, hslow⟩ := execChset_ok (bits := bits) hI ha hd hch
    refine ⟨hgone, fun hc hq => (hnow hc hq).trans ?_, hslow⟩
    rw [Chan.withBits_eq]
    rfl
  · intro s t d a b x y l svc w c gives hI hd
    exact ⟨fun ha hb hs => execMigrate_ok hI ha hb hd hs, fun ha hl h8 => execSyscall_ok hI hd ha hl h8⟩

end Sys2Proof.Machine
end

section
/-! PROOF. What a translation may change (O28). -/
namespace Sys2Proof.Machine

/-! ### Changes of full/empty bits alone -/

/-- Steps that each change full/empty bits alone change nothing else together. -/
theorem foldl_empties {α : Type} {f : State → α → State} (hf : ∀ s a, f s a = { s with empties := (f s a).empties })
    (l : List α) (s : State) : l.foldl f s = { s with empties := (l.foldl f s).empties } := by
  induction l generalizing s with
  | nil => rfl
  | cons a l ih =>
    rw [List.foldl_cons]
    exact (ih (f s a)).trans (congrArg (fun q : State => { q with empties := (l.foldl f (f s a)).empties }) (hf s a))

section
variable (s : State) (k n : Nat)

theorem State.fillBits_eq : s.fillBits k n = { s with empties := (s.fillBits k n).empties } :=
  foldl_empties (f := fun s w => s.setFull w true) (fun _ _ => rfl) _ s

theorem State.setBits_eq (b : Bool) : s.setBits k n b = { s with empties := (s.setBits k n b).empties } :=
  foldl_empties (f := fun s w => s.setFull w b) (fun _ _ => rfl) _ s

theorem State.setBitsFrom_eq (v : Nat) :
    s.setBitsFrom k n v = { s with empties := (s.setBitsFrom k n v).empties } :=
  foldl_empties (f := fun s j => s.setFull (k + 8 * j) (v.testBit j)) (fun _ _ => rfl) _ s

@[simp] theorem State.fillBits_mem : (s.fillBits k n).mem = s.mem := by rw [State.fillBits_eq]

@[simp] theorem State.fillBits_accs : (s.fillBits k n).accs = s.accs := by rw [State.fillBits_eq]

@[simp] theorem State.setBits_accs (b : Bool) : (s.setBits k n b).accs = s.accs := by rw [State.setBits_eq]

@[simp] theorem State.setBitsFrom_accs (v : Nat) : (s.setBitsFrom k n v).accs = s.accs := by rw [State.setBitsFrom_eq]

end

/-! ### A change at one page-table entry -/

/-- What a use of the page-table entry at a key may change: the entry's bytes, full/empty bits, the translation caches
and the counter of the free values (R279). -/
structure State.TouchesEntry (s : State) (pte : Nat) (s' : State) : Prop where
  rest : s' = { s with mem := s'.mem, empties := s'.empties, tlb := s'.tlb, free := s'.free }
  canonical : s.memOk → s'.memOk
  outside : s.memOk → ∀ j, j < pte ∨ pte + 8 ≤ j → memByte j s'.mem = memByte j s.mem

namespace State.TouchesEntry
variable {s s1 s2 : State} {pte : Nat}

theorem refl (s : State) (pte : Nat) : s.TouchesEntry pte s := ⟨rfl, id, fun _ _ _ => rfl⟩

theorem trans (h1 : s.TouchesEntry pte s1) (h2 : s1.TouchesEntry pte s2) : s.TouchesEntry pte s2 where
  rest := h2.rest.trans (congrArg
    (fun q : State => { q with mem := s2.mem, empties := s2.empties, tlb := s2.tlb, free := s2.free }) h1.rest)
  canonical h := h2.canonical (h1.canonical h)
  outside h j hj := (h2.outside (h1.canonical h) j hj).trans (h1.outside h j hj)

theorem accs (h : s.TouchesEntry pte s1) : s1.accs = s.accs := by rw [h.rest]

/-- The translation caches change too. -/
theorem cached (h : s.TouchesEntry pte s1) (c : List TlbEntry) : s.TouchesEntry pte { s1 with tlb := c } where
  rest := congrArg (fun q : State => { q with tlb := c }) h.rest
  canonical := h.canonical
  outside := h.outside

/-- A word written there, and made full. -/
theorem written (s : State) (pte v : Nat) : s.TouchesEntry pte ((s.write pte 8 v).fillBits pte 8) where
  rest := by rw [State.fillBits_eq]; rfl
  canonical h := by
    rw [State.memOk, State.fillBits_mem]
    exact State.memWf_write _ _ _ _ h
  outside h j hj := by rw [State.fillBits_mem, State.memByte_write_outside v h hj]

end State.TouchesEntry

/-! ### The steps of a translation -/

section
variable {s : State} {pte : Nat} (ha : s.accs = [])
include ha

/-- An atomic OR at a bank where nothing waits writes one word, or nothing where it is refused (R279). -/
theorem bankStep_or (bits : Word) : (bankStep s pte (.atom .or 8 bits 0)).1 = s ∨
    ∃ v, (bankStep s pte (.atom .or 8 bits 0)).1 = (s.write pte 8 v).fillBits pte 8 := by
  unfold bankStep
  split
  · exact .inl rfl
  · split
    · exact .inl rfl
    · exact .inr ⟨_, settle_nil ((State.fillBits_accs ..).trans ha)⟩

theorem State.orEntry_touches (bits : Word) : s.TouchesEntry pte (s.orEntry pte bits) := by
  unfold State.orEntry
  split
  · exact .refl s pte
  next =>
    rcases bankStep_or (pte := pte) ha bits with h | ⟨v, h⟩
    · rw [h]
      exact .refl s pte
    · rw [h]
      exact .written s pte v

/-- A use of a leaf entry sets bits of that entry, and caches it (R279). -/
theorem State.useLeaf_touches (cl : Nat) (d : BitVec 32) (dva : Nat) (l : Leaf) (wr : Bool) :
    s.TouchesEntry l.pte (s.useLeaf cl d dva l wr) := by
  unfold State.useLeaf
  extract_lets root q s1
  have hcached : s.TouchesEntry l.pte s1 := by
    unfold s1 q
    split
    · exact .refl s l.pte
    · exact (State.orEntry_touches ha 0x4).cached _
  clear_value s1
  split
  · exact hcached.trans (State.orEntry_touches (hcached.accs.trans ha) 0x8)
  · exact hcached

end

section
variable (s : State) (cl : Nat) (d : BitVec 32)

/-- A lookup changes nothing but the counter of the free values (R281, DESIGN CHOICE, log 9). -/
theorem State.lookup_eq (dva : Nat) : (s.lookup cl d dva).1 = { s with free := (s.lookup cl d dva).1.free } := by
  unfold State.lookup
  dsimp only
  split
  · rfl
  · split
    · split <;> rfl
    · rfl

/-- An address of a pool window is its own key (R149). -/
theorem State.route_pool {a : Word} (h : poolBase ≤ a.toNat) (wr sync : Bool) :
    s.route cl d a wr sync = (s, .bank a.toNat) := if_pos h

/-- What a translation leaves: the state itself, what a lookup without a leaf has left, or what the use of the leaf that
a lookup has found leaves. -/
theorem State.route_state (a : Word) (wr sync : Bool) :
    (s.route cl d a wr sync).1 = s ∨
    ((s.route cl d a wr sync).1 = (s.lookup cl d a.toNat).1 ∧ ∃ m, (s.lookup cl d a.toNat).2 = .error m) ∨
    ∃ l, (s.lookup cl d a.toNat).2 = .ok l ∧
      (s.route cl d a wr sync).1 = (s.lookup cl d a.toNat).1.useLeaf cl d a.toNat l wr := by
  unfold State.route
  split
  · exact .inl rfl
  · split
    · exact .inl rfl
    · split
      · next e => exact .inr (.inl ⟨by rw [e], _, by rw [e]⟩)
      · next q l e =>
        refine .inr (.inr ⟨l, by rw [e], ?_⟩)
        rw [e]
        dsimp only
        repeat' split
        all_goals rfl

theorem State.lookup_touches (dva pte : Nat) : s.TouchesEntry pte (s.lookup cl d dva).1 := by
  have h := s.lookup_eq cl d dva
  have hmem : (s.lookup cl d dva).1.mem = s.mem := by rw [h]
  exact ⟨by rw [h], fun hm => by rw [State.memOk, hmem]; exact hm, fun _ _ _ => by rw [hmem]⟩

end

/-- Settles O28: a lookup changes no memory, and the use of the leaf that it finds writes that leaf's entry alone. -/
theorem translationFrame : Obligations.TranslationFrame := by
  unfold Obligations.TranslationFrame
  intro s cl d a wr sync
  refine ⟨fun hpool => s.route_pool cl d hpool wr sync, fun ha hm => ?_⟩
  intro s1
  have hlookup (pte : Nat) : s.TouchesEntry pte (s.lookup cl d a.toNat).1 := s.lookup_touches cl d a.toNat pte
  have heq := s.lookup_eq cl d a.toNat
  rcases s.route_state cl d a wr sync with hs | ⟨hs, m, hmiss⟩ | ⟨l, hleaf, hs⟩
  · rw [show s1 = s from hs]
    exact ⟨rfl, fun _ _ => ⟨rfl, rfl⟩, fun _ _ _ _ => rfl⟩
  · rw [show s1 = (s.lookup cl d a.toNat).1 from hs]
    exact ⟨(hlookup 0).rest, fun _ _ => ⟨by rw [heq], by rw [heq]⟩,
      fun l hleaf => nomatch hmiss.symm.trans hleaf⟩
  · have hused := (hlookup l.pte).trans
      (State.useLeaf_touches ((hlookup l.pte).accs.trans ha) cl d a.toNat l wr)
    rw [show s1 = _ from hs]
    refine ⟨hused.rest, fun m hmiss => (nomatch hleaf.symm.trans hmiss), fun l' hleaf' j hj => ?_⟩
    obtain rfl : l = l' := Except.ok.inj (hleaf.symm.trans hleaf')
    exact hused.outside hm j hj

end Sys2Proof.Machine
end

section
/-! PROOF. Full/empty forms (O29). -/
namespace Sys2Proof.Machine

/-! ### What each form does at its bank -/

section
variable {s : State} {k : Nat} {v : Bool} (x : Reg)

theorem act_ldw_full (h : s.allFull k (if v then 64 else 8) = true) :
    act s k (.ldw v) = (s, .ok (BitVec.ofNat 512 (s.read k (if v then 64 else 8))), false) := if_pos h

theorem act_ldw_waits (h : s.allFull k (if v then 64 else 8) = false) : act s k (.ldw v) = (s, .wait, false) :=
  if_neg (ne_true_of_eq_false h)

theorem act_ldc_full (h : s.allFull k (if v then 64 else 8) = true) :
    act s k (.ldc v) = (s.setBits k (if v then 64 else 8) false,
      .ok (BitVec.ofNat 512 (s.read k (if v then 64 else 8))), false) := if_pos h

theorem act_ldc_waits (h : s.allFull k (if v then 64 else 8) = false) : act s k (.ldc v) = (s, .wait, false) :=
  if_neg (ne_true_of_eq_false h)

theorem act_stf_all_empty (h : s.allEmpty k (if v then 64 else 8) = true) :
    act s k (.stf v x) = ((s.write k (if v then 64 else 8) x.toNat).setBits k (if v then 64 else 8) true, .ok 0, false) :=
  if_pos h

theorem act_stf_waits (h : s.allEmpty k (if v then 64 else 8) = false) : act s k (.stf v x) = (s, .wait, false) :=
  if_neg (ne_true_of_eq_false h)

theorem act_waitv_other (h : s.read k (if v then 64 else 8) ≠ x.toNat % 2 ^ (8 * if v then 64 else 8)) :
    act s k (.waitv v x) = (s, .ok 0, false) := if_neg h

theorem act_waitv_waits (h : s.read k (if v then 64 else 8) = x.toNat % 2 ^ (8 * if v then 64 else 8)) :
    act s k (.waitv v x) = (s, .wait, false) := if_pos h

end

/-! ### An access that its bank performs -/

section
variable {s s1 s2 : State} {t : Thread} {d base : RegNum} {g : SegReg} {off : BitVec 32} {v : Bool} {b x y : Reg}
variable {k : Nat}

/-- An access whose bank step ends no barrier phase completes, where nothing waits at a bank. -/
theorem performX_done {a : Access} (hs : s1.sound k a.form.bytes) (hact : act s1 k a.form = (s2, .ok y, false))
    (hnone : s2.accs = []) : performX s1 t a k = .ok (s2, (t.accepted a.form).completes a.d y) := by
  have hstep : bankStep s1 k a.form = (s2, .ok y) := by
    rw [bankStep_sound hs, hact]
    simp only [settle_nil hnone, ite_self, Bool.false_eq_true, if_false]
  rw [performX, hstep]

/-- A full/empty form that loads completes with what its bank answers. -/
theorem syncLoad_done {f : Form} (hI : Issues s t) (hb : t.holds base b) (hd : t.takes d)
    (hR : Reaches s t g (b.extractLsb' 0 64 + off.signExtend 64) f (if v then 64 else 8) s1 k)
    (hs : s1.sound k f.bytes) (hact : act s1 k f = (s2, .ok y, false)) (hnone : s2.accs = []) :
    syncLoad s d base g off v f = .next (s2.commit ((t.accepted f).setReg d y).adv) := by
  rw [syncL hI hb hd hR]
  exact runT_ok hI (performX_done hs hact hnone)

/-- A full/empty form that stores completes with what its bank does. -/
theorem syncStore_done {f : Reg → Form} (hI : Issues s t) (hb : t.holds base b) (hd : t.holds d x)
    (hR : Reaches s t g (b.extractLsb' 0 64 + off.signExtend 64) (f x) (if v then 64 else 8) s1 k)
    (hs : s1.sound k (f x).bytes) (hact : act s1 k (f x) = (s2, .ok y, false)) (hnone : s2.accs = []) :
    syncStore s d base g off v f = .next (s2.commit (t.accepted (f x)).adv) := by
  rw [syncS hI hb hd hR]
  exact runT_ok hI (performX_done hs hact hnone)

end

/-! ### An access that its bank keeps -/

/-- A bank has room for a Skerry at least. -/
theorem State.bank_room (s : State) (k : Nat) : 0 < (s.bank k).2 := by
  unfold State.bank
  split
  · exact Nat.succ_pos 63
  · split <;> exact Nat.succ_pos _

section
variable {s : State} {t : Thread} {a : Access}

/-- A thread parks, if it has not yet, when its ordinary access begins to wait (R67). -/
theorem State.beginWait_own (ht : s.thread? a.t = some t) (hid : t.id = a.t) (hagent : a.agent = .thread)
    (hrel : a.rel = false) : ∃ st, s.beginWait a = { s with threads := (s.beginWait a).threads } ∧
      (s.beginWait a).thread? a.t = some { t with state := st } := by
  have hown : (a.agent = .thread && !a.rel) = true := by simp [hagent, hrel]
  simp only [State.beginWait, hown, if_true, ht]
  split
  · exact ⟨.parked, rfl, by rw [State.thread?_setThread, if_pos hid.symm]⟩
  · exact ⟨t.state, rfl, ht⟩

theorem State.refill_own (ht : s.thread? a.t = some t) (hagent : a.agent = .thread) :
    s.refill a = s.setThread { t with sp := { t.sp with febudget := 64 } } := by
  simp only [State.refill, hagent, ht]

/-- A bank with room keeps a waiting access as its last Skerry (R154). -/
theorem State.keepWaiting_room {k : Nat} (hkey : a.key = some k)
    (hroom : ((s.beginWait a).skerriesAt k).length < ((s.beginWait a).bank k).2) :
    s.keepWaiting a = ({ s.beginWait a with
      accs := (s.beginWait a).accs.filter (fun (b : Access) => b.n != a.n) ++
        [{ a with stage := .skerry, refusals := 0 }] } : State).refill a := by
  unfold State.keepWaiting
  split
  · next e => exact nomatch hkey.symm.trans e
  · next e =>
    obtain rfl := Option.some.inj (hkey.symm.trans e)
    exact if_pos hroom

/-- The only access outstanding becomes a Skerry of its bank, and its thread's %febudget is refilled (R154, R158). -/
theorem State.keepWaiting_alone {k : Nat} (hkey : a.key = some k) (haccs : s.accs = [a]) (hstage : a.stage = .inFlight)
    (ht : s.thread? a.t = some t) (hid : t.id = a.t) (hagent : a.agent = .thread) (hrel : a.rel = false) :
    ∃ s' st, s.keepWaiting a = s' ∧ s'.mem = s.mem ∧ s'.empties = s.empties ∧
      s'.accs = [{ a with stage := .skerry, refusals := 0 }] ∧
      s'.thread? a.t = some { t with state := st, sp := { t.sp with febudget := 64 } } := by
  obtain ⟨st, hbegun, ht'⟩ := State.beginWait_own ht hid hagent hrel
  have haccs' : (s.beginWait a).accs = [a] := by rw [hbegun, haccs]
  have hroom : ((s.beginWait a).skerriesAt k).length < ((s.beginWait a).bank k).2 := by
    have hnone : (s.beginWait a).skerriesAt k = [] := by simp [State.skerriesAt, haccs', hstage]
    rw [hnone]
    exact State.bank_room _ k
  refine ⟨_, st, (State.keepWaiting_room hkey hroom).trans (State.refill_own ht' hagent), ?_, ?_, ?_, ?_⟩
  · rw [State.setThread_mem, hbegun]
  · rw [State.setThread_empties, hbegun]
  · simp [haccs']
  · rw [State.thread?_setThread, if_pos hid.symm]

end

section
variable {s s1 : State} {t : Thread} {d base : RegNum} {g : SegReg} {off : BitVec 32} {v : Bool} {b x : Reg} {k : Nat}

/-- The state in which the thread's access of a form waits at the bank of a key, with memory and its bits as they were
(R152, R154, R158). -/
def KeptAtBank (s1 : State) (t : Thread) (f : Form) (d : Option RegNum) (k : Nat) (s2 : State) : Prop :=
  ∃ u a, s2.mem = s1.mem ∧ s2.empties = s1.empties ∧ s2.accs = [a] ∧ a.stage = .skerry ∧ a.key = some k ∧
    a.form = f ∧ a.t = t.id ∧ s2.thread? t.id = some u ∧
    u = { t with sp := { t.sp with febudget := 64 }, state := .parked, wait := .access d 0 }

/-- An access whose bank step waits parks its thread, and is kept at the bank, where nothing else waits. -/
theorem performX_waits (e a : Word) (f : Form) (hs : s1.sound k f.bytes) (hact : act s1 k f = (s1, .wait, false))
    (hnone : s1.accs = []) (r : Option RegNum) :
    ∃ s' u, performX s1 t (mkAccess s1 t g e a f false r (some k) .inFlight) k = .error (.parkIn s' u) ∧
      KeptAtBank s1 t f r k (s'.setThread u) := by
  have hstep : bankStep s1 k f = (s1, .wait) := by rw [bankStep_sound hs, hact]
  have ht : ((s1.setThread t).addAccess (mkAccess s1 t g e a f false r (some k) .inFlight)).thread? t.id = some t :=
    (State.thread?_setThread ..).trans (if_pos rfl)
  obtain ⟨s', st, hkept, hmem, hempties, haccs, ht'⟩ := State.keepWaiting_alone
    (a := mkAccess s1 t g e a f false r (some k) .inFlight) rfl
    (by rw [State.addAccess, State.setThread_accs, hnone]; rfl) rfl ht rfl rfl rfl
  have hthread : s'.thread? t.id = _ := ht'
  refine ⟨s', { t with sp := { t.sp with febudget := 64 }, state := .parked, wait := .access r 0 }, ?_, _, _, hmem,
    hempties, haccs, rfl, rfl, rfl, rfl, (State.thread?_setThread ..).trans (if_pos rfl), rfl⟩
  simp only [performX, mkAccess, hstep] at hkept ⊢
  rw [hkept, hthread]
  rfl

theorem syncLoad_waits {f : Form} (hI : Issues s t) (hb : t.holds base b) (hd : t.takes d)
    (hR : Reaches s t g (b.extractLsb' 0 64 + off.signExtend 64) f (if v then 64 else 8) s1 k)
    (hs : s1.sound k f.bytes) (hact : act s1 k f = (s1, .wait, false)) (hnone : s1.accs = []) :
    ∃ s2, syncLoad s d base g off v f = .next s2 ∧ KeptAtBank s1 t f (some d) k s2 := by
  obtain ⟨s', u, hx, hkept⟩ := performX_waits _ _ f hs hact hnone (some d)
  rw [syncL hI hb hd hR]
  exact ⟨_, runT_error hI hx, hkept⟩

theorem syncStore_waits {f : Reg → Form} (hI : Issues s t) (hb : t.holds base b) (hd : t.holds d x)
    (hR : Reaches s t g (b.extractLsb' 0 64 + off.signExtend 64) (f x) (if v then 64 else 8) s1 k)
    (hs : s1.sound k (f x).bytes) (hact : act s1 k (f x) = (s1, .wait, false)) (hnone : s1.accs = []) :
    ∃ s2, syncStore s d base g off v f = .next s2 ∧ KeptAtBank s1 t (f x) none k s2 := by
  obtain ⟨s', u, hx, hkept⟩ := performX_waits _ _ (f x) hs hact hnone none
  rw [syncS hI hb hd hR]
  exact ⟨_, runT_error hI hx, hkept⟩

end

/-- Settles O29: each form by what it does at its bank, where its condition holds and where it does not. -/
theorem fullEmptyForms : Obligations.FullEmptyForms := by
  unfold Obligations.FullEmptyForms
  refine ⟨?_, ?_⟩
  · intro s s1 t d base g off v b x k n e u hI hb hs hnone
    refine ⟨fun hd => ⟨?_, ?_, ?_⟩, fun hd => ⟨?_, ?_, ?_, ?_⟩⟩
    · exact fun hR hfull => syncLoad_done hI hb hd hR hs (act_ldw_full hfull) hnone
    · exact fun hR hfull => syncLoad_done hI hb hd hR hs (act_ldc_full hfull) ((State.setBits_accs ..).trans hnone)
    · exact fun hR => syncLoad_done hI hb hd hR hs rfl hnone
    · exact fun hR hempty => syncStore_done hI hb hd hR hs (act_stf_all_empty x hempty)
        ((State.setBits_accs ..).trans hnone)
    · exact fun hR => syncStore_done hI hb hd hR hs rfl ((State.setBits_accs ..).trans hnone)
    · exact fun hR => syncStore_done hI hb hd hR hs rfl ((State.setBitsFrom_accs ..).trans hnone)
    · exact fun hR hother => syncStore_done hI hb hd hR hs (act_waitv_other x hother) hnone
  · intro s s1 t d base g off v b x k n e waits hI hb hs hnone
    have waits_of {i : Instr} {f : Form} {r : Option RegNum}
        (h : ∃ s2, exec i s = .next s2 ∧ KeptAtBank s1 t f r k s2) : waits i f r := by
      obtain ⟨s2, hexec, u, a, hkept⟩ := h
      exact ⟨s2, u, a, hexec, hkept⟩
    refine ⟨fun hd => ⟨?_, ?_⟩, fun hd => ⟨?_, ?_⟩⟩
    · exact fun hR hbar => waits_of (syncLoad_waits hI hb hd hR hs (act_ldw_waits hbar) hnone)
    · exact fun hR hbar => waits_of (syncLoad_waits hI hb hd hR hs (act_ldc_waits hbar) hnone)
    · exact fun hR hbar => waits_of (syncStore_waits hI hb hd hR hs (act_stf_waits x hbar) hnone)
    · exact fun hR hsame => waits_of (syncStore_waits hI hb hd hR hs (act_waitv_waits x hsame) hnone)

end Sys2Proof.Machine
end

section
/-! PROOF. Events of pages and of uncorrectable errors (O52). -/
namespace Sys2Proof.Machine

/-! ### Faults, wakes and collapses -/

section
variable {s : State}

/-- An ordinary access in flight that meets a missing page is set aside (R282). -/
theorem pageFault_setsAside {a : Access} {t : Thread} {m : Miss} {n : Nat} (hacc : s.acc? n = some a)
    (ht : s.thread? a.t = some t) (hagent : a.agent = .thread) (hstage : a.stage = .inFlight) (hriders : a.riders = [])
    (hdva : a.dva.toNat < poolBase) (hrel : a.rel = false) (hlane : a.lane = none) (hon : t.onAccess = true)
    (hwalk : s.walk a.domain a.dva.toNat = .error m) : s.pageFault n = some (s.setAside t a m) := by
  have hgoes : (a.stage != .inFlight || a.agent != .thread || !a.riders.isEmpty || a.lane.isSome ||
      decide (poolBase ≤ a.dva.toNat)) = false := by
    simp [hstage, hagent, hriders, hlane, hdva]
  simp only [State.pageFault, hacc, hgoes, hwalk, hrel, ht, hon, Bool.not_true, Bool.false_eq_true, if_false]

/-- The thread of an access set aside waits for the wake, where no THKILL has stopped it (R282). -/
theorem State.setAside_waits {t : Thread} (hk : t.killed = none) (a : Access) (m : Miss) :
    s.setAside t a m = ((s.dropOrdinary t.id).pageRequest
      (pageG0 a.dva (some t.id) 0 a.form.writes m t.regionId a.domain)).setThread
        { t with wait := .page, state := if t.state = .ready then .parked else t.state } := by
  rw [State.setAside, Thread.withWait_free _ hk]

theorem mmuRewalk_agents {cl : Nat} {dva : Word} (h : (cl, dva, true) ∈ s.rewalks) :
    s.mmuRewalk cl dva true = some (State.payOwed { s with
      rewalks := s.rewalks.erase (cl, dva, true),
      mmuWaits := s.mmuWaits.filter fun w => !(!w.isCopy && s.samePage w.domain w.dva dva) }) := by
  have hin : s.rewalks.contains (cl, dva, true) = true := List.contains_iff_mem.mpr h
  simp only [State.mmuRewalk, hin, Bool.not_true, Bool.false_eq_true, if_false, if_true]
  rfl

theorem collapse_asks {frame : Nat} {p : Dup} (h : s.collapseOf frame = some p) :
    s.collapse frame = some { s with dups := (s.dups.filter fun q => q.home != p.home) ++
      [{ p with collapsing := some [0, 1, 2, 3] }] } := by
  rw [State.collapse, h]
  rfl

theorem collapseAck_die {frame die : Nat} {p : Dup} {l : List Nat} (hdup : s.dupOf frame = some p)
    (hl : p.collapsing = some l) (hdie : die ∈ l) :
    let q : Dup := { p with collapsing := some (l.filter (· != die)) }
    let s1 := (s.performCopies p).dropHome p (some die)
    let s2 : State := { s1 with dups := s1.dups.map fun x => if x.home = p.home then q else x }
    s.collapseAck frame die = some (if l.filter (· != die) = [] then s2.endCollapse q else s2) := by
  have hin : l.contains die = true := List.contains_iff_mem.mpr hdie
  simp only [State.collapseAck, hdup, hl, hin, Bool.not_true, Bool.false_eq_true, if_false, Option.some.injEq]

end

/-! ### A frame's bytes move as one -/

/-- Memory with a list of entries put from one place to another. -/
def movedTo (src dst : Nat) (l m : List Host.Cell) : List Host.Cell :=
  l.foldl (fun m c => memPut (c.1 - src + dst) c.2 m) m

/-- Entries put at another place cover there what stood there, and no other byte (R161). -/
theorem memByte_movedTo {src dst lo : Nat} (j : Nat) {l m : List Host.Cell} (hl : memSorted lo l = true)
    (hsrc : ∀ c ∈ l, src ≤ c.1) (hm : Memory.wf m = true) : memByte j (movedTo src dst l m) =
      if dst ≤ j ∧ memByte (j - dst + src) l ≠ 0 then memByte (j - dst + src) l else memByte j m := by
  induction l generalizing lo m with
  | nil => simp [movedTo, memByte]
  | cons c l ih =>
    obtain ⟨i, b⟩ := c
    simp only [memSorted, Bool.and_eq_true, decide_eq_true_eq, bne_iff_ne] at hl
    obtain ⟨⟨-, hb⟩, hrest⟩ := hl
    have hb : b ≠ 0#8 := hb
    have hi : src ≤ i := hsrc _ List.mem_cons_self
    have hput : movedTo src dst ((i, b) :: l) m = movedTo src dst l (memPut (i - src + dst) b m) := rfl
    rw [hput, ih hrest (fun c hc => hsrc c (List.mem_cons_of_mem _ hc)) (memWf_memPut _ _ hm),
      memByte_memPut_wf _ _ _ hm]
    by_cases hj : j = i - src + dst
    · have hat : j - dst + src = i := by omega
      have hdst : dst ≤ j := by omega
      have hbelow : memByte i l = 0 := memByte_below hrest (Nat.lt_succ_self i)
      rw [if_pos hj, hat]
      simp [memByte, hdst, hbelow, hb]
    · rw [if_neg hj]
      by_cases hdst : dst ≤ j
      · have hat : i ≠ j - dst + src := by omega
        by_cases hlt : j - dst + src < i
        · have hbelow : memByte (j - dst + src) l = 0 := memByte_below hrest (by omega)
          simp [memByte, hat, hlt, hbelow]
        · simp [memByte, hat, hlt]
      · simp [hdst]

/-- Steps that leave memory alone leave it alone together. -/
theorem mem_foldl {α : Type} {f : State → α → State} (hf : ∀ s a, (f s a).mem = s.mem) (l : List α) (s : State) :
    (l.foldl f s).mem = s.mem := by
  induction l generalizing s with
  | nil => rfl
  | cons a l ih => rw [List.foldl_cons, ih, hf]

@[simp] theorem State.refill_mem (s : State) (a : Access) : (s.refill a).mem = s.mem := by
  unfold State.refill
  split
  · split <;> rfl
  · rfl

@[simp] theorem State.moveAccs_mem (s : State) (src dst n : Nat) : (s.moveAccs src dst n).mem = s.mem :=
  mem_foldl State.refill_mem _ _

/-- Entries put into memory one by one. -/
theorem foldl_put_mem (src dst : Nat) (l : List Host.Cell) (s : State) :
    (l.foldl (fun (m : State) c => { m with mem := memPut (c.1 - src + dst) c.2 m.mem }) s).mem =
      movedTo src dst l s.mem := by
  induction l generalizing s with
  | nil => rfl
  | cons c l ih => exact ih _

section
variable {s : State} {src dst n : Nat}

/-- A frame that can be moved is put at its destination, which is zeroed first (R161, R286). -/
theorem pageMigration_moves (hsrc : src % 2 ^ 17 = 0) (hdst : dst % 2 ^ 17 = 0) (hn : n ≠ 0)
    (hapart : ¬ (src < dst + n ∧ dst < src + n)) (hsp : paSpace src < 5) (hdp : paSpace dst < 5)
    (hroom : s.roomForSkerries src dst n = true) :
    ∃ s2, s.pageMigration src dst n = some s2 ∧ s2.mem = movedTo src dst
      (s.mem.filter fun c => decide (src ≤ c.1) && decide (c.1 < src + n)) (s.zeroed dst n).mem := by
  have hgoes : (src % 2 ^ 17 != 0 || dst % 2 ^ 17 != 0 || decide (n = 0) ||
      decide (src < dst + n ∧ dst < src + n) || decide (5 ≤ paSpace src) || decide (5 ≤ paSpace dst) ||
      !s.roomForSkerries src dst n) = false := by
    simp only [hsrc, hdst, hn, hapart, Nat.not_le.mpr hsp, Nat.not_le.mpr hdp, hroom, bne_self_eq_false, decide_false,
      Bool.not_true, Bool.or_self]
  exact ⟨_, if_neg (ne_true_of_eq_false hgoes), (State.moveAccs_mem ..).trans (foldl_put_mem ..)⟩

theorem State.memByte_zeroed (hm : s.memOk) (j : Nat) :
    memByte j (s.zeroed dst n).mem = if dst ≤ j ∧ j < dst + n then 0 else memByte j s.mem :=
  State.memByte_scrubbed hm

/-- The bytes of a frame after its move stand at the destination, and every other byte is as it was. -/
theorem memByte_moved (hm : s.memOk) (j : Nat) : memByte j (movedTo src dst
      (s.mem.filter fun c => decide (src ≤ c.1) && decide (c.1 < src + n)) (s.zeroed dst n).mem) =
      if dst ≤ j ∧ j < dst + n then memByte (j - dst + src) s.mem else memByte j s.mem := by
  have hframe : memByte (j - dst + src) (s.mem.filter fun c => decide (src ≤ c.1) && decide (c.1 < src + n)) =
      if j - dst < n then memByte (j - dst + src) s.mem else 0 := by
    have h := memByte_filter (fun i => decide (src ≤ i) && decide (i < src + n)) (j - dst + src) hm
    rw [h]
    simp [Nat.add_comm src n]
  have hkeys : ∀ c ∈ s.mem.filter fun c => decide (src ≤ c.1) && decide (c.1 < src + n), src ≤ c.1 := by
    intro c hc
    have hrange := (List.mem_filter.mp hc).2
    simp only [Bool.and_eq_true, decide_eq_true_eq] at hrange
    exact hrange.1
  rw [memByte_movedTo j (memSorted_filter _ _ 0 hm) hkeys (State.memWf_zeroed s dst n hm), hframe,
    State.memByte_zeroed hm]
  by_cases hin : dst ≤ j ∧ j < dst + n
  · have hoff : j - dst < n := by omega
    rw [if_pos hin, if_pos hin, if_pos hoff]
    by_cases hzero : memByte (j - dst + src) s.mem = 0
    · rw [if_neg (fun h => h.2 hzero), hzero]
    · rw [if_pos ⟨hin.1, hzero⟩]
  · rw [if_neg hin, if_neg hin]
    by_cases hlow : dst ≤ j
    · have hoff : ¬ j - dst < n := by omega
      rw [if_neg hoff, if_neg (fun h => h.2 rfl)]
    · rw [if_neg (fun h => hlow h.1)]

end

/-! ### Pages poisoned, and a Strait withdrawn -/

/-- Every page of a list poisoned (R294). -/
def State.poisonPages (s : State) (l : List (Nat × Nat)) : State := l.foldl (fun s p => s.poisonPage p.1 p.2) s

section
variable {s : State} {k : Nat}

/-- A page that is poisoned adds its own words to the poisoned ones (R294). -/
theorem State.bad_poisonPage {q n : Nat} (hq : q % 8 = 0) (hn : n % 8 = 0) :
    (s.poisonPage q n).bad k = true ↔ (q ≤ k ∧ k < q + n) ∨ s.bad k = true := by
  have hpage : (∃ w < n / 8, q / 8 + w = k / 8) ↔ q ≤ k ∧ k < q + n :=
    ⟨fun ⟨w, hw, hk⟩ => by omega, fun h => ⟨k / 8 - q / 8, by omega, by omega⟩⟩
  simp only [State.bad, State.poisonPage, List.contains_iff_mem, List.mem_append, List.mem_filter, List.mem_map,
    List.mem_range, hpage, decide_eq_true_eq]
  constructor
  · rintro ((h | h) | h)
    · exact .inr h.1
    · exact .inl h
    · exact .inr h.1
  · rintro (h | h)
    · exact .inl (.inr h)
    · by_cases hlow : k / 8 < q / 8
      · exact .inl (.inl ⟨h, hlow⟩)
      · by_cases hhigh : q / 8 + n / 8 ≤ k / 8
        · exact .inr ⟨h, hhigh⟩
        · exact .inl (.inr (by omega))

theorem State.bad_poisonPages {l : List (Nat × Nat)} (hl : ∀ p ∈ l, p.1 % 2 ^ 17 = 0 ∧ p.2 % 2 ^ 17 = 0) :
    (s.poisonPages l).bad k = true ↔ (∃ p ∈ l, p.1 ≤ k ∧ k < p.1 + p.2) ∨ s.bad k = true := by
  unfold State.poisonPages
  induction l generalizing s with
  | nil => simp
  | cons p l ih =>
    obtain ⟨hp1, hp2⟩ := hl p List.mem_cons_self
    rw [List.foldl_cons, ih fun q hq => hl q (List.mem_cons_of_mem _ hq), State.bad_poisonPage (by omega) (by omega)]
    rw [List.exists_mem_cons_iff]
    exact or_left_comm.trans or_assoc.symm

/-- An access that still waits at a bank after a page has been poisoned waited there before, and not in that page
(R162). -/
theorem State.waiting_poisonPage {q n : Nat} {a : Access} (ha : a ∈ (s.poisonPage q n).accs)
    (hw : a.withdrawable = true) : a ∈ s.accs ∧ ∀ k, a.key = some k → ¬ (q ≤ k ∧ k < q + n) := by
  obtain ⟨b, hb, hba⟩ := List.mem_map.mp ha
  split at hba
  · subst hba
    cases hw
  · next hout =>
    subst hba
    refine ⟨hb, fun k hkey hin => hout ?_⟩
    simp [hw, hkey, hin]

theorem State.waiting_poisonPages {l : List (Nat × Nat)} {a : Access} (ha : a ∈ (s.poisonPages l).accs)
    (hw : a.withdrawable = true) : a ∈ s.accs ∧ ∀ p ∈ l, ∀ k, a.key = some k → ¬ (p.1 ≤ k ∧ k < p.1 + p.2) := by
  unfold State.poisonPages at ha
  induction l generalizing s with
  | nil => exact ⟨ha, fun p hp => nomatch hp⟩
  | cons p l ih =>
    obtain ⟨hmid, hrest⟩ := ih ha
    obtain ⟨hold, hpage⟩ := State.waiting_poisonPage hmid hw
    exact ⟨hold, List.forall_mem_cons.mpr ⟨hpage, hrest⟩⟩

theorem State.poisonPages_mem (s : State) (l : List (Nat × Nat)) : (s.poisonPages l).mem = s.mem :=
  mem_foldl (f := fun s (p : Nat × Nat) => s.poisonPage p.1 p.2) (fun _ _ => rfl) l s

/-- A Strait's entry says that it is retired and withdrawn (R309). -/
def State.withdrawStrait (s : State) (i : Nat) : State :=
  { s with sys := { s.sys with units := { s.sys.units with
      straits := tabPut i (s.strait i ||| 6) s.sys.units.straits } } }

theorem State.strait_withdrawStrait (i : Nat) : ((s.withdrawStrait i).strait i).getLsbD 2 = true := by
  have hentry : (s.withdrawStrait i).strait i = s.strait i ||| 6 := by
    simp only [State.strait, State.withdrawStrait, tabGet_tabPut, if_true, Option.getD_some]
  rw [hentry]
  simp

theorem State.withdrawn_of_strait {i : Nat} (h : (s.strait i).getLsbD 2 = true) (hspace : paSpace k < 4)
    (hk : straitOf k = i) : s.withdrawn k = true := by
  simp [State.withdrawn, hspace, hk, h]

/-- A Strait is withdrawn once no access waits behind it in a page that has not been poisoned (R146, R294). -/
theorem straitWithdrawal_withdraws {die strait : Nat} {stuck : List (Nat × Nat)} (hdie : die < 4)
    (hstrait : strait < 64) (hstuck : ∀ p ∈ stuck, p.1 % 2 ^ 17 = 0 ∧ p.2 % 2 ^ 17 = 0)
    (hmoved : ∀ a ∈ s.accs, ∀ k, a.key = some k → a.withdrawable = true → poolOf k = none → paSpace k < 4 →
      straitOf k = 64 * die + strait → ∃ p ∈ stuck, p.1 ≤ k ∧ k < p.1 + p.2) :
    s.straitWithdrawal die strait stuck = some ((s.poisonPages stuck).withdrawStrait (64 * die + strait)) := by
  have haligned : (stuck.all fun p => p.1 % 2 ^ 17 = 0 && p.2 % 2 ^ 17 = 0) = true := by
    simpa only [List.all_eq_true, Bool.and_eq_true, decide_eq_true_eq] using hstuck
  have hnone : ((s.poisonPages stuck).accs.any fun a => a.withdrawable && a.key.any fun k =>
      (poolOf k).isNone && decide (paSpace k < 4) && decide (straitOf k = 64 * die + strait)) = false := by
    rw [List.any_eq_false]
    intro a ha hbehind
    simp only [Bool.and_eq_true, Option.any_eq_true, Option.isNone_iff_eq_none, decide_eq_true_eq] at hbehind
    obtain ⟨hw, k, hkey, ⟨hpool, hspace⟩, hbank⟩ := hbehind
    obtain ⟨hold, hout⟩ := State.waiting_poisonPages ha hw
    obtain ⟨p, hp, hin⟩ := hmoved a hold k hkey hw hpool hspace hbank
    exact hout p hp k hkey hin
  have hgoes : (decide (4 ≤ die) || decide (64 ≤ strait) ||
      !(stuck.all fun p => p.1 % 2 ^ 17 = 0 && p.2 % 2 ^ 17 = 0) ||
      (s.poisonPages stuck).accs.any fun a => a.withdrawable && a.key.any fun k =>
        (poolOf k).isNone && decide (paSpace k < 4) && decide (straitOf k = 64 * die + strait)) = false := by
    simp only [haligned, hnone, Nat.not_le.mpr hdie, Nat.not_le.mpr hstrait, decide_false, Bool.not_true, Bool.or_self]
  exact if_neg (ne_true_of_eq_false hgoes)

end

/-! ### Uncorrectable errors -/

/-- The error log has taken a record in its first empty entry, or none where it has no empty one (R309, DESIGN CHOICE,
log 56). -/
def Logged (s s2 : State) (array place : Nat) : Prop :=
  (∀ l w r, s.sys.errlog = l ++ w :: r → (∀ x ∈ l, x.getLsbD 63 = true) → w.getLsbD 63 = false →
    s2.sys.errlog = l ++ BitVec.ofNat 64 (2 ^ 63 + 2 ^ 56 * array + place) :: r) ∧
  ((∀ x ∈ s.sys.errlog, x.getLsbD 63 = true) → s2.sys.errlog = s.sys.errlog)

section
variable {s : State} (array place : Nat)

/-- A record in the error log changes nothing else. -/
theorem State.logError_eq (s : State) :
    s.logError array place = { s with sys := (s.logError array place).sys } := by
  unfold State.logError
  split <;> rfl

@[simp] theorem State.logError_mem (s : State) : (s.logError array place).mem = s.mem := by rw [State.logError_eq]

@[simp] theorem State.logError_bad (s : State) (k : Nat) : (s.logError array place).bad k = s.bad k := by
  rw [State.logError_eq]
  rfl

@[simp] theorem State.logError_thread? (s : State) (id : Ident) :
    (s.logError array place).thread? id = s.thread? id := by
  rw [State.logError_eq]
  rfl

@[simp] theorem State.logError_core (s : State) (c : Nat) : (s.logError array place).core c = s.core c := by
  rw [State.logError_eq]
  rfl

theorem State.logError_logged {q : State} (h : q.sys = s.sys) : Logged s (q.logError array place) array place := by
  refine ⟨fun l w r hlog hl hw => ?_, fun hfull => ?_⟩
  · have hfirst : q.sys.errlog.findIdx? (fun w => !w.getLsbD 63) = some l.length := by
      have hnone : l.findIdx? (fun w => !w.getLsbD 63) = none := by simpa using hl
      rw [h, hlog, List.findIdx?_append, hnone, List.findIdx?_cons, if_pos (by rw [hw]; rfl)]
      simp
    simp only [State.logError, hfirst]
    rw [h, hlog]
    simp
  · have hnone : q.sys.errlog.findIdx? (fun w => !w.getLsbD 63) = none := by simpa [h] using hfull
    simp only [State.logError, hnone]
    rw [h]

end

section
variable {s s2 : State} {k : Nat}

/-- An error that strikes a place leaves memory's bytes, and what it has changed beside. -/
theorem error_strikes {e : ErrSite} {p : State → Prop} (h : s.uncorrectableError e = some s2) (hmem : s2.mem = s.mem)
    (hp : p s2) (hev : s.ev = some (.uncorrectableError e)) :
    ∃ s2, exec .uncorrectableError s = .next s2 ∧ s2.mem = s.mem ∧ p s2 :=
  ⟨s2, by simp only [exec, execUncorrectableError, hev, h, happens_some], hmem, hp⟩

/-- The word that an error in memory strikes joins the poisoned ones (R291). -/
theorem State.bad_struck (array place : Nat) {j : Nat} :
    (((s.poisonWord k).failSkerries k).logError array place).bad j = true ↔ j / 8 = k / 8 ∨ s.bad j = true := by
  rw [State.logError_bad]
  simp only [State.bad, State.failSkerries, State.poisonWord, List.contains_iff_mem, mem_setAdd]

/-- A register poisoned, with its contents and presence as they were (R292). -/
def Thread.poisonReg (t : Thread) (r : RegNum) : Thread :=
  { t with regs := t.regs.set r.toNat { t.entry r with poison := true } }

theorem Thread.entry_poisonReg {t : Thread} {r : RegNum} (q : RegNum) (h : r.toNat < t.win) :
    (t.poisonReg r).entry q = if q = r then { t.entry r with poison := true } else t.entry q := by
  unfold Thread.win at h
  by_cases hq : q = r
  · subst hq
    simp [Thread.entry, Thread.poisonReg, List.getD_eq_getElem?_getD, h]
  · have hne : r.toNat ≠ q.toNat := fun e => hq (BitVec.eq_of_toNat_eq e.symm)
    simp [Thread.entry, Thread.poisonReg, List.getD_eq_getElem?_getD, List.getElem?_set_ne hne, hq]

theorem uncorrectableError_register {t : Thread} {id : Ident} {r : RegNum} (ht : s.thread? id = some t)
    (hwin : r.toNat < t.win) : s.uncorrectableError (.register id r) =
      some ((s.setThread (t.poisonReg r)).logError 1 id.toNat) := by
  simp only [State.uncorrectableError, ht, if_neg (Nat.not_le.mpr hwin), Thread.poisonReg]

theorem uncorrectableError_tile {core : CoreId} {i : Nat} (h : i < s.tileSlots core.toNat) :
    s.uncorrectableError (.tile core i) = some ((s.setTile core.toNat i { s.tile core.toNat i with
      poison := true }).logError 2 (64 * core.toNat)) :=
  if_neg (Nat.not_le.mpr h)

/-- A tile slot that is poisoned is listed. -/
theorem State.tile_setTile {c i : Nat} {x : TileSlot} (h : x.poison = true) : (s.setTile c i x).tile c i = x := by
  have hlisted : x ≠ ⟨.plain, .plain, ⟨[], 0, 0⟩, false⟩ := by
    rintro rfl
    cases h
  simp only [State.tile, State.setTile, State.core_setCore, if_true, if_neg hlisted, tabGet_tabPut, Option.getD_some]

end

/-- Settles O52: one rule for each event of a page, and one for each place of an error. -/
theorem pageAndErrorEvents : Obligations.PageAndErrorEvents := by
  unfold Obligations.PageAndErrorEvents
  refine ⟨?_, ?_⟩
  · intro s a t m p n frame die strait src dst cl dva l stuck
    refine ⟨?_, ?_, ?_, ?_, ?_, ?_⟩
    · intro hev hacc ht hagent hstage hriders hdva hrel hlane hon hk hwalk
      simp only [exec, execPageFault, hev, happens_some, State.setAside_waits hk,
        pageFault_setsAside hacc ht hagent hstage hriders hdva hrel hlane hon hwalk]
    · intro hev hin
      simp only [exec, execMmuRewalk, hev, mmuRewalk_agents hin, happens_some]
    · intro hev hp
      simp only [exec, execCollapse, hev, collapse_asks hp, happens_some]
    · intro hev hdup hl hdie
      simp only [exec, execCollapseAck, hev, collapseAck_die hdup hl hdie, happens_some]
    · intro hev hsrc hdst hne hsp hdp hroom hm
      have hapart : ¬ (src < dst + 2 ^ 17 ∧ dst < src + 2 ^ 17) := by omega
      obtain ⟨s2, hmoves, hmem⟩ := pageMigration_moves hsrc hdst (by decide) hapart hsp hdp hroom
      refine ⟨s2, ?_, fun j => ?_⟩
      · simp only [exec, execPageMigration, hev, hmoves, happens_some]
      · rw [hmem, memByte_moved hm]
    · intro hev hdie hstrait hstuck hmoved
      have hgone := State.strait_withdrawStrait (s := s.poisonPages stuck) (64 * die + strait)
      refine ⟨(s.poisonPages stuck).withdrawStrait (64 * die + strait), ?_, hgone, State.poisonPages_mem s stuck,
        fun p hp k hlo hhi => (State.bad_poisonPages hstuck).mpr (.inl ⟨p, hp, hlo, hhi⟩),
        fun k hspace hbank => State.withdrawn_of_strait hgone hspace hbank⟩
      simp only [exec, execStraitWithdrawal, hev, straitWithdrawal_withdraws hdie hstrait hstuck hmoved, happens_some]
  · intro s t k i id r core lat c happens logged
    refine ⟨?_, ?_, fun ht hid hwin => ?_, fun hslot => ?_, ?_, ?_⟩
    · exact error_strikes rfl (State.logError_mem ..) ⟨(State.bad_struck ..).mpr (.inl rfl),
        fun j hj => (State.bad_struck ..).mpr (.inr hj), State.logError_logged _ _ rfl⟩
    · exact error_strikes rfl (State.logError_mem ..) ⟨(State.bad_struck ..).mpr (.inl rfl),
        State.logError_logged _ _ rfl⟩
    · refine error_strikes (uncorrectableError_register ht hwin) (State.logError_mem ..)
        ⟨⟨t.poisonReg r, ?_, ?_, fun q hq => ?_⟩, State.logError_logged _ _ rfl⟩
      · rw [State.logError_thread?, State.thread?_setThread]
        exact if_pos hid.symm
      · rw [Thread.entry_poisonReg _ hwin, if_pos rfl]
      · rw [Thread.entry_poisonReg _ hwin, if_neg hq]
    · refine error_strikes (uncorrectableError_tile hslot) (State.logError_mem ..) ⟨?_, State.logError_logged _ _ rfl⟩
      rw [State.tile, State.logError_core, ← State.tile, State.tile_setTile rfl]
    · refine error_strikes rfl (State.logError_mem ..) ⟨?_, State.logError_logged _ _ rfl⟩
      rw [State.logError_core, State.core_setCore, if_pos rfl]
      cases lat <;> rfl
    · refine error_strikes rfl rfl ⟨?_, ?_, rfl⟩
      all_goals rw [State.core_setCore, if_pos rfl]

end Sys2Proof.Machine
end

section
/-! PROOF. Events of power and of the host port (O55). -/
namespace Sys2Proof.Machine

/-! ### Lines and bytes of a request -/

/-- A request within one line has one part (R164). -/
theorem linesFrom_oneLine {o n : Nat} (hn : 0 < n) (hline : o % 64 + n ≤ 64) :
    linesFrom (lineCount n) o n = [(o, n)] := by
  have hmin : min n (64 - o % 64) = n := by omega
  simp only [lineCount, linesFrom, if_neg (Nat.pos_iff_ne_zero.mp hn), hmin, Nat.sub_self, if_true]

/-- Bytes read in order are the bytes under the keys in order. -/
theorem memBytes_eq_map (m : List Host.Cell) (n : Nat) :
    ∀ k, memBytes m k n = (List.range n).map fun j => memByte (k + j) m := by
  induction n with
  | zero => intro k; rfl
  | succ n ih =>
    intro k
    rw [memBytes, ih (k + 1), List.range_succ_eq_map, List.map_cons, List.map_map]
    simp only [Nat.add_zero, Function.comp_def, Nat.succ_eq_add_one, Nat.add_assoc, Nat.add_comm 1]

section
variable {s : State}

/-- Without a poisoned word the host reads memory's own bytes (R338). -/
theorem State.lineLoad_sound {k n : Nat} (hwords : ∀ w ∈ wordsOf k n, s.bad w = false)
    (hbytes : ∀ j < n, s.bad (k + j) = false) : s.lineLoad k n = (memBytes s.mem k n, false) := by
  have hany : ((wordsOf k n).any fun w => s.bad w) = false :=
    List.any_eq_false.mpr fun w hw => by rw [hwords w hw]; exact Bool.false_ne_true
  have hmap : ((List.range n).map fun j => if s.bad (k + j) then BitVec.allOnes 8 else memByte (k + j) s.mem) =
      memBytes s.mem k n := by
    rw [memBytes_eq_map]
    refine List.map_congr_left fun j hj => ?_
    rw [hbytes j (List.mem_range.mp hj), if_neg Bool.false_ne_true]
  rw [State.lineLoad, hany, hmap]

/-! ### The host's order (R179) -/

/-- What the host asks for waits behind an earlier write that has lines left. -/
theorem State.hostAsks_waits (h : ∃ q ∈ s.base.bar2, q.write = true) (r : Bar2Req) :
    s.hostAsks r = s.withBase { s.base with bar2 := s.base.bar2 ++ [r] } :=
  if_pos (List.any_eq_true.mpr h)

/-- What the host asks for has its first line accessed at once where no write of the host is under way. -/
theorem State.hostAsks_starts (h : ¬∃ q ∈ s.base.bar2, q.write = true) (r : Bar2Req) :
    s.hostAsks r = s.bar2Step s.base.bar2 r [] :=
  if_neg fun hany => h (List.any_eq_true.mp hany)

/-- A write of one line is over at once, so that its store is all that it does. -/
theorem State.hostAsks_stores {kind : HostKind} {k n : Nat} {data : List Byte}
    (h : ¬∃ q ∈ s.base.bar2, q.write = true)
    (hkeeps : (s.hostStore kind k (data.take n)).base.bar2 = s.base.bar2) :
    s.hostAsks { write := true, todo := [(k, n)], data := data, ep := false, kind := kind } =
      s.hostStore kind k (data.take n) := by
  rw [State.hostAsks_starts h, ← hkeeps]
  simp only [State.bar2Step, State.bar2Line, if_true, List.isEmpty_nil, List.append_nil, Bool.not_true, Bool.and_false,
    Bool.false_eq_true, if_false]
  rfl

/-- A read of one line is answered at once with what it loads. -/
theorem State.hostAsks_loads {kind : HostKind} {k n : Nat} (h : ¬∃ q ∈ s.base.bar2, q.write = true) :
    s.hostAsks { write := false, todo := [(k, n)], data := [], ep := false, kind := kind } =
      s.emit (.hostData (s.hostLoad kind k n).1 (s.hostLoad kind k n).2) := by
  rw [State.hostAsks_starts h]
  simp only [State.bar2Step, State.bar2Line, Bool.false_eq_true, if_false, List.isEmpty_nil, if_true, List.append_nil,
    Bool.not_false, Bool.and_self, List.nil_append, Bool.false_or]
  rfl

/-! ### Doorbells and their target (R336, R337) -/

theorem State.inboundDoorbell_kept {v : Word} (h : s.base.mbxtgt.getLsbD 63 = false) :
    s.inboundDoorbell v = s.withBase { s.base with indb := storeDoorbell v, kept := some (storeDoorbell v) } := by
  have hen : targetEn s.base.mbxtgt = false := h
  simp only [State.inboundDoorbell, State.withBase, hen, Bool.false_eq_true, if_false]

theorem State.inboundDoorbell_sent {v : Word} (hen : s.base.mbxtgt.getLsbD 63 = true)
    (hok : s.targetOk s.base.mbxtgt = true) :
    s.inboundDoorbell v = (s.withBase { s.base with indb := storeDoorbell v }).post (s.base.mbxtgt.extractLsb' 0 11)
      (s.base.mbxtgt.extractLsb' 16 5) none 0 (.device (doorbellG0 (storeDoorbell v) s.cyc)) := by
  have hen' : targetEn s.base.mbxtgt = true := hen
  have hok' : (s.withBase { s.base with indb := storeDoorbell v }).targetOk s.base.mbxtgt = true := hok
  simp only [State.inboundDoorbell]
  exact (if_pos hen').trans (if_pos hok')

theorem State.writeMbxtgt_nothingKept (h : s.base.kept = none) (v : Word) :
    s.writeMbxtgt v = s.withBase { s.base with mbxtgt := storeTarget v } := by
  simp only [State.writeMbxtgt, State.withBase, h]

/-! ### Vectors (R335, R336) -/

/-- A raised vector is sent where its entry allows it, and else held pending. -/
theorem State.raise_entry {v : Nat} {e : MsixEntry} (h : s.base.msix[v]? = some e) :
    s.raise v = if e.data.getLsbD 32 = false ∧ e.written = true then s.emit (.msix v)
      else s.withBase { s.base with msixPending := s.base.msixPending ||| BitVec.ofNat 32 (2 ^ v) } := by
  simp only [State.raise, h, MsixEntry.ready, Bool.and_eq_true, Bool.not_eq_true']

theorem State.sendPending_bar2 (v : Nat) : (s.sendPending v).base.bar2 = s.base.bar2 := by
  unfold State.sendPending
  split
  · rfl
  · split <;> rfl

theorem State.unmaskVector_entry {v : Nat} {e : MsixEntry} (h : s.base.msix[v]? = some e) :
    s.unmaskVector v = (s.withBase { s.base with
      msix := s.base.msix.set v { e with data := e.data &&& ~~~(0x1_0000_0000#64) } }).sendPending v := by
  simp only [State.unmaskVector, h]

theorem State.msixUnmask_asks {v : Nat} {e : MsixEntry} (h : s.base.msix[v]? = some e) :
    s.msixUnmask v = some (s.hostAsks
      { write := true, todo := [(0x300C + 16 * v, 4)], data := [], ep := false, kind := .unmask v }) :=
  if_pos (List.getElem?_eq_some_iff.mp h).1

/-! ### Accesses of the block and of an aperture (R335, R338) -/

section
variable {o n k : Nat} {data : List Byte}

theorem State.hostBlockAccess_refused (h : hostMay o data.length = false) :
    s.hostBlockAccess true o n data = some (s.emit .unsupported) := by
  simp only [State.hostBlockAccess, if_true, h, Bool.not_false]

theorem State.hostBlockAccess_reads (hmay : hostMay o n = true) (hn : 0 < n) (hline : o % 64 + n ≤ 64) :
    s.hostBlockAccess false o n data = some (s.hostAsks
      { write := false, todo := [(o, n)], data := [], ep := false, kind := .block }) := by
  simp only [State.hostBlockAccess, Bool.false_eq_true, if_false, hmay, Bool.not_true, linesFrom_oneLine hn hline]

theorem State.hostBlockAccess_writes (hmay : hostMay o data.length = true) (hn : data ≠ [])
    (hline : o % 64 + data.length ≤ 64) :
    s.hostBlockAccess true o n data = some (s.hostAsks
      { write := true, todo := [(o, data.length)], data := data, ep := false, kind := .block }) := by
  simp only [State.hostBlockAccess, if_true, hmay, Bool.not_true, Bool.false_eq_true, if_false,
    linesFrom_oneLine (List.length_pos_iff.mpr hn) hline]

/-- A write of one line of the scratch memory stores all its bytes. -/
theorem State.hostWrite_scratch (hlow : o < 0x1000) (hline : o % 64 + data.length ≤ 64) :
    s.hostWrite o data = s.writeBytes (6 * 2 ^ 48 + o) data := by
  have hfits : data.length ≤ 0x1000 - o := by omega
  rw [State.hostWrite, if_pos hlow, List.take_of_length_le hfits]

/-- A part of a request is served where both its ends lie in memory behind a Strait that stands. -/
theorem State.bar2Refuses_served {j : Nat} (hfirst : s.apertureKey o = some k)
    (hlast : s.apertureKey (o + n - 1) = some j) (hk : s.inSpace k = true) (hj : s.inSpace j = true)
    (hstrait : s.withdrawn k = false) : s.bar2Refuses o n = false := by
  simp only [State.bar2Refuses, hfirst, hlast, hk, hj, hstrait, Bool.and_self, Bool.not_true, Bool.or_self]

theorem State.hostBar2Access_reads (hn : 0 < n) (hline : o % 64 + n ≤ 64) (hkey : s.apertureKey o = some k)
    (hserved : s.bar2Refuses o n = false) :
    s.hostBar2Access false o n data = some (s.hostAsks
      { write := false, todo := [(k, n)], data := [], ep := false }) := by
  simp only [State.hostBar2Access, Bool.false_eq_true, if_false, linesFrom_oneLine hn hline, List.any_cons,
    List.any_nil, hserved, Bool.or_self, List.filterMap_cons, List.filterMap_nil, hkey, Option.map_some]

end

/-- The next line of a request is accessed where no write stands before it. -/
theorem State.hostBar2Line_accesses {i : Nat} {q : Bar2Req} (hq : s.base.bar2[i]? = some q)
    (hbefore : ∀ p ∈ s.base.bar2.take i, p.write = false) :
    s.hostBar2Line i = some (s.bar2Step (s.base.bar2.take i) q (s.base.bar2.drop (i + 1))) := by
  have hany : (s.base.bar2.take i).any (·.write) = false :=
    List.any_eq_false.mpr fun p hp => by rw [hbefore p hp]; exact Bool.false_ne_true
  simp only [State.hostBar2Line, hq, hany, Bool.false_eq_true, if_false]

/-! ### Throttling (R333) -/

/-- A column's first change is told to channel 2 of core 0x400, and its number kept. -/
theorem State.throttleEvent_first {col : Nat} {v : Word} (hcol : col < 16) (hnew : tabGet col s.sys.columns = none)
    (hv : v &&& 0x1_FFFF ≠ 0) :
    s.throttleEvent col v = some (State.post { s with sys := { s.sys with
        columns := tabPut col ⟨v &&& 0x1_FFFF, 0, 1, some s.serial⟩ s.sys.columns } }
      0x400 2 none 0 (.device (ofWords [BitVec.ofNat 64 col, v &&& 0x1_FFFF, BitVec.ofNat 64 s.cyc, 1]))) := by
  have hgo : (decide (16 ≤ col) || decide (v &&& 0x1_FFFF = 0)) = false := by
    rw [decide_eq_false (Nat.not_le.mpr hcol), decide_eq_false hv, Bool.or_self]
  simp only [State.throttleEvent, hnew, Option.getD_none, hgo, Bool.false_eq_true, if_false, Option.filter_none]
  rfl

/-- %throttle of a column reads the word that its entry holds (R309). -/
theorem State.sysReg_throttle {col swallowed changes : Nat} {word : Word} {event : Option Nat} (hcol : col < 16)
    (hx : tabGet col s.sys.columns = some ⟨word, swallowed, changes, event⟩) :
    s.sysReg 0x101 (BitVec.ofNat 64 col) = word := by
  have hsel : (BitVec.ofNat 64 col).toNat = col := by
    rw [BitVec.toNat_ofNat]
    omega
  simp only [State.sysReg, hsel, if_pos hcol, State.throttleWord, hx, Option.map_some, Option.getD_some]
  rfl

end

/-- Settles O55: one rule for each register of power and of the host port, and for the host's accesses what waits
behind a write and what is served at once. -/
theorem hostEvents : Obligations.HostEvents := by
  unfold Obligations.HostEvents
  intro s v vec col n o data k e b bell wrote
  refine ⟨?_, ?_, ?_, ?_, ?_, ?_, ?_, ?_, ?_, ?_, ?_, ?_, ?_, ?_, ?_⟩
  · intro hev
    simp only [exec, execPowerLimitWrite, hev, happens_some, State.writePlimit, b]
  · intro hev hcol hnew hv
    have hexec : exec .throttleEvent s = happens s (s.throttleEvent col v) := by
      simp only [exec, execThrottleEvent, hev]
    rw [hexec, State.throttleEvent_first hcol hnew hv, happens_some]
    refine ⟨_, rfl, ?_, _, rfl, rfl, rfl, rfl⟩
    exact State.sysReg_throttle hcol (by rw [State.post_sys, tabGet_tabPut, if_pos rfl])
  · intro hev
    have hexec : exec .inboundDoorbell s = .next (s.hostDoorbell v) := by
      simp only [exec, execInboundDoorbell, hev, happens_some]
    rw [hexec, State.hostDoorbell]
    refine ⟨fun hw => ?_, fun hw hen => ?_, fun hw hen hok => ?_⟩
    · rw [State.hostAsks_waits hw]
    · have hrings := State.inboundDoorbell_kept (v := v) hen
      rw [State.hostAsks_stores hw (congrArg (fun x => x.base.bar2) hrings)]
      exact congrArg _ hrings
    · have hrings := State.inboundDoorbell_sent (v := v) hen hok
      rw [State.hostAsks_stores hw (congrArg (fun x => x.base.bar2) hrings)]
      exact congrArg _ hrings
  · intro hev hkept
    simp only [exec, execMbxtgtWrite, hev, happens_some, State.writeMbxtgt_nothingKept hkept, b]
  · intro hev
    simp only [exec, execOutboundDoorbell, hev, happens_some, State.writeOutdb, storeDoorbell, b, bell]
  · intro hev s1
    simp only [exec, execDevstatWrite, hev, happens_some, State.writeDevstat, ne_eq, ite_not, b, s1]
  · intro hev
    simp only [exec, execHostirq, hev, happens_some, State.writeHostirq]
  · intro he hev e'
    have hexec : exec .msixUnmask s = .next (s.hostAsks
        { write := true, todo := [(0x300C + 16 * vec.toNat, 4)], data := [], ep := false,
          kind := .unmask vec.toNat }) := by
      simp only [exec, execMsixUnmask, hev, State.msixUnmask_asks he, happens_some]
    rw [hexec]
    refine ⟨fun hw => ?_, fun hw => ?_, State.raise_entry he⟩
    · rw [State.hostAsks_waits hw]
    · have hunmasks := State.unmaskVector_entry he
      have hkeeps : (s.unmaskVector vec.toNat).base.bar2 = s.base.bar2 := by
        rw [hunmasks, State.sendPending_bar2]
        rfl
      rw [State.hostAsks_stores (kind := .unmask vec.toNat) hw hkeeps]
      exact congrArg _ hunmasks
  · intro hev hmay hn hline
    have hexec : exec .hostBlockAccess s = .next (s.hostAsks
        { write := false, todo := [(o, n)], data := [], ep := false, kind := .block }) := by
      simp only [exec, execHostBlockAccess, hev, State.hostBlockAccess_reads hmay hn hline, happens_some]
    rw [hexec]
    refine ⟨fun hw => ?_, fun hw => ?_⟩
    · rw [State.hostAsks_loads hw, State.hostLoad]
    · rw [State.hostAsks_waits hw]
  · intro hev hmay hn hline
    have hexec : exec .hostBlockAccess s = .next (s.hostAsks
        { write := true, todo := [(o, data.length)], data := data, ep := false, kind := .block }) := by
      simp only [exec, execHostBlockAccess, hev, State.hostBlockAccess_writes hmay hn hline, happens_some]
    rw [hexec]
    refine ⟨fun hw hlow => ?_, fun hw => ?_⟩
    · have hstores : s.hostStore .block o (data.take data.length) = s.writeBytes (6 * 2 ^ 48 + o) data := by
        rw [List.take_length, State.hostStore, State.hostWrite_scratch hlow hline]
      rw [State.hostAsks_stores hw (by rw [hstores, State.writeBytes_base]), hstores]
    · rw [State.hostAsks_waits hw]
  · intro hev hmay
    simp only [exec, execHostBlockAccess, hev, State.hostBlockAccess_refused hmay, happens_some]
  · intro hev hn hline hfirst hlast hk hj hstrait hwords hbytes
    have hserved := State.bar2Refuses_served hfirst hlast hk hj hstrait
    have hexec : exec .hostBar2Access s = .next (s.hostAsks
        { write := false, todo := [(k, n)], data := [], ep := false }) := by
      simp only [exec, execHostBar2Access, hev, State.hostBar2Access_reads hn hline hfirst hserved, happens_some]
    rw [hexec]
    refine ⟨fun hw => ?_, fun hw => ?_⟩
    · rw [State.hostAsks_loads hw, State.hostLoad, State.lineLoad_sound hwords hbytes]
    · rw [State.hostAsks_waits hw]
  · intro i q hev hq hbefore
    simp only [exec, execHostBar2Access, hev, State.hostBar2Line_accesses hq hbefore, happens_some, b]
  · intro hev
    simp only [exec, execHostConfigRequest, hev, happens_some, State.hostConfigRequest, b]
  · intro hev
    simp only [exec, execFunctionLevelReset, hev, happens_some, State.deviceReset]

end Sys2Proof.Machine
end

section
/-! PROOF. Atomics (O30). -/
namespace Sys2Proof.Machine

/-! ### The new value of an atomic -/

/-- The signed value of a bit vector's pattern. -/
theorem sgn_toNat {w : Nat} (hpos : 0 < w) (hle : w ≤ 512) (v : BitVec w) : sgn w v.toNat = v.toInt := by
  have hlow : (v.setWidth 512).extractLsb' 0 w = v := by
    ext i hi
    simp [hi, show i < 512 by omega]
  have h := sgn_lane_zero hpos (v.setWidth 512)
  rwa [lane_zero, BitVec.toNat_setWidth_of_le hle, Nat.mod_eq_of_lt v.isLt, hlow] at h

/-- What an atomic on n bytes writes, as a bit vector of the operand's width (R185). -/
def AtomOp.value {n : Nat} (op : AtomOp) (old p new : BitVec (8 * n)) : BitVec (8 * n) :=
  BitVec.ofNat (8 * n) (op.apply n old.toNat p.toNat new.toNat)

namespace AtomOp
variable {n : Nat} (old p new : BitVec (8 * n))

variable {old p new} in
theorem value_of_apply {op : AtomOp} {v : BitVec (8 * n)} (h : op.apply n old.toNat p.toNat new.toNat = v.toNat) :
    op.value old p new = v := by
  rw [value, h, BitVec.ofNat_toNat, BitVec.setWidth_eq]

theorem value_add : add.value old p new = old + p := value_of_apply (BitVec.toNat_add ..).symm

theorem value_and : AtomOp.and.value old p new = old &&& p := value_of_apply (BitVec.toNat_and ..).symm

theorem value_or : AtomOp.or.value old p new = old ||| p := value_of_apply (BitVec.toNat_or ..).symm

theorem value_xor : AtomOp.xor.value old p new = old ^^^ p := value_of_apply (BitVec.toNat_xor ..).symm

theorem value_min (hpos : 0 < n) (hle : n ≤ 8) :
    AtomOp.min.value old p new = if old.toInt ≤ p.toInt then old else p :=
  value_of_apply (by simp only [apply, sgn_toNat (w := 8 * n) (by omega) (by omega), apply_ite BitVec.toNat])

theorem value_max (hpos : 0 < n) (hle : n ≤ 8) :
    AtomOp.max.value old p new = if old.toInt ≤ p.toInt then p else old :=
  value_of_apply (by simp only [apply, sgn_toNat (w := 8 * n) (by omega) (by omega), apply_ite BitVec.toNat])

theorem value_minn : minn.value old p new = if old.toNat ≤ p.toNat then old else p :=
  value_of_apply (apply_ite BitVec.toNat ..).symm

theorem value_maxn : maxn.value old p new = if old.toNat ≤ p.toNat then p else old :=
  value_of_apply (apply_ite BitVec.toNat ..).symm

theorem value_swp : swp.value old p new = p := value_of_apply rfl

theorem value_cas : cas.value old p new = if old = p then new else old :=
  value_of_apply (by simp only [apply, BitVec.toNat_inj, apply_ite BitVec.toNat])

end AtomOp

/-! ### An atomic at its bank -/

/-- The bytes written are those of the low bits alone. -/
theorem natBytes_mod (n : Nat) : ∀ v, natBytes n (v % 2 ^ (8 * n)) = natBytes n v := by
  induction n with
  | zero => intro v; rfl
  | succ n ih =>
    intro v
    have hpow : 2 ^ (8 * (n + 1)) = 256 * 2 ^ (8 * n) := by rw [Nat.mul_succ, Nat.add_comm, pow_add]; norm_num
    have hlow : BitVec.ofNat 8 (v % (256 * 2 ^ (8 * n))) = BitVec.ofNat 8 v :=
      BitVec.eq_of_toNat_eq (by simp only [BitVec.toNat_ofNat]; exact Nat.mod_mul_right_mod v 256 _)
    rw [natBytes_succ, natBytes_succ, hpow, hlow, Nat.mod_mul_right_div_self, ih]

theorem State.write_low (s : State) (k n v : Nat) : s.write k n (BitVec.ofNat (8 * n) v).toNat = s.write k n v := by
  rw [State.write, BitVec.toNat_ofNat, natBytes_mod, State.write]

theorem State.read_lt (s : State) (k n : Nat) : s.read k n < 2 ^ (8 * n) := by
  have h := bytesNat_lt (memBytes s.mem k n)
  rwa [memBytes_length, show 256 = 2 ^ 8 from rfl, ← pow_mul] at h

/-- What memory holds at n bytes, as an atomic's first operand (R185). -/
def State.atomOld (s : State) (k n : Nat) : BitVec (8 * n) := BitVec.ofNat (8 * n) (s.read k n)

/-- Memory with an atomic's new value, its words full (R185). -/
def State.atomNew (s : State) (k n : Nat) (v : BitVec (8 * n)) : State := (s.write k n v.toNat).fillBits k n

/-- An atomic at its bank answers the old value, writes the new one, and leaves the words full (R185). -/
theorem act_atom (s : State) (k n : Nat) (op : AtomOp) (x new : Word) :
    act s k (.atom op n x new) =
      (s.atomNew k n (op.value (s.atomOld k n) (x.extractLsb' 0 (8 * n)) (new.extractLsb' 0 (8 * n))),
        .ok (BitVec.ofNat 512 (s.read k n)), false) := by
  rw [State.atomNew, AtomOp.value, State.write_low, State.atomOld, BitVec.toNat_ofNat, Nat.mod_eq_of_lt (s.read_lt k n),
    BitVec.extractLsb'_toNat, BitVec.extractLsb'_toNat]
  rfl

theorem atomBytes_pos (dbl : Bool) : 0 < atomBytes dbl := by cases dbl <;> decide

theorem atomBytes_le (dbl : Bool) : atomBytes dbl ≤ 8 := by cases dbl <;> decide

section
variable {s s1 : State} {t : Thread} {d base new : RegNum} {g : SegReg} {b x y : Reg} {k : Nat}

/-- An atomic that reaches its bank completes, where nothing waits there. -/
theorem accessX_atom {e x new : Word} {n : Nat} {op : AtomOp} {used : List RegNum}
    (hR : Reaches s t g e (.atom op n x new) n s1 k) (hs : s1.sound k n) (hnone : s1.accs = [])
    (hclean : cleansX t used = .ok ()) :
    accessX s t g e (.atom op n x new) n false (some d) used =
      .ok (s1.atomNew k n (op.value (s1.atomOld k n) (x.extractLsb' 0 (8 * n)) (new.extractLsb' 0 (8 * n))),
        (t.setReg d (BitVec.ofNat 512 (s1.read k n))).adv) := by
  rw [accessX_calm hR hclean, if_neg Bool.false_ne_true]
  exact performX_done (a := mkAccess ..) hs (act_atom s1 k n op x new) ((State.fillBits_accs ..).trans hnone)

/-- An atomic of one operand completes with its operation's value. -/
theorem atomOp_done {off : BitVec 32} {dbl : Bool} {op : AtomOp} (hI : Issues s t) (hb : t.holds base b) (hd : t.holds d x)
    (hR : Reaches s t g (offM b off) (.atom op (atomBytes dbl) (scalar x) 0) (atomBytes dbl) s1 k)
    (hs : s1.sound k (atomBytes dbl)) (hnone : s1.accs = []) :
    atomOp s d base g off dbl op = .next ((s1.atomNew k (atomBytes dbl) (op.value (s1.atomOld k (atomBytes dbl))
      (x.extractLsb' 0 (8 * atomBytes dbl)) ((0 : Word).extractLsb' 0 (8 * atomBytes dbl)))).commit
        (t.setReg d (BitVec.ofNat 512 (s1.read k (atomBytes dbl)))).adv) := by
  have hlow : 8 * atomBytes dbl ≤ 64 := by have := atomBytes_le dbl; omega
  have hclean : cleansX t [d] = .ok () := cleansX_ok (by simp [hd.entry])
  refine runT_ok hI ?_
  simp only [win2 hd.inside hb.inside, presentX_holds hd, readX_holds hb, okb]
  rw [accessX_atom hR hs hnone hclean, scalar_low hlow]

/-- ACAS completes, its new value from a third register (R186). -/
theorem execAcas_done {off : BitVec 25} {dbl : Bool} (hI : Issues s t) (hb : t.holds base b) (hd : t.holds d x)
    (hnew : t.holds new y)
    (hR : Reaches s t g (offCas b off) (.atom .cas (atomBytes dbl) (scalar x) (scalar y)) (atomBytes dbl) s1 k)
    (hs : s1.sound k (atomBytes dbl)) (hnone : s1.accs = []) :
    execAcas d base new g off dbl s = .next ((s1.atomNew k (atomBytes dbl) (AtomOp.cas.value
      (s1.atomOld k (atomBytes dbl)) (x.extractLsb' 0 (8 * atomBytes dbl)) (y.extractLsb' 0 (8 * atomBytes dbl)))).commit
        (t.setReg d (BitVec.ofNat 512 (s1.read k (atomBytes dbl)))).adv) := by
  have hlow : 8 * atomBytes dbl ≤ 64 := by have := atomBytes_le dbl; omega
  have hclean : cleansX t [d, new] = .ok () := cleansX_ok (by simp [hd.entry, hnew.entry])
  refine runT_ok hI ?_
  simp only [win3 hd.inside hb.inside hnew.inside, presentX_holds hd, readX_holds hb, presentX_holds hnew, okb]
  rw [accessX_atom hR hs hnone hclean, scalar_low hlow, scalar_low hlow]

end

/-- Settles O30: each operation by the value that it writes. -/
theorem atomicsComplete : Obligations.AtomicsComplete := by
  unfold Obligations.AtomicsComplete
  intro s s1 t d base new g off offc dbl b x y k n e old p gives hI hb hd hs hnone
  refine ⟨fun hR => ?_, fun hnew hR => ?_⟩
  · have writes (op : AtomOp) {v : BitVec (8 * n)} (hv : op.value old p ((0 : Word).extractLsb' 0 (8 * n)) = v) :
        atomOp s d base g off dbl op = .next ((s1.atomNew k n v).commit
          (t.setReg d (BitVec.ofNat 512 (s1.read k n))).adv) :=
      hv ▸ atomOp_done hI hb hd (hR.congr rfl rfl rfl rfl rfl) hs hnone
    have hpos := atomBytes_pos dbl
    have hle := atomBytes_le dbl
    exact ⟨writes .add (AtomOp.value_add ..), writes .and (AtomOp.value_and ..), writes .or (AtomOp.value_or ..),
      writes .xor (AtomOp.value_xor ..), writes .min (AtomOp.value_min _ _ _ hpos hle),
      writes .max (AtomOp.value_max _ _ _ hpos hle), writes .minn (AtomOp.value_minn ..),
      writes .maxn (AtomOp.value_maxn ..), writes .swp (AtomOp.value_swp ..), writes .fadd rfl⟩
  · have hdone := execAcas_done hI hb hd hnew hR hs hnone
    rw [AtomOp.value_cas] at hdone
    exact hdone

end Sys2Proof.Machine
end

section
/-! PROOF. A gather of full words whose segment base is no multiple of 8 (O31). -/
namespace Sys2Proof.Machine

/-- A thread whose seg0 begins in the middle of the first word of its core's pool. -/
def straddler : Thread :=
  Thread.start 0 .message 0 0 128 0 (Specials.start false 0 0 0) (mkSeg (BitVec.ofNat 64 (poolKey 0 4)) 0x1000 0b001001)

/-- The thread issues; the pool's second word is empty. -/
def straddledState : State :=
  { State.reset with threads := [(0, straddler)], cur := 0, empties := [poolKey 0 8 / 8] }

/-- A gather of eight 64-bit elements, each at the start of seg0. -/
def straddlingGather : GForm :=
  { d := 3, base := 1, seg := 0, rel := false, idx := 2, iw := 3, is := false, sc := 0, ew := 3, k := 0, bnd := false,
    off := 0 }

/-- How many accesses are outstanding after an instruction. -/
def outstandingAfter : Host.Outcome State Fault Refusal → Option Nat
  | .next s => some s.accs.length
  | _ => none

/-- Refutes O31: the word in which each element of the GLDW begins is full, but each element lies across two words, the
second of which is empty, and LDW waits for every word of its access (R182): all eight elements stay outstanding. The
statement asks neither for a segment base that R10 allows nor for the elements' other words to be full. -/
theorem not_gathersComplete : ¬ Obligations.GathersComplete := by
  unfold Obligations.GathersComplete
  intro h
  have hissues : Issues straddledState straddler := ⟨by decide +kernel, by decide +kernel⟩
  have hbase : straddler.holds 1 0 := ⟨by decide +kernel, by decide +kernel⟩
  have hidx : straddler.holds 2 0 := ⟨by decide +kernel, by decide +kernel⟩
  have hkeeps : straddler.keeps 3 0 false 0 := by
    rw [Thread.keeps, if_neg (by simp)]
    exact ⟨⟨by decide +kernel, by decide +kernel⟩, rfl⟩
  obtain ⟨hloads, -⟩ := h straddledState straddler straddlingGather 0 0 hissues rfl hbase hidx rfl rfl rfl rfl
    (by decide +kernel)
  obtain ⟨-, hwaiting⟩ := hloads 0 hkeeps (by decide +kernel)
  obtain ⟨s2, hexec, -, hnone, -⟩ := hwaiting rfl (by decide +kernel) (by decide +kernel)
  have hwaits : outstandingAfter (exec (.gldw straddlingGather) straddledState) = some 8 := by decide +kernel
  rw [hexec, outstandingAfter, hnone] at hwaits
  exact absurd hwaits (by decide)

end Sys2Proof.Machine
end

section
/-! PROOF. Operations that join the matrix engine's queue, and their batches (O37, O38). -/
namespace Sys2Proof.Machine

/-! ### What the checks at issue answer -/

section
variable {s : State} {t : Thread} {i : Nat}

/-- A check that a clean register forms is made. -/
theorem unlessBad_holds {r : RegNum} {x : Reg} {c : X Word} (h : t.holds r x) : unlessBad t [r] c = c := by
  simp [unlessBad, h.entry]

theorem State.slotsOf_plain (h : (s.tile t.id.core.toNat i).declared = .plain) : s.slotsOf t i = [i] := by
  simp only [State.slotsOf, h, kindSlots]

theorem plainX_ok (h : (s.tile t.id.core.toNat i).declared = .plain) : plainX s t i = .ok () := if_pos h

theorem rankedX_ok {l : Nat} {col i32 : Bool} (h : (s.tile t.id.core.toNat i).declared = .ranked l col i32) :
    rankedX s t i = .ok (l, col, i32) := by
  simp only [rankedX, h]

/-- A plain slot takes an unranked MMA (R247). -/
theorem mmaSlotX_plain {sh : Shape} (ha : ∀ j ∈ s.slotsOf t i, s.slotAllowed t j = true)
    (h : (s.tile t.id.core.toNat i).declared = .plain) : mmaSlotX s t i sh false false = .ok () := by
  simp only [mmaSlotX, slotX_ok ha, okb, h, Bool.or_self, Bool.false_eq_true, if_false]

/-- A ranked slot takes a ranked MMA of its value type (R247). -/
theorem mmaSlotX_ranked {sh : Shape} {l : Nat} {col : Bool} {skip : Bool}
    (ha : ∀ j ∈ s.slotsOf t i, s.slotAllowed t j = true)
    (h : (s.tile t.id.core.toNat i).declared = .ranked l col sh.isInt) (hacc : sh.acc ≠ 0x0C) :
    mmaSlotX s t i sh true skip = .ok () := by
  simp only [mmaSlotX, slotX_ok ha, okb, h, hacc, Bool.not_true, Bool.false_eq_true, ne_eq, not_true, or_self, if_false]

end

/-! ### Joining the queue -/

/-- The state whose core queues one operation more (R221). -/
def State.queueing (s : State) (t : Thread) (o : EngineOp) : State :=
  { s.setCore t.id.core.toNat { s.core t.id.core.toNat with engq := (s.core t.id.core.toNat).engq ++ [o] } with
    serial := s.serial + 1 }

/-- The thread past an instruction that has queued an operation of its open batch (R222). -/
def Thread.hasQueued (t : Thread) : Thread := { t with batchOps := t.batchOps + 1 }.adv

/-- The queue of the core has a free entry, and the open batch of a thread that is no stamped leaf has room (R95, R221,
R222). -/
structure State.takesOp (s : State) (t : Thread) : Prop where
  plain : t.spec = none
  entry : (s.core t.id.core.toNat).engq.length < 32
  batch : s.openOps t < 16

theorem enqueue_takesOp {s : State} {t : Thread} {o : EngineOp} (h : s.takesOp t) :
    enqueue s t o = .ok (s.queueing t o, t.hasQueued) := enq_ok h.plain h.entry h.batch

/-- A full queue parks the thread (R221). -/
theorem enqueue_queueFull {s : State} {t : Thread} {o : EngineOp} (hp : t.spec = none)
    (h : 32 ≤ (s.core t.id.core.toNat).engq.length) : enqueue s t o = .error (.park .queueFull) := by
  simp only [enqueue, oldestX_plain hp, need_false (decide_eq_false (Nat.not_lt.mpr h)), okb, erb]

/-- A full batch parks the thread (R222). -/
theorem enqueue_batchFull {s : State} {t : Thread} {o : EngineOp} (hp : t.spec = none)
    (h : (s.core t.id.core.toNat).engq.length < 32) (hb : 16 ≤ s.openOps t) :
    enqueue s t o = .error (.park .batchFull) := by
  simp only [enqueue, oldestX_plain hp, need_true (decide_eq_true h), need_false (decide_eq_false (Nat.not_lt.mpr hb)),
    okb, erb]

/-- A BROT that cannot join the queue stops as the queue says. -/
theorem exec_brot_stops {s : State} {t : Thread} {lat dl : Bool} {st : Stop} (hI : Issues s t) (hu : s.has t 1)
    (h : enqueue s t (newOp s t []) = .error st) : exec (.brot lat dl) s = .next (stopped s t st) := by
  show execBrot lat dl s = _
  exact runT_error hI (by simp only [unitX_has hu, okb, h])

/-! ### Latches and tile slots -/

section
variable {s : State} {t : Thread} (hI : Issues s t) (hu : s.has t 1) (hq : s.takesOp t)
include hI hu hq

theorem exec_brot (lat dl : Bool) :
    exec (.brot lat dl) s = .next ((s.queueing t (newOp s t [])).commit t.hasQueued) := by
  show execBrot lat dl s = _
  exact runT_ok hI (by simp only [unitX_has hu, enqueue_takesOp hq, okb])

theorem exec_brel (lat : Bool) :
    exec (.brel lat) s = .next ((s.queueing t (newOp s t [])).commit t.hasQueued) :=
  exec_brot hI hu hq lat lat

/-- MZERO joins the queue and declares its slots plain (R214, R254). -/
theorem exec_mzero {tile : BitVec 8} (ha : ∀ j ∈ s.slotsOf t (t.absSlot tile), s.slotAllowed t j = true) :
    exec (.mzero tile) s = .next (((s.queueing t { newOp s t (s.slotsOf t (t.absSlot tile)) with
      slot := t.absSlot tile }).declarePlain t.id.core.toNat (t.absSlot tile)).commit t.hasQueued) := by
  show execMzero tile s = _
  exact runT_ok hI (by simp only [unitX_has hu, slotX_ok ha, enqueue_takesOp hq, okb, prb])

/-- MDRAIN and MFILL of a plain slot join the queue; they differ in the direction of the access (R254). -/
theorem exec_tileMove {tile : BitVec 8} {m : MOp} {x : Reg} {a1 : Word} (drain : Bool) (hx : t.holds m.a x)
    (hp : (s.tile t.id.core.toNat (t.absSlot tile)).declared = .plain)
    (ha : ∀ j ∈ s.slotsOf t (t.absSlot tile), s.slotAllowed t j = true)
    (hm : memX s t m x 16384 drain = .ok a1) :
    exec (if drain then .mdrain tile m else .mfill tile m) s = .next ((s.queueing t { newOp s t [t.absSlot tile] with
      addr1 := a1, noP := lacksP t m.seg a1 16384 }).commit t.hasQueued) := by
  have hexec : exec (if drain then .mdrain tile m else .mfill tile m) s =
      if drain then execMdrain tile m s else execMfill tile m s := by cases drain <;> rfl
  rw [hexec, execMdrain, execMfill]
  cases drain <;> simp only [Bool.false_eq_true, if_false, if_true] <;> exact runT_ok hI (by
    simp only [win1 hx.inside, presentX_holds hx, unlessBad_holds hx, hm, unitX_has hu, slotX_ok ha, plainX_ok hp,
      cleanX_holds hx, enqueue_takesOp hq, okb])

/-- BLOAD of a pair of operand words that has a shape joins the queue (R251). -/
theorem exec_bload {lat : Bool} {m : MOp} {x : Reg} {a1 : Word} {sh : Shape} (hx : t.holds m.a x)
    (hfa : fmtOk t.sp.fmta = true) (hfb : fmtOk t.sp.fmtb = true)
    (hsh : pairShape (fmt8 t.sp.fmta) (fmt8 t.sp.fmtb) = some sh)
    (hm : memX s t m x (sh.n * rowBytes sh (fmt8 t.sp.fmtb)) false = .ok a1) :
    exec (.bload lat m) s = .next ((s.queueing t { newOp s t [] with
      addr1 := a1, noP := lacksP t m.seg a1 (sh.n * rowBytes sh (fmt8 t.sp.fmtb)) }).commit t.hasQueued) := by
  show execBload lat m s = _
  exact runWith_ok hI (by
    simp only [hfa, hfb, Bool.and_self, need_true, win1 hx.inside, unitX_has hu, hsh, readX_holds hx, hm,
      enqueue_takesOp hq, okb])

/-- QROW whose operands pass their checks joins the queue (R255). -/
theorem exec_qrow {m : MOp} {b c : RegNum} {x y z : Reg} {a1 a2 a3 : Word} (hx : t.holds m.a x) (hy : t.holds b y)
    (hz : t.holds c z) {r : Nat} (hr : (lane64 z 1).toNat = r) (hlo : 1 ≤ r) (hhi : r ≤ 64)
    (h1 : checkX s t m.seg (offE x m.off) (512 * r) 64 0b000001 false = .ok a1)
    (h2 : checkX s t 1 (scalar y) (128 * r) 64 0b000010 true = .ok a2)
    (h3 : checkX s t 1 (lane64 z 0) (4 * r) 4 0b000010 true = .ok a3)
    (p1 : peerRightX s t m.seg (offE x m.off) a1 (512 * r) false = .ok ())
    (p2 : peerRightX s t 1 (scalar y) a2 (128 * r) true = .ok ())
    (p3 : peerRightX s t 1 (lane64 z 0) a3 (4 * r) true = .ok ()) :
    exec (.qrow b c m) s = .next ((s.queueing t { newOp s t [] with
      addr1 := a1, addr2 := a2, addr3 := a3, rows := r,
      noP := lacksP t m.seg a1 (512 * r) ++ lacksP t 1 a2 (128 * r) ++ lacksP t 1 a3 (4 * r) }).commit
        t.hasQueued) := by
  have hv : valueX s t c (fun z => decide (1 ≤ (lane64 z 1).toNat) && decide ((lane64 z 1).toNat ≤ 64)) = .ok () := by
    simp [valueX, hz.entry, hr, hlo, hhi]
  have hclean : ∀ q ∈ [m.a, b, c], (t.entry q).poison = false := by simp [hx.entry, hy.entry, hz.entry]
  have hfirst : firstCauseX [(.ok a1 : X Word), .ok a2, .ok a3] = .ok () := rfl
  show execQrow b c m s = _
  exact runT_ok hI (by
    simp only [hv, win3 hx.inside hy.inside hz.inside, presentX_holds hx, presentX_holds hy, presentX_holds hz,
      hz.entry, hr, unlessBad_holds hx, unlessBad_holds hy, unlessBad_holds hz, h1, h2, h3, hfirst, unitX_has hu,
      peersX, p1, p2, p3, hx.entry, hy.entry, cleansX_ok hclean, enqueue_takesOp hq, okb, Bool.not_false, if_true,
      Bool.false_eq_true, if_false])

end

/-! ### MMA -/

/-- An MMA as it samples its extents, scale addresses and aux words (R218, R219, R250), without its A operand. -/
def mmaSampled (s : State) (t : Thread) (i : Nat) (sh : Shape) (ev av : Option Reg) : EngineOp :=
  { newOp s t (s.slotsOf t i) with
    slot := i, mE := extent ev 0 sh.m, nE := extent ev 1 sh.n, kE := extent ev 2 sh.k,
    scA := t.sp.scla + auxLane av 0, scB := t.sp.sclb + auxLane av 1,
    base := (auxLane av 2).extractLsb' 0 32, u := (auxLane av 3).extractLsb' 0 32 }

/-- An MMA's registers and its format words pass their checks, and the words have a shape (R212, R249). -/
structure MmaReads (t : Thread) (a : RegNum) (edge aux : Option RegNum) (x : Reg) (ev av : Option Reg) (sh : Shape) :
    Prop where
  offset : t.holds a x
  named : ∀ r ∈ edge.toList ++ aux.toList, r.toNat < t.win ∧ (t.entry r).poison = false
  edge : optX t edge = .ok ev
  aux : optX t aux = .ok av
  wordA : fmtOk t.sp.fmta = true
  wordB : fmtOk t.sp.fmtb = true
  wordC : fmtcOk t.sp.fmtc = true
  shape : pairShape (fmt8 t.sp.fmta) (fmt8 t.sp.fmtb) = some sh
  acc : sh.acc = fmt8 t.sp.fmtc

/-- An MMA whose A operand lies in its own core's scratch, on a slot that takes it, joins the queue (R247, R250). -/
theorem exec_mma {s : State} {t : Thread} {tile : BitVec 8} {a : RegNum} {lat rel bnd rank skip : Bool}
    {edge aux : Option RegNum} {x : Reg} {ev av : Option Reg} {sh : Shape} {a1 : Word} (hI : Issues s t)
    (hu : s.has t 1) (hq : s.takesOp t) (hr : MmaReads t a edge aux x ev av sh)
    (hchecks : mmaChecks s t true true (scalar x) (sh.m * rowBytes sh (fmt8 t.sp.fmta))
      (mmaSampled s t (t.absSlot tile) sh ev av) = .ok a1)
    (hown : (poolOf a1.toNat).map (·.1) = some t.id.core.toNat)
    (hslot : mmaSlotX s t (t.absSlot tile) sh rank skip = .ok ()) :
    exec (.mma tile a lat edge aux rel bnd rank skip) s =
      .next ((s.queueing t { mmaSampled s t (t.absSlot tile) sh ev av with
        addr2 := a1
        noP := mmaNoP s t a1 (sh.m * rowBytes sh (fmt8 t.sp.fmta)) (mmaSampled s t (t.absSlot tile) sh ev av) }).commit
          t.hasQueued) := by
  have hwin : windowX t ([a] ++ edge.toList ++ aux.toList) = .ok () := by
    refine windowX_ok fun r hmem => ?_
    rw [List.append_assoc, List.singleton_append, List.mem_cons] at hmem
    obtain rfl | hmem := hmem
    exacts [hr.offset.inside, (hr.named r hmem).1]
  have hclean : cleansX t (a :: (edge.toList ++ aux.toList)) = .ok () := by
    refine cleansX_ok fun r hmem => ?_
    obtain rfl | hmem := List.mem_cons.mp hmem
    exacts [by rw [hr.offset.entry], (hr.named r hmem).2]
  have honScales : ((edge.toList ++ aux.toList).all fun r => !(t.entry r).poison) = true :=
    List.all_eq_true.mpr fun r hmem => by rw [(hr.named r hmem).2, Bool.not_false]
  have hengine : mmaEngineX s t (t.absSlot tile) sh rank skip true a1 = .ok () := by
    simp only [mmaEngineX, hown, bne_self_eq_false, Bool.and_false, Bool.false_eq_true, if_false, hslot]
  show execMma tile a lat edge aux rel bnd rank skip s = _
  refine runWith_ok hI ?_
  simp only [hr.wordA, hr.wordB, hr.wordC, Bool.and_self, need_true, hwin, unitX_has hu, hr.shape, hr.acc,
    ne_eq, not_true_eq_false, if_false, presentX_holds hr.offset, hr.edge, hr.aux, hr.offset.entry, Bool.not_false,
    honScales, okb]
  refine (congrArg (· >>= _) hchecks).trans ?_
  simp only [okb, hengine, hclean]
  exact enqueue_takesOp hq

/-! ### Tile slots -/

/-- A slot's record after one is put; the reset condition reads back though it is not listed. -/
theorem State.tile_setTile_eq (s : State) (c d i j : Nat) (x : TileSlot) :
    (s.setTile c i x).tile d j = if d = c ∧ j = i then x else s.tile d j := by
  unfold State.tile State.setTile
  rw [State.core_setCore]
  by_cases hd : d = c
  · subst hd
    by_cases hx : x = ⟨.plain, .plain, ⟨[], 0, 0⟩, false⟩ <;> by_cases hj : j = i <;>
      simp [hx, hj, tabGet_tabDel, tabGet_tabPut]
  · simp only [hd, if_false, false_and]

/-- Putting a slot's record leaves every queue. -/
theorem State.engq_setTile (s : State) (c d i : Nat) (x : TileSlot) :
    ((s.setTile c i x).core d).engq = (s.core d).engq := by
  unfold State.setTile
  rw [State.core_setCore]
  split
  · next h => rw [h]
  · rfl

/-- The declarations that MZERO makes leave every queue. -/
theorem State.engq_declarePlain (s : State) (c d i : Nat) : ((s.declarePlain c i).core d).engq = (s.core d).engq := by
  unfold State.declarePlain
  induction kindSlots (s.tile c i).declared i generalizing s with
  | nil => rfl
  | cons j l ih => rw [List.foldl_cons, ih, State.engq_setTile]

/-- After slots have been declared plain one by one, those are plain, and the others are as they were. -/
theorem declared_foldl_plain (c j : Nat) (l : List Nat) (s : State) :
    ((l.foldl (fun s j => s.setTile c j { s.tile c j with declared := .plain }) s).tile c j).declared =
      if j ∈ l then .plain else (s.tile c j).declared := by
  induction l generalizing s with
  | nil => rfl
  | cons i l ih =>
    rw [List.foldl_cons, ih, State.tile_setTile_eq]
    by_cases hj : j = i <;> simp [hj]

/-- MZERO's slots are declared plain at issue (R214). -/
theorem State.declared_declarePlain {s : State} {c i j : Nat} (h : j ∈ kindSlots (s.tile c i).declared i) :
    ((s.declarePlain c i).tile c j).declared = .plain :=
  (declared_foldl_plain c j _ s).trans (if_pos h)

/-- Queueing an operation leaves every slot. -/
theorem State.tile_queueing (s : State) (t : Thread) (o : EngineOp) (c i : Nat) :
    (s.queueing t o).tile c i = s.tile c i := by
  have hcore : (s.queueing t o).core c = if c = t.id.core.toNat then
      { s.core t.id.core.toNat with engq := (s.core t.id.core.toNat).engq ++ [o] } else s.core c :=
    State.core_setCore s t.id.core.toNat c _
  unfold State.tile
  rw [hcore]
  split
  · next h => rw [h]
  · rfl

/-- The queue of the thread's core after an operation has joined it. -/
theorem State.engq_queueing (s : State) (t : Thread) (o : EngineOp) :
    ((s.queueing t o).core t.id.core.toNat).engq = (s.core t.id.core.toNat).engq ++ [o] := by
  have hcore : (s.queueing t o).core t.id.core.toNat =
      { s.core t.id.core.toNat with engq := (s.core t.id.core.toNat).engq ++ [o] } :=
    (State.core_setCore s t.id.core.toNat _ _).trans (if_pos rfl)
  rw [hcore]

/-- Completing an instruction changes no slot. -/
theorem State.tile_commit (s : State) (t : Thread) (c i : Nat) : (s.commit t).tile c i = s.tile c i := by
  unfold State.tile
  rw [State.core_commit]

/-- Settles O37: one rule for each instruction that joins the queue. -/
theorem engineOperationsQueue : Obligations.EngineOperationsQueue := by
  unfold Obligations.EngineOperationsQueue
  intro s t tile a b c lat dl rel bnd edge aux ev av m x y z a1 a2 a3 sh core i queues s' slots hI hu hplain hlen hopen
  have hq : s.takesOp t := ⟨hplain, hlen, hopen⟩
  refine ⟨exec_brot hI hu hq lat dl, exec_brel hI hu hq lat, fun ha => ⟨?_, fun hx hp => ?_, ?_⟩, ?_, ?_⟩
  · refine ⟨_, exec_mzero hI hu hq ha, ?_, fun j hj => ?_⟩
    · rw [State.core_commit, State.engq_declarePlain, State.engq_queueing]
      rfl
    · rw [State.tile_commit]
      exact State.declared_declarePlain (by rw [State.tile_queueing]; exact hj)
  · exact ⟨exec_tileMove hI hu hq false hx hp ha, exec_tileMove hI hu hq true hx hp ha⟩
  · intro hx hn he hax hwa hwb hwc hsh hacc o n o1 hchecks hown
    have hr : MmaReads t a edge aux x ev av sh := ⟨hx, hn, he, hax, hwa, hwb, hwc, hsh, hacc⟩
    refine ⟨fun hp => exec_mma hI hu hq hr hchecks hown (mmaSlotX_plain ha hp), fun l col i32 skip hd hi hacc' => ?_⟩
    subst hi
    exact exec_mma hI hu hq hr hchecks hown (mmaSlotX_ranked ha hd hacc')
  · exact exec_bload hI hu hq
  · intro hx hy hz r hlo hhi
    exact exec_qrow hI hu hq hx hy hz rfl hlo hhi

/-! ### Batches -/

section
variable {s : State} {t : Thread} (hI : Issues s t) (hu : s.has t 1)
include hI hu

/-- MCOMMIT closes the batch and returns its number, or parks where a ninth would be outstanding (R222, R253). -/
theorem exec_mcommit {a : RegNum} (ha : t.takes a) (hp : t.spec = none) :
    exec (.mcommit a) s = .next (if oldestBatch (t.nextBatch + 1) (s.opsOf t) ≤ 8 then
      s.commit (t.closeBatch.setReg a (t.nextBatch.zeroExtend 512)).adv else s.parked t .commitFull) := by
  have hid : ofScalar (t.nextBatch.zeroExtend 64) = t.nextBatch.zeroExtend 512 := by simp [ofScalar]
  show execMcommit a s = _
  split
  · next h =>
    exact runT_ok hI (by
      simp only [win1 ha.inside, destX_takes ha, unitX_has hu, oldestX_plain hp, need_true (decide_eq_true h), okb,
        done, hid])
  · next h =>
    exact runT_error hI (st := .park .commitFull) (by
      simp only [win1 ha.inside, destX_takes ha, unitX_has hu, oldestX_plain hp, need_false (decide_eq_false h), okb,
        erb])

/-- MWAIT completes once few enough batches are outstanding, and parks before (R222, R253). -/
theorem exec_mwait (n : BitVec 3) :
    exec (.mwait n) s = .next
      (if s.outstanding t ≤ n.toNat then s.commit t.adv else s.parked t (.mwait n.toNat)) := by
  show execMwait n s = _
  split
  · next h => exact runT_ok hI (by simp only [unitX_has hu, need_true (decide_eq_true h), okb, prb])
  · next h =>
    exact runT_error hI (st := .park (.mwait n.toNat)) (by
      simp only [unitX_has hu, need_false (decide_eq_false h), okb, erb])

end

/-- Settles O38: each of the tests parks or lets the instruction complete. -/
theorem batchesComplete : Obligations.BatchesComplete := by
  unfold Obligations.BatchesComplete
  intro s t a n lat dl parks hI hu ha hplain
  refine ⟨fun h => exec_brot_stops hI hu (enqueue_queueFull hplain h),
    fun h hb => exec_brot_stops hI hu (enqueue_batchFull hplain h hb), fun h => ?_, fun h => ?_, fun h => ?_,
    fun h => ?_⟩
  · rw [exec_mcommit hI hu ha hplain, if_pos h]
    rfl
  · rw [exec_mcommit hI hu ha hplain, if_neg (Nat.not_le.mpr h)]
    rfl
  · rw [exec_mwait hI hu, if_pos h]
  · rw [exec_mwait hI hu, if_neg (Nat.not_le.mpr h)]
    rfl

end Sys2Proof.Machine
end

section
/-! PROOF. Ranked lists (O39). -/
namespace Sys2Proof.Machine

/-! ### Declaring a ranked slot -/

/-- Steps that each change cores alone change cores alone. -/
theorem foldl_cores {α : Type} {f : State → α → State} (hf : ∀ s a, f s a = { s with cores := (f s a).cores })
    (l : List α) : ∀ s, l.foldl f s = { s with cores := (l.foldl f s).cores } := by
  induction l with
  | nil => exact fun _ => rfl
  | cons a l ih =>
    intro s
    rw [List.foldl_cons, ih (f s a), hf s a]

/-- Freeing the partner of a pair changes cores alone. -/
theorem State.freePair_frame (s : State) (c i : Nat) : s.freePair c i = { s with cores := (s.freePair c i).cores } := by
  unfold State.freePair
  refine foldl_cores (fun s j => ?_) _ s
  dsimp only
  split <;> rfl

/-- A declaration changes cores alone. -/
theorem State.declareRanked_frame (s : State) (c i k : Nat) (col i32 : Bool) :
    s.declareRanked c i k col i32 = { s with cores := (s.declareRanked c i k col i32).cores } := by
  have hfold := foldl_cores (fun s j => State.freePair_frame s c j) (kindSlots (.ranked k col i32) i) s
  unfold State.declareRanked
  dsimp only
  rw [hfold]
  split <;> rfl

/-- The record of a slot that is ranked and empty (R229). -/
def rankedSlot (k : Nat) (col i32 : Bool) : TileSlot := ⟨.ranked k col i32, .ranked k col i32, ⟨[], 0, 0⟩, false⟩

/-- The slot declared is ranked and empty. -/
theorem State.tile_declareRanked (s : State) (c i k : Nat) (col i32 : Bool) :
    (s.declareRanked c i k col i32).tile c i = rankedSlot k col i32 := by
  unfold State.declareRanked
  dsimp only
  split
  · rw [State.tile_setTile_eq, if_neg (by omega), State.tile_setTile_eq, if_pos ⟨rfl, rfl⟩, rankedSlot]
  · rw [State.tile_setTile_eq, if_pos ⟨rfl, rfl⟩, rankedSlot]

/-- For k = 64 the slot after it is its second. -/
theorem State.tile_declareRanked_second (s : State) (c i : Nat) (col i32 : Bool) :
    (s.declareRanked c i 6 col i32).tile c (i + 1) = ⟨.second, .second, ⟨[], 0, 0⟩, false⟩ := by
  unfold State.declareRanked
  dsimp only
  rw [if_pos rfl, State.tile_setTile_eq, if_pos ⟨rfl, rfl⟩]

/-- RLSET of slots that the thread may name, and that no queued operation names, declares them (R221, R256). -/
theorem exec_rlset {s : State} {t : Thread} {tile : BitVec 8} {k : BitVec 3} {col i32 : Bool} (hI : Issues s t)
    (hu : s.has t 1) (hp : t.spec = none)
    (ha : ∀ j ∈ kindSlots (.ranked k.toNat col i32) (t.absSlot tile), s.slotAllowed t j = true)
    (hfree : s.slotBusy t ((kindSlots (.ranked k.toNat col i32) (t.absSlot tile)).flatMap fun j => s.slotsOf t j)
      false = false) :
    exec (.rlset tile k col i32) s =
      .next ((s.declareRanked t.id.core.toNat (t.absSlot tile) k.toNat col i32).commit t.adv) := by
  show execRlset tile k col i32 s = _
  exact runT_ok hI (by
    simp only [unitX_has hu, slotX_ok ha, oldestX_plain hp, hfree, Bool.not_false, need_true, okb, prb])

/-- What RLSET leaves of memory and of its thread. -/
theorem declareRanked_commit (s : State) (t : Thread) (c i k : Nat) (col i32 : Bool) :
    ((s.declareRanked c i k col i32).commit t.adv).mem = s.mem ∧
      ((s.declareRanked c i k col i32).commit t.adv).thread? t.id = some t.adv := by
  refine ⟨?_, (State.thread?_commit _ t.adv t.id).trans (if_pos rfl)⟩
  rw [State.commit_mem, State.declareRanked_frame]

/-! ### Operations on a ranked slot -/

section
variable {s : State} {t : Thread} {tile : BitVec 8} {l : Nat} {col i32 : Bool} (hI : Issues s t) (hu : s.has t 1)
  (hd : (s.tile t.id.core.toNat (t.absSlot tile)).declared = .ranked l col i32)
  (ha : ∀ j ∈ s.slotsOf t (t.absSlot tile), s.slotAllowed t j = true)
include hI hu hd ha

/-- RLINS joins the queue (R257). -/
theorem exec_rlins {a b : RegNum} {list : BitVec 6} {k : KReg} {x y : Reg} (hq : s.takesOp t) (hx : t.holds a x)
    (hy : t.holds b y) :
    exec (.rlins tile a b list k) s = .next ((s.queueing t { newOp s t (s.slotsOf t (t.absSlot tile)) with
      slot := t.absSlot tile, mask := (t.mask k).extractLsb' 0 16, va := x, vb := y }).commit t.hasQueued) := by
  have hclean : ∀ q ∈ [a, b], (t.entry q).poison = false := by simp [hx.entry, hy.entry]
  have hmask : BitVec.ofNat 16 (t.mask k).toNat = (t.mask k).extractLsb' 0 16 :=
    BitVec.eq_of_toNat_eq (by simp)
  show execRlins tile a b list k s = _
  exact runT_ok hI (by
    simp only [win2 hx.inside hy.inside, presentX_holds hx, presentX_holds hy, unitX_has hu, slotX_ok ha,
      rankedX_ok hd, cleansX_ok hclean, hmask, enqueue_takesOp hq, okb])

/-- RLMERGE from a slot of the same kind joins the queue (R258). -/
theorem exec_rlmergeTile {src : BitVec 8} {l' : Nat} (hq : s.takesOp t)
    (hd' : (s.tile t.id.core.toNat (t.absSlot src)).declared = .ranked l' col i32)
    (ha' : ∀ j ∈ s.slotsOf t (t.absSlot src), s.slotAllowed t j = true) :
    exec (.rlmergeTile tile src) s = .next ((s.queueing t
      { newOp s t (s.slotsOf t (t.absSlot tile) ++ s.slotsOf t (t.absSlot src)) with
        slot := t.absSlot tile, slot2 := t.absSlot src }).commit t.hasQueued) := by
  show execRlmergeTile tile src s = _
  exact runT_ok hI (by
    simp only [unitX_has hu, slotX_ok ha, slotX_ok ha', rankedX_ok hd, rankedX_ok hd', and_self, if_true,
      enqueue_takesOp hq, okb])

/-- RLDRAIN joins the queue (R260). -/
theorem exec_rldrain {m : MOp} {x : Reg} {a1 : Word} (hq : s.takesOp t) (hx : t.holds m.a x)
    (hm : memX s t m x (imageBytes l) true = .ok a1) :
    exec (.rldrain tile m) s = .next ((s.queueing t { newOp s t (s.slotsOf t (t.absSlot tile)) with
      slot := t.absSlot tile, addr1 := a1, cfg := BitVec.ofNat 64 l,
      noP := lacksP t m.seg a1 (imageBytes l) }).commit t.hasQueued) := by
  show execRldrain tile m s = _
  exact runT_ok hI (by
    simp only [win1 hx.inside, presentX_holds hx, hd, unlessBad_holds hx, hm, unitX_has hu, slotX_ok ha,
      rankedX_ok hd, cleanX_holds hx, enqueue_takesOp hq, okb])

/-- RLTHR reads the threshold and the length of a list whose slots are sound (R259). -/
theorem exec_rlthr {a : RegNum} {list : BitVec 6} (hp : t.spec = none) (hta : t.takes a)
    (hfree : s.slotBusy t (s.slotsOf t (t.absSlot tile)) true = false)
    (hsound : ∀ q ∈ listSlots (t.absSlot tile) l list.toNat, (s.tile t.id.core.toNat q).poison = false) :
    exec (.rlthr a tile list) s = .next (s.commit (t.setReg a (ofScalar (BitVec.ofNat 64
      ((s.threshold t.id.core.toNat (t.absSlot tile) l i32 list.toNat).1 +
        (if (s.threshold t.id.core.toNat (t.absSlot tile) l i32 list.toNat).2 then 2 ^ 32 else 0) +
        2 ^ 40 * (s.tile t.id.core.toNat (t.absSlot tile)).hdr.len list.toNat)))).adv) := by
  have hgood : ((listSlots (t.absSlot tile) l list.toNat).any fun q => (s.tile t.id.core.toNat q).poison) = false :=
    List.any_eq_false.mpr fun q hq => by rw [hsound q hq]; exact Bool.false_ne_true
  show execRlthr a tile list s = _
  exact runT_ok hI (by
    simp only [win1 hta.inside, destX_takes hta, unitX_has hu, slotX_ok ha, rankedX_ok hd, oldestX_plain hp, hfree,
      Bool.not_false, need_true, hgood, Bool.false_eq_true, if_false, okb, done])

/-- RLCLR empties the lists of a slot that no queued operation names (R221, R229). -/
theorem exec_rlclr (hp : t.spec = none)
    (hfree : s.slotBusy t (s.slotsOf t (t.absSlot tile)) false = false) :
    exec (.rlclr tile) s = .next ((s.setTile t.id.core.toNat (t.absSlot tile)
      { s.tile t.id.core.toNat (t.absSlot tile) with hdr := ⟨[], 0, 0⟩ }).commit t.adv) := by
  show execRlclr tile s = _
  exact runT_ok hI (by
    simp only [unitX_has hu, slotX_ok ha, rankedX_ok hd, oldestX_plain hp, hfree, Bool.not_false, need_true, okb, prb])

end

/-- What RLMERGE does with a configuration word that matches its slot: it joins the queue (R231, R258). -/
theorem mergeFrom_ok {s : State} {t : Thread} {tile : BitVec 8} {m : MOp} {x : Reg} {a1 cfg : Word} {l : Nat}
    {col i32 : Bool} (hq : s.takesOp t) (hd : (s.tile t.id.core.toNat (t.absSlot tile)).declared = .ranked l col i32)
    (ha : ∀ j ∈ s.slotsOf t (t.absSlot tile), s.slotAllowed t j = true) (hk : cfg.toNat % 8 ≤ 6)
    (hcfg : cfg.toNat / 8 % 4 = (if col then 1 else 0) + (if i32 then 2 else 0))
    (hm : memX s t m x (imageBytes (cfg.toNat % 8)) false = .ok a1) :
    mergeFrom s t tile m x a1 cfg = .ok (s.queueing t { newOp s t (s.slotsOf t (t.absSlot tile)) with
      slot := t.absSlot tile, addr1 := a1, cfg := cfg,
      noP := lacksP t m.seg a1 (imageBytes (cfg.toNat % 8)) }, t.hasQueued) := by
  simp only [mergeFrom, if_neg (Nat.not_lt.mpr hk), hm, slotX_ok ha, rankedX_ok hd, hcfg, if_true,
    enqueue_takesOp hq, okb]

/-- The word that a load of eight bytes gives. -/
theorem scalar_ofNat (n : Nat) : scalar (BitVec.ofNat 512 n) = BitVec.ofNat 64 n := by
  rw [scalar, ← BitVec.setWidth_eq_extractLsb' (by decide), BitVec.setWidth_ofNat_of_le (by decide)]

/-- RLMERGE from an image whose configuration word it can read does what that word says (R258). -/
theorem exec_rlmergeImage {s s1 s2 : State} {t u : Thread} {tile : BitVec 8} {m : MOp} {x v : Reg} {a1 : Word}
    (hI : Issues s t) (hu : s.has t 1) (hp : t.spec = none) (hx : t.holds m.a x) (hm : memX s t m x 8 false = .ok a1)
    (hread : ownReadX s t m.seg (segP (t.seg m.seg)) (offE x m.off) a1 8 = .ok (s1, v))
    (hmerge : mergeFrom s1 t tile m x a1 (scalar v) = .ok (s2, u)) :
    exec (.rlmergeImage tile m) s = .next (s2.commit u) := by
  have hcfg : configX s t tile m x a1 = .ok (s1, v) := by simp only [configX, hread]
  show execRlmergeImage tile m s = _
  exact runT_ok hI (by
    simp only [win1 hx.inside, presentX_holds hx, unlessBad_holds hx, hm, unitX_has hu, hx.entry, Bool.false_eq_true,
      if_false, oldestX_plain hp, hcfg, hmerge, okb])

/-! ### ENGINE at issue -/

theorem State.thread?_setThread_self {s : State} {u : Thread} {x : Ident} (h : x = u.id) :
    (s.setThread u).thread? x = some u := (State.thread?_setThread s u x).trans (if_pos h)

/-- A message in the mesh changes no thread. -/
theorem State.thread?_post (s : State) (c : CoreId) (ch : BitVec 5) (src : Option Ident) (d : BitVec 32) (b : MsgBody)
    (x : Ident) : (s.post c ch src d b).thread? x = s.thread? x := rfl

/-- A thread that traps lives on under its identity. -/
theorem takeTrap_live (s : State) (t : Thread) (i : TrapInfo) :
    ∃ u, u.id = t.id ∧ (takeTrap s t i).thread? t.id = some u := by
  obtain ⟨n, b, r, hopen⟩ := t.reopened_frame
  obtain ⟨cs, l, hqueue⟩ := ((s.undone t).copiesBack t).unqueue_frame
    { t with nextBatch := n, batchOps := b, reopen := r }
  unfold takeTrap
  rw [hopen, hqueue]
  refine ⟨_, ?_, (State.thread?_post ..).trans (State.thread?_setThread_self ?_)⟩ <;> rfl

/-- An instruction that stops at an ENGINE condition leaves its thread as the trap does (R225). -/
theorem runT_engineTrap {s : State} {t : Thread} {f : State → Thread → X (State × Thread)} {kind slot : Nat} {e : Word}
    (hI : Issues s t) (hf : f s t = engineTrap s t kind slot)
    (he : estatWord kind t.batchOps t.nextBatch.toNat (fFn8 s.word) (fOp s.word = 0xA0) slot 0 = e) :
    ∃ s2, runT s f = .next s2 ∧
      (takeTrap s { t with sp := { t.sp with estat := e } } (.plain 0x0C e)).thread? t.id = s2.thread? t.id := by
  obtain ⟨u, hid, hu⟩ := takeTrap_live s { t with sp := { t.sp with estat := e } } (.plain 0x0C e)
  refine ⟨_, runT_error hI hf, ?_⟩
  subst he
  rw [hu, stopped]
  exact (State.thread?_setThread_self hid.symm).symm

/-- %estat of an instruction that finds a slot not ranked, its fields in their places (R226). -/
theorem estatWord_plain (idx fn slot : Nat) (batch : BitVec 16) (p : Prop) [Decidable p] :
    estatWord 7 idx batch.toNat fn p slot 0 = BitVec.ofNat 64 (2 ^ 63 + 2 ^ 56 * 7 + 2 ^ 52 * (idx % 16) +
      2 ^ 36 * batch.toNat + 2 ^ 28 * (fn % 256) + (if p then 2 ^ 27 else 0) + 2 ^ 16 * (slot % 256)) := by
  simp only [estatWord, decide_eq_true_eq, Nat.mod_eq_of_lt batch.isLt, Nat.zero_mod, Nat.add_zero, Nat.reduceMod]

/-- RLCLR of a plain slot stops with KIND 7 (R226, R229). -/
theorem exec_rlclr_plain {s : State} {t : Thread} {tile : BitVec 8} {e : Word} (hI : Issues s t) (hu : s.has t 1)
    (hp : (s.tile t.id.core.toNat (t.absSlot tile)).declared = .plain) (ha : s.slotAllowed t (t.absSlot tile) = true)
    (he : estatWord 7 t.batchOps t.nextBatch.toNat (fFn8 s.word) (fOp s.word = 0xA0) (t.absSlot tile) 0 = e) :
    ∃ s2, exec (.rlclr tile) s = .next s2 ∧
      (takeTrap s { t with sp := { t.sp with estat := e } } (.plain 0x0C e)).thread? t.id = s2.thread? t.id := by
  have hslots : slotX s t (t.absSlot tile) (s.slotsOf t (t.absSlot tile)) = .ok () := by
    rw [State.slotsOf_plain hp]
    exact slotX_ok (by simpa using ha)
  have hranked : rankedX s t (t.absSlot tile) = engineTrap s t 7 (t.absSlot tile) := by simp only [rankedX, hp]
  have hexec : exec (.rlclr tile) s = execRlclr tile s := rfl
  rw [hexec, execRlclr]
  refine runT_engineTrap hI ?_ he
  simp only [unitX_has hu, hslots, hranked, okb]
  rfl

/-- Settles O39: one rule for each instruction on a ranked slot, and KIND 7 on a plain one. -/
theorem rankedListsComplete : Obligations.RankedListsComplete := by
  unfold Obligations.RankedListsComplete
  intro s s1 t tile src a b list kq m x y l2 log2k l2' col i32 a1 key core i j queues fresh hI hu hplain
  refine ⟨fun hk ha hfree => ?_, fun ha ha' hfree => ?_, fun hd ha => ⟨?_, ?_, ?_, ?_, ?_, ?_⟩, fun hp ha => ?_⟩
  · have hslots : kindSlots (.ranked log2k.toNat col i32) (t.absSlot tile) = [t.absSlot tile] :=
      if_neg (Nat.ne_of_lt hk)
    obtain ⟨hmem, hthread⟩ := declareRanked_commit s t core i log2k.toNat col i32
    refine ⟨_, exec_rlset hI hu hplain ?_ ?_, hmem, hthread, ?_⟩
    · rw [hslots]
      exact List.forall_mem_singleton.mpr ha
    · rw [hslots, List.flatMap_singleton]
      exact hfree
    · exact (State.tile_commit ..).trans (State.tile_declareRanked ..)
  · have hslots : kindSlots (.ranked (6 : BitVec 3).toNat col i32) (t.absSlot tile) = [i, i + 1] := rfl
    obtain ⟨hmem, hthread⟩ := declareRanked_commit s t core i 6 col i32
    refine ⟨_, exec_rlset hI hu hplain ?_ ?_, hmem, hthread, ?_, ?_⟩
    · rw [hslots]
      exact List.forall_mem_cons.mpr ⟨ha, List.forall_mem_singleton.mpr ha'⟩
    · rw [hslots, List.flatMap_cons, List.flatMap_singleton]
      exact hfree
    · exact (State.tile_commit ..).trans (State.tile_declareRanked ..)
    · exact (State.tile_commit ..).trans (State.tile_declareRanked_second ..)
  · exact fun hroom hx hy => exec_rlins hI hu hd ha ⟨hplain, hroom.1, hroom.2⟩ hx hy
  · exact fun hroom hd' ha' => exec_rlmergeTile hI hu hd ha ⟨hplain, hroom.1, hroom.2⟩ hd' ha'
  · exact fun hroom hx hm => exec_rldrain hI hu hd ha ⟨hplain, hroom.1, hroom.2⟩ hx hm
  · intro hx hm hr hr1 hroute hsound cfg hd1 ha1 hlen hopen hk hkind hm1
    exact exec_rlmergeImage hI hu hplain hx hm (ownReadX_bank hr hr1 hroute hsound)
      (by rw [scalar_ofNat]; exact mergeFrom_ok ⟨hplain, hlen, hopen⟩ hd1 ha1 hk hkind hm1)
  · exact fun hta hfree hsound => exec_rlthr hI hu hd ha hplain hta hfree hsound
  · exact fun hfree => exec_rlclr hI hu hd ha hplain hfree
  · exact exec_rlclr_plain hI hu hp ha (estatWord_plain ..)

end Sys2Proof.Machine
end

section
/-! PROOF. A failing engine operation of a thread that waits for what is left of a withdrawn instruction (O54). -/
namespace Sys2Proof.Machine

/-- A thread whose instruction a THKILL withdrew before a trap left the THKILL without effect: it waits for what of that
instruction is still on its way (R57, R156). -/
def withdrawnThread : Thread := { fetchThread with state := .parked, wait := .rolledBack }

/-- That access: an element of a gather from core 0's pool. -/
def lateElement : Access :=
  { n := 0, group := 0, agent := .thread, t := 0, home := 0, rel := false, form := .load 8 false, seg := 0,
    pRight := false, off := 0, dva := BitVec.ofNat 64 (poolKey 0 0), domain := 0, key := some (poolKey 0 0),
    d := some 1, lane := some { i := 0, w := 64, pc := fetchThread.pc, old := fetchThread.entry 1 },
    stage := .inFlight, refusals := 0, issued := 0, tSeg := false, riders := [] }

/-- A started MFILL of the thread that has met a poisoned word. -/
def failingFill : EngineOp :=
  { newOp State.reset withdrawnThread [0] with
    word := 0x9007_0000_0000_0000, addr1 := BitVec.ofNat 64 (poolKey 0 0x4000), started := true, failing := some 2 }

/-- Core 0 queues that operation alone, and the event is its failure. -/
def failingState : State :=
  { State.reset with
    threads := [(0, withdrawnThread)], cores := [(0, { Core.reset 0 with engq := [failingFill] })]
    accs := [lateElement], ev := some (.engineFailure 0 failingFill.n) }

/-- The state of a thread's slot after an event. -/
def slotAfter (x : Ident) : Host.Outcome State Fault Refusal → Option SlotState
  | .next s => (s.thread? x).map (·.state)
  | _ => none

/-- Refutes O54: the thread of a failing operation is PARKED and its instruction waits for no access, but, taken back,
for what of it is still on its way. That completes first (R57): the trap is recorded for the next boundary, and the slot
stays PARKED where the statement has it TRAPPED. -/
theorem not_engineAndCopyEvents : ¬ Obligations.EngineAndCopyEvents := by
  unfold Obligations.EngineAndCopyEvents
  rintro ⟨h, -⟩
  have hfound : (failingState.core 0).engq.find? (fun x => x.n = failingFill.n) = some failingFill := by
    decide +kernel
  have hnext : failingState.opNext 0 failingFill = true := by decide +kernel
  have htrouble : failingState.opTrouble 0 failingFill = some 2 := by decide +kernel
  have hthread : (failingState.partial' failingFill).thread? failingFill.t = some withdrawnThread := by
    decide +kernel
  obtain ⟨-, hperform, -⟩ :=
    h failingState failingState failingFill withdrawnThread 0 [] 2 false false ⟨0, 0, 0⟩ 0 false
  obtain ⟨-, hfails⟩ := hperform hfound hnext
  obtain ⟨s2, u, i, hexec, hu, -, -, hparked⟩ := hfails rfl htrouble hthread rfl
  obtain ⟨htrapped, -, -⟩ := hparked rfl rfl rfl
  have hstays : slotAfter failingFill.t (exec .engineFailure failingState) = some .parked := by decide +kernel
  rw [hexec, slotAfter, hu, Option.map_some, htrapped] at hstays
  cases hstays

end Sys2Proof.Machine
end

section
/-! PROOF. Barrier objects (O41). -/
namespace Sys2Proof.Machine

/-! ### A barrier object at its bank -/

/-- A phase is complete once nothing is due: the next begins with the count expected (R245). -/
theorem BarObj.phase_fst (b : BarObj) : b.phase.1 =
    if b.arr = 0 ∧ b.inn = 0 ∧ b.out = 0 then ⟨b.exp, b.exp, b.gen + 1, b.inn, b.out⟩ else b := by
  simp only [phase, Bool.and_eq_true, decide_eq_true_eq, and_assoc]
  split <;> rfl

/-- The object with one arrival less due, and more transfers on OUT or IN (R265). -/
def BarObj.lowered (b : BarObj) (out : Bool) (n : BitVec 32) : BarObj :=
  ⟨b.exp, b.arr - 1, b.gen, if out then b.inn else b.inn + n, if out then b.out + n else b.out⟩

theorem BarObj.arrive_due {b : BarObj} (h : b.arr ≠ 0) (out : Bool) (n : BitVec 32) :
    b.arrive out n = ((b.lowered out n).phase.1, false, (b.lowered out n).phase.2) := by
  rw [arrive, if_neg h]
  cases out <;> rfl

theorem BarObj.arrive_late {b : BarObj} (h : b.arr = 0) (out : Bool) (n : BitVec 32) :
    b.arrive out n = (b, true, false) := if_pos h

theorem State.wakeBarrier_nil {s : State} {k : Nat} (h : s.accs = []) : s.wakeBarrier k = s := by
  simp [State.wakeBarrier, h]

/-- A new object: every arrival of its first phase is due, and no transfer (R264). -/
theorem State.writeBar_fresh (s : State) (k : Nat) (exp : BitVec 20) : s.writeBar k ⟨exp, exp, 0, 0, 0⟩ =
    ((s.write k 8 (barLow exp exp 0).toNat).write (k + 8) 8 0).fillBits k 16 := by
  have hhigh : ((0 : BitVec 32) ++ (0 : BitVec 32)).toNat = 0 := rfl
  simp only [State.writeBar, hhigh]

@[simp] theorem State.writeBar_accs (s : State) (k : Nat) (b : BarObj) : (s.writeBar k b).accs = s.accs := by
  simp [State.writeBar]

section
variable {s s1 s2 : State} {t : Thread} {c r : RegNum} {m : MOp} {x v y : Reg} {k : Nat}

/-- An arrival writes the object that it leaves, and answers the generation and whether it was late (R245, R265). -/
theorem act_bararr {out late p : Bool} {n : BitVec 32} {b : BarObj} (h : (s.readBar k).arrive out n = (b, late, p)) :
    act s k (.bararr out n) =
      (s.writeBar k b, .ok (BitVec.ofNat 512 ((s.readBar k).gen.toNat + if late then 16 else 0)), p) := by
  simp only [act, h]

theorem act_barwait {gen : BitVec 4} (h : (s.readBar k).gen ≠ gen) : act s k (.barwait gen) = (s, .ok 0, false) := by
  rw [act, if_neg h]

/-- A barrier access completes with what its bank does, where nothing waits there. -/
theorem barAccess_done {f : Form} {d : Option RegNum} {data : List RegNum} {p : Bool}
    (hR : Reaches s t m.seg (offE x m.off) f 16 s1 k) (hs : s1.sound k f.bytes) (hclean : cleansX t data = .ok ())
    (hact : act s1 k f = (s2, .ok y, p)) (hnone : s2.accs = []) :
    barAccess s t m x f d data = .ok (s2, (t.accepted f).completes d y) := by
  have hstep : bankStep s1 k f = (s2, .ok y) := by
    rw [bankStep_sound hs, hact]
    simp only [settle_nil hnone, State.wakeBarrier_nil hnone, ite_self]
  rw [barAccess, accessX_calm hR hclean, if_neg Bool.false_ne_true, performX]
  simp only [mkAccess, hstep]

theorem cleansX_holds (h : t.holds r v) : cleansX t [r] = .ok () := cleansX_ok (by simp [h.entry])

variable (hI : Issues s t) (ha : t.holds m.a x) (hs : s1.sound k 16) (hnone : s1.accs = [])
include hI ha hs hnone

theorem execBarinit_done (hr : t.holds r v) (hok : barCountOk v = true)
    (hR : Reaches s t m.seg (offE x m.off) (.barinit (v.extractLsb' 0 20)) 16 s1 k) :
    execBarinit r m s = .next
      ((s1.writeBar k ⟨v.extractLsb' 0 20, v.extractLsb' 0 20, 0, 0, 0⟩).commit t.adv) := by
  refine runT_ok hI ?_
  simp only [valueX_holds _ hr, need_true hok, win2 ha.inside hr.inside, readX_holds ha, presentX_holds hr, okb,
    scalar_low (by decide : 20 ≤ 64)]
  exact barAccess_done hR hs (cleansX_holds hr) rfl (by simp [hnone])

theorem execBararr_done (hc : t.takes c) (hR : Reaches s t m.seg (offE x m.off) (.bararr false 0) 16 s1 k)
    {b : BarObj} {late p : Bool} (harrive : (s1.readBar k).arrive false 0 = (b, late, p)) :
    execBararr c m s = .next ((s1.writeBar k b).commit
      (t.setReg c (BitVec.ofNat 512 ((s1.readBar k).gen.toNat + if late then 16 else 0))).adv) := by
  refine runT_ok hI ?_
  simp only [win2 ha.inside hc.inside, readX_holds ha, destX_takes hc, okb]
  exact barAccess_done hR hs rfl (act_bararr harrive) (by simp [hnone])

theorem execBararrCount_done {out : Bool} (hc : t.takes c) (hr : t.holds r v)
    (hR : Reaches s t m.seg (offE x m.off) (.bararr out (v.extractLsb' 0 32)) 16 s1 k)
    {b : BarObj} {late p : Bool} (harrive : (s1.readBar k).arrive out (v.extractLsb' 0 32) = (b, late, p)) :
    execBararrCount r c out m s = .next ((s1.writeBar k b).commit
      (t.setReg c (BitVec.ofNat 512 ((s1.readBar k).gen.toNat + if late then 16 else 0))).adv) := by
  refine runT_ok hI ?_
  simp only [win3 ha.inside hr.inside hc.inside, readX_holds ha, presentX_holds hr, destX_takes hc, okb,
    scalar_low (by decide : 32 ≤ 64)]
  exact barAccess_done hR hs (cleansX_holds hr) (act_bararr harrive) (by simp [hnone])

theorem execBarwait_done (hr : t.holds r v)
    (hR : Reaches s t m.seg (offE x m.off) (.barwait (v.extractLsb' 0 4)) 16 s1 k)
    (hgen : (s1.readBar k).gen ≠ v.extractLsb' 0 4) :
    execBarwait r m s = .next (s1.commit ({ t with sp := { t.sp with febudget := 64 } }).adv) := by
  refine runT_ok hI ?_
  simp only [win2 ha.inside hr.inside, readX_holds ha, presentX_holds hr, okb, scalar_low (by decide : 4 ≤ 64)]
  exact barAccess_done hR hs (cleansX_holds hr) (act_barwait hgen) hnone

end

/-- Settles O41: each form by what it does to the object, an arrival by whether one is due. -/
theorem barriersComplete : Obligations.BarriersComplete := by
  unfold Obligations.BarriersComplete
  intro s s1 t b c out m x v k e lo obj cnt after answer hI ha hs hnone
  have after_phase (n : BitVec 32) (o : Bool) : after n o = (obj.lowered o n).phase.1 :=
    (BarObj.phase_fst (obj.lowered o n)).symm
  refine ⟨?_, ?_, ?_, ?_⟩
  · intro hb hR hlow hhigh
    have hok : barCountOk v = true := by
      rw [barCountOk, Bool.and_eq_true]
      exact ⟨decide_eq_true hlow, decide_eq_true hhigh⟩
    have hdone := execBarinit_done hI ha hs hnone hb hok hR
    rw [State.writeBar_fresh] at hdone
    exact hdone
  · intro hc hR
    refine ⟨fun hdue => ?_, fun hlate => ?_⟩
    · rw [after_phase]
      exact execBararr_done hI ha hs hnone hc hR (BarObj.arrive_due hdue false 0)
    · exact execBararr_done hI ha hs hnone hc hR (BarObj.arrive_late hlate false 0)
  · intro hc hb hR hdue
    rw [after_phase]
    exact execBararrCount_done hI ha hs hnone hc hb hR (BarObj.arrive_due hdue out cnt)
  · exact fun hb hR hgen => execBarwait_done hI ha hs hnone hb hR hgen

end Sys2Proof.Machine
end

section
/-! PROOF. Plain loads and stores (O24, O25). -/
namespace Sys2Proof.Machine

/-! ### A plain access at its bank -/

theorem sizeBytes_le_or (size : MemSize) : 1 ≤ sizeBytes size ∧ sizeBytes size ≤ 8 ∨ sizeBytes size = 64 := by
  cases size <;> decide

/-- The low n bytes of memory as LDS reads them, sign-extended (R52). -/
theorem ofScalar_sgn {n x : Nat} (hpos : 1 ≤ n) (hle : n ≤ 8) (hx : x < 2 ^ (8 * n)) :
    ofScalar (BitVec.ofInt 64 (sgn (8 * n) x)) = ((BitVec.ofNat (8 * n) x).signExtend 64).zeroExtend 512 := by
  have hval : (BitVec.ofNat (8 * n) x).toNat = x := by rw [BitVec.toNat_ofNat, Nat.mod_eq_of_lt hx]
  have hsgn : sgn (8 * n) x = (BitVec.ofNat (8 * n) x).toInt := by
    rw [← sgn_toNat (by omega) (by omega) (BitVec.ofNat (8 * n) x), hval]
  rw [hsgn]
  rfl

section
variable {s s1 : State} {t : Thread} {d base : RegNum} {g : SegReg} {off : BitVec 32} {b x : Reg} {k n : Nat}
variable {sx : Bool}

/-- The space of the base-die registers, outside the pool windows (R331). -/
def InBaseDie (k : Nat) : Prop := paSpace k = 6 ∧ poolOf k = none

theorem bankStep_baseLoad (h : InBaseDie k) : bankStep s k (.load n sx) = (s, .ok (s.readBase (paOff k) n)) := by
  unfold bankStep
  simp only [h.1, h.2, decide_true, Option.isNone_none, Bool.and_self, if_true]

theorem bankStep_baseStore (h : InBaseDie k) : bankStep s k (.store n x) = (s.writeBase (paOff k) n x, .ok 0) := by
  unfold bankStep
  simp only [h.1, h.2, decide_true, Option.isNone_none, Bool.and_self, if_true]

theorem bankStep_store (h : s.sound k n) :
    bankStep s k (.store n x) = (((s.write k n x.toNat).fillBits k n).settle k n, .ok 0) :=
  bankStep_sound h

theorem bankStep_load (h : s.sound k n) : bankStep s k (.load n sx) = (s, .ok (if sx && n != 64 then
    ofScalar (BitVec.ofInt 64 (sgn (8 * n) (s.read k n))) else BitVec.ofNat 512 (s.read k n))) :=
  bankStep_sound h

/-! ### Loads -/

variable (hI : Issues s t) (hb : t.holds base b) (hd : t.takes d)
variable (hR : Reaches s t g (offM b off) (.load n false) n s1 k)
include hI hb hd hR

theorem plainLoad_done {y : Reg} (hstep : bankStep s1 k (.load n sx) = (s1, .ok y)) :
    plainLoad s d base g false off n sx = .next (s1.commit (t.setReg d y).adv) := by
  refine runT_ok hI ?_
  simp only [win2 hd.inside hb.inside, readX_holds hb, destX_takes hd, okb]
  rw [accessX_calm (hR.congr (f' := .load n sx) rfl rfl rfl rfl rfl) rfl, if_neg Bool.false_ne_true, performX]
  simp only [mkAccess, hstep]
  rfl

theorem plainLoad_relaxed : plainLoad s d base g true off n sx = .next ((s1.addAccess (mkAccess s1 t g (offM b off)
    (segBase (t.seg g) + offM b off) (.load n sx) true (some d) (some k) .inFlight)).commit
      (t.setPres d .awaiting).adv) := by
  refine runT_ok hI ?_
  simp only [win2 hd.inside hb.inside, readX_holds hb, destX_takes hd, okb]
  rw [accessX_calm (hR.congr (f' := .load n sx) rfl rfl rfl rfl rfl) rfl, if_pos rfl]
  rfl

end

/-! ### Stores -/

section
variable {s s1 s2 : State} {t : Thread} {d base : RegNum} {g : SegReg} {off : BitVec 32} {size : MemSize} {b x : Reg}
variable {k : Nat} (hI : Issues s t) (hb : t.holds base b) (hd : t.holds d x)
variable (hR : Reaches s t g (offM b off) (.store (sizeBytes size) x) (sizeBytes size) s1 k)
include hI hb hd hR

theorem execSt_done (hstep : bankStep s1 k (.store (sizeBytes size) x) = (s2, .ok 0)) :
    execSt d base g false off size s = .next (s2.commit t.adv) := by
  refine runT_ok hI ?_
  simp only [win2 hd.inside hb.inside, presentX_holds hd, readX_holds hb, okb]
  rw [accessX_calm hR (cleansX_holds hd), if_neg Bool.false_ne_true, performX]
  simp only [mkAccess, hstep]
  rfl

theorem execSt_relaxed : execSt d base g true off size s = .next ((s1.addAccess (mkAccess s1 t g (offM b off)
    (segBase (t.seg g) + offM b off) (.store (sizeBytes size) x) true none (some k) .inFlight)).commit t.adv) := by
  refine runT_ok hI ?_
  simp only [win2 hd.inside hb.inside, presentX_holds hd, readX_holds hb, okb]
  rw [accessX_calm hR (cleansX_holds hd), if_pos rfl]
  rfl

end

theorem mem_wordsOf {k n w : Nat} (hn : 0 < n) : w ∈ wordsOf k n ↔ ∃ i, w = 8 * i ∧ k / 8 ≤ i ∧ 8 * i < k + n := by
  rw [wordsOf, if_neg (Nat.pos_iff_ne_zero.mp hn), List.mem_map]
  constructor
  · rintro ⟨i, hi, rfl⟩
    have hlt := List.mem_range.mp hi
    exact ⟨_, rfl, by omega, by omega⟩
  · rintro ⟨i, rfl, hlow, hhigh⟩
    exact ⟨i - k / 8, List.mem_range.mpr (by omega), by omega⟩

theorem full_foldl_setFull (l : List Nat) (s : State) (j : Nat) :
    (l.foldl (fun s w => s.setFull w true) s).full j = (s.full j || l.any fun w => decide (w / 8 = j / 8)) := by
  induction l generalizing s with
  | nil => simp
  | cons w l ih =>
    rw [List.foldl_cons, ih, State.full_setFull, List.any_cons]
    by_cases h : w / 8 = j / 8 <;> simp [h]

/-- The words of an access become full, and no other word's bit changes (R151). -/
theorem State.full_fillBits (s : State) {k n : Nat} (hn : 0 < n) (j : Nat) :
    (s.fillBits k n).full (8 * j) = (s.full (8 * j) || (decide (k / 8 ≤ j) && decide (8 * j < k + n))) := by
  rw [State.fillBits, full_foldl_setFull]
  congr 1
  rw [Bool.eq_iff_iff]
  simp only [List.any_eq_true, mem_wordsOf hn, Bool.and_eq_true, decide_eq_true_eq]
  constructor
  · rintro ⟨w, ⟨i, rfl, hlow, hhigh⟩, hij⟩
    have h : i = j := by omega
    exact h ▸ ⟨hlow, hhigh⟩
  · rintro ⟨hlow, hhigh⟩
    exact ⟨8 * j, ⟨j, rfl, hlow, hhigh⟩, rfl⟩

/-- An APBASE register reads as its bits stored, its reserved ones zero (R338). -/
theorem State.baseWord_apbase {s : State} {o i : Nat} {v : Word} (hi : i < 16) (ho : o = 0x2100 + 8 * i)
    (hlen : s.base.apbase.length = 16) :
    (s.writeBaseWord o v).baseWord o = v &&& 0x800F_FFFF_FFFE_0000 ∧ (s.writeBaseWord o v).mem = s.mem := by
  have hwrite : s.writeBaseWord o v =
      s.withBase { s.base with apbase := s.base.apbase.set i (v &&& 0x800F_FFFF_FFFE_0000) } := by
    have hidx : (o - 0x2100) / 8 = i := by omega
    unfold State.writeBaseWord
    rw [hidx]
    iterate 7 rw [if_neg (by omega)]
    rw [if_pos (by omega)]
  have hread (q : State) : q.baseWord o = (q.base.apbase[i]?).getD 0 := by
    have hidx : (o - 0x2100) / 8 = i := by omega
    unfold State.baseWord State.hostReg
    rw [if_neg (by omega), if_pos (by omega)]
    iterate 6 rw [if_neg (by omega)]
    rw [if_pos (by omega), hidx]
  rw [hread, hwrite]
  refine ⟨?_, rfl⟩
  have hin : i < s.base.apbase.length := by omega
  simp [State.withBase, List.getElem?_set_self hin]

/-- Settles O24: a load by what its bank, or the base die, answers. -/
theorem loadsComplete : Obligations.LoadsComplete := by
  unfold Obligations.LoadsComplete
  intro s s1 t d base g off size b k n e hI hb hd hR
  refine ⟨fun hs => ⟨?_, ?_⟩, ?_, ?_⟩
  · exact plainLoad_done hI hb hd hR (bankStep_load hs)
  · refine (plainLoad_done hI hb hd hR (bankStep_load hs)).trans ?_
    have hsize : 1 ≤ n ∧ n ≤ 8 ∨ n = 64 := sizeBytes_le_or size
    rcases hsize with ⟨hpos, hle⟩ | hvec
    · have hne : n ≠ 64 := by omega
      rw [if_neg hne, ← ofScalar_sgn hpos hle (s1.read_lt k n)]
      simp [hne]
    · simp [hvec]
  · intro hn hspace hpool
    have hstep (sx : Bool) : bankStep s1 k (.load n sx) = (s1, .ok ((s1.baseWord (paOff k)).zeroExtend 512)) := by
      rw [bankStep_baseLoad ⟨hspace, hpool⟩, hn]
      rfl
    exact ⟨plainLoad_done hI hb hd hR (hstep false), plainLoad_done hI hb hd hR (hstep true)⟩
  · intro sx
    cases sx <;> exact plainLoad_relaxed hI hb hd hR

/-- Settles O25: a store by what it leaves at its bank, or in the base die. -/
theorem storeCompletes : Obligations.StoreCompletes := by
  unfold Obligations.StoreCompletes
  intro s s1 t d base g off size b x k n e hI hb hd hR
  have hpos : 0 < n := by rcases sizeBytes_le_or size with h | h <;> omega
  refine ⟨fun hs => ⟨_, execSt_done hI hb hd hR (bankStep_store hs), rfl, fun hnone hm => ?_⟩, ?_,
    execSt_relaxed hI hb hd hR⟩
  · have hsettled : ((s1.write k n x.toNat).fillBits k n).settle k n = (s1.write k n x.toNat).fillBits k n :=
      settle_nil ((State.fillBits_accs ..).trans hnone)
    rw [hsettled]
    refine ⟨?_, fun j hj => ?_, fun j => State.full_fillBits _ hpos j⟩
    · rw [State.read, State.fillBits_mem]
      exact State.read_write k n x.toNat hm
    · rw [State.fillBits_mem]
      exact State.memByte_write_outside _ hm hj
  · intro hn hspace hpool s2
    have hstep : bankStep s1 k (.store n x) = (s2, .ok 0) := by
      rw [bankStep_baseStore ⟨hspace, hpool⟩, hn]
      rfl
    exact ⟨execSt_done hI hb hd hR hstep, fun i hi ho hlen => State.baseWord_apbase hi ho hlen⟩

end Sys2Proof.Machine
end

section
/-! PROOF. Conversions, block formats and bit planes (O19, O20). -/
namespace Sys2Proof.Machine

/-! ### Runs of registers -/

section
variable {s : State} {t : Thread} {a d : RegNum} {k : KReg} {n : Nat}

theorem runX_inside (hn : 1 ≤ n) (h : a.toNat + n ≤ t.win) : runX t a n = .ok () := if_pos (by omega)

theorem destsX_takes {rs : List RegNum} (h : ∀ r ∈ rs, t.takes r) : destsX t rs = .ok () := by
  induction rs with
  | nil => rfl
  | cons r rs ih =>
    obtain ⟨hr, hrs⟩ := List.forall_mem_cons.mp h
    rw [destsX, destX_takes hr, okb, ih hrs]

theorem destsX_run (h : t.takesRun d n) : destsX t (regRun d n) = .ok () := by
  refine destsX_takes fun r hr => ?_
  obtain ⟨i, hi, rfl⟩ := List.mem_map.mp hr
  exact h.each i (List.mem_range.mp hi)

theorem oldsX_keeps {rs : List RegNum} {old : List Reg} (h : List.Forall₂ (t.keeps · k false) rs old) :
    oldsX t k rs = .ok old := by
  induction h with
  | nil => rfl
  | cons hr _ ih => rw [oldsX, oldX_keeps hr, okb, ih, okb, prb]

theorem oldsX_run {old : List Reg} (h : t.keepsRun d k old) : oldsX t k (regRun d old.length) = .ok old := by
  refine oldsX_keeps (List.forall₂_iff_get.mpr ⟨by simp [regRun], fun i _ hi => ?_⟩)
  have hreg : (regRun d old.length).get ⟨i, by simpa [regRun] using hi⟩ = d + BitVec.ofNat 7 i := by simp [regRun]
  rw [hreg]
  exact h.each i _ (List.getElem?_eq_getElem hi)

/-- A CONV instruction whose runs lie in the window does what its body does (R267). -/
theorem convOp_ok {nd na : Nat} {s' : State} {t' : Thread} {f : State → Thread → X (State × Thread)} (hI : Issues s t)
    (hu : s.has t 0) (hnd : 1 ≤ nd) (hd : d.toNat + nd ≤ t.win) (hna : 1 ≤ na) (ha : a.toNat + na ≤ t.win)
    (hf : f s t = .ok (s', t')) : convOp s d nd a na f = .next (s'.commit t') := by
  refine runT_ok hI ?_
  rw [runX_inside hnd hd, okb, runX_inside hna ha, okb, unitX_has hu, okb, hf]

end

theorem planeRun_pos (ty : Ty) : 1 ≤ planeRun ty := by
  unfold planeRun
  split <;> decide

/-! ### Conversions -/

section
variable {s : State} {t : Thread} {a d : RegNum} (hI : Issues s t) (hu : s.has t 0)
include hI hu

/-- A conversion of a run into a run completes: the elements converted in order, those that the mask leaves out kept
(R268). -/
theorem convRun_done {k : KReg} {nd na : Nat} {l old : List Reg} (ty ty2 : Ty) (rnd : Rnd) (satc : SatC)
    (hl : t.holdsRun a l) (hold : t.keepsRun d k old) (hna : l.length = na) (hnd : old.length = nd) (hna1 : 1 ≤ na)
    (hnd1 : 1 ≤ nd) :
    let per := 512 / ty2.width
    let res (i : Nat) : FRes := convElem t ty ty2 rnd satc (runLane l ty.width i)
    convRun s d nd a na ty ty2 k rnd satc = .next (s.commit
      ((t.orNv ((List.range (nd * per)).any fun i => (t.mask k).getLsbD i && (res i).nv)).setRegs (regRun d nd)
        (old.mapIdx fun j o => ofLanes ty2.width ((List.range per).map fun i =>
          if (t.mask k).getLsbD (j * per + i) then fput ty2 (res (j * per + i)).code
          else lane o ty2.width i))).adv) := by
  intro per res
  subst hna hnd
  refine convOp_ok hI hu hnd1 hold.inside hna1 hl.inside ?_
  rw [readsX_run hl, okb, oldsX_run hold, okb, prb]

/-! ### Block formats and bit planes -/

theorem execQmx_done {ty ty2 : Ty} {l : List Reg} (hlen : l.length = mxRun ty) (hpos : 1 ≤ l.length)
    (hl : t.holdsRun a l) (hd : t.takes d) :
    let q := mxQuantise ty2 ((List.range 32).map fun i => (fmtX t.xs ty).read (runLane l ty.width i))
    execQmx d a ty ty2 s = .next (s.commit ((t.orNv q.2.2).setReg d (ofLanes 8 (q.2.1 ++ [q.1]))).adv) := by
  intro q
  rw [execQmx, ← hlen]
  refine convOp_ok hI hu le_rfl hd.inside hpos hl.inside ?_
  rw [readsX_run hl, okb, destX_takes hd, okb]
  rfl

theorem execDqmx_done {ty ty2 : Ty} {x : Reg} (rnd : Rnd) (satc : SatC) (hpos : 1 ≤ mxRun ty2) (ha : t.holds a x)
    (hd : t.takesRun d (mxRun ty2)) :
    let res (i : Nat) : FRes := (fmtX t.xs ty2).convert (t.rounding rnd) (t.saturates satc)
      ((mxCode ty (lane x 8 i)).scaled (lane x 8 32))
    let per := 512 / ty2.width
    execDqmx d a ty ty2 rnd satc s = .next (s.commit ((t.orNv ((List.range 32).any fun i => (res i).nv)).setRegs
      (regRun d (mxRun ty2)) ((List.range (mxRun ty2)).map fun j => ofLanes ty2.width ((List.range per).map fun i =>
        if j * per + i < 32 then (res (j * per + i)).code else 0))).adv) := by
  intro res per
  refine convOp_ok hI hu hpos hd.inside le_rfl ha.inside ?_
  rw [readX_holds ha, okb, destsX_run hd, okb, prb]

theorem execPlane_done {ty : Ty} {l : List Reg} (hlen : l.length = 2) (hl : t.holdsRun a l)
    (hd : t.takesRun d (planeRun ty)) :
    execPlane d a ty s = .next (s.commit (t.setRegs (regRun d (planeRun ty)) ((List.range (planeRun ty)).map fun j =>
      BitVec.ofNat 512 (toPlanes (planeBits ty) ((List.range 128).map fun i => runLane l 8 i) /
        2 ^ (512 * j)))).adv) := by
  rw [execPlane, ← hlen]
  refine convOp_ok hI hu (planeRun_pos ty) hd.inside (by omega) hl.inside ?_
  rw [readsX_run hl, okb, destsX_run hd, okb, prb]

theorem execUnplane_done {ty : Ty} {l : List Reg} (hlen : l.length = planeRun ty) (hl : t.holdsRun a l)
    (hd : t.takesRun d 2) :
    execUnplane d a ty s = .next (s.commit (t.setRegs (regRun d 2) ((List.range 2).map fun j =>
      ofLanes 8 ((List.range 64).map fun i =>
        fromPlanes (planeBits ty) (bytesNat (l.flatMap fun r => natBytes 64 r.toNat)) (64 * j + i)))).adv) := by
  have hpos : 1 ≤ l.length := hlen ▸ planeRun_pos ty
  rw [execUnplane, ← hlen]
  refine convOp_ok hI hu (by decide) hd.inside hpos hl.inside ?_
  rw [readsX_run hl, okb, destsX_run hd, okb, prb]

end

/-- Settles O19: both directions are one conversion of a run into a run. -/
theorem conversionRunsComplete : Obligations.ConversionRunsComplete := by
  unfold Obligations.ConversionRunsComplete
  intro s t d a ty ty2 k rnd satc l old hI hu hl hold w per res nv reg
  refine ⟨fun hone hlen hpos => ?_, fun hone hlen hpos => ?_⟩
  · exact convRun_done hI hu ty ty2 rnd satc hl hold hlen hone (hlen ▸ hpos) le_rfl
  · rw [hlen]
    exact convRun_done hI hu ty ty2 rnd satc hl hold hone hlen le_rfl (hlen ▸ hpos)

/-- Settles O20: each form by its body over the runs that it names. -/
theorem mxAndPlanesComplete : Obligations.MxAndPlanesComplete := by
  unfold Obligations.MxAndPlanesComplete
  refine ⟨fun s t d a ty ty2 rnd satc l x hI hu => ⟨fun hlen hpos hl hd => ?_, fun hpos ha hd => ?_⟩,
    fun s t d a ty l hI hu hl => ⟨fun hlen hd => ?_, fun hlen hd => ?_⟩⟩
  · exact execQmx_done hI hu hlen hpos hl hd
  · exact execDqmx_done hI hu rnd satc hpos ha hd
  · exact execPlane_done hI hu hlen hl hd
  · exact execUnplane_done hI hu hlen hl hd

end Sys2Proof.Machine
end

section
/-! PROOF. A thread at no level of R17 that holds itself for debug (O46). -/
namespace Sys2Proof.Machine

/-- A READY thread whose %status has 3 in PL, as a context image may give it to a restored one (R20, R299); g0 names its
own slot, and g1 asks for a hold. -/
def levelThree : Thread := { fetchThread with sp := { fetchThread.sp with status := 7 } }.setReg 1 1

/-- That thread issues alone. -/
def levelThreeState : State := State.reset.setThread levelThree

/-- Refutes O46: the clause of a thread that holds itself asks for a level of 1 or more, and `levelThree` is at level 3,
which is neither domain nor system level and has no right over any thread (R18): its THWR traps PRIV, and it is TRAPPED
where the statement has it HELD. -/
theorem not_holdResumeKillComplete : ¬ Obligations.HoldResumeKillComplete := by
  unfold Obligations.HoldResumeKillComplete
  intro h
  have hI : Issues levelThreeState levelThree := ⟨by decide +kernel, by decide +kernel⟩
  have ha : levelThree.holds 0 0 := ⟨by decide +kernel, by decide +kernel⟩
  have hb : levelThree.holds 1 1 := ⟨by decide +kernel, by decide +kernel⟩
  have hd : levelThree.takes 2 := ⟨by decide +kernel, by decide +kernel⟩
  have hcur : levelThreeState.cur = levelThree.id := by decide +kernel
  have hclear : levelThreeState.targetClear ((0 : Reg).extractLsb' 0 17) = true := by decide +kernel
  have hcore : isCore (Ident.core ((0 : Reg).extractLsb' 0 17)).toNat = true := by decide +kernel
  obtain ⟨-, hself, -⟩ := h levelThreeState levelThree 2 0 1 0 1 hI hcur ha hb hd hclear hcore
  have hsame : (0 : Reg).extractLsb' 0 17 = levelThree.id := by decide +kernel
  have hready : levelThree.state = .ready := by decide +kernel
  obtain ⟨s2, u, hexec, hu, hheld, -⟩ := hself hsame (by decide +kernel) (by decide +kernel) hready
  have htraps : slotAfter ((0 : Reg).extractLsb' 0 17) (exec (.debugHold 2 0 1) levelThreeState) = some .trapped := by
    decide +kernel
  rw [hexec, slotAfter, hu, Option.map_some, hheld] at htraps
  cases htraps

end Sys2Proof.Machine
end

section
/-! PROOF. Readback and the page service (O48). -/
namespace Sys2Proof.Machine

/-! ### Readback -/

section
variable {s s1 : State} {t : Thread} {d a b : RegNum} {x y : Reg}

theorem dests2_takes (hd : t.takes d) (he : t.takes b) : destsX t [d, b] = .ok () := by
  rw [destsX, destX_takes hd, okb, destsX, destX_takes he, okb, destsX]

section
variable (hI : Issues s t) (ha : t.holds a x) (hd : t.takes d) (he : t.takes (d + 1))
include hI ha hd he

/-- RCBRD of what is no RCB of a live arena reads all ones (R321). -/
theorem execRcbrd_elsewhere (h : (scalar x).toNat % 128 ≠ 0 ∨ s.arenaOf t (scalar x) = none) :
    execRcbrd d a s = .next (s.commit ((t.setReg d (BitVec.allOnes 512)).setReg (d + 1) (BitVec.allOnes 512)).adv) := by
  have hnone : (if (scalar x).toNat % 128 = 0 then s.arenaOf t (scalar x) else none) = none := by
    rcases h with h | h
    · exact if_neg h
    · rw [h, ite_self]
  refine runT_ok hI ?_
  simp only [win3 hd.inside he.inside ha.inside, readX_holds ha, dests2_takes hd he, okb, hnone, prb]

/-- RCBRD reads an RCB of a live arena (R321). -/
theorem execRcbrd_arena {r : Region} {k : Nat} (hline : (scalar x).toNat % 128 = 0)
    (hr : s.arenaOf t (scalar x) = some r) (hs : s.relaxedOf t.id = []) (hs1 : s1.relaxedOf t.id = [])
    (hroute : s.route (clusterOf t.id.core.toNat) r.domain (scalar x) false false = (s1, .bank k))
    (hgood : s1.badAt k 128 = none) :
    execRcbrd d a s = .next (s1.commit ((t.setReg d (BitVec.ofNat 512 (s1.read k 64))).setReg (d + 1)
      (BitVec.ofNat 512 (s1.read (k + 64) 64))).adv) := by
  refine runT_ok hI ?_
  simp only [win3 hd.inside he.inside ha.inside, readX_holds ha, dests2_takes hd he, okb, if_pos hline, hr,
    rcbReadX_bank (off := 0) hs hs1 hroute hgood, prb]

omit he

theorem execCapq_ok {sel : BitVec 3} (hsel : sel.toNat < 5) :
    execCapq d a sel s = .next (s.commit (t.setReg d (ofScalar (s.capq (scalar x) sel.toNat))).adv) := by
  refine runT_ok hI ?_
  simp only [need_true (decide_eq_true hsel), win2 hd.inside ha.inside, readX_holds ha, destX_takes hd, okb, done]

end

theorem execBrk_traps (hI : Issues s t) (imm : BitVec 27) :
    execBrk imm s = .next (takeTrap s t (.plain 0x10 (imm.zeroExtend 64))) :=
  runT_error hI (st := .trap _) rfl

/-! ### The page service -/

section
variable (hI : Issues s t)
include hI

theorem execWakep_ok (hl : t.level = 2) (ha : t.holds a x) (hb : t.holds b y) :
    execWakep a b s = .next ((s.wakeFor (scalar x) (scalar y)).commit t.adv) := by
  refine runT_ok hI ?_
  simp only [systemX_system hl, win2 ha.inside hb.inside, readX_holds ha, readX_holds hb, okb, prb]

/-- TLBINV drops the entries and parks (R281, R320). -/
theorem execTlbinv_parks {scope : BitVec 2} (hscope : scope ≠ 3) (hl : t.level = 2) (ha : t.holds a x)
    (hb : t.holds b y) :
    let lo : Word := ((scalar x).extractLsb' 0 53).zeroExtend 64
    execTlbinv a b scope s = .next ((s.dropTlb lo (scalar y) scope (clusterOf t.id.core.toNat)).setThread
      { t with state := .parked, wait := .tlbinv lo (scalar y) scope }) := by
  intro lo
  have hscope' : (scope != 3) = true := bne_iff_ne.mpr hscope
  refine runT_error hI (st := .parkIn _ _) ?_
  simp only [need_true hscope', systemX_system hl, win2 ha.inside hb.inside, readX_holds ha, readX_holds hb, okb, lo]

/-! ### Below system level -/

section
variable (hl : t.level ≠ 2)
include hl

theorem execWakep_denied : execWakep a b s = .next (takeTrap s t (.plain 0x02 s.word)) :=
  runT_error hI (st := priv s) (by rw [systemX_denied hl, erb])

theorem execTlbinv_denied {scope : BitVec 2} (hscope : scope ≠ 3) :
    execTlbinv a b scope s = .next (takeTrap s t (.plain 0x02 s.word)) :=
  runT_error hI (st := priv s) (by rw [need_true (bne_iff_ne.mpr hscope), okb, systemX_denied hl, erb])

theorem execSpill_denied : execSpill d a s = .next (takeTrap s t (.plain 0x02 s.word)) :=
  runT_error hI (st := priv s) (by rw [systemX_denied hl, erb])

theorem execReghold_denied (finish nowait : Bool) :
    execReghold d a finish nowait s = .next (takeTrap s t (.plain 0x02 s.word)) :=
  runT_error hI (st := priv s) (by rw [systemX_denied hl, erb])

theorem execRegrel_denied : execRegrel d a s = .next (takeTrap s t (.plain 0x02 s.word)) :=
  runT_error hI (st := priv s) (by rw [systemX_denied hl, erb])

end

end
end

/-- The wake of a request of a thread goes to channel 0 of its core, with its slot (R283, R319). -/
theorem State.wakeFor_thread (s : State) {v : Word} (w : Word) (hmmu : v.getLsbD 22 = false)
    (hcopy : v.extractLsb' 17 2 ≠ 2) :
    s.wakeFor v w = s.post (v.extractLsb' 6 11) 0 none 0 (.wake (v.extractLsb' 0 6).toNat) := by
  have hcore : Ident.core (v.extractLsb' 0 17) = v.extractLsb' 6 11 := by
    ext i hi
    simp [Ident.core]
  have hslot : Ident.slot (v.extractLsb' 0 17) = (v.extractLsb' 0 6).toNat := by
    have hlow : (v.extractLsb' 0 17).extractLsb' 0 6 = v.extractLsb' 0 6 := by
      ext i hi
      simp
    rw [Ident.slot, hlow]
  simp only [State.wakeFor, hmmu, Bool.false_eq_true, if_false, if_neg hcopy, hcore, hslot]

/-- Settles O48: one rule for each instruction, and PRIV below system level. -/
theorem readbackAndPageServiceComplete : Obligations.ReadbackAndPageServiceComplete := by
  unfold Obligations.ReadbackAndPageServiceComplete
  intro s s1 t d a b x y imm k scope v w gives pair hI
  refine ⟨execBrk_traps hI imm, fun ha hd => ⟨fun he => ⟨?_, ?_⟩, ?_⟩, fun hl ha hb => ⟨?_, ?_, rfl, ?_⟩, fun hl hscope => ?_⟩
  · exact execRcbrd_elsewhere hI ha hd he
  · exact fun r hline hr hs hs1 hroute hgood => execRcbrd_arena hI ha hd he hline hr hs hs1 hroute hgood
  · exact ⟨execCapq_ok hI ha hd (by decide), execCapq_ok hI ha hd (by decide), execCapq_ok hI ha hd (by decide),
      execCapq_ok hI ha hd (by decide), execCapq_ok hI ha hd (by decide)⟩
  · exact execWakep_ok hI hl ha hb
  · exact State.wakeFor_thread s w
  · exact fun hscope => execTlbinv_parks hI hscope hl ha hb
  · exact ⟨execWakep_denied hI hl, execTlbinv_denied hI hl hscope, execSpill_denied hI hl,
      execReghold_denied hI hl false false, execRegrel_denied hI hl⟩

end Sys2Proof.Machine
end

section
/-! PROOF. SPILL, REGHOLD and REGREL (O47). -/
namespace Sys2Proof.Machine

/-! ### The instructions -/

section
variable {s s1 : State} {t : Thread} {d a : RegNum} {x : Reg} (hI : Issues s t) (hl : t.level = 2)
variable (ha : t.holds a x) (hd : t.takes d)
include hI hl ha hd

/-- SPILL answers as its target stands, and begins to write the context of one that R296 lets go (R317). -/
theorem execSpill_ok {id : Ident} {found : Option Thread} (hid : identOf x = id) (hfound : s.thread? id = found) :
    let answers (q : State) (n : Nat) : Host.Outcome State Fault Refusal :=
      .next (q.commit (t.setReg d (spillCode n)).adv)
    (found = none → execSpill d a s = answers s 3) ∧
    (∀ u, found = some u →
      (u.state ≠ .held → execSpill d a s = answers s 1) ∧
      (u.state = .held → s.spillReady u = true →
        (s.spillStart u true = (s1, none) → execSpill d a s = answers s1 2) ∧
        (∀ w, s.spillStart u true = (s1, some w) → execSpill d a s =
          .next (s1.setThread { t with state := .parked, wait := .spilling id d })))) := by
  intro answers
  subst hid
  refine ⟨fun hf => runT_ok hI ?_, fun u hf => ⟨fun hst => runT_ok hI ?_, fun hst hready => ⟨fun hstart => runT_ok hI ?_,
    fun w hstart => runT_error hI (st := .parkIn _ _) ?_⟩⟩⟩
  all_goals
    simp only [systemX_system hl, win2 hd.inside ha.inside, readX_holds ha, destX_takes hd, okb, hfound, hf, done]
  · simp only [ne_eq, hst, not_false_eq_true, if_true]
  · simp only [hst, ne_eq, not_true_eq_false, if_false, hready, Bool.not_true, Bool.false_eq_true, hstart]
  · simp only [hst, ne_eq, not_true_eq_false, if_false, hready, Bool.not_true, Bool.false_eq_true, hstart]

variable {found : Option Region} {rid : Nat} (hrid : ((scalar x).extractLsb' 0 32).toNat = rid)
variable (hfound : s.region? rid = found)
include hrid hfound

/-- REGHOLD holds a region that is free, and parks until the hold completes unless it is not to wait (R318). -/
theorem execReghold_ok (finish nowait : Bool) :
    let answers (q : State) (v : Word) : Host.Outcome State Fault Refusal := .next (q.commit (t.setReg d (ofScalar v)).adv)
    (found = none → execReghold d a finish nowait s = answers s 1) ∧
    (∀ r, found = some r → r.hold ≠ .free → execReghold d a finish nowait s = answers s 2) ∧
    (∀ r, found = some r → r.hold = .free →
      (nowait = true ∨ (s.holdRegion r finish).regionQuiet rid = true →
        execReghold d a finish nowait s = answers (s.holdRegion r finish) 0) ∧
      (nowait = false → (s.holdRegion r finish).regionQuiet rid = false → execReghold d a finish nowait s =
        .next ((s.holdRegion r finish).setThread { t with state := .parked, wait := .region rid d }))) := by
  intro answers
  refine ⟨fun hf => runT_ok hI ?_, fun r hf hheld => runT_ok hI ?_, fun r hf hfree => ⟨fun hends => runT_ok hI ?_,
    fun hwait hbusy => runT_error hI (st := .parkIn _ _) ?_⟩⟩
  all_goals
    simp only [systemX_system hl, win2 hd.inside ha.inside, readX_holds ha, destX_takes hd, okb, hrid, hfound, hf, done]
  · simp only [ne_eq, hheld, not_false_eq_true, if_true]
  · have hover : (nowait || (s.holdRegion r finish).regionQuiet rid) = true := by simpa using hends
    simp only [hfree, ne_eq, not_true_eq_false, if_false, hover, if_true]
  · have hbusy' : (nowait || (s.holdRegion r finish).regionQuiet rid) = false := by simp [hwait, hbusy]
    simp only [hfree, ne_eq, not_true_eq_false, if_false, hbusy', Bool.false_eq_true]

/-- REGREL frees a region that is held (R301, R318). -/
theorem execRegrel_ok :
    let answers (q : State) (v : Word) : Host.Outcome State Fault Refusal := .next (q.commit (t.setReg d (ofScalar v)).adv)
    (found = none → execRegrel d a s = answers s 1) ∧
    (∀ r, found = some r → r.hold = .free → execRegrel d a s = answers s 2) ∧
    (∀ r, found = some r → r.hold ≠ .free → execRegrel d a s = answers (s.freeRegion r) 0) := by
  intro answers
  refine ⟨fun hf => runT_ok hI ?_, fun r hf hfree => runT_ok hI ?_, fun r hf hheld => runT_ok hI ?_⟩
  all_goals
    simp only [systemX_system hl, win2 hd.inside ha.inside, readX_holds ha, destX_takes hd, okb, hrid, hfound, hf, done]
  · simp only [hfree, if_true]
  · simp only [if_neg hheld]

end

/-! ### Leaves held with their region -/

@[simp] theorem State.owe_threads (s : State) (t : Thread) (w : OwedWrite) : (s.owe t w).threads = s.threads := by
  unfold State.owe
  dsimp only
  split <;> rfl

/-- A thread whose unstarted operations leave the queue is as it was but for its queue image (R227). -/
theorem State.unqueue_thread (s : State) (t : Thread) : ∃ l, (s.unqueue t).2 = { t with image := l } := by
  unfold State.unqueue
  dsimp only
  split
  · exact ⟨t.image, rfl⟩
  · exact ⟨_, rfl⟩

/-- A thread that is held is as it was but for its state and its queue image (R227, R295). -/
theorem State.holdThread_thread {s : State} {t : Thread} (h : t.state = .ready ∨ t.state = .parked) :
    ∃ l, (s.holdThread t).2 = { t with image := l, state := .held } := by
  obtain ⟨l, hl⟩ := s.unqueue_thread t
  refine ⟨l, ?_⟩
  have hgoes : (decide (t.state = .ready) || decide (t.state = .parked)) = true := by simpa using h
  rw [State.holdThread, if_pos hgoes]
  exact congrArg (fun v : Thread => { v with state := .held }) hl

/-- A leaf that runs is HELD with its region, at its program counter and with its registers (R300). -/
theorem State.holdLeaf_holds {s : State} {u : Thread} (finish : Bool) (h : u.state = .ready ∨ u.state = .parked) :
    ∃ l, (s.holdLeaf finish u).thread? u.id = some { u with image := l, state := .held, regionHeld := true } := by
  obtain ⟨l, hl⟩ := State.holdThread_thread (s := s) h
  refine ⟨l, ?_⟩
  have hthread : ((s.holdThread u).1.setThread { (s.holdThread u).2 with regionHeld := true }).thread? u.id =
      some { u with image := l, state := .held, regionHeld := true } := by
    rw [hl, State.thread?_setThread, if_pos rfl]
  cases finish
  · exact (congrArg (tabGet u.id.toNat) (State.owe_threads ..)).trans hthread
  · exact hthread

/-! ### The end of a spill -/

theorem mem_tabPut {α : Type} {k : Nat} {v : α} {m : Tab α} {p : Nat × α} (h : p ∈ tabPut k v m) : p = (k, v) ∨ p ∈ m := by
  induction m with
  | nil => simpa [tabPut] using h
  | cons q m ih =>
    unfold tabPut at h
    split at h
    · rcases List.mem_cons.mp h with h | h
      · exact .inl h
      · exact .inr (List.mem_cons_of_mem _ h)
    · split at h
      · exact List.mem_cons.mp h
      · rcases List.mem_cons.mp h with h | h
        · exact .inr (h ▸ List.mem_cons_self)
        · exact (ih h).imp_right (List.mem_cons_of_mem _)

theorem mem_of_tabGet {α : Type} {k : Nat} {v : α} {m : Tab α} (h : tabGet k m = some v) : (k, v) ∈ m := by
  induction m with
  | nil => cases h
  | cons q m ih =>
    obtain ⟨j, w⟩ := q
    unfold tabGet at h
    split at h
    · next hj => exact hj ▸ Option.some.inj h ▸ List.mem_cons_self
    · exact List.mem_cons_of_mem _ (ih h)

section
variable {s : State} {u v : Thread} {id : Ident} {d : RegNum} {j : CtxJob}

theorem awaitsSpill_of_wait (hw : v.wait = .spilling id d) : v.awaitsSpill id = some (v, d) := by
  simp [Thread.awaitsSpill, hw]

/-- What is left of a thread in memory awaits no SPILL that the thread did not await (R296). -/
theorem awaitsSpill_written {a : Word} {l : List (Bool × Nat × Bool)}
    (h : ((u.written a l).awaitsSpill id).isSome = true) : (u.awaitsSpill id).isSome = true := by
  by_cases hwait : (u.wait = .page || u.wait = .enginePage || u.wait = .queueRoom) = true
  · simp [Thread.awaitsSpill, Thread.written, hwait] at h
  · revert h
    simp only [Thread.awaitsSpill, Thread.written, if_neg hwait]
    cases u.wait with
    | spilling x r => by_cases hx : x = id <;> simp [hx]
    | _ => exact fun h => h

/-- A SPILL is answered where one thread alone awaits it. -/
theorem State.answerSpill_one {a : Word} (hv : s.thread? v.id = some v) (hw : v.wait = .spilling id d)
    (honly : ∀ p ∈ s.threads, (p.2.awaitsSpill id).isSome = true → p.2 = v) :
    s.answerSpill id a = s.commit ((v.completes (some d) (spillResult a)).woken) := by
  have hfound : s.threads.findSome? (fun p => p.2.awaitsSpill id) = some (v, d) := by
    cases hsome : s.threads.findSome? (fun p => p.2.awaitsSpill id) with
    | none =>
      have hnone := List.findSome?_eq_none_iff.mp hsome _ (mem_of_tabGet hv)
      rw [awaitsSpill_of_wait hw] at hnone
      cases hnone
    | some q =>
      obtain ⟨p, hp, hq⟩ := List.exists_of_findSome?_eq_some hsome
      have hpv : p.2 = v := honly p hp (by rw [hq]; rfl)
      rw [hpv, awaitsSpill_of_wait hw] at hq
      rw [hq]
  rw [State.answerSpill, hfound]

/-- After the last line of a context of a thread that is no leaf, its thread is SPILLED and the SPILL is answered (R67,
R317). -/
theorem spillLine_last (hdone : j.lines ≤ j.done) (hc : u.cls ≠ .leaf) :
    s.spillLine u j = some (s.spilled' u j) := by
  have hrcb : s.leafRcb u stSpilled j.addr 0 = (s, true) := if_pos (by simpa using hc)
  simp only [State.spillLine, if_pos hdone, hrcb, gate_through]

theorem State.spilled'_answers (hkeep : j.keepSlot = true) (hu : s.thread? u.id = some u) (hne : v.id ≠ u.id)
    (hv : s.thread? v.id = some v) (hw : v.wait = .spilling u.id d)
    (honly : ∀ p ∈ s.threads, (p.2.awaitsSpill u.id).isSome = true → p.2 = v) :
    s.spilled' u j = ((s.dropJob j).setThread (u.written j.addr j.saved)).commit
      ((v.completes (some d) (spillResult j.addr)).woken) := by
  have hother : u ≠ v := fun h => hne (congrArg Thread.id h.symm)
  have hspilled : s.spilled' u j =
      ((s.dropJob j).setThread (u.written j.addr j.saved)).answerSpill u.id j.addr := by
    simp only [State.spilled', hkeep, if_true]
  rw [hspilled]
  refine State.answerSpill_one ?_ hw fun p hp hawaits => ?_
  · rw [State.thread?_setThread]
    exact (if_neg hne).trans hv
  · rcases mem_tabPut hp with rfl | hold
    · exact absurd (honly _ (mem_of_tabGet hu) (awaitsSpill_written hawaits)) hother
    · exact honly p hold hawaits

end

/-- Settles O47: the answers of the three instructions, a leaf that is held, and the last step of a spill. -/
theorem spillAndRegionHoldComplete : Obligations.SpillAndRegionHoldComplete := by
  unfold Obligations.SpillAndRegionHoldComplete
  refine ⟨?_, ?_, ?_⟩
  · intro s s1 t d a x finish nowait id rid gives code hI hl ha hd
    have hrid : ((scalar x).extractLsb' 0 32).toNat = rid := by rw [scalar_low (by decide : 32 ≤ 64)]
    refine ⟨fun hcore hnone => ?_, fun u hcore hu => ?_, fun hnone => ?_, fun r hr => ?_⟩
    · exact (execSpill_ok (s1 := s1) hI hl ha hd (identOf_of_isCore hcore) hnone).1 rfl
    · exact (execSpill_ok hI hl ha hd (identOf_of_isCore hcore) hu).2 u rfl
    · exact ⟨(execReghold_ok hI hl ha hd hrid hnone finish nowait).1 rfl, (execRegrel_ok hI hl ha hd hrid hnone).1 rfl⟩
    · obtain ⟨-, hheld, hfree⟩ := execReghold_ok hI hl ha hd hrid hr finish nowait
      obtain ⟨-, hnothing, hfrees⟩ := execRegrel_ok hI hl ha hd hrid hr
      exact ⟨hheld r rfl, hnothing r rfl, hfree r rfl, hfrees r rfl⟩
  · intro s u finish rid
    refine ⟨fun hst => ?_, fun h c hc hrid hcls => ?_⟩
    · obtain ⟨l, hl⟩ := State.holdLeaf_holds (s := s) finish hst
      exact ⟨_, hl, rfl, rfl, rfl, rfl⟩
    · exact List.mem_map.mpr ⟨c, hc, if_pos (by simp [hrid, hcls])⟩
  · intro s j u v id d hev hjob hr hkeep hdone hu hid hk hc hne hv hw hst himg honly
    subst hid
    have hexec : exec .spillWrite s = .next (s.spilled' u j) := by
      simp only [exec, execSpillWrite, hev, spillWrite_line hu hjob hk hr, spillLine_last hdone hc, happens_some]
    rw [State.spilled'_answers hkeep hu hne hv hw honly] at hexec
    have hid : (v.completes (some d) (spillResult j.addr)).woken =
        { (v.setReg d (spillResult j.addr)).adv with wait := .none, state := .ready } := adv_woken hst himg
    rw [hid] at hexec
    refine ⟨_, u.written j.addr j.saved, hexec, ?_, rfl, rfl, (State.thread?_commit ..).trans (if_pos rfl)⟩
    rw [State.thread?_commit]
    refine (if_neg hne.symm).trans ((State.thread?_setThread ..).trans (if_pos rfl))

end Sys2Proof.Machine
end


section
/-! PROOF. Events of the fabric, the management port and the boot ROM (O56). -/
namespace Sys2Proof.Machine

/-! ### Fabric messages and the loads of peers (R341, R342) -/

section
variable {s : State}

theorem State.fabricMessageArrival_routine (hboot : s.fabricBoot = false) (port : BitVec 5) (src : BitVec 20)
    (v : Reg) : s.fabricMessageArrival port src v =
      if targetEn s.base.fmtgt && s.targetOk s.base.fmtgt then s.sendTarget s.base.fmtgt (withPeer v src)
      else s.dropFabric := by
  simp only [State.fabricMessageArrival, hboot, Bool.false_and, Bool.false_eq_true, if_false]

theorem State.fabricMessageArrival_sent (hboot : s.fabricBoot = false) (hen : targetEn s.base.fmtgt = true)
    (hok : s.targetOk s.base.fmtgt = true) (port : BitVec 5) (src : BitVec 20) (v : Reg) :
    s.fabricMessageArrival port src v = s.post (s.base.fmtgt.extractLsb' 0 11) (s.base.fmtgt.extractLsb' 16 5) none 0
      (.device (v.extractLsb' 20 492 ++ src)) := by
  have hgo : (targetEn s.base.fmtgt && s.targetOk s.base.fmtgt) = true := by rw [hen, hok, Bool.and_self]
  rw [State.fabricMessageArrival_routine hboot, if_pos hgo, State.sendTarget, if_pos hok, withPeer]

theorem State.fabricMessageArrival_dropped (hboot : s.fabricBoot = false)
    (hno : targetEn s.base.fmtgt = false ∨ s.targetOk s.base.fmtgt = false) (port : BitVec 5) (src : BitVec 20)
    (v : Reg) : s.fabricMessageArrival port src v = s.dropFabric := by
  have hstop : ¬(targetEn s.base.fmtgt && s.targetOk s.base.fmtgt) = true := by
    rw [Bool.and_eq_true, not_and_or, Bool.not_eq_true, Bool.not_eq_true]
    exact hno
  rw [State.fabricMessageArrival_routine hboot, if_neg hstop]

/-- Outside a boot over the fabric a link's change asks nothing of the partner (R339). -/
theorem State.linkUpChange_routine {port : BitVec 5} (hthere : port.toNat ∉ s.sys.units.noPorts)
    (hboot : s.fabricBoot = false) (up atom : Bool) (lanes : BitVec 3) :
    s.linkUpChange port up atom lanes = some (s.withBase { s.base with
      ports := s.base.ports.set port.toNat (if up then lanes ++ BitVec.ofBool atom ++ 1#1 else 0) }) := by
  have hno : s.sys.units.noPorts.contains port.toNat = false := by
    rw [← Bool.not_eq_true, List.contains_iff_mem]
    exact hthere
  simp only [State.linkUpChange, hno, hboot, Bool.and_false, Bool.false_and, Bool.false_eq_true, if_false]

section
variable {n pa : Nat} (hn : 0 < n) (hline : pa % 64 + n ≤ 64)
include hn hline

/-- A load within one line is refused where its page is not exported or no memory holds it, and else performed at
its bank, which it leaves as it is (R342). -/
theorem State.peerAccessArrival_load (src : BitVec 20) : s.peerAccessArrival src pa (.load n) =
    if !s.inSpace pa || !s.exported src (pa / 2 ^ 17) 62 then some (s.emit (.peerReply src 0x0D 0))
    else match bankStep s pa (.load n false) with
      | (s1, .ok v) => some (s1.emit (.peerReply src 0 v))
      | (s1, .bad c) => some (s1.emit (.peerReply src c 0))
      | (_, .wait) => none := by
  have hfits : ¬(decide (n = 0) || decide (64 < pa % 64 + n)) = true := by
    simp only [Bool.or_eq_true, decide_eq_true_eq]
    omega
  exact if_neg hfits

theorem State.peerAccessArrival_revoked {src : BitVec 20} (hno : s.exported src (pa / 2 ^ 17) 62 = false) :
    s.peerAccessArrival src pa (.load n) = some (s.emit (.peerReply src 0x0D 0)) := by
  simp only [State.peerAccessArrival_load hn hline, hno, Bool.not_false, Bool.or_true, if_true]

theorem State.peerAccessArrival_read {src : BitVec 20} (hin : s.inSpace pa = true)
    (hexp : s.exported src (pa / 2 ^ 17) 62 = true) (hsound : s.sound pa n) :
    s.peerAccessArrival src pa (.load n) = some (s.emit (.peerReply src 0 (BitVec.ofNat 512 (s.read pa n)))) := by
  simp only [State.peerAccessArrival_load hn hline, hin, hexp, Bool.not_true, Bool.or_self, Bool.false_eq_true,
    if_false, bankStep_load hsound, Bool.false_and]

end

/-- A read of at most 64 bytes stands in the low bytes of a register. -/
theorem State.read_ofNat {n : Nat} (hn : n ≤ 64) (k : Nat) :
    (BitVec.ofNat 512 (s.read k n)).toNat % 2 ^ (8 * n) = s.read k n := by
  have hlt := s.read_lt k n
  have hbits : 8 * n ≤ 512 := by omega
  rw [BitVec.toNat_ofNat, Nat.mod_eq_of_lt (hlt.trans_le (Nat.pow_le_pow_right Nat.two_pos hbits)), Nat.mod_eq_of_lt hlt]

/-! ### The management port (R346) -/

section
variable {k : Nat} {d : BitVec 128}

theorem State.startFrame_idle {rx : Bool} (hidle : s.frameOn rx = none) (desc a n : Nat) (hi : Word)
    (data : List Byte) : s.startFrame rx desc a n hi data = some (s.setFrame rx
      (some { rx := rx, desc := desc, hi := hi, todo := linesFrom (lineCount n) a n, data := data })) := by
  simp only [State.startFrame, hidle, Option.isSome_none, Bool.false_eq_true, if_false]

theorem State.mgmtTransmit_starts (hdesc : s.headDesc false = some (k, d))
    (hlow : 60 ≤ (d.extractLsb' 96 16).toNat) (hhigh : (d.extractLsb' 96 16).toNat ≤ 9600)
    (husable : s.usable (d.extractLsb' 0 64).toNat (d.extractLsb' 96 16).toNat = true) :
    s.mgmtTransmit = s.startFrame false k (d.extractLsb' 0 64).toNat (d.extractLsb' 96 16).toNat
      (descHi false (d.extractLsb' 96 16).toNat) [] := by
  simp only [State.mgmtTransmit, hdesc, decide_eq_true hlow, decide_eq_true hhigh, husable, Bool.and_self, if_true]

section
variable {frame : List Byte} (hdesc : s.headDesc true = some (k, d)) (hlow : 60 ≤ frame.length)
variable (hhigh : frame.length ≤ 9600)
include hdesc hlow hhigh

theorem State.mgmtReceive_size (err : Bool) : s.mgmtReceive frame err =
    if err then s.startFrame true k (d.extractLsb' 0 64).toNat 0 (descHi true (d.extractLsb' 96 16).toNat) []
    else if s.usable (d.extractLsb' 0 64).toNat frame.length then
      s.startFrame true k (d.extractLsb' 0 64).toNat frame.length (descHi false frame.length) frame
    else none := by
  have hsize : (decide (frame.length < 60) || decide (9600 < frame.length)) = false := by
    rw [decide_eq_false (Nat.not_lt.mpr hlow), decide_eq_false (Nat.not_lt.mpr hhigh), Bool.or_self]
  simp only [State.mgmtReceive, hdesc, hsize, Bool.false_eq_true, if_false]

theorem State.mgmtReceive_stores (husable : s.usable (d.extractLsb' 0 64).toNat frame.length = true) :
    s.mgmtReceive frame false =
      s.startFrame true k (d.extractLsb' 0 64).toNat frame.length (descHi false frame.length) frame := by
  simp only [State.mgmtReceive_size hdesc hlow hhigh, husable, Bool.false_eq_true, if_false, if_true]

theorem State.mgmtReceive_discards : s.mgmtReceive frame true =
    s.startFrame true k (d.extractLsb' 0 64).toNat 0 (descHi true (d.extractLsb' 96 16).toNat) [] := by
  simp only [State.mgmtReceive_size hdesc hlow hhigh, if_true]

end
end

section
variable {f : Frame} {rx : Bool} {x n : Nat} {more : List (Nat × Nat)}

theorem State.mgmtLine_accesses (hf : s.frameOn rx = some f) (htodo : f.todo = (x, n) :: more)
    (husable : s.usable x n = true) :
    s.mgmtLine rx = some (if rx then (s.portStore x (f.data.take n)).setFrame true
        (some { f with todo := more, data := f.data.drop n })
      else s.setFrame false (some { f with todo := more, data := f.data ++ memBytes s.mem x n })) := by
  cases rx <;> simp only [State.mgmtLine, hf, htodo, husable, Bool.not_true, Bool.false_eq_true, if_false, if_true]

theorem State.mgmtLine_ends (hf : s.frameOn rx = some f) (htodo : f.todo = []) :
    s.mgmtLine rx = some (if rx then (s.setFrame true none).ringDone true f.desc f.hi
      else ((s.setFrame false none).emit (.frame f.data)).ringDone false f.desc f.hi) := by
  cases rx <;> simp only [State.mgmtLine, hf, htodo, Bool.false_eq_true, if_false, if_true]

/-- A line of a frame is accessed by the instruction of the frame's direction. -/
theorem exec_mgmtLine (hev : s.ev = some (.mgmtLine rx)) :
    exec (if rx then .mgmtReceive else .mgmtTransmit) s = happens s (s.mgmtLine rx) := by
  cases rx <;> simp only [exec, execMgmtReceive, execMgmtTransmit, hev, Bool.false_eq_true, if_false, if_true]

end

/-! ### DEVSTAT as the boot ROM writes it (R343, R344) -/

/-- A raised vector changes what has been sent, or the pending bits (R336). -/
theorem State.raise_cases (s : State) (v : Nat) : s.raise v = s ∨ s.raise v = s.emit (.msix v) ∨
    s.raise v = s.withBase { s.base with msixPending := s.base.msixPending ||| BitVec.ofNat 32 (2 ^ v) } := by
  unfold State.raise
  split
  · exact .inl rfl
  · split
    · exact .inr (.inl rfl)
    · exact .inr (.inr rfl)

/-- A write of DEVSTAT changes that register, and else what a raised vector changes (R337). -/
theorem State.writeDevstat_cases (s : State) (v : Word) :
    let s1 := s.withBase { s.base with devstat := v &&& 0xFFFF_FFFF_0000_FF0F }
    s.writeDevstat v = s1.raise 1 ∨ s.writeDevstat v = s1 := by
  intro s1
  simp only [State.writeDevstat, s1]
  split
  · exact .inl rfl
  · exact .inr rfl

@[simp] theorem State.raise_mem (s : State) (v : Nat) : (s.raise v).mem = s.mem := by
  rcases s.raise_cases v with h | h | h <;> rw [h] <;> rfl

@[simp] theorem State.raise_threads (s : State) (v : Nat) : (s.raise v).threads = s.threads := by
  rcases s.raise_cases v with h | h | h <;> rw [h] <;> rfl

@[simp] theorem State.raise_sys (s : State) (v : Nat) : (s.raise v).sys = s.sys := by
  rcases s.raise_cases v with h | h | h <;> rw [h] <;> rfl

@[simp] theorem State.raise_devstat (s : State) (v : Nat) : (s.raise v).base.devstat = s.base.devstat := by
  rcases s.raise_cases v with h | h | h <;> rw [h] <;> rfl

section
variable (s) (ver code st : Nat)

@[simp] theorem State.stage_mem : (s.stage ver code st).mem = s.mem := by
  rcases s.writeDevstat_cases (BitVec.ofNat 64 (2 ^ 32 * (ver % 2 ^ 32) + 2 ^ 8 * code + st)) with h | h <;>
    rw [State.stage, h]
  · exact State.raise_mem ..
  · rfl

@[simp] theorem State.stage_threads : (s.stage ver code st).threads = s.threads := by
  rcases s.writeDevstat_cases (BitVec.ofNat 64 (2 ^ 32 * (ver % 2 ^ 32) + 2 ^ 8 * code + st)) with h | h <;>
    rw [State.stage, h]
  · exact State.raise_threads ..
  · rfl

@[simp] theorem State.stage_sys : (s.stage ver code st).sys = s.sys := by
  rcases s.writeDevstat_cases (BitVec.ofNat 64 (2 ^ 32 * (ver % 2 ^ 32) + 2 ^ 8 * code + st)) with h | h <;>
    rw [State.stage, h]
  · exact State.raise_sys ..
  · rfl

theorem State.stage_devstat : (s.stage ver code st).base.devstat =
    BitVec.ofNat 64 (2 ^ 32 * (ver % 2 ^ 32) + 2 ^ 8 * code + st) &&& 0xFFFF_FFFF_0000_FF0F := by
  rcases s.writeDevstat_cases (BitVec.ofNat 64 (2 ^ 32 * (ver % 2 ^ 32) + 2 ^ 8 * code + st)) with h | h <;>
    rw [State.stage, h]
  · exact State.raise_devstat ..
  · rfl

theorem State.thread?_stage (x : Ident) : (s.stage ver code st).thread? x = s.thread? x := by
  rw [State.thread?, State.stage_threads, State.thread?]

end

/-- STAGE reads back. -/
theorem State.stage_reads (s : State) (ver code st : Nat) :
    (s.stage ver code st).base.devstat.extractLsb' 0 4 = BitVec.ofNat 4 st := by
  rw [State.stage_devstat, BitVec.extractLsb'_and,
    show (0xFFFF_FFFF_0000_FF0F : Word).extractLsb' 0 4 = BitVec.allOnes 4 by decide, BitVec.and_allOnes]
  apply BitVec.eq_of_toNat_eq
  rw [BitVec.extractLsb'_toNat, BitVec.toNat_ofNat, BitVec.toNat_ofNat]
  omega

/-- The failure code reads back. -/
theorem State.code_reads {st : Nat} (hst : st < 16) (s : State) (ver code : Nat) :
    (s.stage ver code st).base.devstat.extractLsb' 8 8 = BitVec.ofNat 8 code := by
  rw [State.stage_devstat, BitVec.extractLsb'_and,
    show (0xFFFF_FFFF_0000_FF0F : Word).extractLsb' 8 8 = BitVec.allOnes 8 by decide, BitVec.and_allOnes]
  apply BitVec.eq_of_toNat_eq
  rw [BitVec.extractLsb'_toNat, BitVec.toNat_ofNat, BitVec.toNat_ofNat]
  omega

/-! ### The boot ROM (R344) -/

theorem bootCode_le (f : BootFiles) : bootCode f ≤ 5 := by
  unfold bootCode
  split <;> [skip; split <;> [skip; split <;> [skip; split]]] <;> decide

/-- Asking the partners changes no register. -/
theorem State.foldl_emit_base (l : List Nat) (s : State) :
    (l.foldl (fun s p => s.emit (.bootAsk p)) s).base = s.base := by
  induction l generalizing s with
  | nil => rfl
  | cons p l ih => rw [List.foldl_cons, ih]; rfl

section
variable {f : BootFiles}

theorem State.bootWith_starts (h : bootCode f = 0) : ∃ s1 : State, s1.mem = s.mem ∧
    s1.sys.units = recordUnits (fileBody f.record) ∧
    s.bootWith f = (s1.startFirmware f.image).stage (fileNat f.image 8 8) 0 3 := by
  let s1 := s.stage (fileNat f.image 8 8) 0 2
  have hmem : s1.mem = s.mem := State.stage_mem ..
  refine ⟨{ s1 with sys := { s1.sys with units := recordUnits (fileBody f.record) } }, hmem, rfl, ?_⟩
  rw [State.bootWith, if_pos h]

theorem State.bootWith_fails (h : bootCode f ≠ 0) : s.bootWith f = s.stage 0 (bootCode f) 15 := by
  rw [State.bootWith, if_neg h]

theorem State.startFirmware_sys (image : List Byte) : (s.startFirmware image).sys = s.sys := rfl

theorem State.startFirmware_thread (image : List Byte) :
    (s.startFirmware image).thread? (mkIdent 0x400 0) = some firmwareThread :=
  State.thread?_setThread_self rfl

theorem State.startFirmware_image (hmem : s.memOk) (image : List Byte) :
    let body := (fileBody image).take poolBytes
    memBytes (s.startFirmware image).mem (poolKey 0x400 0) body.length = body :=
  memBytes_memWrite _ s.mem _ hmem

end

/-- A store of one line from the partner that has answered first (R344). -/
theorem State.bootFabricStore_line {port : BitVec 5} {pa : Nat} {data : List Byte} (hboot : s.fabricBoot = true)
    (hport : s.base.bootPort = some port) (hlink : s.linkUp port.toNat = true) (hspace : paSpace pa = 4)
    (hlow : paOff pa + data.length ≤ 2 ^ 31) (hlen : data.length ≤ 64) (halign : pa % 64 = 0) (hdata : data ≠ []) :
    s.bootFabricStore port pa data =
      some ((s.withBase { s.base with bootPort := some port }).lineStore pa data) := by
  have hlines := linesFrom_oneLine (o := pa) (List.length_pos_iff.mpr hdata) (by omega)
  simp only [State.bootFabricStore, hboot, hport, hlink, hspace, decide_eq_true hlow, decide_true, Bool.and_self,
    if_true, hlines, List.foldl_cons, List.foldl_nil, Nat.sub_self, List.drop_zero, List.take_length]

end

/-- Settles O56: one rule for each event of the fabric and of the management port, and for the boot ROM what a
write of DEVSTAT leaves of the state and how its fields read back. -/
theorem fabricEvents : Obligations.FabricEvents := by
  unfold Obligations.FabricEvents
  constructor
  · intro s v port src pa n up atom lanes b dropped
    refine ⟨fun hev => ?_, fun hev hboot => ?_, fun hev => ?_, fun hev hthere hboot => ?_, fun hev hn hline => ?_⟩
    · simp only [exec, execFmsend, hev, happens_some, State.fmsend, State.dropFabric, dropped, b]
    · have hexec : exec .fabricMessageArrival s = .next (s.fabricMessageArrival port src v) := by
        simp only [exec, execFabricMessageArrival, hev, happens_some]
      rw [hexec]
      refine ⟨fun hen hok => ?_, fun hno => ?_⟩
      · rw [State.fabricMessageArrival_sent hboot hen hok]
      · rw [State.fabricMessageArrival_dropped hboot hno, State.dropFabric]
    · simp only [exec, execFmdropClear, hev, happens_some, State.clearFmdrop, b]
    · simp only [exec, execLinkUpChange, hev, State.linkUpChange_routine hthere hboot, happens_some, b]
    · have hexec : exec .peerAccessArrival s = happens s (s.peerAccessArrival src pa (.load n)) := by
        simp only [exec, execPeerAccessArrival, hev]
      rw [hexec]
      refine ⟨fun hno => ?_, fun hin hexp hsound => ⟨_, ?_, State.read_ofNat (by omega) pa⟩⟩
      · rw [State.peerAccessArrival_revoked hn hline hno, happens_some]
      · rw [State.peerAccessArrival_read hn hline hin hexp hsound, happens_some]
  · intro s k d frame data f port pa len a r
    have hreset (src : BootSource) : r src (s.powerOnReset src) := fun hev => by
      simp only [exec, execPowerOnReset, hev, happens_some]
    refine ⟨?_, fun hdesc hidle hlow hhigh => ⟨?_, ?_⟩, ?_, ?_, ⟨_, hreset _, ?_⟩, ⟨_, hreset _, ?_⟩,
      ⟨_, hreset _, ?_⟩⟩
    · intro hev hidle hdesc hlow hhigh husable
      simp only [exec, execMgmtTransmit, hev, State.mgmtTransmit_starts hdesc hlow hhigh husable,
        State.startFrame_idle hidle, happens_some, descHi, Bool.false_eq_true, if_false, Nat.add_zero, len, a]
    · intro hev husable
      simp only [exec, execMgmtReceive, hev, State.mgmtReceive_stores hdesc hlow hhigh husable,
        State.startFrame_idle hidle, happens_some, descHi, Bool.false_eq_true, if_false, Nat.add_zero, a]
    · intro hev
      simp only [exec, execMgmtReceive, hev, State.mgmtReceive_discards hdesc hlow hhigh,
        State.startFrame_idle hidle, happens_some, descHi, if_true, lineCount, linesFrom, len]
    · intro f rx x n more hf hev row
      rw [show exec row s = happens s (s.mgmtLine rx) from exec_mgmtLine hev]
      refine ⟨fun htodo husable => ?_, fun htodo => ?_⟩
      · rw [State.mgmtLine_accesses hf htodo husable, happens_some]
      · rw [State.mgmtLine_ends hf htodo, happens_some]
    · intro hev hboot hport hlink hspace hlow hlen halign hdata
      simp only [exec, execBootFabricStore, hev,
        State.bootFabricStore_line hboot hport hlink hspace hlow hlen halign hdata, happens_some]
    · exact ⟨State.stage_reads .., State.code_reads (by decide) ..⟩
    · simp only [State.powerOnReset, State.foldl_emit_base]
      exact State.stage_reads ..
    · have hmem : (s.deviceReset.stage 0 0 1).mem = [] := State.stage_mem ..
      refine ⟨fun hcode => ?_, fun hcode => ?_⟩
      · obtain ⟨s1, hmem1, hunits, hboots⟩ := State.bootWith_starts (s := s.deviceReset.stage 0 0 1) hcode
        have hok : s1.memOk := by rw [State.memOk, hmem1, hmem]; rfl
        simp only [State.powerOnReset, hboots]
        refine ⟨State.stage_reads .., ?_, ?_, ?_⟩
        · rw [State.stage_sys, State.startFirmware_sys, hunits]
        · rw [State.thread?_stage, State.startFirmware_thread]
        · rw [State.stage_mem]
          exact State.startFirmware_image hok f.image
      · have hle := bootCode_le f
        simp only [State.powerOnReset, State.bootWith_fails hcode]
        refine ⟨?_, fun x => ?_, hle, State.stage_reads .., State.code_reads (by decide) ..⟩
        · rw [State.stage_mem, hmem]
        · rw [State.thread?_stage, State.thread?_stage]
          rfl

end Sys2Proof.Machine
end
